-- ==== Sys2Proof/Word.lean ====
section
/-!
DEFINITION. The words of the JLF-8024: 64-bit registers and addresses, 32-bit syllables, bytes
(spec/00_scope.md R5 fixes the little-endian byte order used wherever a word meets bytes).
-/
namespace Sys2Proof

/-- A 64-bit register or address. -/
abbrev Word := BitVec 64

/-- A byte of memory, of the Mere, of flash or of a message. -/
abbrev Byte := BitVec 8

/-- A 32-bit syllable (spec/03_bundles_and_pipeline.md R52). -/
abbrev Syllable := BitVec 32

end Sys2Proof
end

