-- ==== Sys2Proof/Syntax.lean ====
section
/-!
DEFINITION. The commands of the block: one constructor for each row of spec/opcode_table.json. The table gives
no operand fields; the operands here name what a command acts on (notes/assumptions/2.md).
-/
namespace Sys2Proof

/-- Who makes a management access or sends a command (R23, R30, R31). -/
inductive Agent where
  | cluster (l : Nat)
  | host
  | surveyor
  | dykereeve
  | board
  | peer (dev : Nat)
  deriving DecidableEq, Repr

/-- A physical array (R453): the `a`-th of a cluster site, of a quarter cache way, or of the hub, a quarter's translation, a stack
controller or a port controller. The numbers `a` are the model's own (notes/assumptions/30.md). -/
inductive SramArray where
  | site (site a : Nat)
  | way (quarter way a : Nat)
  | hub (a : Nat)
  deriving DecidableEq, Repr

/-- An uncorrectable SRAM word, by where it lies and by what meets it (R454): a register that a syllable in W reads, or that the running
vector operation reads for an element; a tile row; a Mere word; the L1 line of the load in W; a sector of a cluster cache, a side buffer
or a quarter cache, met by a load or not; an instruction cache line; an entry of a TLB or walk cache; a copy in flight; a reduction's
buffer; a message in a buffer; the hub core's memory. -/
inductive SramPlace where
  | sreg (cl ctx slot : Nat)
  | vreg (cl ctx elem : Nat)
  | tile (cl tile row : Nat)
  | mere (cl off : Nat)
  | l1 (cl ctx : Nat)
  | cc (cl da : Nat) (load : Bool)
  | side (cl da : Nat) (load : Bool)
  | ic (cl line : Nat)
  | tlb (cl i : Nat)
  | qc (quarter da : Nat) (load : Bool)
  | qtlb (quarter i : Nat)
  | walkCache (quarter i : Nat)
  | copy (cl id : Nat)
  | bucket (red : Nat)
  | msg (i : Nat)
  | hub
  deriving DecidableEq, Repr

/-- Numbers, one for each of a row of like things. -/
abbrev Nats := List Nat

/-- Bytes. -/
abbrev Bytes := List (BitVec 8)

/-- What a TLB miss is of, in a cluster: a scalar syllable of a context, its fetch, its vector operation, a copy
(R324). -/
inductive Item where
  | scalar (ctx : Nat)
  | fetch (ctx : Nat)
  | vector (ctx : Nat)
  | copy (id : Nat)
  deriving DecidableEq, Repr

/-- A command: one constructor for each row of the opcode table, with the row's operands (log 1, log 2). -/
inductive Instr where
  /-- REFERENCE_CLOCK_LOSS (R17): After 500 hub tally ticks with no reference clock edge, the device sets HB_CLKSTAT.REFLOST and the Dykereeve asserts device reset. -/
  | referenceClockLoss
  /-- REFERENCE_CLOCK_RESTORED (R17): Once the reference clock has run for 1 ms, the Dykereeve releases the device reset it held after a clock loss. -/
  | referenceClockRestored
  /-- VCORE_UNDERVOLTAGE (R14): A quarter VCORE below 0.53 V puts that quarter into quarter reset. -/
  | vcoreUndervoltage (q : Nat) (mv : Nat)
  /-- VCORE_RECOVERED (R14): After VCORE has stayed at or above 0.55 V for 100 µs of Dykereeve tally, the quarter is released from reset. -/
  | vcoreRecovered (q : Nat) (mv : Nat)
  /-- QT_RATE_UPDATE (R15): Every 1 µs of reference clock, the replica measurement updates QT_RATE. -/
  | qtRateUpdate (q : Nat) (rate : Nat) (mv : Nat) (tj : Nat)
  /-- REGISTER_WRITE (R26): A write to a register that has no behaviour of its own acts by access code, with the size, alias, unmapped and dormant checks. -/
  | registerWrite (ag : Agent) (off : Nat) (size : Nat) (v : Word)
  /-- VERIFY_STAGING_BUFFER (R49): HB_PLATCMD OP 0b01 copies the staging buffer and verifies the plat in it. -/
  | verifyStagingBuffer (ag : Agent)
  /-- REPLAT_FROM_BUFFER (R49): HB_PLATCMD OP 0b10 copies, verifies and stores the staged plat, then begins the quiesce. -/
  | replatFromBuffer (ag : Agent)
  /-- REPLAT_FROM_FLASH (R49): HB_PLATCMD OP 0b11 copies and verifies the plat in a flash slot, then begins the quiesce. -/
  | replatFromFlash (ag : Agent) (slot : Nat)
  /-- REPLAT_QUIESCED (R49): When outstanding requests and copies have drained, the new plat is applied with spare substitution and recorded in the ledger. -/
  | replatQuiesced
  /-- REPLAT_QUIESCE_TIMEOUT (R49): After 2^20 Dykereeve tally ticks of quiesce, the remaining requests are abandoned and the apply proceeds. -/
  | replatQuiesceTimeout
  /-- BUNDLE_ISSUE (R57): O issues the ready bundle of one context, chosen by CSEQ order and the 64-issue rule, after the decode checks. -/
  | bundleIssue (cl : Nat)
  /-- PACKED_ISSUE (R132): One thread syllable is issued for several groups of one block at once, with the effect of each group issuing it alone. -/
  | packedIssue (cl : Nat) (groups : Nat)
  /-- BUNDLE_RETIRE (R60): A bundle whose A, B and M syllables have completed retires all or nothing, releasing its writes, stores and queued V and X operations. -/
  | bundleRetire (cl : Nat) (ctx : Nat)
  /-- ALU (R87): The scalar ALU operations, immediates, LI and SHORI compute 64-bit or W-variant integer results. -/
  | alu (cl : Nat) (ctx : Nat) (slot : Nat)
  /-- ADDS (R88): ADDS, SUBS and MULS write the wrapped result, or trap on signed overflow when DT_TRAPEN.IOV is set. -/
  | adds (cl : Nat) (ctx : Nat) (slot : Nat)
  /-- MUL (R89): MUL, MULH and MULHU write the low or high half of the product. -/
  | mul (cl : Nat) (ctx : Nat)
  /-- DIV (R90): DIV, DIVU, REM and REMU take the divider, with the defined results and traps for a zero divisor and for overflow. -/
  | div (cl : Nat) (ctx : Nat)
  /-- DIVIDE_COMPLETE (R82): The divider finishes after 2 + w/2 beats and lets the waiting bundle retire. -/
  | divideComplete (cl : Nat)
  /-- FADD (R96): The IEEE scalar add, subtract, multiply and fused multiply-add operations round by RM and set flags at retirement. -/
  | fadd (cl : Nat) (ctx : Nat)
  /-- FDIV (R101): FDIV and FSQRT run on the cluster divider for a latency that depends on the format. -/
  | fdiv (cl : Nat) (ctx : Nat)
  /-- FMINIMUM (R97): FMINIMUM, FMAXIMUM, FMINNUM and FMAXNUM return a minimum or maximum with the defined NaN and zero handling. -/
  | fminimum (cl : Nat) (ctx : Nat)
  /-- FCMP (R97): FCMPEQ, FCMPLT, FCMPLE and FCMPUN write a quiet or signalling comparison result. -/
  | fcmp (cl : Nat) (ctx : Nat)
  /-- FCLASS (R98): FCLASS writes a 7-bit class code. -/
  | fclass (cl : Nat) (ctx : Nat)
  /-- FCVT (R99): FCVT converts between float formats, or to or from integers, with saturation and invalid on the limits. -/
  | fcvt (cl : Nat) (ctx : Nat)
  /-- LOAD (R91): LB to LD load an aligned value from memory or the Mere, with sign or zero extension. -/
  | load (cl : Nat) (ctx : Nat)
  /-- SCALAR_LOAD_RETURN (R61): The data of a scalar load that missed the L1 data cache returns, and the waiting bundle can retire. -/
  | scalarLoadReturn (cl : Nat) (ctx : Nat)
  /-- STORE (R91): SB to SD write the low bytes of a register once their bundle retires. -/
  | store (cl : Nat) (ctx : Nat)
  /-- AMO (R94): An AMO syllable performs an indivisible read-modify-write at the owning atomic unit or in the Mere. -/
  | amo (cl : Nat) (ctx : Nat)
  /-- ATOMIC_OLD_VALUE_RETURN (R503): The old value of an atomic returns, and its bundle retires writing s[RD]. -/
  | atomicOldValueReturn (cl : Nat) (ctx : Nat)
  /-- GETC (R103): GETC reads a control register of the executing cluster or context into s[RD]. -/
  | getc (cl : Nat) (ctx : Nat)
  /-- SETC (R104): SETC writes a control register at its bundle's retirement, with mode changes taking effect after the shadow. -/
  | setc (cl : Nat) (ctx : Nat)
  /-- SEVT (R105): SEVT sends event bits to a range of logical clusters, or to all of them. -/
  | sevt (cl : Nat) (ctx : Nat)
  /-- EVENT_DELIVERY (R106): A delivered event is ORed into the target cluster's CL_EVENT. -/
  | eventDelivery (e : Nat)
  /-- WEVT (R107): WEVT waits until a masked event bit is set, then consumes it. -/
  | wevt (cl : Nat) (ctx : Nat)
  /-- WTAL (R108): WTAL waits for a tally target or for masked event bits. -/
  | wtal (cl : Nat) (ctx : Nat)
  /-- WTAL_TALLY_REACHED (R108): CL_TALLY reaches the WTAL target, and the bundle retires with s[RD] set to 0. -/
  | wtalTallyReached (cl : Nat) (ctx : Nat)
  /-- BR (R56): BR and CALL branch after their delay bundle, and CALL also writes lk. -/
  | br (cl : Nat) (ctx : Nat)
  /-- BC (R64): A conditional branch, predicted statically and resolved at E, always executes its delay bundle. -/
  | bc (cl : Nat) (ctx : Nat)
  /-- JR (R56): JR and CALLR branch to a register target, and CALLR also writes lk. -/
  | jr (cl : Nat) (ctx : Nat)
  /-- LOOP (R68): LOOP starts a hardware loop level, skips the body for a count of zero, or faults when both levels are active. -/
  | loop (cl : Nat) (ctx : Nat)
  /-- LBRK (R71): LBRK frees the innermost active loop level. -/
  | lbrk (cl : Nat) (ctx : Nat)
  /-- FENCE_I (R63): FENCE.I discards the context's fetched bundles and the line buffer, then refetches. -/
  | fenceI (cl : Nat) (ctx : Nat)
  /-- INSTRUCTION_CACHE_MISS_FILL (R62): A missing line arrives in the instruction cache or line buffer, and the held context resumes fetch. -/
  | instructionCacheMissFill (cl : Nat) (ctx : Nat)
  /-- VSETVL (R189): VSETVL sets SEW, SPAN, FMT, FXRM and SAT, and sets VL to min(s[RA], VLMAX). -/
  | vsetvl (cl : Nat) (ctx : Nat)
  /-- FENCE (R150): FENCE waits in W until the earlier accesses on its scope's paths meet its condition. -/
  | fence (cl : Nat) (ctx : Nat)
  /-- FENCE_COMPLETE (R150): A fence's condition is met, so it performs its cache action and retires. -/
  | fenceComplete (cl : Nat) (ctx : Nat)
  /-- COPY (R285): COPY checks a four-word descriptor and issues a copy, fill or prefetch. -/
  | copy (cl : Nat) (ctx : Nat)
  /-- COPY_START (R289): The copy engine starts a waiting copy, in the order the copy bundles retired. -/
  | copyStart (cl : Nat)
  /-- COPY_FINISH (R289): A copy whose writes are all performed increments its arrival counter. -/
  | copyFinish (cl : Nat) (id : Nat)
  /-- COPY_FAIL (R293): A copy that meets an access fault or an uncorrectable read error stops, captures CL_CPERR and increments its counter. -/
  | copyFail (cl : Nat) (id : Nat)
  /-- WARR (R296): WARR waits until an arrival counter reaches a target, then retires with acquire effect. -/
  | warr (cl : Nat) (ctx : Nat)
  /-- PREF (R309): PREF fills a line into the side buffer or the quarter cache, without faulting. -/
  | pref (cl : Nat) (ctx : Nat)
  /-- CMO (R311): CMO cleans, invalidates, or cleans and invalidates a cache level over an address range. -/
  | cmo (cl : Nat) (ctx : Nat)
  /-- CMOSW (R312): CMOSW performs cache maintenance on one set and way, at Datum level. -/
  | cmosw (cl : Nat) (ctx : Nat)
  /-- MAINTENANCE_COMPLETE (R313): A maintenance operation's write-backs are acknowledged, and its bundle retires. -/
  | maintenanceComplete (cl : Nat) (ctx : Nat)
  /-- THREAD_ALU (R116): The thread integer, floating, move and TGET syllables act per active thread on x-registers. -/
  | threadAlu (cl : Nat) (n : Nat)
  /-- THREAD_LOAD (R117): Thread loads and stores access memory per active thread. -/
  | threadLoad (cl : Nat) (n : Nat)
  /-- THREAD_ATOMIC (R117): Thread atomics are performed per lane, in ascending lane order for a shared address. -/
  | threadAtomic (cl : Nat) (n : Nat)
  /-- TBC (R118): The thread branches TBC, TJR, TCALL and TCALLR diverge the active set per thread. -/
  | tbc (cl : Nat)
  /-- THREAD_BRANCH_RESOLVE (R120): The vector unit completes a thread branch, so each thread has a known following address. -/
  | threadBranchResolve (cl : Nat) (ctx : Nat)
  /-- TEXIT (R122): TEXIT exits the active threads, and the exit of the last live thread ends the context. -/
  | texit (cl : Nat) (ctx : Nat)
  /-- GYIELD (R128): GYIELD marks the active threads as yielded. -/
  | gyield (cl : Nat) (ctx : Nat)
  /-- GVOTE (R137): GVOTE gathers a vote across masked threads once all of them are waiting. -/
  | gvote (cl : Nat) (ctx : Nat)
  /-- GSHFL (R137): GSHFL gives each masked thread another lane's value once all of them are waiting. -/
  | gshfl (cl : Nat) (ctx : Nat)
  /-- GBAR (R140): GBAR waits until every group of the block has arrived, then acts as a block-scope full fence. -/
  | gbar (cl : Nat) (ctx : Nat)
  /-- GXLD (R139): GXLD writes the x-registers of masked threads into a tile column. -/
  | gxld (cl : Nat) (ctx : Nat)
  /-- GXST (R139): GXST writes a tile column into the x-registers of masked threads. -/
  | gxst (cl : Nat) (ctx : Nat)
  /-- CONTEXT_START (R121): A write of 1 to CL_CTXRUN starts a stopped context at CL_CENTRY with a new CSEQ. -/
  | contextStart (ag : Agent) (cl : Nat) (mask : Nat)
  /-- CONTEXT_STOP (R122): A write of 1 to CL_CTXSTOP stops the context at its next bundle boundary. -/
  | contextStop (ag : Agent) (cl : Nat) (mask : Nat)
  /-- CONTEXT_END (R122): Once the in-flight V and X operations of a stopped or ended context finish, its run bit clears and the end event is set. -/
  | contextEnd (cl : Nat) (ctx : Nat)
  /-- VECTOR_OP_START (R197): The free vector unit starts the head operation of the oldest eligible context. -/
  | vectorOpStart (cl : Nat)
  /-- VADD (R198): Element-wise vector integer arithmetic, logic, shifts, min, max, multiply, divide and moves act on the active elements. -/
  | vadd (cl : Nat) (n : Nat)
  /-- VFADD (R199): Element-wise vector floating-point arithmetic acts on the active elements, with flags and traps. -/
  | vfadd (cl : Nat) (n : Nat)
  /-- VSADD (R200): The fixed-point saturating, averaging, shifting and clipping operations round by FXRM and set VXSAT on saturation. -/
  | vsadd (cl : Nat) (n : Nat)
  /-- VCMP (R194): Integer and floating vector compares write a mask register. -/
  | vcmp (cl : Nat) (n : Nat)
  /-- VMAND (R194): The mask operations combine, invert or set mask registers. -/
  | vmand (cl : Nat)
  /-- VCVT (R201): VCVT converts the active elements to the destination format. -/
  | vcvt (cl : Nat) (n : Nat)
  /-- VPACK (R202): VPACK packs 4-bit or 6-bit elements into a bit string. -/
  | vpack (cl : Nat)
  /-- VUNPACK (R202): VUNPACK expands a packed bit string into 8-bit elements. -/
  | vunpack (cl : Nat)
  /-- VMPOP (R205): The mask summaries VMPOP, VMFIRST, VMANY and VMALL write a scalar register or a flag. -/
  | vmpop (cl : Nat)
  /-- VREDSUM (R203): The integer and floating tree reductions combine the active elements in fixed order into s[VD]. -/
  | vredsum (cl : Nat)
  /-- VFREDOSUM (R203): VFREDOSUM sums the active elements in ascending order. -/
  | vfredosum (cl : Nat)
  /-- SUMMARY_ARRIVAL (R204): The scalar result of a reduction or summary arrives at the control core. -/
  | summaryArrival (cl : Nat)
  /-- VCOMPRESS (R206): VCOMPRESS packs the masked elements to the front of the destination. -/
  | vcompress (cl : Nat)
  /-- VEXPAND (R206): VEXPAND spreads consecutive elements into the masked positions. -/
  | vexpand (cl : Nat)
  /-- VPERM (R206): VPERM gathers elements of a register by an index vector. -/
  | vperm (cl : Nat)
  /-- VMATCH (R207): VMATCH marks the elements of va that occur in vb and writes the advance counts. -/
  | vmatch (cl : Nat)
  /-- VMERGE (R208): VMERGE merges two sorted index vectors, optionally as a set union. -/
  | vmerge (cl : Nat)
  /-- VLD (R216): VLD and VST move a unit-stride run of elements. -/
  | vld (cl : Nat) (n : Nat)
  /-- VLSEG (R216): VLSEGn and VSSEGn move interleaved records field by field. -/
  | vlseg (cl : Nat) (n : Nat)
  /-- VLDX (R217): VLDX gathers elements from per-element base addresses. -/
  | vldx (cl : Nat) (n : Nat)
  /-- VSTX (R220): VSTX scatters elements to per-element addresses, with the highest element winning on overlap. -/
  | vstx (cl : Nat) (n : Nat)
  /-- VSTXR (R157): A scatter-with-reduction applies each element as a relaxed atomic at its atomic unit. -/
  | vstxr (cl : Nat) (n : Nat)
  /-- LOAD_GROUP_ARRIVAL (R227): The data of a vector or thread load element group returns and is written in ascending group order. -/
  | loadGroupArrival (cl : Nat) (ctx : Nat) (g : Nat)
  /-- VECTOR_WALK_RESUME (R228): A vector memory operation that yielded on a TLB miss continues once its walk completes. -/
  | vectorWalkResume (cl : Nat)
  /-- MATRIX_OP_START (R246): The free engine input starts the head X operation of the oldest eligible context, after its setup checks. -/
  | matrixOpStart (cl : Nat)
  /-- XOPA (R240): XOPA streams A and B strips through the array and accumulates the outer product into a tile. -/
  | xopa (cl : Nat) (n : Nat)
  /-- TZERO (R253): TZERO declares a tile afresh with a shape and type, zeroed. -/
  | tzero (cl : Nat)
  /-- TREL (R254): TREL releases a tile, or a pair. -/
  | trel (cl : Nat)
  /-- TLD (R258): TLD converts an image from the Mere into a tile, optionally quantising it. -/
  | tld (cl : Nat) (n : Nat)
  /-- TST (R259): TST converts a tile into an image in the Mere, optionally with computed block scales. -/
  | tst (cl : Nat) (n : Nat)
  /-- TACC (R272): TACC adds an image of partial results into a tile, element by element. -/
  | tacc (cl : Nat) (n : Nat)
  /-- RESIDUE_MISMATCH (R451): A residue check fails, so the unit recomputes once and reports a fault event. -/
  | residueMismatch (cl : Nat) (ctx : Nat) (unit : Nat) (place : Nat) (again : Bool)
  /-- SRAM_SINGLE_BIT_CORRECT (R453): A single-bit SRAM error is corrected, written back and reported as a class 2 event. -/
  | sramSingleBitCorrect (arr : SramArray)
  /-- SRAM_UNCORRECTABLE (R454): An uncorrectable SRAM word is handled by where it lies: machine check, refetch, or device reset. -/
  | sramUncorrectable (place : SramPlace)
  /-- TRAP_ENTRY (R362): At a bundle boundary, a fault, a unit fault or a deferred error is taken: resume state and the in-flight record are saved, and the handler is fetched. -/
  | trapEntry (cl : Nat) (ctx : Nat)
  /-- INTERRUPT_ENTRY (R372): A pending, enabled interrupt is taken at a bundle boundary, abandoning an abandonable wait. -/
  | interruptEntry (cl : Nat) (ctx : Nat)
  /-- TRAP (R366): TRAP retires and raises a software trap at the following boundary. -/
  | trap (cl : Nat) (ctx : Nat)
  /-- TACK (R367): TACK clears ENTRY at the executing level. -/
  | tack (cl : Nat) (ctx : Nat)
  /-- TRET (R368): TRET waits for the units, restores the modes, reinstates the held record and resumes. -/
  | tret (cl : Nat) (ctx : Nat)
  /-- IFSAVE (R374): IFSAVE writes a held in-flight record to memory. -/
  | ifsave (cl : Nat) (ctx : Nat)
  /-- IFLOAD (R374): IFLOAD checks an in-flight record in memory and loads it into a slot. -/
  | ifload (cl : Nat) (ctx : Nat)
  /-- TALLY_COMPARE_MATCH (R371): CL_TALLY reaches DT_TCMP.VALUE, and the tally-compare interrupt becomes pending. -/
  | tallyCompareMatch (cl : Nat) (ctx : Nat)
  /-- CL_MERE_RESIZE (R282): Once the conditions of a waiting SETC to CL_MERE.WAYS hold, ways change role and are cleaned, emptied or kept. -/
  | clMereResize (cl : Nat) (ctx : Nat)
  /-- CL_TSTATE_WRITE (R266): Once no X operation names the tile, a SETC to CL_TSTATE declares, changes or releases it. -/
  | clTstateWrite (cl : Nat) (ctx : Nat)
  /-- ICACHE_INVALL (R305): A write of 1 to CL_ICCTL.INVALL invalidates every instruction cache line over 256 beats. -/
  | icacheInvall (cl : Nat) (ctx : Nat)
  /-- ICACHE_ENABLE_WRITE (R304): A write of CL_ICCTL.EN disables or re-enables the instruction cache without invalidating it. -/
  | icacheEnableWrite (cl : Nat) (ctx : Nat)
  /-- PREFETCH_FILL (R306): Prefetched sectors arrive in the side buffer, evicting the oldest line if it is full. -/
  | prefetchFill (id : Nat)
  /-- SIDE_BUFFER_PROMOTE (R307): A demand access that hits the side buffer moves the line into the cluster cache. -/
  | sideBufferPromote (cl : Nat) (da : Nat)
  /-- WAY_POWER_DOWN (R315): A power-down request starts the drain of a quarter-cache way. -/
  | wayPowerDown (q : Nat) (w : Nat)
  /-- WAY_DRAIN_COMPLETE (R315): The last set of a draining way has been visited, so the way's domain switches off or returns to service empty. -/
  | wayDrainComplete (q : Nat) (w : Nat)
  /-- WAY_POWER_UP (R315): A quarter-cache way is powered up and joins the cache empty. -/
  | wayPowerUp (q : Nat) (w : Nat)
  /-- TLB_MISS (R325): A quarter TLB miss joins a walk in progress or waits in the miss queue for a walker. -/
  | tlbMiss (cl : Nat) (item : Item)
  /-- WALK_START (R325): A free walker takes the oldest waiting miss. -/
  | walkStart (q : Nat)
  /-- WALK_COMPLETE (R320): A walk ends in a translation that fills the TLBs, or in a fault. -/
  | walkComplete (q : Nat) (w : Nat)
  /-- FAULT_RECORD_SEND (R330): An outstanding fault record is sent to the host as a FAULT message once a session is open. -/
  | faultRecordSend (q : Nat) (w : Nat)
  /-- FAULT_RECORD_FREE_WAIT (R330): An item waiting for a free fault record takes a record that has become free. -/
  | faultRecordFreeWait (q : Nat)
  /-- INV_ALL_SPACES (R326): TR_INV OP 0b01 invalidates the translations of all address spaces. -/
  | invAllSpaces (ag : Agent)
  /-- INV_SPACE (R326): TR_INV OP 0b10 invalidates one address space. -/
  | invSpace (ag : Agent) (asid : Nat)
  /-- INV_RANGE (R326): TR_INV OP 0b11 invalidates a range of one address space. -/
  | invRange (ag : Agent) (asid : Nat)
  /-- INVALIDATION_COMPLETE (R326): The entries, walks and accesses an invalidation names are gone, so BUSY clears and DONE advances. -/
  | invalidationComplete
  /-- WALKER_FORMAT_WRITE (R327): A write to TR_WFD or TR_ASROOT takes effect, with an invalidation, once no walk is in progress. -/
  | walkerFormatWrite (ag : Agent) (off : Nat) (size : Nat) (v : Word)
  /-- RESUME_RETRY (R332): TR_RESUME with ACTION retry releases every item joined to the record. -/
  | resumeRetry (ag : Agent) (tag : Nat)
  /-- RESUME_UNRESOLVED (R332): TR_RESUME with ACTION unresolved gives each context a translation-fault trap and fails each copy. -/
  | resumeUnresolved (ag : Agent) (tag : Nat)
  /-- MIGRATE (R336): The tract command MIGRATE moves the tracts of a range to a target stack or parcel. -/
  | migrate
  /-- ADVISE (R336): The tract command ADVISE replaces tract hints and can discard the tracts. -/
  | advise
  /-- TRACT_CHUNK_MOVE (R335): A 64 KiB chunk of a moving tract finishes its move and switches to the new frame. -/
  | tractChunkMove (tract : Nat)
  /-- ALLOTMENT_EPOCH (R445): At the end of each epoch, the Surveyor applies the vacate, preference, locality and replica rules. -/
  | allotmentEpoch
  /-- STACK_REQUEST_ADMIT (R341): A stack controller admits a sector request into its channel queue, or holds its input by back-pressure. -/
  | stackRequestAdmit (id : Nat)
  /-- STACK_REQUEST_COMPLETE (R340): A stack request finishes at the dies and its data or acknowledgement departs. -/
  | stackRequestComplete (id : Nat)
  /-- ATOMIC_UNIT_APPLY (R350): A stack atomic unit applies an atomic to a sector it holds and returns the old value. -/
  | atomicUnitApply (id : Nat)
  /-- MAPOUT (R343): MS_CTL.MAPOUT, or a lasting class 3 fault, maps out a channel and starts a restripe. -/
  | mapout (ag : Agent) (k : Nat) (ch : Nat)
  /-- RESTRIPE_CHUNK (R343): A 64 KiB restripe chunk finishes moving, and MS_MARK advances. -/
  | restripeChunk (k : Nat)
  /-- RESTRIPE_COMPLETE (R345): A restripe ends, and the next pending map-out starts. -/
  | restripeComplete (k : Nat)
  /-- PATROL_SCRUB (R349): The patrol scrub reads a sector and rewrites it if it is correctable. -/
  | patrolScrub (k : Nat)
  /-- STACK_REFRESH (R352): The controller refreshes banks on its timed schedule. -/
  | stackRefresh (k : Nat)
  /-- REFRESH_RATE_SAMPLE (R352): Every 1 ms, the controller samples the die status, sets the refresh rate and folds in on-die ECC counts. -/
  | refreshRateSample (k : Nat) (temp : Nat) (counts : Nats)
  /-- READ_TIMING_RETUNE (R352): Every 1 ms, each channel's read timing is retuned. -/
  | readTimingRetune (k : Nat) (ch : Nat)
  /-- SELF_REFRESH_ENTRY (R353): A stack enters self-refresh before its domain goes off or at Standby. -/
  | selfRefreshEntry (k : Nat)
  /-- SELF_REFRESH_EXIT (R353): A stack leaves self-refresh, retraining if its temperature has moved by more than 20 °C. -/
  | selfRefreshExit (k : Nat) (temp : Nat) (fail : Nat)
  /-- FLIT_RECEIVE (R392): A received flit is checked by CRC and sequence number, returns its credits and ACK, or triggers a NAK. -/
  | flitReceive (p : Nat) (flit : Bytes)
  /-- FLIT_RETRY_TIMEOUT (R392): ACK has not advanced for 4 µs, so the transmitter resends from the oldest unacknowledged flit. -/
  | flitRetryTimeout (p : Nat)
  /-- MESSAGE_START (R384): A free output port starts a message, chosen by channel priority and round robin, once credits are held. -/
  | messageStart (p : Nat)
  /-- MESSAGE_FORWARD (R387): A whole message for another device is routed, its HOPS incremented and its CLS set at a dateline. -/
  | messageForward (p : Nat)
  /-- READ (R382): A READ request reads bytes at a device address and is answered with DATA. -/
  | read
  /-- WRITE (R382): A WRITE request writes bytes and is acknowledged after they are performed at the home point. -/
  | write
  /-- ATOMIC (R382): An ATOMIC request performs an atomic and is answered with OLD, through the replay table when marked. -/
  | atomic (young : Bool)
  /-- SCATRED (R382): A SCATRED request applies one scatter-with-reduction element. -/
  | scatred (young : Bool)
  /-- DATA (R382): A DATA response completes an outstanding READ. -/
  | data
  /-- ACK (R382): An ACK response completes an outstanding WRITE. -/
  | ack
  /-- OLD (R382): An OLD response completes an outstanding ATOMIC. -/
  | old
  /-- ERROR (R391): An ERROR response completes a request with a status reported to its issuer. -/
  | error
  /-- MREAD (R382): An MREAD reads 8 bytes of the management window and is answered with MDATA. -/
  | mread
  /-- MWRITE (R382): An MWRITE from a peer writes DT_ISET, or is refused. -/
  | mwrite
  /-- MDATA (R382): An MDATA response completes an outstanding MREAD. -/
  | mdata
  /-- BAD_MESSAGE (R382): A message whose VC, OP or LEN is not accepted is discarded, counted and answered with ERROR if it is a request. -/
  | badMessage
  /-- RESPONSE_DEADLINE (R390): A request's response deadline passes, so it completes with status 0x04. -/
  | responseDeadline (id : Nat)
  /-- CHANNEL_STUCK (R388): A channel that holds messages and makes no progress for 1 s sets SL_PSTAT.STUCK. -/
  | channelStuck (p : Nat) (vc : Nat)
  /-- LINK_RESET (R393): A port enters link reset, discarding partial messages and failing its unacknowledged requests with status 0x05. -/
  | linkReset (p : Nat)
  /-- LINK_TRAINING_COMPLETE (R394): Lane lock, word alignment and the role exchange finish, so the port goes up or to mismatch. -/
  | linkTrainingComplete (p : Nat) (farId : Nat) (farPort : Nat) (farRole : Nat)
  /-- LINK_TRAINING_RETRY (R394): A failed training is retried every 100 ms. -/
  | linkTrainingRetry (p : Nat)
  /-- OPEN_FIBRE_DETECT (R396): A receive lane below −20 dBm for 2 µs darkens the port's transmit lanes. -/
  | openFibreDetect (p : Nat)
  /-- CONNECTOR_REMOVED (R396): Connector-present is deasserted, which darkens every port and drops FIBRE_SEATED. -/
  | connectorRemoved
  /-- LASER_FAULT (R396): A lane output above +5 dBm darkens the port and sets DK_LASER.FAULT. -/
  | laserFault (p : Nat)
  /-- PROBE_TIMER (R397): The probe timer of a darkened port fires, so the port lights both transmit lanes for 2.0 ms. -/
  | probeTimer (p : Nat)
  /-- PROBE_LIGHT_SEEN (R397): Light on both receive lanes for 500 µs makes a port reply or hold its lanes lit. -/
  | probeLightSeen (p : Nat)
  /-- PROBE_LIGHT_STEADY (R397): Both receive lanes have seen light for 1 ms, so training starts. -/
  | probeLightSteady (p : Nat)
  /-- PROBE_LIGHT_LOST (R397): A lit probing port loses light for 2 µs and goes dark to probe again. -/
  | probeLightLost (p : Nat)
  /-- UPWARD_RELAY (R400): The landing device sends an upward host message out through port 10 or the alternate landing port. -/
  | upwardRelay
  /-- SOPEN (R405): SOPEN begins a session opening with a host nonce and key selection. -/
  | sopen (sinceFail : Nat) (twinSc : Nat) (sameKey : Bool)
  /-- LEDGER_WRITE_COMPLETE (R461): A ledger record has been written and read back, so the action that waited for it continues, such as sending CHALLENGE. -/
  | ledgerWriteComplete (ok : Bool)
  /-- SPROVE (R405): SPROVE delivers the host MAC, which opens the session or counts a failure. -/
  | sprove
  /-- SPROVE_TIMEOUT (R405): No SPROVE arrives within 1 s of CHALLENGE, so the opening ends. -/
  | sproveTimeout
  /-- SCLOSE (R407): SCLOSE ends the open session. -/
  | sclose
  /-- HB_SESSCTL_CLOSE (R407): A write of 1 to HB_SESSCTL.CLOSE ends the session. -/
  | hbSessctlClose (ag : Agent)
  /-- HREAD (R403): HREAD reads device memory as a Datum-level access and returns HRDATA. -/
  | hread
  /-- HWRITE (R403): HWRITE writes device memory and returns HSTAT once the write is performed. -/
  | hwrite
  /-- HMREAD (R403): HMREAD reads a management register and returns HMDATA. -/
  | hmread
  /-- HMWRITE (R403): HMWRITE writes a management register. -/
  | hmwrite
  /-- DOORBELL (R408): DOORBELL sets a ring's SQ tail or CQ head. -/
  | doorbell
  /-- ATTEST (R410): ATTEST starts a signed attestation report for this device or its twin. -/
  | attest
  /-- ATTEST_REPORT_READY (R410): The signed report is complete and is sent in nine REPORT messages. -/
  | attestReportReady
  /-- HDATA (R404): HDATA answers an HMEMRD with host-memory data. -/
  | hdata
  /-- HRESP (R404): HRESP completes an HMEMWR or a PTEUPD with a status and the old entry value. -/
  | hresp
  /-- HOST_ACCESS_DEADLINE (R404): A device access to host memory passes its deadline and fails. -/
  | hostAccessDeadline (id : Nat)
  /-- RELAYDOWN (R401): RELAYDOWN from the landing device ends the receiving device's session. -/
  | relaydown
  /-- RING_COMMAND_FETCH (R408): The device fetches and starts the next SQ command of an enabled ring, within the limit of 8 in progress. -/
  | ringCommandFetch (n : Nat)
  /-- NOP (R409): The NOP command completes at once. -/
  | nop (n : Nat)
  /-- START (R409): The START command loads the named contexts and starts them, or lets the Surveyor choose a cluster. -/
  | start (n : Nat)
  /-- STOP (R409): The STOP command stops the named contexts. -/
  | stop (n : Nat)
  /-- EVENT (R409): The EVENT command delivers event bits to clusters. -/
  | event (n : Nat)
  /-- MOVE (R409): The MOVE command copies bytes with the hub mover. -/
  | move (n : Nat)
  /-- TRACT (R409): The TRACT command passes a tract command to the Surveyor. -/
  | tract (n : Nat)
  /-- REPLAT (R409): The REPLAT command performs a plat command as HB_PLATCMD does. -/
  | replat (n : Nat)
  /-- RING_FENCE (R409): The ring FENCE command completes after every earlier command of its ring. -/
  | ringFence (n : Nat)
  /-- COMMAND_COMPLETE (R409): A ring command completes, and its event is written to the CQ with an optional NOTIFY, or held while the CQ is full. -/
  | commandComplete (n : Nat) (k : Nat)
  /-- SU_TRACTCTL_GO (R337): A write of GO starts the tract command held in SU_TRACTCMD0–3. -/
  | suTractctlGo (ag : Agent)
  /-- RD_START (R428): RD_CTL.START copies the slot table and begins a reduction step. -/
  | rdStart (ag : Agent) (r : Nat)
  /-- RD_ABORT (R428): RD_CTL.ABORT ends the step with status 0x01. -/
  | rdAbort (ag : Agent) (r : Nat)
  /-- RD_FILL (R416): A write to RD_FILL advances FILLED and lets full buckets start sending. -/
  | rdFill (ag : Agent) (r : Nat) (v : Word)
  /-- OWN_SHARE_CONVERTED (R420): The home's conversion of its own share completes and enters the sums as an arrival. -/
  | ownShareConverted (r : Nat)
  /-- CONTRIB (R421): A CONTRIB arriving at a home is summed into its bucket slot, discarded as a duplicate, or stored to wait. -/
  | contrib
  /-- CONTRIB_PLACE (R423): A stored CONTRIB is applied once its bucket can take a buffer slot. -/
  | contribPlace (r : Nat)
  /-- RESULT (R418): A RESULT message writes summed elements to the participant's RD_RES. -/
  | result
  /-- RPULL (R426): RPULL asks a backup to send the named chunks in descending order. -/
  | rpull
  /-- STEPREP (R425): STEPREP frees the step's buffer slots, marks the step repeated and ends it with status 0x02. -/
  | steprep
  /-- BUCKET_DEADLINE (R424): A bucket deadline expires, so the home sends RPULL or repeats the step. -/
  | bucketDeadline (r : Nat) (b : Nat)
  /-- RESULT_DEADLINE (R427): Results are overdue, so the step ends with status 0x03. -/
  | resultDeadline (r : Nat)
  /-- HELLO_TIMER (R430): A FORMING device sends HELLO every 10 ms. -/
  | helloTimer
  /-- HELLO (R430): A received HELLO compares section digests and UIDs, and the pair enters PAIRED or MISMATCH. -/
  | hello
  /-- FORMING_TIMEOUT (R431): No HELLO answer arrives within 10 s, so the device probes its twin. -/
  | formingTimeout
  /-- BEAT_TIMER (R442): Each twin sends BEAT every 100 µs. -/
  | beatTimer
  /-- BEAT (R442): A received BEAT shows the twin is alive. -/
  | beat
  /-- TWIN_SILENCE (R442): With no twin-channel message for 1 ms, or with the twin port down, the twin is suspected and probed. -/
  | twinSilence
  /-- TWIN_PROBE_DEADLINE (R442): The 2 ms probe deadline passes or an answer arrives, so one twin falls out or enters ALONE. -/
  | twinProbeDeadline
  /-- LEAVE (R441): A received LEAVE makes the twin enter ALONE. -/
  | leave
  /-- TWIN_FALL_OUT (R441): A twin that meets a falling-out cause sends LEAVE, stops every context and enters OUT. -/
  | twinFallOut
  /-- MIRROR (R433): A MIRROR and its MIRRORD give the twin a copy of an outside message, or a response for a held request. -/
  | mirror
  /-- CONFIRM (R413): CONFIRM tells the twin which CQ slot the face has written. -/
  | confirm
  /-- DIGEST (R439): A twin's DIGEST is compared with the face's digest for the same tag. -/
  | digest
  /-- PLACE (R448): PLACE makes the twin carry out the face's tract action or cluster choice. -/
  | place
  /-- SEED (R436): SEED writes the face's stochastic-rounding seeds to the twin's clusters. -/
  | seed
  /-- SYNC (R444): SYNC writes rejoin data into the rejoining twin. -/
  | sync
  /-- REJOIN (R444): SU_LVCTL.REJOIN starts a rejoin if its conditions hold, or sets REJFAIL. -/
  | rejoin (ag : Agent)
  /-- REJOIN_COMPLETE (R444): The sync finishes, both twins enter PAIRED, and LOG 0x0003 is sent. -/
  | rejoinComplete
  /-- DIGEST_GO (R439): SU_LVDIGCTL.GO computes the digest D over a range. -/
  | digestGo (ag : Agent)
  /-- DIGEST_TIMEOUT (R439): The twin gives no digest for the tag within 10 s, so RESULT 0b011 is written. -/
  | digestTimeout
  /-- FAULT_EVENT_REPORT (R455): The Surveyor stamps and counts a checker's fault event against its unit and class. -/
  | faultEventReport (stamp : Nat)
  /-- LEDGER_WRITE (R461): The Dykereeve writes a new ledger record to the next slot. -/
  | ledgerWrite
  /-- FLASH_SECTOR_ERASE (R459): The next flash sector of a bank is erased in the background. -/
  | flashSectorErase (bank : Nat)
  /-- CLEARSITE (R467): CLEARSITE removes a site from the retired list. -/
  | clearsite
  /-- CLEARCHAN (R467): CLEARCHAN clears a channel's map-out bit. -/
  | clearchan
  /-- SETOWNER (R467): SETOWNER sets the owner secret and empties the passphrase key. -/
  | setowner
  /-- SETPASS (R467): SETPASS sets the passphrase key and its iteration count. -/
  | setpass
  /-- SETPLATKEY (R467): SETPLATKEY loads a plat key slot. -/
  | setplatkey
  /-- CLEARPLATKEY (R467): CLEARPLATKEY empties a plat key slot. -/
  | clearplatkey
  /-- CLEARWAY (R467): CLEARWAY clears a quarter-cache way's hold-off bit. -/
  | clearway
  /-- POWER_BUDGET_TICK (R469): Every 1 ms, the Surveyor divides the cluster budget among parcels and sets each quarter's SET. -/
  | powerBudgetTick (other : Nat) (demand : Nats)
  /-- QVID_STEP (R490): The device moves a quarter's QVID code by one step, at least 2 µs after the last. -/
  | qvidStep (q : Nat)
  /-- CEILING_CHECK (R470): Every 100 µs, the Dykereeve lowers or raises CEIL against PKGCAP and TJCAP. -/
  | ceilingCheck (pkg : Nat) (other : Nat) (tj : Nats)
  /-- THROTTLE_STEP (R471): After 10 ms, the issue throttle level rises at the floor or falls within the limits. -/
  | throttleStep
  /-- THERMAL_TRIP (R472): A sensor at 105 °C for 10 µs asserts device reset and THERMTRIP_N. -/
  | thermalTrip
  /-- THERMAL_TRIP_CLEAR (R472): Every sensor reads 85 °C or less, so the thermal reset is released. -/
  | thermalTripClear
  /-- IDLE_POWER_DOWN (R474): A group with IDLE_OFF, Still for IDLE units, is made Dormant after its cluster caches are cleaned. -/
  | idlePowerDown (g : Nat)
  /-- CLUSTER_WAKE (R475): A Dormant cluster powers up and receives the event bits held for it. -/
  | clusterWake (cl : Nat)
  /-- QUARTER_DORMANT_ENTRY (R476): With all domains of a quarter off, the Surveyor makes the quarter Dormant. -/
  | quarterDormantEntry (q : Nat)
  /-- QUARTER_DORMANT_EXIT (R476): The Surveyor brings a Dormant quarter back when one of its domains is to be powered. -/
  | quarterDormantExit (q : Nat)
  /-- GROUP_UP (R478): HB_PWRCMD group up powers a group's domains in ascending order, 32 per 10 µs. -/
  | groupUp
  /-- GROUP_DOWN (R478): HB_PWRCMD group down switches a group off, or is refused. -/
  | groupDown
  /-- STANDBY (R477): HB_PWRCMD Standby writes the ledger, makes clusters Dormant, drains ways, turns VCORE off and darkens ports. -/
  | standby
  /-- WAKE (R477): HB_PWRCMD Wake over I3C repeats boot steps 4–7 and restores the power groups. -/
  | wake (fails : Nats)
  /-- POWER_ON_RESET (R479): PWR_GOOD deasserted resets everything. -/
  | powerOnReset
  /-- PIN_RESET (R479): RESET_N held low resets all but the ledger, keys, fuses and stack contents. -/
  | pinReset
  /-- DEVICE_RESET (R479): HB_RSTCMD OP 0b001 resets the device as a pin reset does. -/
  | deviceReset (ag : Agent)
  /-- QUARTER_RESET (R481): HB_RSTCMD OP 0b010 resets one quarter, discarding its caches, requests and records. -/
  | quarterReset (ag : Agent) (q : Nat)
  /-- QUARTER_RESET_RELEASE (R481): After its 10 µs hold, a quarter leaves reset and its held requests proceed. -/
  | quarterResetRelease (q : Nat)
  /-- CLUSTER_RESET (R480): HB_RSTCMD OP 0b011, or a third fault, stops a cluster's contexts and copies and resets its state. -/
  | clusterReset (ag : Agent) (cl : Nat)
  /-- BOOT (R486): After reset is released, the device runs ROM checks, firmware and plat verification, training, probes and power-up in order. -/
  | boot (fails : Nats)
  /-- FW_ERASE (R487): HB_FWCMD ERASE erases a firmware bank. -/
  | fwErase
  /-- FW_WRITE (R487): HB_FWCMD WRITE programs bytes from HB_PLATBUF into a bank. -/
  | fwWrite
  /-- FW_COMMIT (R487): HB_FWCMD COMMIT checks a bank and can raise FWFLOOR. -/
  | fwCommit
  /-- I3C_SET_OFFSET (R495): A 4-byte I3C private write sets the window offset. -/
  | i3cSetOffset (off : Nat)
  /-- I3C_READ (R495): An 8-byte I3C private read returns the register at the offset. -/
  | i3cRead
  /-- I3C_WRITE (R495): A 12-byte I3C private write writes HB_PWRCMD, or is ignored. -/
  | i3cWrite (off : Nat) (v : Word)
  /-- BYPASS (R496): The BYPASS scan instruction selects the bypass register. -/
  | bypass
  /-- IDCODE (R496): The IDCODE scan instruction returns 0x1802_46B7. -/
  | idcode
  /-- SAMPLE_PRELOAD (R496): SAMPLE/PRELOAD samples or loads the boundary register. -/
  | samplePreload (pins : Bytes) (v : Bytes)
  /-- EXTEST (R496): EXTEST drives the 1.8 V signal lands from the boundary register, with the optics dark. -/
  | extest (pins : Bytes) (v : Bytes)
  /-- CLAMP (R496): CLAMP holds the outputs while selecting bypass. -/
  | clamp
  /-- HIGHZ (R496): HIGHZ places the outputs in high impedance, with the optics dark. -/
  | highz
  /-- VECTOR_OP_COMPLETE (R195): A V operation's last element group leaves the datapath: its results land, its flags and VXSAT accrue, CL_VSE returns to 0 and the operation leaves the in-flight set. -/
  | vectorOpComplete (cl : Nat)
  /-- MATRIX_OP_COMPLETE (R244): An X operation's last accumulator write or image row lands: flags accrue, CL_TSR returns to 0, and operations waiting on the tile may set up. -/
  | matrixOpComplete (cl : Nat)
  /-- COPY_SECTOR_RETURN (R289): The data or acknowledgement of one of a copy's sector requests returns to the cluster and is written to the Mere or passed to the destination. -/
  | copySectorReturn (cl : Nat) (id : Nat)
  /-- QUARTER_CACHE_REQUEST (R302): A sector request reaches a quarter-cache slice and is served on a hit in 10 beats, or passed on to the stack on a miss, with a dirty line written back on eviction. -/
  | quarterCacheRequest (id : Nat)
  /-- ICACHE_INVALL_COMPLETE (R305): The 256-beat instruction cache invalidation ends, BUSY clears, any EN written with it takes effect, and the writing bundle retires. -/
  | icacheInvallComplete (cl : Nat)
  /-- CLUSTER_RESET_COMPLETE (R480): A cluster reset finishes its cleaning and resets, and management accesses to the cluster stop reading as Dormant. -/
  | clusterResetComplete (cl : Nat)
  /-- PROBE_END (R397): The 2.0 ms lit period of a probe ends: the port holds its lanes lit if both receive lanes saw light for its last 500 µs, and otherwise goes dark until the next probe. -/
  | probeEnd (p : Nat)
  /-- CONNECTOR_SEATED (R497): Both latches of the fibre carrier close, so connector-present asserts and FIBRE_SEATED is driven high. -/
  | connectorSeated
  deriving DecidableEq, Repr

end Sys2Proof
end

