-- ==== Sys2Proof/Decode.lean ====
section
/-!
DEFINITION. Commands from table words. No row of spec/opcode_table.json gives bits (every row's `fields` is empty), so
no word spells a command. The syllables that the block itself fetches are decoded in Machine/Operands.lean and
Machine/VDecode.lean.
-/
namespace Sys2Proof

/-- The command a table word spells: none, since the table gives no row any bits. -/
def decodeTableWord (nbits w : Nat) : Option Instr :=
  let _ := nbits
  let _ := w
  none

end Sys2Proof
end

