-- ==== Sys2Proof/Machine/Bits.lean ====
section
/-!
DEFINITION. Bit fields, sign extension and byte order: the helpers every register map and encoding
of the spec is read with (spec/00_scope.md R5 and its notation [high:low]).
-/
namespace Sys2Proof.Machine

/-- A bit field of a 64-bit register: its lowest bit and its width. -/
structure Fld where
  lo : Nat
  w : Nat
  deriving DecidableEq, Repr

/-- All ones in the low `w` bits. -/
def ones (w : Nat) : Nat := 2 ^ w - 1

/-- The field `f` of a register, as a number. -/
def getF (x : Word) (f : Fld) : Nat := (x.toNat >>> f.lo) % 2 ^ f.w

/-- Is the (one-bit) field set? -/
def isSet (x : Word) (f : Fld) : Bool := getF x f != 0

/-- The mask of the field's bits. -/
def Fld.mask (f : Fld) : Word := BitVec.ofNat 64 (ones f.w <<< f.lo)

/-- `x` with the field `f` holding `v` (modulo the field's width). -/
def setF (x : Word) (f : Fld) (v : Nat) : Word :=
  (x &&& ~~~ f.mask) ||| (BitVec.ofNat 64 ((v % 2 ^ f.w) <<< f.lo))

/-- `x` with a one-bit field set or cleared. -/
def setB (x : Word) (f : Fld) (b : Bool) : Word := setF x f (if b then 1 else 0)

/-- Bits [lo + w - 1 : lo] of a number. -/
def bitsOf (n lo w : Nat) : Nat := (n >>> lo) % 2 ^ w

/-- Bit `i` of a number. -/
def bitOf (n i : Nat) : Bool := n.testBit i

/-- The signed value of the low `w` bits of `n`. -/
def sgn (w n : Nat) : Int :=
  let m := n % 2 ^ w
  if w != 0 && m.testBit (w - 1) then (m : Int) - (2 ^ w : Nat) else m

/-- The low `w` bits of an integer, as a number (two's complement). -/
def wrap (w : Nat) (i : Int) : Nat := (i % ((2 ^ w : Nat) : Int)).toNat

/-- The low `w` bits of `n`, sign-extended to 64 bits. -/
def sext64 (w n : Nat) : Word := BitVec.ofInt 64 (sgn w n)

/-- A word plus a signed displacement, modulo 2^64. -/
def addDisp (a : Word) (d : Int) : Word := a + BitVec.ofInt 64 d

/-- The byte `i` of a number, least significant first (R5). -/
def byteOf (n i : Nat) : Byte := BitVec.ofNat 8 (n >>> (8 * i))

/-- `k` bytes of a number, least significant first (R5). -/
def toBytes : Nat → Nat → List Byte
  | 0, _ => []
  | k + 1, n => BitVec.ofNat 8 n :: toBytes k (n >>> 8)

/-- The number that bytes spell, least significant first (R5). -/
def ofBytes : List Byte → Nat
  | [] => 0
  | b :: bs => b.toNat + 256 * ofBytes bs

/-- Saturating add: never above `cap`. -/
def satAdd (cap a b : Nat) : Nat := min cap (a + b)

/-- The numbers `0 .. n-1` for which `p` holds, ascending. -/
def filterUpto (n : Nat) (p : Nat → Bool) : List Nat := (List.range n).filter p

/-- The lowest number below `n` for which `p` holds. -/
def findUpto (n : Nat) (p : Nat → Bool) : Option Nat := (List.range n).find? p

/-- How many bits of the low `n` bits are set. -/
def popc (n x : Nat) : Nat := (filterUpto n (fun i => x.testBit i)).length

/-- The lowest set bit among the low `n`, or none. -/
def lowBit (n x : Nat) : Option Nat := findUpto n (fun i => x.testBit i)

/-- `n` with bit `i` set. -/
def setBit (n i : Nat) : Nat := n ||| (1 <<< i)

/-- `n` with bit `i` cleared. -/
def clrBit (n i : Nat) : Nat := if n.testBit i then n - (1 <<< i) else n

/-- The mask whose bit `i` is set when `p i`, for `i < n`. -/
def maskOf (n : Nat) (p : Nat → Bool) : Nat :=
  (List.range n).foldl (fun a i => if p i then setBit a i else a) 0

/-- Round `n` up to a multiple of `k`. -/
def roundUp (n k : Nat) : Nat := (n + k - 1) / k * k

/-- Quotient rounded up. -/
def ceilDiv (n k : Nat) : Nat := (n + k - 1) / k

end Sys2Proof.Machine
end

