-- ==== Sys2Proof/Machine/Float.lean ====
section
/-!
DEFINITION. The number formats and their arithmetic (spec/07_number_formats.md, spec/04 R96 to R100): exact values,
one rounding, the limits of each format, exception flags. Flags are CL_FCSR[4:0]: NX 1, UF 2, OF 4, DZ 8, NV 16.
-/
namespace Sys2Proof.Machine

/-- What the exponent field's top stands for in a format (R168, R169). -/
inductive Special where
  /-- Infinities and NaNs at the top exponent, quiet and signalling (IEEE formats and KV16). -/
  | ieee
  /-- Infinities and quiet NaNs only (KV8W). -/
  | quiet
  /-- One NaN encoding per sign, no infinity (KV8E). -/
  | oneNan
  /-- Every encoding finite (KV6, KV4). -/
  | none
  deriving DecidableEq, Repr

/-- A floating-point format: exponent bits, fraction bits, bias, special encodings. -/
structure FFmt where
  eb : Nat
  fb : Nat
  bias : Nat
  sp : Special
  deriving DecidableEq, Repr

/-- binary64. -/
def fmt64 : FFmt := ⟨11, 52, 1023, .ieee⟩
/-- binary32. -/
def fmt32 : FFmt := ⟨8, 23, 127, .ieee⟩
/-- binary16. -/
def fmt16 : FFmt := ⟨5, 10, 15, .ieee⟩
/-- KV16 (R169). -/
def fmtKV16 : FFmt := ⟨8, 7, 127, .ieee⟩
/-- KV8W (R167). -/
def fmtKV8W : FFmt := ⟨5, 2, 16, .quiet⟩
/-- KV8E. -/
def fmtKV8E : FFmt := ⟨4, 3, 8, .oneNan⟩
/-- KV6. -/
def fmtKV6 : FFmt := ⟨3, 2, 3, .none⟩
/-- KV4. -/
def fmtKV4 : FFmt := ⟨2, 1, 1, .none⟩

/-- The width of a format's encoding. -/
def FFmt.width (f : FFmt) : Nat := 1 + f.eb + f.fb
/-- The exponent of the smallest normal. -/
def FFmt.emin (f : FFmt) : Int := 1 - (f.bias : Int)
/-- The exponent of the subnormal grid. -/
def FFmt.qmin (f : FFmt) : Int := f.emin - (f.fb : Int)
/-- The largest exponent field of a finite number. -/
def FFmt.etop (f : FFmt) : Nat := match f.sp with | .ieee | .quiet => 2 ^ f.eb - 2 | _ => 2 ^ f.eb - 1
/-- The fraction of the largest finite number. -/
def FFmt.ftop (f : FFmt) : Nat := match f.sp with | .oneNan => 2 ^ f.fb - 2 | _ => 2 ^ f.fb - 1
/-- The encoding of the largest finite number of a sign. -/
def FFmt.maxBits (f : FFmt) (neg : Bool) : Nat :=
  (if neg then 2 ^ (f.eb + f.fb) else 0) + f.etop * 2 ^ f.fb + f.ftop
/-- The encoding of infinity. -/
def FFmt.infBits (f : FFmt) (neg : Bool) : Nat :=
  (if neg then 2 ^ (f.eb + f.fb) else 0) + (2 ^ f.eb - 1) * 2 ^ f.fb
/-- The canonical NaN (R178); formats without NaN give +0 (R181). -/
def FFmt.nanBits (f : FFmt) : Nat :=
  match f.sp with
  | .ieee => (2 ^ f.eb - 1) * 2 ^ f.fb + 2 ^ (f.fb - 1)
  | .quiet => (2 ^ f.eb - 1) * 2 ^ f.fb + 2 ^ (f.fb - 1)
  | .oneNan => 2 ^ (f.eb + f.fb) - 1
  | .none => 0

/-- A value: a NaN (signalling or not), an infinity, or ±m·2^e exactly. -/
inductive FV where
  | nan (sig : Bool)
  | inf (neg : Bool)
  | fin (neg : Bool) (m : Nat) (e : Int)
  deriving DecidableEq, Repr

/-- How many bits a number needs. -/
def bitLen (n : Nat) : Nat := if n = 0 then 0 else Nat.log2 n + 1

/-- The value an encoding stands for (R167 to R169). -/
def decodeF (f : FFmt) (x : Nat) : FV :=
  let neg := x.testBit (f.eb + f.fb)
  let e := bitsOf x f.fb f.eb
  let fr := bitsOf x 0 f.fb
  let top : Bool := e == 2 ^ f.eb - 1
  match f.sp, top with
  | .ieee, true => if fr = 0 then .inf neg else .nan (!fr.testBit (f.fb - 1))
  | .quiet, true => if fr = 0 then .inf neg else .nan false
  | .oneNan, true =>
    if fr = 2 ^ f.fb - 1 then .nan false
    else .fin neg (2 ^ f.fb + fr) ((e : Int) - (f.bias : Int) - (f.fb : Int))
  | _, _ =>
    if e = 0 then .fin neg fr f.qmin
    else .fin neg (2 ^ f.fb + fr) ((e : Int) - (f.bias : Int) - (f.fb : Int))

/-- Does the rounding `rm` move the magnitude up, given whether the kept part is odd, the remainder and its
range 2^sh? RM codes of R85, and 6 for stochastic with draw `r` (R184). -/
def roundUpP (rm r : Nat) (neg odd : Bool) (rem sh : Nat) : Bool :=
  let half := 2 ^ (sh - 1)
  match rm with
  | 1 => decide (half < rem) || (rem == half && odd)
  | 2 => decide (half ≤ rem)
  | 3 => false
  | 4 => !neg && rem != 0
  | 5 => neg && rem != 0
  | 6 =>
    let d := if 16 ≤ sh then rem >>> (sh - 16) else rem <<< (16 - sh)
    decide (r < d)
  | _ => decide (half < rem) || (rem == half && odd)

/-- m·2^e rounded to a multiple of 2^q: the multiple, and whether it is inexact. -/
def roundAt (rm r : Nat) (neg : Bool) (m : Nat) (e q : Int) : Nat × Bool :=
  if q ≤ e then (m <<< (e - q).toNat, false)
  else
    let sh := (q - e).toNat
    let k := m >>> sh
    let rem := m % 2 ^ sh
    ((if roundUpP rm r neg (k % 2 == 1) rem sh then k + 1 else k), rem != 0)

/-- Inexact. -/
def flNX : Nat := 1
/-- Underflow. -/
def flUF : Nat := 2
/-- Overflow. -/
def flOF : Nat := 4
/-- Divide by zero. -/
def flDZ : Nat := 8
/-- Invalid. -/
def flNV : Nat := 16

/-- The magnitude k·2^q (k > 0) encoded in a format in whose range it lies. -/
def encMag (f : FFmt) (k : Nat) (q : Int) : Nat :=
  let l := bitLen k
  let ex := q + (l : Int) - 1
  if ex < f.emin then (k <<< (q - f.qmin).toNat)
  else
    let fr := if l ≤ f.fb + 1 then k <<< (f.fb + 1 - l) else k >>> (l - (f.fb + 1))
    (ex + (f.bias : Int)).toNat * 2 ^ f.fb + fr % 2 ^ f.fb

/-- A finite non-zero value rounded into a format (R180, R181, R500, R501): the encoding and the flags. -/
def packFin (f : FFmt) (rm r : Nat) (sat neg : Bool) (m : Nat) (e : Int) : Nat × Nat :=
  let sbit := if neg then 2 ^ (f.eb + f.fb) else 0
  let qn := e + (bitLen m : Int) - ((f.fb : Int) + 1)
  let q := max qn f.qmin
  let (k, inex) := roundAt rm r neg m e q
  let (ku, _) := roundAt rm r neg m e qn
  let tiny : Bool := decide (qn + (bitLen ku : Int) - 1 < f.emin)
  if k = 0 then (sbit, flNX ||| flUF)
  else
    let ex := q + (bitLen k : Int) - 1
    let mag := encMag f k q
    let above : Bool := decide ((f.etop : Int) - (f.bias : Int) < ex) ||
      decide (f.etop * 2 ^ f.fb + f.ftop < mag)
    if above then
      match f.sp with
      | .oneNan => if sat then (f.maxBits neg, flOF ||| flNX) else (f.nanBits, flNV)
      | .none => (f.maxBits neg, flOF ||| flNX)
      | _ =>
        let toInf : Bool := match rm with | 3 => false | 4 => !neg | 5 => neg | 6 => false | _ => true
        ((if toInf then f.infBits neg else f.maxBits neg), flOF ||| flNX)
    else (sbit + mag, (if inex then flNX else 0) ||| (if inex && tiny then flUF else 0))

/-- A value put into a format (R180, R181). -/
def packF (f : FFmt) (rm r : Nat) (sat : Bool) : FV → Nat × Nat
  | .nan sig => (f.nanBits, (if sig || f.sp == .none then flNV else 0))
  | .inf neg =>
    match f.sp with
    | .ieee | .quiet => (f.infBits neg, 0)
    | .oneNan => if sat then (f.maxBits neg, flNV) else (f.nanBits, flNV)
    | .none => (f.maxBits neg, flNV)
  | .fin neg m e =>
    if m = 0 then ((if neg then 2 ^ (f.eb + f.fb) else 0), 0) else packFin f rm r sat neg m e

/-! ### Exact arithmetic -/

/-- The flags of reading a value: invalid for a signalling NaN (R178). -/
def sigFlag : FV → Nat
  | .nan true => flNV
  | _ => 0

/-- Is it a NaN? -/
def FV.isNan : FV → Bool
  | .nan _ => true
  | _ => false

/-- Negation; a NaN stays a NaN. -/
def FV.neg : FV → FV
  | .nan s => .nan s
  | .inf n => .inf (!n)
  | .fin n m e => .fin (!n) m e

/-- The exact product (R177); infinity by zero is invalid. -/
def mulV : FV → FV → FV × Nat
  | .nan s, b => (.nan false, (if s then flNV else 0) ||| sigFlag b)
  | a, .nan s => (.nan false, (if s then flNV else 0) ||| sigFlag a)
  | .inf n, .inf k => (.inf (n != k), 0)
  | .inf n, .fin k m _ => if m = 0 then (.nan false, flNV) else (.inf (n != k), 0)
  | .fin n m _, .inf k => if m = 0 then (.nan false, flNV) else (.inf (n != k), 0)
  | .fin n m e, .fin k l g => (.fin (n != k) (m * l) (e + g), 0)

/-- The signed value m·2^(e - q) of a finite number, for q ≤ e. -/
def scaled (neg : Bool) (m : Nat) (e q : Int) : Int :=
  let x : Int := ((m <<< (e - q).toNat : Nat) : Int)
  if neg then -x else x

/-- The exact sum (R177): a zero sum of unlike signs is -0 only when rounding toward -∞ (rm 5). -/
def addV (rm : Nat) : FV → FV → FV × Nat
  | .nan s, b => (.nan false, (if s then flNV else 0) ||| sigFlag b)
  | a, .nan s => (.nan false, (if s then flNV else 0) ||| sigFlag a)
  | .inf n, .inf k => if n = k then (.inf n, 0) else (.nan false, flNV)
  | .inf n, .fin _ _ _ => (.inf n, 0)
  | .fin _ _ _, .inf k => (.inf k, 0)
  | .fin n m e, .fin k l g =>
    let q := min e g
    let x := scaled n m e q + scaled k l g q
    if x = 0 then
      (.fin (if m = 0 ∧ l = 0 ∧ n = k then n else rm == 5) 0 q, 0)
    else (.fin (decide (x < 0)) x.natAbs q, 0)

/-- a·b + c exactly (R96): zero by infinity is invalid even when the addend is a quiet NaN. -/
def fmaV (rm : Nat) (a b c : FV) : FV × Nat :=
  let (p, fl) := mulV a b
  let (r, fl2) := addV rm p c
  (r, fl ||| fl2)

/-- The quotient with enough bits and a sticky bit: exact as far as any rounding of these formats sees. -/
def divV : FV → FV → FV × Nat
  | .nan s, b => (.nan false, (if s then flNV else 0) ||| sigFlag b)
  | a, .nan s => (.nan false, (if s then flNV else 0) ||| sigFlag a)
  | .inf _, .inf _ => (.nan false, flNV)
  | .inf n, .fin k _ _ => (.inf (n != k), 0)
  | .fin n _ _, .inf k => (.fin (n != k) 0 0, 0)
  | .fin n m e, .fin k l g =>
    if l = 0 then (if m = 0 then (.nan false, flNV) else (.inf (n != k), flDZ))
    else if m = 0 then (.fin (n != k) 0 0, 0)
    else
      let sh := 120 + bitLen l
      let x := m <<< sh
      (.fin (n != k) (2 * (x / l) + (if x % l = 0 then 0 else 1)) (e - g - (sh : Int) - 1), 0)

/-- Integer square root by bits, from bit `i` down. -/
def isqrtAux (n : Nat) : Nat → Nat → Nat
  | 0, r => r
  | i + 1, r =>
    let t := r + 2 ^ i
    isqrtAux n i (if t * t ≤ n then t else r)

/-- The square root with a sticky bit. -/
def sqrtV : FV → FV × Nat
  | .nan s => (.nan false, if s then flNV else 0)
  | .inf n => if n then (.nan false, flNV) else (.inf false, 0)
  | .fin n m e =>
    if m = 0 then (.fin n 0 e, 0)
    else if n then (.nan false, flNV)
    else
      let sh := if (e % 2) = 0 then 128 else 129
      let x := m <<< sh
      let r := isqrtAux x (bitLen x / 2 + 1) 0
      (.fin false (2 * r + (if r * r = x then 0 else 1)) ((e - (sh : Int)) / 2 - 1), 0)

/-- Order of two values that are not NaN. -/
def cmpV : FV → FV → Ordering
  | .inf n, .inf k => if n = k then .eq else if n then .lt else .gt
  | .inf n, _ => if n then .lt else .gt
  | _, .inf k => if k then .gt else .lt
  | .fin n m e, .fin k l g =>
    let q := min e g
    compare (scaled n m e q) (scaled k l g q)
  | _, _ => .eq

/-- The sign of a value. -/
def FV.sign : FV → Bool
  | .nan _ => false
  | .inf n => n
  | .fin n _ _ => n

/-- minimum (isMax false) or maximum of two values that are not NaN; -0 lies below +0 (R97, R177). -/
def minmaxV (isMax : Bool) (a b : FV) : FV :=
  let lt : Bool := match cmpV a b with
    | .lt => true
    | .gt => false
    | .eq => a.sign && !b.sign
  if lt then (if isMax then b else a) else (if isMax then a else b)

/-- FMINIMUM 0, FMAXIMUM 1, FMINNUM 2, FMAXNUM 3 (R97, R177). -/
def minmaxOp (k : Nat) (a b : FV) : FV × Nat :=
  let fl := sigFlag a ||| sigFlag b
  let isMax := k % 2 == 1
  match a.isNan, b.isNan with
  | true, true => (.nan false, fl)
  | true, false => (if 2 ≤ k then b else .nan false, fl)
  | false, true => (if 2 ≤ k then a else .nan false, fl)
  | false, false => (minmaxV isMax a b, fl)

/-- FCMPEQ 0, FCMPLT 1, FCMPLE 2, FCMPUN 3 (R97): LT and LE signal invalid on any NaN. -/
def cmpOp (k : Nat) (a b : FV) : Bool × Nat :=
  let un := a.isNan || b.isNan
  let sig := sigFlag a ||| sigFlag b
  let fl := if un && (k == 1 || k == 2) then flNV else sig
  match k with
  | 0 => (!un && cmpV a b == .eq, fl)
  | 1 => (!un && cmpV a b == .lt, fl)
  | 2 => (!un && cmpV a b != .gt, fl)
  | _ => (un, fl)

/-- FCLASS (R98): [4:0] zero, subnormal, normal, infinity, NaN; 5 sign; 6 signalling. -/
def classF (f : FFmt) (x : Nat) : Nat :=
  let neg := x.testBit (f.eb + f.fb)
  let s := if neg then 32 else 0
  match decodeF f x with
  | .nan sig => 16 + s + (if sig then 64 else 0)
  | .inf _ => 8 + s
  | .fin _ m _ => (if m = 0 then 1 else if bitsOf x f.fb f.eb = 0 then 2 else 4) + s

/-- A value rounded to an integer of `w` bits, signed or not (R99, R181): the result and the flags. -/
def toIntV (w : Nat) (signed : Bool) (rm r : Nat) (v : FV) : Int × Nat :=
  let hi : Int := if signed then 2 ^ (w - 1) - 1 else 2 ^ w - 1
  let lo : Int := if signed then -(2 ^ (w - 1)) else 0
  match v with
  | .nan _ => (0, flNV)
  | .inf n => ((if n then lo else hi), flNV)
  | .fin n m e =>
    let (k, inex) := roundAt rm r n m e 0
    let x : Int := if n then -(k : Int) else (k : Int)
    if hi < x then (hi, flNV) else if x < lo then (lo, flNV)
    else (x, if inex then flNX else 0)

/-- An integer as a value. -/
def ofIntV (i : Int) : FV := .fin (decide (i < 0)) i.natAbs 0

/-- The format of a CODE of R164, for codes 0 to 7. -/
def fmtOfCode : Nat → Option FFmt
  | 0 => some fmt64
  | 1 => some fmt32
  | 2 => some fmt16
  | 3 => some fmtKV16
  | 4 => some fmtKV8W
  | 5 => some fmtKV8E
  | 6 => some fmtKV6
  | 7 => some fmtKV4
  | _ => none

/-- The width of an element of a CODE (R164, R170). -/
def codeWidth : Nat → Nat
  | 0 => 64 | 1 => 32 | 2 => 16 | 3 => 16 | 4 => 8 | 5 => 8 | 6 => 6 | 7 => 4 | 8 => 8 | 9 => 4 | _ => 32

/-- The value of an element of a CODE: float or two's complement (R167, R170). -/
def decodeCode (code x : Nat) : FV :=
  match fmtOfCode code with
  | some f => decodeF f x
  | none => ofIntV (sgn (codeWidth code) x)

/-- A value put into an element of a CODE (R180, R181). -/
def packCode (code rm r : Nat) (sat : Bool) (v : FV) : Nat × Nat :=
  match fmtOfCode code with
  | some f => packF f rm r sat v
  | none =>
    let (i, fl) := toIntV (codeWidth code) true rm r v
    (wrap (codeWidth code) i, fl ||| sigFlag v)

/-- A value times 2^k, exactly (R173). -/
def scaleV (k : Int) : FV → FV
  | .nan s => .nan s
  | .inf n => .inf n
  | .fin n m e => .fin n m (e + k)

/-- A well-formed format descriptor (R164). -/
def descOk (b : Nat) : Bool :=
  let code := b % 16
  let blk := b.testBit 4
  let b32 := b.testBit 5
  decide (code ≤ 0xA) && decide (b < 64) && (!blk || decide (4 ≤ code ∧ code ≤ 9)) && (blk || !b32)

/-- One step of the stochastic-rounding generator (R184). -/
def srStep (x : Word) : Word :=
  let x := x ^^^ (x <<< 13)
  let x := x ^^^ (x >>> 7)
  x ^^^ (x <<< 17)

/-- The 16-bit draw of a generator state (R184). -/
def srDraw (x : Word) : Nat := x.toNat >>> 48

/-- P of R183, by CODE. -/
def blockP (code : Nat) : Int :=
  match code with | 4 => 14 | 5 => 7 | 6 => 4 | 7 => 2 | 8 => 6 | _ => 2

/-- floor(log2) of a finite non-zero magnitude. -/
def log2V (m : Nat) (e : Int) : Int := e + (bitLen m : Int) - 1

/-- The largest finite magnitude of a CODE with a sign. -/
def maxOfCode (code : Nat) (neg : Bool) : Nat :=
  match fmtOfCode code with
  | some f => f.maxBits neg
  | none =>
    let w := codeWidth code
    if neg then 2 ^ (w - 1) else 2 ^ (w - 1) - 1

/-- A block converted with a computed scale (R183): the scale, the elements, the flags. `draws` holds one draw
for each element (R185). -/
def blockConvert (code rm : Nat) (sat : Bool) (draws : List Nat) (xs : List FV) : Nat × List Nat × Nat :=
  let anyNan := xs.any FV.isNan
  let sigs := xs.foldl (fun a x => a ||| sigFlag x) 0
  let anyInf := xs.any (fun x => match x with | .inf _ => true | _ => false)
  if anyNan then (255, xs.map (fun _ => 0), sigs)
  else if anyInf && code != 4 && !sat then (255, xs.map (fun _ => 0), flNV)
  else
    let lg : Option Int := xs.foldl (fun a x => match x with
      | .fin _ m e => if m = 0 then a else
          (match a with | none => some (log2V m e) | some b => some (max b (log2V m e)))
      | _ => a) none
    let s : Int := match lg with
      | none => 127
      | some l => min (max (l - blockP code + 127) 0) 254
    let step (p : FV × Nat) : Nat × Nat :=
      match p.1 with
      | .inf n => if code = 4 then (fmtKV8W.infBits n, 0) else (maxOfCode code n, flNV)
      | v =>
        let (b, fl) := packCode code rm p.2 true (scaleV (127 - s) v)
        if code = 4 ∧ fl &&& flOF ≠ 0 then (maxOfCode code v.sign, flOF ||| flNX)
        else if 8 ≤ code ∧ fl &&& flNV ≠ 0 then (maxOfCode code v.sign, flOF ||| flNX)
        else (b, fl)
    let rs := (xs.zip draws).map step
    (s.toNat, rs.map (·.1), rs.foldl (fun a p => a ||| p.2) 0)

end Sys2Proof.Machine
end

