-- ==== Sys2Proof/Config.lean ====
section
/-!
DEFINITION. What an implementation fixes and what the spec leaves open: fuses, straps, the choices of the
hardware that the spec calls not architectural, the values it leaves undefined, and the published
cryptographic functions it names. Every one is opaque: nothing can be proved of its value, so a claim
holds whatever it is. (The BPOS and SPI_ADDR4 straps, R494 and R495, act on the I3C address and the flash's command form alone,
which no command of the table shows.)
-/
namespace Sys2Proof.Config

/-- A value the spec leaves undefined or does not state, by the free-value counter of the state. -/
opaque freeWord : Nat → BitVec 64
/-- A vector register's worth of undefined bits, by the free-value counter. -/
opaque freeVec : Nat → BitVec 4096
/-- The hub entropy source (R186, R480): the value that CL_SRSTATE is loaded with, before zero is excluded. -/
opaque entropy : Nat → BitVec 64
/-- The choice of the hardware where the spec permits several orders, by the free-value counter. -/
opaque choice : Nat → Nat

/-- The Surveyor's model of R469 (not architectural): for a quarter and its share of power (numerator, denominator, in W), the number of
10 mV steps above 0.55 V that it sets, taken modulo 31. -/
opaque powerModel : Nat → Int → Nat → Nat
/-- The LOG code by which a third fault is reported to the host (spec/16 R361), which the spec does not state. -/
opaque thirdFaultLog : Nat
/-- The array number of a physical array (R453), which the spec does not give: by the model's own code of the array. -/
opaque arrayNo : Nat → Nat
/-- DK_UID0, from fuses. -/
opaque uid0 : BitVec 64
/-- DK_UID1, from fuses. -/
opaque uid1 : BitVec 64
/-- DK_SITEFUSE_w: bit b of word w set when the fuse map marks physical site 64 w + b defective (R38). -/
opaque siteFuse : Nat → BitVec 64
/-- CL_XSPARE of the cluster on a physical site, from fuses (spec/10 R234). -/
opaque xspare : Nat → BitVec 64
/-- HB_BOOTSTAT.KEYREV, from fuses (R484). -/
opaque keyRev : BitVec 4

/-- SHA-384 of a byte string (FIPS 180-4, named by the spec and not defined in it), the first byte in the low bits. -/
opaque sha384Value : List (BitVec 8) → BitVec 384
/-- SHA-384 of a byte string, as 48 bytes. -/
def sha384 (bs : List (BitVec 8)) : List (BitVec 8) := Machine.toBytes 48 (sha384Value bs).toNat
/-- HMAC-SHA-384 of a message with a key, the first byte in the low bits. -/
opaque hmacValue : List (BitVec 8) → List (BitVec 8) → BitVec 384
/-- HMAC-SHA-384 with a key, as 48 bytes. -/
def hmac384 (key bs : List (BitVec 8)) : List (BitVec 8) := Machine.toBytes 48 (hmacValue key bs).toNat
/-- RSA-PSS verification with a public key: key, message, signature. -/
opaque rsaPssOk : List (BitVec 8) → List (BitVec 8) → List (BitVec 8) → Bool
/-- SLH-DSA verification with a public key: key, message, signature. -/
opaque slhDsaOk : List (BitVec 8) → List (BitVec 8) → List (BitVec 8) → Bool
/-- The Kilvavin firmware and plat keys of a key revision (spec/22 R484, spec/02 R35). -/
opaque kilvavinKey : Nat → List (BitVec 8)
/-- A signature made with the device's identity key (R410), as a number. -/
opaque signature : List (BitVec 8) → Nat
/-- A signature made with the device's identity key, as the 16,608 bytes that a report gives it (R410). -/
def identitySign (bs : List (BitVec 8)) : List (BitVec 8) := Machine.toBytes 16608 (signature bs)
/-- The public identity keys that DK_IDPUB shows (key storage, spec/21). -/
opaque identityPublic : Nat → BitVec 64
/-- ND of an opening, drawn from the hub entropy source (spec/18 R405), by the session counter it belongs to: both twins of a pair hold
the face's. -/
opaque nonce : Nat → BitVec 256
/-- The attestation report of the twin (spec/18 R410, WHICH 1), whose way to this device the spec does not give, by the host's nonce. -/
opaque twinReportValue : List (BitVec 8) → Nat
/-- The twin's report as 16,864 bytes. -/
def twinReport (bs : List (BitVec 8)) : List (BitVec 8) := Machine.toBytes 16864 (twinReportValue bs)
/-- Power of a cluster measured over the last epoch (R447), by the free-value counter and the logical cluster. -/
opaque clusterPower : Nat → Nat → Nat

end Sys2Proof.Config
end

