-- ==== Sys2Proof/Machine/Regs.lean ====
section
/-!
DEFINITION. The register maps of the spec: every register's fields with their access codes and reset values
(the captions and tables of spec/01 to spec/22, codes as R6 gives them), where each register stands in the
management window (R23), and what a read or a write of a whole register does to its fields (R6, R7, R26).
-/
namespace Sys2Proof.Machine

/-- The access codes of R6. -/
inductive Acc where
  | rw | ro | wo | w1c | w1s
  deriving DecidableEq, Repr

/-- A field of a register map: its bits, its access code, its value after power-on reset (R9). -/
structure RField where
  f : Fld
  acc : Acc
  rst : Nat
  deriving DecidableEq, Repr

/-- A register map: the fields that are not reserved. -/
structure RegMap where
  name : String
  fs : List RField
  deriving DecidableEq, Repr

/-! ### The fields by name -/

/-- QT_RATE.RATE. -/
def QT_RATE.RATE : Fld := ⟨0, 16⟩
/-- QT_RATE.VCORE. -/
def QT_RATE.VCORE : Fld := ⟨16, 16⟩
/-- QT_RATE.TJ. -/
def QT_RATE.TJ : Fld := ⟨32, 8⟩
/-- QT_RATE.VALID. -/
def QT_RATE.VALID : Fld := ⟨63, 1⟩
/-- HB_CLKSTAT.REFOK. -/
def HB_CLKSTAT.REFOK : Fld := ⟨0, 1⟩
/-- HB_CLKSTAT.REFLOST. -/
def HB_CLKSTAT.REFLOST : Fld := ⟨1, 1⟩
/-- HB_CLKSTAT.MEMLOCK. -/
def HB_CLKSTAT.MEMLOCK : Fld := ⟨2, 1⟩
/-- HB_CLKSTAT.SERLOCK. -/
def HB_CLKSTAT.SERLOCK : Fld := ⟨3, 1⟩
/-- CL_TALLY.COUNT. -/
def CL_TALLY.COUNT : Fld := ⟨0, 64⟩
/-- CL_BEATS.COUNT. -/
def CL_BEATS.COUNT : Fld := ⟨0, 64⟩
/-- HB_MMERR.UNMAPPED. -/
def HB_MMERR.UNMAPPED : Fld := ⟨0, 1⟩
/-- HB_MMERR.DORMANT. -/
def HB_MMERR.DORMANT : Fld := ⟨1, 1⟩
/-- HB_MMERR.SIZE. -/
def HB_MMERR.SIZE : Fld := ⟨2, 1⟩
/-- HB_MMERR.ALIAS. -/
def HB_MMERR.ALIAS : Fld := ⟨3, 1⟩
/-- HB_MMERR.OVERRUN. -/
def HB_MMERR.OVERRUN : Fld := ⟨4, 1⟩
/-- HB_MMERR_ADDR.OFFSET. -/
def HB_MMERR_ADDR.OFFSET : Fld := ⟨0, 28⟩
/-- HB_MMERR_ADDR.SOURCE. -/
def HB_MMERR_ADDR.SOURCE : Fld := ⟨32, 16⟩
/-- HB_PLATCMD.OP. -/
def HB_PLATCMD.OP : Fld := ⟨0, 2⟩
/-- HB_PLATCMD.SLOT. -/
def HB_PLATCMD.SLOT : Fld := ⟨2, 1⟩
/-- HB_PLATLEN.LEN. -/
def HB_PLATLEN.LEN : Fld := ⟨0, 19⟩
/-- HB_PLATSTAT.LOCKED. -/
def HB_PLATSTAT.LOCKED : Fld := ⟨0, 1⟩
/-- HB_PLATSTAT.BUSY. -/
def HB_PLATSTAT.BUSY : Fld := ⟨1, 1⟩
/-- HB_PLATSTAT.PLATLESS. -/
def HB_PLATSTAT.PLATLESS : Fld := ⟨2, 1⟩
/-- HB_PLATSTAT.ACTIVE_SLOT. -/
def HB_PLATSTAT.ACTIVE_SLOT : Fld := ⟨3, 1⟩
/-- HB_PLATSTAT.CMDLOST. -/
def HB_PLATSTAT.CMDLOST : Fld := ⟨4, 1⟩
/-- HB_PLATSTAT.FALLBACK. -/
def HB_PLATSTAT.FALLBACK : Fld := ⟨5, 1⟩
/-- HB_PLATSTAT.SHORT. -/
def HB_PLATSTAT.SHORT : Fld := ⟨6, 1⟩
/-- HB_PLATSTAT.RESULT. -/
def HB_PLATSTAT.RESULT : Fld := ⟨8, 8⟩
/-- HB_PLATSTAT.DETAIL. -/
def HB_PLATSTAT.DETAIL : Fld := ⟨16, 16⟩
/-- HB_PLATSERIAL.SERIAL. -/
def HB_PLATSERIAL.SERIAL : Fld := ⟨0, 64⟩
/-- CL_LSTAT.ACT0. -/
def CL_LSTAT.ACT0 : Fld := ⟨0, 1⟩
/-- CL_LSTAT.ACT1. -/
def CL_LSTAT.ACT1 : Fld := ⟨1, 1⟩
/-- CL_FCSR.NX. -/
def CL_FCSR.NX : Fld := ⟨0, 1⟩
/-- CL_FCSR.UF. -/
def CL_FCSR.UF : Fld := ⟨1, 1⟩
/-- CL_FCSR.OF. -/
def CL_FCSR.OF : Fld := ⟨2, 1⟩
/-- CL_FCSR.DZ. -/
def CL_FCSR.DZ : Fld := ⟨3, 1⟩
/-- CL_FCSR.NV. -/
def CL_FCSR.NV : Fld := ⟨4, 1⟩
/-- CL_FCSR.RM. -/
def CL_FCSR.RM : Fld := ⟨8, 3⟩
/-- CL_FCSR.TNV. -/
def CL_FCSR.TNV : Fld := ⟨12, 1⟩
/-- CL_FCSR.TDZ. -/
def CL_FCSR.TDZ : Fld := ⟨13, 1⟩
/-- CL_GCTL.MODE. -/
def CL_GCTL.MODE : Fld := ⟨0, 1⟩
/-- CL_GCTL.BLOCK. -/
def CL_GCTL.BLOCK : Fld := ⟨1, 3⟩
/-- CL_GCTL.PACK_EN. -/
def CL_GCTL.PACK_EN : Fld := ⟨7, 1⟩
/-- CL_GCTL.ENDEN. -/
def CL_GCTL.ENDEN : Fld := ⟨8, 1⟩
/-- CL_GCTL.ENDEV. -/
def CL_GCTL.ENDEV : Fld := ⟨9, 5⟩
/-- CL_GCTL.XLANE. -/
def CL_GCTL.XLANE : Fld := ⟨16, 6⟩
/-- CL_GCTL.XNAMED. -/
def CL_GCTL.XNAMED : Fld := ⟨22, 1⟩
/-- CL_CSEQ.SEQ. -/
def CL_CSEQ.SEQ : Fld := ⟨0, 64⟩
/-- CL_CENTRY.ADDR. -/
def CL_CENTRY.ADDR : Fld := ⟨2, 62⟩
/-- CL_TPC.STATE. -/
def CL_TPC.STATE : Fld := ⟨0, 2⟩
/-- CL_TPC.ADDR. -/
def CL_TPC.ADDR : Fld := ⟨2, 62⟩
/-- CL_TBT.DS. -/
def CL_TBT.DS : Fld := ⟨0, 1⟩
/-- CL_TBT.ADDR. -/
def CL_TBT.ADDR : Fld := ⟨2, 62⟩
/-- CL_SRSTATE.STATE. -/
def CL_SRSTATE.STATE : Fld := ⟨0, 64⟩
/-- CL_VCFG.VL. -/
def CL_VCFG.VL : Fld := ⟨0, 10⟩
/-- CL_VCFG.SEW. -/
def CL_VCFG.SEW : Fld := ⟨10, 2⟩
/-- CL_VCFG.SPAN. -/
def CL_VCFG.SPAN : Fld := ⟨12, 2⟩
/-- CL_VCFG.FMT. -/
def CL_VCFG.FMT : Fld := ⟨14, 4⟩
/-- CL_VCFG.FXRM. -/
def CL_VCFG.FXRM : Fld := ⟨18, 2⟩
/-- CL_VCFG.SAT. -/
def CL_VCFG.SAT : Fld := ⟨20, 1⟩
/-- CL_VSE.ELEM. -/
def CL_VSE.ELEM : Fld := ⟨0, 10⟩
/-- CL_FLAGS.F. -/
def CL_FLAGS.F : Fld := ⟨0, 8⟩
/-- CL_FLAGS.VXSAT. -/
def CL_FLAGS.VXSAT : Fld := ⟨8, 1⟩
/-- CL_TSR.POS. -/
def CL_TSR.POS : Fld := ⟨0, 24⟩
/-- CL_TSTATE.INUSE. -/
def CL_TSTATE.INUSE : Fld := ⟨0, 1⟩
/-- CL_TSTATE.OWNER. -/
def CL_TSTATE.OWNER : Fld := ⟨1, 3⟩
/-- CL_TSTATE.TYPE. -/
def CL_TSTATE.TYPE : Fld := ⟨4, 3⟩
/-- CL_TSTATE.ROWSM1. -/
def CL_TSTATE.ROWSM1 : Fld := ⟨8, 6⟩
/-- CL_TSTATE.COLSM1. -/
def CL_TSTATE.COLSM1 : Fld := ⟨14, 4⟩
/-- CL_XSPARE.SR0. -/
def CL_XSPARE.SR0 : Fld := ⟨0, 6⟩
/-- CL_XSPARE.SR0EN. -/
def CL_XSPARE.SR0EN : Fld := ⟨6, 1⟩
/-- CL_XSPARE.SR1. -/
def CL_XSPARE.SR1 : Fld := ⟨8, 6⟩
/-- CL_XSPARE.SR1EN. -/
def CL_XSPARE.SR1EN : Fld := ⟨14, 1⟩
/-- CL_XSPARE.SC. -/
def CL_XSPARE.SC : Fld := ⟨16, 4⟩
/-- CL_XSPARE.SCEN. -/
def CL_XSPARE.SCEN : Fld := ⟨20, 1⟩
/-- CL_MERE.WAYS. -/
def CL_MERE.WAYS : Fld := ⟨0, 5⟩
/-- CL_MERE.BUSY. -/
def CL_MERE.BUSY : Fld := ⟨5, 1⟩
/-- CL_MEREBASE.EN. -/
def CL_MEREBASE.EN : Fld := ⟨0, 1⟩
/-- CL_MEREBASE.BASE. -/
def CL_MEREBASE.BASE : Fld := ⟨20, 44⟩
/-- CL_CPSTAT.OUT. -/
def CL_CPSTAT.OUT : Fld := ⟨0, 6⟩
/-- CL_CPSTAT.PARKED. -/
def CL_CPSTAT.PARKED : Fld := ⟨8, 6⟩
/-- CL_CPERR.VALID. -/
def CL_CPERR.VALID : Fld := ⟨0, 1⟩
/-- CL_CPERR.OVERRUN. -/
def CL_CPERR.OVERRUN : Fld := ⟨1, 1⟩
/-- CL_CPERR.CTR. -/
def CL_CPERR.CTR : Fld := ⟨2, 4⟩
/-- CL_CPERR.CAUSE. -/
def CL_CPERR.CAUSE : Fld := ⟨8, 4⟩
/-- CL_CPADDR.ADDR. -/
def CL_CPADDR.ADDR : Fld := ⟨0, 64⟩
/-- CL_ARR.COUNT. -/
def CL_ARR.COUNT : Fld := ⟨0, 64⟩
/-- CL_ICCTL.EN. -/
def CL_ICCTL.EN : Fld := ⟨0, 1⟩
/-- CL_ICCTL.INVALL. -/
def CL_ICCTL.INVALL : Fld := ⟨1, 1⟩
/-- CL_ICCTL.BUSY. -/
def CL_ICCTL.BUSY : Fld := ⟨2, 1⟩
/-- CL_PFCTL.EN. -/
def CL_PFCTL.EN : Fld := ⟨0, 1⟩
/-- CL_PFCTL.LINES. -/
def CL_PFCTL.LINES : Fld := ⟨8, 6⟩
/-- CL_CMOSTAT.SKIP. -/
def CL_CMOSTAT.SKIP : Fld := ⟨0, 1⟩
/-- QT_QWAY.ON. -/
def QT_QWAY.ON : Fld := ⟨0, 16⟩
/-- QT_QWAY.DRAIN. -/
def QT_QWAY.DRAIN : Fld := ⟨16, 16⟩
/-- CL_XLAT.EN. -/
def CL_XLAT.EN : Fld := ⟨0, 1⟩
/-- CL_XLAT.ASID. -/
def CL_XLAT.ASID : Fld := ⟨4, 4⟩
/-- TR_WFD1.PRESENT. -/
def TR_WFD1.PRESENT : Fld := ⟨0, 8⟩
/-- TR_WFD1.WRITABLE. -/
def TR_WFD1.WRITABLE : Fld := ⟨8, 8⟩
/-- TR_WFD1.USER. -/
def TR_WFD1.USER : Fld := ⟨16, 8⟩
/-- TR_WFD1.ACCESSED. -/
def TR_WFD1.ACCESSED : Fld := ⟨24, 8⟩
/-- TR_WFD1.DIRTY. -/
def TR_WFD1.DIRTY : Fld := ⟨32, 8⟩
/-- TR_WFD1.NOEXEC. -/
def TR_WFD1.NOEXEC : Fld := ⟨40, 8⟩
/-- TR_WFD1.LEAF. -/
def TR_WFD1.LEAF : Fld := ⟨48, 8⟩
/-- TR_WFD1.LARGE. -/
def TR_WFD1.LARGE : Fld := ⟨56, 8⟩
/-- TR_INVSTAT.BUSY. -/
def TR_INVSTAT.BUSY : Fld := ⟨0, 1⟩
/-- TR_INVSTAT.CMDLOST. -/
def TR_INVSTAT.CMDLOST : Fld := ⟨1, 1⟩
/-- TR_INVSTAT.DONE. -/
def TR_INVSTAT.DONE : Fld := ⟨32, 32⟩
/-- TR_WALKSTAT.WALKS. -/
def TR_WALKSTAT.WALKS : Fld := ⟨0, 32⟩
/-- TR_WALKSTAT.QFULL. -/
def TR_WALKSTAT.QFULL : Fld := ⟨32, 16⟩
/-- TR_WALKSTAT.BUSY. -/
def TR_WALKSTAT.BUSY : Fld := ⟨48, 5⟩
/-- MS_LEN.LEN. -/
def MS_LEN.LEN : Fld := ⟨0, 37⟩
/-- MS_CHAN.INSVC. -/
def MS_CHAN.INSVC : Fld := ⟨0, 16⟩
/-- MS_CHAN.TRAINFAIL. -/
def MS_CHAN.TRAINFAIL : Fld := ⟨16, 16⟩
/-- MS_CTL.CHAN. -/
def MS_CTL.CHAN : Fld := ⟨0, 4⟩
/-- MS_CTL.MAPOUT. -/
def MS_CTL.MAPOUT : Fld := ⟨4, 1⟩
/-- MS_CTL.SCRUB. -/
def MS_CTL.SCRUB : Fld := ⟨5, 1⟩
/-- MS_STAT.RESTRIPE. -/
def MS_STAT.RESTRIPE : Fld := ⟨0, 1⟩
/-- MS_STAT.PENDING. -/
def MS_STAT.PENDING : Fld := ⟨1, 4⟩
/-- MS_STAT.SR. -/
def MS_STAT.SR : Fld := ⟨5, 1⟩
/-- MS_STAT.RATE. -/
def MS_STAT.RATE : Fld := ⟨6, 2⟩
/-- MS_STAT.TEMP. -/
def MS_STAT.TEMP : Fld := ⟨8, 8⟩
/-- MS_ECCLOG.VALID. -/
def MS_ECCLOG.VALID : Fld := ⟨0, 1⟩
/-- MS_ECCLOG.OVERRUN. -/
def MS_ECCLOG.OVERRUN : Fld := ⟨1, 1⟩
/-- MS_ECCLOG.KIND. -/
def MS_ECCLOG.KIND : Fld := ⟨4, 3⟩
/-- MS_ECCLOG.CHAN. -/
def MS_ECCLOG.CHAN : Fld := ⟨8, 4⟩
/-- MS_ECCLOG.SUB. -/
def MS_ECCLOG.SUB : Fld := ⟨12, 3⟩
/-- MS_ECCADDR.ADDR. -/
def MS_ECCADDR.ADDR : Fld := ⟨0, 64⟩
/-- MS_CHERR.CE. -/
def MS_CHERR.CE : Fld := ⟨0, 32⟩
/-- MS_CHERR.UE. -/
def MS_CHERR.UE : Fld := ⟨32, 16⟩
/-- DT_DELEG.FAULTS. -/
def DT_DELEG.FAULTS : Fld := ⟨1, 18⟩
/-- DT_DELEG.INTS. -/
def DT_DELEG.INTS : Fld := ⟨32, 6⟩
/-- DT_TRAPEN.IDZ. -/
def DT_TRAPEN.IDZ : Fld := ⟨0, 1⟩
/-- DT_TRAPEN.IOV. -/
def DT_TRAPEN.IOV : Fld := ⟨1, 1⟩
/-- DT_IFR.DVCOUNT. -/
def DT_IFR.DVCOUNT : Fld := ⟨0, 4⟩
/-- DT_IFR.DXCOUNT. -/
def DT_IFR.DXCOUNT : Fld := ⟨4, 3⟩
/-- DT_IFR.SVCOUNT. -/
def DT_IFR.SVCOUNT : Fld := ⟨8, 4⟩
/-- DT_IFR.SXCOUNT. -/
def DT_IFR.SXCOUNT : Fld := ⟨12, 3⟩
/-- SL_PSTAT.STATE. -/
def SL_PSTAT.STATE : Fld := ⟨0, 3⟩
/-- SL_PSTAT.ROLE. -/
def SL_PSTAT.ROLE : Fld := ⟨3, 3⟩
/-- SL_PSTAT.STUCK. -/
def SL_PSTAT.STUCK : Fld := ⟨6, 1⟩
/-- SL_PSTAT.FARID. -/
def SL_PSTAT.FARID : Fld := ⟨8, 14⟩
/-- SL_PSTAT.FARPORT. -/
def SL_PSTAT.FARPORT : Fld := ⟨22, 4⟩
/-- SL_PCTL.DATELINE. -/
def SL_PCTL.DATELINE : Fld := ⟨0, 1⟩
/-- SL_PCTL.RESET. -/
def SL_PCTL.RESET : Fld := ⟨1, 1⟩
/-- SL_RSPTMO.UNITS. -/
def SL_RSPTMO.UNITS : Fld := ⟨0, 16⟩
/-- SL_DEVSTAT.LATE. -/
def SL_DEVSTAT.LATE : Fld := ⟨0, 16⟩
/-- SL_DEVSTAT.HOPDROP. -/
def SL_DEVSTAT.HOPDROP : Fld := ⟨16, 16⟩
/-- SL_DEVSTAT.BADMSG. -/
def SL_DEVSTAT.BADMSG : Fld := ⟨32, 16⟩
/-- DK_LASER.LIT. -/
def DK_LASER.LIT : Fld := ⟨0, 1⟩
/-- DK_LASER.OPEN. -/
def DK_LASER.OPEN : Fld := ⟨1, 1⟩
/-- DK_LASER.FAULT. -/
def DK_LASER.FAULT : Fld := ⟨2, 1⟩
/-- DK_LASER.NOCONN. -/
def DK_LASER.NOCONN : Fld := ⟨3, 1⟩
/-- DK_LASER.TXPWR0. -/
def DK_LASER.TXPWR0 : Fld := ⟨8, 8⟩
/-- DK_LASER.TXPWR1. -/
def DK_LASER.TXPWR1 : Fld := ⟨16, 8⟩
/-- DK_LASER.RXPWR0. -/
def DK_LASER.RXPWR0 : Fld := ⟨24, 8⟩
/-- DK_LASER.RXPWR1. -/
def DK_LASER.RXPWR1 : Fld := ⟨32, 8⟩
/-- HB_SESSTAT.OPEN. -/
def HB_SESSTAT.OPEN : Fld := ⟨0, 1⟩
/-- HB_SESSTAT.OPENING. -/
def HB_SESSTAT.OPENING : Fld := ⟨1, 1⟩
/-- HB_SESSTAT.KEYSEL. -/
def HB_SESSTAT.KEYSEL : Fld := ⟨2, 1⟩
/-- HB_SESSTAT.FAILS. -/
def HB_SESSTAT.FAILS : Fld := ⟨8, 8⟩
/-- HB_SESSTAT.LANDID. -/
def HB_SESSTAT.LANDID : Fld := ⟨16, 14⟩
/-- HB_SESSTAT.DROPPED. -/
def HB_SESSTAT.DROPPED : Fld := ⟨32, 16⟩
/-- HB_SESSTAT.SC. -/
def HB_SESSTAT.SC : Fld := ⟨48, 16⟩
/-- HB_SESSCTL.CLOSE. -/
def HB_SESSCTL.CLOSE : Fld := ⟨0, 1⟩
/-- RING_CTL.EN. -/
def RING_CTL.EN : Fld := ⟨0, 1⟩
/-- RING_CTL.SQLOC. -/
def RING_CTL.SQLOC : Fld := ⟨1, 1⟩
/-- RING_CTL.CQLOC. -/
def RING_CTL.CQLOC : Fld := ⟨2, 1⟩
/-- RING_CTL.NOTIFY. -/
def RING_CTL.NOTIFY : Fld := ⟨3, 1⟩
/-- RING_CTL.ERR. -/
def RING_CTL.ERR : Fld := ⟨4, 1⟩
/-- RING_CTL.SQSZ. -/
def RING_CTL.SQSZ : Fld := ⟨8, 5⟩
/-- RING_CTL.CQSZ. -/
def RING_CTL.CQSZ : Fld := ⟨16, 5⟩
/-- RING_PTR.SQHEAD. -/
def RING_PTR.SQHEAD : Fld := ⟨0, 16⟩
/-- RING_PTR.SQTAIL. -/
def RING_PTR.SQTAIL : Fld := ⟨16, 16⟩
/-- RING_PTR.CQHEAD. -/
def RING_PTR.CQHEAD : Fld := ⟨32, 16⟩
/-- RING_PTR.CQTAIL. -/
def RING_PTR.CQTAIL : Fld := ⟨48, 16⟩
/-- RD_CFG.ARM. -/
def RD_CFG.ARM : Fld := ⟨0, 1⟩
/-- RD_CFG.CFMT. -/
def RD_CFG.CFMT : Fld := ⟨1, 1⟩
/-- RD_CFG.ROLE. -/
def RD_CFG.ROLE : Fld := ⟨2, 1⟩
/-- RD_CFG.P. -/
def RD_CFG.P : Fld := ⟨16, 15⟩
/-- RD_CFG.MYSLOT. -/
def RD_CFG.MYSLOT : Fld := ⟨32, 14⟩
/-- RD_LEN.BYTES. -/
def RD_LEN.BYTES : Fld := ⟨0, 40⟩
/-- RD_DEADLINE.BUCKET. -/
def RD_DEADLINE.BUCKET : Fld := ⟨0, 32⟩
/-- RD_DEADLINE.RESULT. -/
def RD_DEADLINE.RESULT : Fld := ⟨32, 32⟩
/-- RD_PROG.FILLED. -/
def RD_PROG.FILLED : Fld := ⟨0, 40⟩
/-- RD_PROG.DONEB. -/
def RD_PROG.DONEB : Fld := ⟨40, 16⟩
/-- RD_STAT.BUSY. -/
def RD_STAT.BUSY : Fld := ⟨0, 1⟩
/-- RD_STAT.DONE. -/
def RD_STAT.DONE : Fld := ⟨1, 1⟩
/-- RD_STAT.CMDLOST. -/
def RD_STAT.CMDLOST : Fld := ⟨2, 1⟩
/-- RD_STAT.STATUS. -/
def RD_STAT.STATUS : Fld := ⟨8, 8⟩
/-- RD_STAT.NV. -/
def RD_STAT.NV : Fld := ⟨16, 1⟩
/-- RD_STAT.OF. -/
def RD_STAT.OF : Fld := ⟨17, 1⟩
/-- RD_STAT.NX. -/
def RD_STAT.NX : Fld := ⟨18, 1⟩
/-- RD_BUF.BUCKET. -/
def RD_BUF.BUCKET : Fld := ⟨0, 7⟩
/-- RD_BUF.SLOTS. -/
def RD_BUF.SLOTS : Fld := ⟨8, 7⟩
/-- RD_BUF.INUSE. -/
def RD_BUF.INUSE : Fld := ⟨16, 7⟩
/-- RD_BUF.STORE. -/
def RD_BUF.STORE : Fld := ⟨24, 12⟩
/-- RD_CNT.STALE. -/
def RD_CNT.STALE : Fld := ⟨0, 16⟩
/-- RD_CNT.DUPS. -/
def RD_CNT.DUPS : Fld := ⟨16, 16⟩
/-- RD_CNT.PULLS. -/
def RD_CNT.PULLS : Fld := ⟨32, 16⟩
/-- RD_CNT.REPEATS. -/
def RD_CNT.REPEATS : Fld := ⟨48, 16⟩
/-- SU_LVSTAT.STATE. -/
def SU_LVSTAT.STATE : Fld := ⟨0, 3⟩
/-- SU_LVSTAT.FACE. -/
def SU_LVSTAT.FACE : Fld := ⟨3, 1⟩
/-- SU_LVSTAT.REJOIN. -/
def SU_LVSTAT.REJOIN : Fld := ⟨4, 1⟩
/-- SU_LVSTAT.REJFAIL. -/
def SU_LVSTAT.REJFAIL : Fld := ⟨5, 1⟩
/-- SU_LVSTAT.FAILOVERS. -/
def SU_LVSTAT.FAILOVERS : Fld := ⟨16, 16⟩
/-- SU_LVSTAT.MISM. -/
def SU_LVSTAT.MISM : Fld := ⟨32, 16⟩
/-- SU_LVSTAT.TWINID. -/
def SU_LVSTAT.TWINID : Fld := ⟨48, 14⟩
/-- SU_LVCTL.REJOIN. -/
def SU_LVCTL.REJOIN : Fld := ⟨0, 1⟩
/-- SU_LVDIGCTL.GO. -/
def SU_LVDIGCTL.GO : Fld := ⟨0, 1⟩
/-- SU_LVDIGCTL.TAG. -/
def SU_LVDIGCTL.TAG : Fld := ⟨32, 32⟩
/-- SU_LVDIGSTAT.BUSY. -/
def SU_LVDIGSTAT.BUSY : Fld := ⟨0, 1⟩
/-- SU_LVDIGSTAT.CMDLOST. -/
def SU_LVDIGSTAT.CMDLOST : Fld := ⟨1, 1⟩
/-- SU_LVDIGSTAT.RESULT. -/
def SU_LVDIGSTAT.RESULT : Fld := ⟨2, 3⟩
/-- SU_ALLOTSTAT.MOVES. -/
def SU_ALLOTSTAT.MOVES : Fld := ⟨0, 32⟩
/-- SU_ALLOTSTAT.REPL. -/
def SU_ALLOTSTAT.REPL : Fld := ⟨32, 16⟩
/-- SU_ALLOTSTAT.EPOCH. -/
def SU_ALLOTSTAT.EPOCH : Fld := ⟨48, 16⟩
/-- DK_STAT.LEDGEROK. -/
def DK_STAT.LEDGEROK : Fld := ⟨0, 1⟩
/-- DK_STAT.REBUILT. -/
def DK_STAT.REBUILT : Fld := ⟨1, 1⟩
/-- DK_STAT.LEDGERFAIL. -/
def DK_STAT.LEDGERFAIL : Fld := ⟨2, 1⟩
/-- DK_STAT.RFULL. -/
def DK_STAT.RFULL : Fld := ⟨3, 1⟩
/-- DK_STAT.OWNED. -/
def DK_STAT.OWNED : Fld := ⟨4, 1⟩
/-- DK_STAT.PASSSET. -/
def DK_STAT.PASSSET : Fld := ⟨5, 1⟩
/-- DK_STAT.PLATKEYS. -/
def DK_STAT.PLATKEYS : Fld := ⟨6, 4⟩
/-- HB_LCMD.OP. -/
def HB_LCMD.OP : Fld := ⟨0, 8⟩
/-- HB_LCMD.ARG0. -/
def HB_LCMD.ARG0 : Fld := ⟨8, 8⟩
/-- HB_LCMD.ARG1. -/
def HB_LCMD.ARG1 : Fld := ⟨16, 16⟩
/-- HB_LCMD.LEN. -/
def HB_LCMD.LEN : Fld := ⟨32, 11⟩
/-- HB_LSTAT.BUSY. -/
def HB_LSTAT.BUSY : Fld := ⟨0, 1⟩
/-- HB_LSTAT.CMDLOST. -/
def HB_LSTAT.CMDLOST : Fld := ⟨1, 1⟩
/-- HB_LSTAT.RESULT. -/
def HB_LSTAT.RESULT : Fld := ⟨8, 8⟩
/-- CL_MCINFO.KIND. -/
def CL_MCINFO.KIND : Fld := ⟨0, 4⟩
/-- CL_MCINFO.UNIT. -/
def CL_MCINFO.UNIT : Fld := ⟨4, 4⟩
/-- CL_MCINFO.TILE. -/
def CL_MCINFO.TILE : Fld := ⟨8, 3⟩
/-- QT_VSET.SET. -/
def QT_VSET.SET : Fld := ⟨0, 16⟩
/-- QT_VSET.CEIL. -/
def QT_VSET.CEIL : Fld := ⟨16, 16⟩
/-- QT_VSET.TARGET. -/
def QT_VSET.TARGET : Fld := ⟨32, 16⟩
/-- HB_PWRSTAT.PKG. -/
def HB_PWRSTAT.PKG : Fld := ⟨0, 16⟩
/-- HB_PWRSTAT.UNCORE. -/
def HB_PWRSTAT.UNCORE : Fld := ⟨16, 16⟩
/-- HB_PWRSTAT.THROT. -/
def HB_PWRSTAT.THROT : Fld := ⟨32, 3⟩
/-- HB_PWRSTAT.CAPPED. -/
def HB_PWRSTAT.CAPPED : Fld := ⟨35, 1⟩
/-- HB_PWRSTAT.HOT. -/
def HB_PWRSTAT.HOT : Fld := ⟨36, 1⟩
/-- HB_PWRSTAT.RESULT. -/
def HB_PWRSTAT.RESULT : Fld := ⟨40, 8⟩
/-- HB_PWRSTAT.BUSY. -/
def HB_PWRSTAT.BUSY : Fld := ⟨48, 1⟩
/-- HB_PWRSTAT.CMDLOST. -/
def HB_PWRSTAT.CMDLOST : Fld := ⟨49, 1⟩
/-- HB_PWRCMD.OP. -/
def HB_PWRCMD.OP : Fld := ⟨0, 3⟩
/-- HB_PWRCMD.GROUP. -/
def HB_PWRCMD.GROUP : Fld := ⟨8, 6⟩
/-- HB_RSTCMD.OP. -/
def HB_RSTCMD.OP : Fld := ⟨0, 3⟩
/-- HB_RSTCMD.QUARTER. -/
def HB_RSTCMD.QUARTER : Fld := ⟨4, 2⟩
/-- HB_RSTCMD.CLUSTER. -/
def HB_RSTCMD.CLUSTER : Fld := ⟨16, 10⟩
/-- HB_RSTSTAT.CAUSE. -/
def HB_RSTSTAT.CAUSE : Fld := ⟨0, 4⟩
/-- HB_RSTSTAT.QRST. -/
def HB_RSTSTAT.QRST : Fld := ⟨16, 16⟩
/-- HB_RSTSTAT.DEVRST. -/
def HB_RSTSTAT.DEVRST : Fld := ⟨32, 32⟩
/-- HB_BOOTSTAT.STAGE. -/
def HB_BOOTSTAT.STAGE : Fld := ⟨0, 4⟩
/-- HB_BOOTSTAT.BANK. -/
def HB_BOOTSTAT.BANK : Fld := ⟨4, 1⟩
/-- HB_BOOTSTAT.ERRA. -/
def HB_BOOTSTAT.ERRA : Fld := ⟨8, 8⟩
/-- HB_BOOTSTAT.ERRB. -/
def HB_BOOTSTAT.ERRB : Fld := ⟨16, 8⟩
/-- HB_BOOTSTAT.KEYREV. -/
def HB_BOOTSTAT.KEYREV : Fld := ⟨24, 4⟩
/-- HB_BOOTSTAT.VERSION. -/
def HB_BOOTSTAT.VERSION : Fld := ⟨32, 32⟩
/-- HB_FWCMD.OP. -/
def HB_FWCMD.OP : Fld := ⟨0, 2⟩
/-- HB_FWCMD.BANK. -/
def HB_FWCMD.BANK : Fld := ⟨2, 1⟩
/-- HB_FWCMD.FLOOR. -/
def HB_FWCMD.FLOOR : Fld := ⟨3, 1⟩
/-- HB_FWCMD.OFFSET. -/
def HB_FWCMD.OFFSET : Fld := ⟨32, 21⟩
/-- HB_FWSTAT.BUSY. -/
def HB_FWSTAT.BUSY : Fld := ⟨0, 1⟩
/-- HB_FWSTAT.CMDLOST. -/
def HB_FWSTAT.CMDLOST : Fld := ⟨1, 1⟩
/-- HB_FWSTAT.RESULT. -/
def HB_FWSTAT.RESULT : Fld := ⟨8, 8⟩
/-- CL_LADDR.ADDR. -/
def CL_LADDR.ADDR : Fld := ⟨2, 62⟩
/-- CL_LCOUNT.COUNT. -/
def CL_LCOUNT.COUNT : Fld := ⟨0, 64⟩
/-- CL_EVENT.BITS. -/
def CL_EVENT.BITS : Fld := ⟨0, 32⟩
/-- CL_CTXRUN.RUN. -/
def CL_CTXRUN.RUN : Fld := ⟨0, 8⟩
/-- CL_LANES.LANES. -/
def CL_LANES.LANES : Fld := ⟨0, 64⟩
/-- TR_WFD0.LEVELS. -/
def TR_WFD0.LEVELS : Fld := ⟨0, 3⟩
/-- TR_WFD0.ENTRY8. -/
def TR_WFD0.ENTRY8 : Fld := ⟨3, 1⟩
/-- TR_WFD0.CANON. -/
def TR_WFD0.CANON : Fld := ⟨4, 1⟩
/-- TR_WFD0.ADMODE. -/
def TR_WFD0.ADMODE : Fld := ⟨5, 1⟩
/-- TR_WFD0.IDX. -/
def TR_WFD0.IDX : Fld := ⟨8, 20⟩
/-- TR_WFD0.PA_LO. -/
def TR_WFD0.PA_LO : Fld := ⟨32, 6⟩
/-- TR_WFD0.PA_W. -/
def TR_WFD0.PA_W : Fld := ⟨38, 6⟩
/-- TR_WFD0.PA_SH. -/
def TR_WFD0.PA_SH : Fld := ⟨44, 6⟩
/-- TR_WFD2.PAOFF. -/
def TR_WFD2.PAOFF : Fld := ⟨0, 64⟩
/-- TR_ASROOT.VALID. -/
def TR_ASROOT.VALID : Fld := ⟨0, 1⟩
/-- TR_ASROOT.ROOT. -/
def TR_ASROOT.ROOT : Fld := ⟨12, 52⟩
/-- TR_INV.OP. -/
def TR_INV.OP : Fld := ⟨0, 2⟩
/-- TR_INV.ASID. -/
def TR_INV.ASID : Fld := ⟨4, 4⟩
/-- TR_INVADDR.ADDR. -/
def TR_INVADDR.ADDR : Fld := ⟨0, 64⟩
/-- TR_INVLEN.LEN. -/
def TR_INVLEN.LEN : Fld := ⟨0, 64⟩
/-- TR_RESUME.TAG. -/
def TR_RESUME.TAG : Fld := ⟨0, 12⟩
/-- TR_RESUME.ACTION. -/
def TR_RESUME.ACTION : Fld := ⟨12, 2⟩
/-- TR_FAULTSTAT.OPEN. -/
def TR_FAULTSTAT.OPEN : Fld := ⟨0, 13⟩
/-- TR_FAULTSTAT.STALE. -/
def TR_FAULTSTAT.STALE : Fld := ⟨32, 32⟩
/-- TR_WIN_W.VALUE. -/
def TR_WIN_W.VALUE : Fld := ⟨0, 64⟩
/-- TR_WIN_T.TTYPE. -/
def TR_WIN_T.TTYPE : Fld := ⟨0, 8⟩
/-- TR_WIN_T.ATTR. -/
def TR_WIN_T.ATTR : Fld := ⟨8, 8⟩
/-- TR_WIN_T.TID. -/
def TR_WIN_T.TID : Fld := ⟨16, 16⟩
/-- TR_WIN_T.GRAN. -/
def TR_WIN_T.GRAN : Fld := ⟨32, 8⟩
/-- SU_TRACTCMD.WORD. -/
def SU_TRACTCMD.WORD : Fld := ⟨0, 64⟩
/-- SU_TRACTCTL.GO. -/
def SU_TRACTCTL.GO : Fld := ⟨0, 1⟩
/-- SU_TRACTCTL.BUSY. -/
def SU_TRACTCTL.BUSY : Fld := ⟨1, 1⟩
/-- SU_TRACTCTL.CMDLOST. -/
def SU_TRACTCTL.CMDLOST : Fld := ⟨2, 1⟩
/-- SU_TRACTCTL.STATUS. -/
def SU_TRACTCTL.STATUS : Fld := ⟨8, 8⟩
/-- SU_TRACTCTL.DONE. -/
def SU_TRACTCTL.DONE : Fld := ⟨32, 32⟩
/-- MS_COUNT.COUNT. -/
def MS_COUNT.COUNT : Fld := ⟨0, 64⟩
/-- DT_STATUS.ENTRY. -/
def DT_STATUS.ENTRY : Fld := ⟨0, 1⟩
/-- DT_STATUS.DOUBLE. -/
def DT_STATUS.DOUBLE : Fld := ⟨1, 1⟩
/-- DT_STATUS.IE. -/
def DT_STATUS.IE : Fld := ⟨2, 1⟩
/-- DT_STATUS.IFLOST. -/
def DT_STATUS.IFLOST : Fld := ⟨3, 1⟩
/-- DT_STATUS.PLEV. -/
def DT_STATUS.PLEV : Fld := ⟨4, 2⟩
/-- SV_STATUS.ENTRY. -/
def SV_STATUS.ENTRY : Fld := ⟨0, 1⟩
/-- SV_STATUS.IE. -/
def SV_STATUS.IE : Fld := ⟨2, 1⟩
/-- SV_STATUS.IFLOST. -/
def SV_STATUS.IFLOST : Fld := ⟨3, 1⟩
/-- DT_SAVE.CAUSE. -/
def DT_SAVE.CAUSE : Fld := ⟨0, 8⟩
/-- DT_SAVE.PLEV. -/
def DT_SAVE.PLEV : Fld := ⟨8, 2⟩
/-- DT_SAVE.GM. -/
def DT_SAVE.GM : Fld := ⟨10, 1⟩
/-- DT_SAVE.DS. -/
def DT_SAVE.DS : Fld := ⟨11, 1⟩
/-- DT_SAVE.LACT. -/
def DT_SAVE.LACT : Fld := ⟨12, 2⟩
/-- DT_DSAVE.CAUSE. -/
def DT_DSAVE.CAUSE : Fld := ⟨0, 8⟩
/-- DT_DSAVE.PLEV. -/
def DT_DSAVE.PLEV : Fld := ⟨8, 2⟩
/-- DT_DSAVE.GM. -/
def DT_DSAVE.GM : Fld := ⟨10, 1⟩
/-- DT_DSAVE.DS. -/
def DT_DSAVE.DS : Fld := ⟨11, 1⟩
/-- DT_DSAVE.LACT. -/
def DT_DSAVE.LACT : Fld := ⟨12, 2⟩
/-- DT_DSAVE.LOST. -/
def DT_DSAVE.LOST : Fld := ⟨14, 1⟩
/-- DT_ADDR.ADDR. -/
def DT_ADDR.ADDR : Fld := ⟨2, 62⟩
/-- DT_TVAL.VALUE. -/
def DT_TVAL.VALUE : Fld := ⟨0, 64⟩
/-- DT_VEC.ADDR. -/
def DT_VEC.ADDR : Fld := ⟨8, 56⟩
/-- DT_IPEND.SURV. -/
def DT_IPEND.SURV : Fld := ⟨0, 1⟩
/-- DT_IPEND.DOOR. -/
def DT_IPEND.DOOR : Fld := ⟨1, 1⟩
/-- DT_IPEND.PEER. -/
def DT_IPEND.PEER : Fld := ⟨2, 1⟩
/-- DT_IPEND.EVT. -/
def DT_IPEND.EVT : Fld := ⟨3, 1⟩
/-- DT_IPEND.TALLY. -/
def DT_IPEND.TALLY : Fld := ⟨4, 1⟩
/-- DT_IPEND.SOFT. -/
def DT_IPEND.SOFT : Fld := ⟨5, 1⟩
/-- DT_IEN.SURV. -/
def DT_IEN.SURV : Fld := ⟨0, 1⟩
/-- DT_IEN.DOOR. -/
def DT_IEN.DOOR : Fld := ⟨1, 1⟩
/-- DT_IEN.PEER. -/
def DT_IEN.PEER : Fld := ⟨2, 1⟩
/-- DT_IEN.EVT. -/
def DT_IEN.EVT : Fld := ⟨3, 1⟩
/-- DT_IEN.TALLY. -/
def DT_IEN.TALLY : Fld := ⟨4, 1⟩
/-- DT_IEN.SOFT. -/
def DT_IEN.SOFT : Fld := ⟨5, 1⟩
/-- DT_ISET.SURV. -/
def DT_ISET.SURV : Fld := ⟨0, 1⟩
/-- DT_ISET.DOOR. -/
def DT_ISET.DOOR : Fld := ⟨1, 1⟩
/-- DT_ISET.PEER. -/
def DT_ISET.PEER : Fld := ⟨2, 1⟩
/-- DT_ISET.EVT. -/
def DT_ISET.EVT : Fld := ⟨3, 1⟩
/-- DT_ISET.TALLY. -/
def DT_ISET.TALLY : Fld := ⟨4, 1⟩
/-- DT_ISET.SOFT. -/
def DT_ISET.SOFT : Fld := ⟨5, 1⟩
/-- DT_IEVMASK.MASK. -/
def DT_IEVMASK.MASK : Fld := ⟨0, 32⟩
/-- DT_TCMP.VALUE. -/
def DT_TCMP.VALUE : Fld := ⟨0, 63⟩
/-- DT_TCMP.EN. -/
def DT_TCMP.EN : Fld := ⟨63, 1⟩
/-- SL_COUNT.COUNT. -/
def SL_COUNT.COUNT : Fld := ⟨0, 64⟩
/-- SL_CREDIT.CLS0. -/
def SL_CREDIT.CLS0 : Fld := ⟨0, 16⟩
/-- SL_CREDIT.CLS1. -/
def SL_CREDIT.CLS1 : Fld := ⟨16, 16⟩
/-- SL_ERRCAP.VALID. -/
def SL_ERRCAP.VALID : Fld := ⟨0, 1⟩
/-- SL_ERRCAP.OVERRUN. -/
def SL_ERRCAP.OVERRUN : Fld := ⟨1, 1⟩
/-- SL_ERRCAP.STATUS. -/
def SL_ERRCAP.STATUS : Fld := ⟨2, 8⟩
/-- SL_ERRCAP.CLUSTER. -/
def SL_ERRCAP.CLUSTER : Fld := ⟨10, 10⟩
/-- SL_ERRCAP.CONTEXT. -/
def SL_ERRCAP.CONTEXT : Fld := ⟨20, 3⟩
/-- SL_ERRADDR.ADDR. -/
def SL_ERRADDR.ADDR : Fld := ⟨0, 64⟩
/-- RING_BASE.ADDR. -/
def RING_BASE.ADDR : Fld := ⟨6, 58⟩
/-- RD_ADDR.ADDR. -/
def RD_ADDR.ADDR : Fld := ⟨6, 58⟩
/-- RD_STEP.STEP. -/
def RD_STEP.STEP : Fld := ⟨0, 32⟩
/-- RD_CTL.START. -/
def RD_CTL.START : Fld := ⟨0, 1⟩
/-- RD_CTL.ABORT. -/
def RD_CTL.ABORT : Fld := ⟨1, 1⟩
/-- RD_FILL.ADD. -/
def RD_FILL.ADD : Fld := ⟨0, 40⟩
/-- RD_EVT.TARGET. -/
def RD_EVT.TARGET : Fld := ⟨0, 64⟩
/-- RD_EVBITS.BITS. -/
def RD_EVBITS.BITS : Fld := ⟨0, 32⟩
/-- RD_COUNTER.COUNT. -/
def RD_COUNTER.COUNT : Fld := ⟨0, 64⟩
/-- SU_LVDIG.VALUE. -/
def SU_LVDIG.VALUE : Fld := ⟨0, 64⟩
/-- SU_LVDIGVAL.VALUE. -/
def SU_LVDIGVAL.VALUE : Fld := ⟨0, 64⟩
/-- SU_TRACTQ.ADDR. -/
def SU_TRACTQ.ADDR : Fld := ⟨21, 43⟩
/-- SU_TRACTINFO.STACK. -/
def SU_TRACTINFO.STACK : Fld := ⟨0, 8⟩
/-- SU_TRACTINFO.NREPL. -/
def SU_TRACTINFO.NREPL : Fld := ⟨8, 3⟩
/-- SU_TRACTINFO.HINTS. -/
def SU_TRACTINFO.HINTS : Fld := ⟨12, 4⟩
/-- SU_TRACTINFO.LASTMOVE. -/
def SU_TRACTINFO.LASTMOVE : Fld := ⟨16, 16⟩
/-- SU_TRACTINFO.ACC. -/
def SU_TRACTINFO.ACC : Fld := ⟨32, 16⟩
/-- SU_TRACTINFO.TOPQ. -/
def SU_TRACTINFO.TOPQ : Fld := ⟨48, 2⟩
/-- DK_UID.UID. -/
def DK_UID.UID : Fld := ⟨0, 64⟩
/-- DK_LEDGER.SEQ. -/
def DK_LEDGER.SEQ : Fld := ⟨0, 32⟩
/-- DK_LEDGER.BOOTS. -/
def DK_LEDGER.BOOTS : Fld := ⟨32, 16⟩
/-- DK_THRESH.COUNT. -/
def DK_THRESH.COUNT : Fld := ⟨0, 16⟩
/-- DK_THRESH.WINDOW. -/
def DK_THRESH.WINDOW : Fld := ⟨16, 32⟩
/-- DK_SITES.SITES. -/
def DK_SITES.SITES : Fld := ⟨0, 64⟩
/-- DK_IDPUB.BYTES. -/
def DK_IDPUB.BYTES : Fld := ⟨0, 64⟩
/-- HB_BYTES.BYTES. -/
def HB_BYTES.BYTES : Fld := ⟨0, 64⟩
/-- SU_FQ.CLASS. -/
def SU_FQ.CLASS : Fld := ⟨0, 3⟩
/-- SU_FQ.UNIT. -/
def SU_FQ.UNIT : Fld := ⟨16, 16⟩
/-- SU_FINFO.WIN. -/
def SU_FINFO.WIN : Fld := ⟨0, 16⟩
/-- SU_FINFO.LIFE. -/
def SU_FINFO.LIFE : Fld := ⟨16, 32⟩
/-- SU_FINFO.LASTING. -/
def SU_FINFO.LASTING : Fld := ⟨48, 1⟩
/-- HB_DOMSTAT.ON. -/
def HB_DOMSTAT.ON : Fld := ⟨0, 64⟩

/-! ### The register maps -/

/-- The map of QT_RATE. -/
def mapQTRATE : RegMap := ⟨"QT_RATE", [⟨QT_RATE.RATE, .ro, 0⟩, ⟨QT_RATE.VCORE, .ro, 0⟩, ⟨QT_RATE.TJ, .ro, 0⟩, ⟨QT_RATE.VALID, .ro, 0⟩]⟩
/-- The map of HB_CLKSTAT. -/
def mapHBCLKSTAT : RegMap := ⟨"HB_CLKSTAT", [⟨HB_CLKSTAT.REFOK, .ro, 0⟩, ⟨HB_CLKSTAT.REFLOST, .w1c, 0⟩, ⟨HB_CLKSTAT.MEMLOCK, .ro, 0⟩, ⟨HB_CLKSTAT.SERLOCK, .ro, 0⟩]⟩
/-- The map of CL_TALLY. -/
def mapCLTALLY : RegMap := ⟨"CL_TALLY", [⟨CL_TALLY.COUNT, .ro, 0⟩]⟩
/-- The map of CL_BEATS. -/
def mapCLBEATS : RegMap := ⟨"CL_BEATS", [⟨CL_BEATS.COUNT, .ro, 0⟩]⟩
/-- The map of HB_MMERR. -/
def mapHBMMERR : RegMap := ⟨"HB_MMERR", [⟨HB_MMERR.UNMAPPED, .w1c, 0⟩, ⟨HB_MMERR.DORMANT, .w1c, 0⟩, ⟨HB_MMERR.SIZE, .w1c, 0⟩, ⟨HB_MMERR.ALIAS, .w1c, 0⟩, ⟨HB_MMERR.OVERRUN, .w1c, 0⟩]⟩
/-- The map of HB_MMERR_ADDR. -/
def mapHBMMERRADDR : RegMap := ⟨"HB_MMERR_ADDR", [⟨HB_MMERR_ADDR.OFFSET, .ro, 0⟩, ⟨HB_MMERR_ADDR.SOURCE, .ro, 0⟩]⟩
/-- The map of HB_PLATCMD. -/
def mapHBPLATCMD : RegMap := ⟨"HB_PLATCMD", [⟨HB_PLATCMD.OP, .wo, 0⟩, ⟨HB_PLATCMD.SLOT, .wo, 0⟩]⟩
/-- The map of HB_PLATLEN. -/
def mapHBPLATLEN : RegMap := ⟨"HB_PLATLEN", [⟨HB_PLATLEN.LEN, .rw, 0⟩]⟩
/-- The map of HB_PLATSTAT. -/
def mapHBPLATSTAT : RegMap := ⟨"HB_PLATSTAT", [⟨HB_PLATSTAT.LOCKED, .ro, 0⟩, ⟨HB_PLATSTAT.BUSY, .ro, 0⟩, ⟨HB_PLATSTAT.PLATLESS, .ro, 0⟩, ⟨HB_PLATSTAT.ACTIVE_SLOT, .ro, 0⟩, ⟨HB_PLATSTAT.CMDLOST, .w1c, 0⟩, ⟨HB_PLATSTAT.FALLBACK, .ro, 0⟩, ⟨HB_PLATSTAT.SHORT, .ro, 0⟩, ⟨HB_PLATSTAT.RESULT, .ro, 0⟩, ⟨HB_PLATSTAT.DETAIL, .ro, 0⟩]⟩
/-- The map of HB_PLATSERIAL. -/
def mapHBPLATSERIAL : RegMap := ⟨"HB_PLATSERIAL", [⟨HB_PLATSERIAL.SERIAL, .ro, 0⟩]⟩
/-- The map of CL_LSTAT. -/
def mapCLLSTAT : RegMap := ⟨"CL_LSTAT", [⟨CL_LSTAT.ACT0, .rw, 0⟩, ⟨CL_LSTAT.ACT1, .rw, 0⟩]⟩
/-- The map of CL_FCSR. -/
def mapCLFCSR : RegMap := ⟨"CL_FCSR", [⟨CL_FCSR.NX, .rw, 0⟩, ⟨CL_FCSR.UF, .rw, 0⟩, ⟨CL_FCSR.OF, .rw, 0⟩, ⟨CL_FCSR.DZ, .rw, 0⟩, ⟨CL_FCSR.NV, .rw, 0⟩, ⟨CL_FCSR.RM, .rw, 1⟩, ⟨CL_FCSR.TNV, .rw, 0⟩, ⟨CL_FCSR.TDZ, .rw, 0⟩]⟩
/-- The map of CL_GCTL. -/
def mapCLGCTL : RegMap := ⟨"CL_GCTL", [⟨CL_GCTL.MODE, .rw, 0⟩, ⟨CL_GCTL.BLOCK, .rw, 0⟩, ⟨CL_GCTL.PACK_EN, .rw, 1⟩, ⟨CL_GCTL.ENDEN, .rw, 0⟩, ⟨CL_GCTL.ENDEV, .rw, 0⟩, ⟨CL_GCTL.XLANE, .rw, 0⟩, ⟨CL_GCTL.XNAMED, .rw, 0⟩]⟩
/-- The map of CL_CSEQ. -/
def mapCLCSEQ : RegMap := ⟨"CL_CSEQ", [⟨CL_CSEQ.SEQ, .ro, 0⟩]⟩
/-- The map of CL_CENTRY. -/
def mapCLCENTRY : RegMap := ⟨"CL_CENTRY", [⟨CL_CENTRY.ADDR, .rw, 0⟩]⟩
/-- The map of CL_TPC. -/
def mapCLTPC : RegMap := ⟨"CL_TPC", [⟨CL_TPC.STATE, .rw, 3⟩, ⟨CL_TPC.ADDR, .rw, 0⟩]⟩
/-- The map of CL_TBT. -/
def mapCLTBT : RegMap := ⟨"CL_TBT", [⟨CL_TBT.DS, .rw, 0⟩, ⟨CL_TBT.ADDR, .rw, 0⟩]⟩
/-- The map of CL_SRSTATE. -/
def mapCLSRSTATE : RegMap := ⟨"CL_SRSTATE", [⟨CL_SRSTATE.STATE, .rw, 0⟩]⟩
/-- The map of CL_VCFG. -/
def mapCLVCFG : RegMap := ⟨"CL_VCFG", [⟨CL_VCFG.VL, .rw, 0⟩, ⟨CL_VCFG.SEW, .rw, 3⟩, ⟨CL_VCFG.SPAN, .rw, 0⟩, ⟨CL_VCFG.FMT, .rw, 0⟩, ⟨CL_VCFG.FXRM, .rw, 0⟩, ⟨CL_VCFG.SAT, .rw, 0⟩]⟩
/-- The map of CL_VSE. -/
def mapCLVSE : RegMap := ⟨"CL_VSE", [⟨CL_VSE.ELEM, .ro, 0⟩]⟩
/-- The map of CL_FLAGS. -/
def mapCLFLAGS : RegMap := ⟨"CL_FLAGS", [⟨CL_FLAGS.F, .rw, 0⟩, ⟨CL_FLAGS.VXSAT, .rw, 0⟩]⟩
/-- The map of CL_TSR. -/
def mapCLTSR : RegMap := ⟨"CL_TSR", [⟨CL_TSR.POS, .ro, 0⟩]⟩
/-- The map of CL_TSTATE. -/
def mapCLTSTATE : RegMap := ⟨"CL_TSTATE", [⟨CL_TSTATE.INUSE, .rw, 0⟩, ⟨CL_TSTATE.OWNER, .rw, 0⟩, ⟨CL_TSTATE.TYPE, .rw, 0⟩, ⟨CL_TSTATE.ROWSM1, .rw, 0⟩, ⟨CL_TSTATE.COLSM1, .rw, 0⟩]⟩
/-- The map of CL_XSPARE. -/
def mapCLXSPARE : RegMap := ⟨"CL_XSPARE", [⟨CL_XSPARE.SR0, .ro, 0⟩, ⟨CL_XSPARE.SR0EN, .ro, 0⟩, ⟨CL_XSPARE.SR1, .ro, 0⟩, ⟨CL_XSPARE.SR1EN, .ro, 0⟩, ⟨CL_XSPARE.SC, .ro, 0⟩, ⟨CL_XSPARE.SCEN, .ro, 0⟩]⟩
/-- The map of CL_MERE. -/
def mapCLMERE : RegMap := ⟨"CL_MERE", [⟨CL_MERE.WAYS, .rw, 0⟩, ⟨CL_MERE.BUSY, .ro, 0⟩]⟩
/-- The map of CL_MEREBASE. -/
def mapCLMEREBASE : RegMap := ⟨"CL_MEREBASE", [⟨CL_MEREBASE.EN, .rw, 0⟩, ⟨CL_MEREBASE.BASE, .rw, 0⟩]⟩
/-- The map of CL_CPSTAT. -/
def mapCLCPSTAT : RegMap := ⟨"CL_CPSTAT", [⟨CL_CPSTAT.OUT, .ro, 0⟩, ⟨CL_CPSTAT.PARKED, .ro, 0⟩]⟩
/-- The map of CL_CPERR. -/
def mapCLCPERR : RegMap := ⟨"CL_CPERR", [⟨CL_CPERR.VALID, .w1c, 0⟩, ⟨CL_CPERR.OVERRUN, .w1c, 0⟩, ⟨CL_CPERR.CTR, .ro, 0⟩, ⟨CL_CPERR.CAUSE, .ro, 0⟩]⟩
/-- The map of CL_CPADDR. -/
def mapCLCPADDR : RegMap := ⟨"CL_CPADDR", [⟨CL_CPADDR.ADDR, .ro, 0⟩]⟩
/-- The map of CL_ARR. -/
def mapCLARR : RegMap := ⟨"CL_ARR", [⟨CL_ARR.COUNT, .rw, 0⟩]⟩
/-- The map of CL_ICCTL. -/
def mapCLICCTL : RegMap := ⟨"CL_ICCTL", [⟨CL_ICCTL.EN, .rw, 1⟩, ⟨CL_ICCTL.INVALL, .wo, 0⟩, ⟨CL_ICCTL.BUSY, .ro, 0⟩]⟩
/-- The map of CL_PFCTL. -/
def mapCLPFCTL : RegMap := ⟨"CL_PFCTL", [⟨CL_PFCTL.EN, .rw, 1⟩, ⟨CL_PFCTL.LINES, .ro, 0⟩]⟩
/-- The map of CL_CMOSTAT. -/
def mapCLCMOSTAT : RegMap := ⟨"CL_CMOSTAT", [⟨CL_CMOSTAT.SKIP, .w1c, 0⟩]⟩
/-- The map of QT_QWAY. -/
def mapQTQWAY : RegMap := ⟨"QT_QWAY", [⟨QT_QWAY.ON, .ro, 0⟩, ⟨QT_QWAY.DRAIN, .ro, 0⟩]⟩
/-- The map of CL_XLAT. -/
def mapCLXLAT : RegMap := ⟨"CL_XLAT", [⟨CL_XLAT.EN, .rw, 0⟩, ⟨CL_XLAT.ASID, .rw, 0⟩]⟩
/-- The map of TR_WFD1. -/
def mapTRWFD1 : RegMap := ⟨"TR_WFD1", [⟨TR_WFD1.PRESENT, .rw, 128⟩, ⟨TR_WFD1.WRITABLE, .rw, 128⟩, ⟨TR_WFD1.USER, .rw, 128⟩, ⟨TR_WFD1.ACCESSED, .rw, 128⟩, ⟨TR_WFD1.DIRTY, .rw, 128⟩, ⟨TR_WFD1.NOEXEC, .rw, 128⟩, ⟨TR_WFD1.LEAF, .rw, 128⟩, ⟨TR_WFD1.LARGE, .rw, 128⟩]⟩
/-- The map of TR_INVSTAT. -/
def mapTRINVSTAT : RegMap := ⟨"TR_INVSTAT", [⟨TR_INVSTAT.BUSY, .ro, 0⟩, ⟨TR_INVSTAT.CMDLOST, .w1c, 0⟩, ⟨TR_INVSTAT.DONE, .ro, 0⟩]⟩
/-- The map of TR_WALKSTAT. -/
def mapTRWALKSTAT : RegMap := ⟨"TR_WALKSTAT", [⟨TR_WALKSTAT.WALKS, .ro, 0⟩, ⟨TR_WALKSTAT.QFULL, .ro, 0⟩, ⟨TR_WALKSTAT.BUSY, .ro, 0⟩]⟩
/-- The map of MS_LEN. -/
def mapMSLEN : RegMap := ⟨"MS_LEN", [⟨MS_LEN.LEN, .ro, 0⟩]⟩
/-- The map of MS_CHAN. -/
def mapMSCHAN : RegMap := ⟨"MS_CHAN", [⟨MS_CHAN.INSVC, .ro, 0⟩, ⟨MS_CHAN.TRAINFAIL, .ro, 0⟩]⟩
/-- The map of MS_CTL. -/
def mapMSCTL : RegMap := ⟨"MS_CTL", [⟨MS_CTL.CHAN, .wo, 0⟩, ⟨MS_CTL.MAPOUT, .wo, 0⟩, ⟨MS_CTL.SCRUB, .rw, 1⟩]⟩
/-- The map of MS_STAT. -/
def mapMSSTAT : RegMap := ⟨"MS_STAT", [⟨MS_STAT.RESTRIPE, .ro, 0⟩, ⟨MS_STAT.PENDING, .ro, 0⟩, ⟨MS_STAT.SR, .ro, 0⟩, ⟨MS_STAT.RATE, .ro, 0⟩, ⟨MS_STAT.TEMP, .ro, 0⟩]⟩
/-- The map of MS_ECCLOG. -/
def mapMSECCLOG : RegMap := ⟨"MS_ECCLOG", [⟨MS_ECCLOG.VALID, .w1c, 0⟩, ⟨MS_ECCLOG.OVERRUN, .w1c, 0⟩, ⟨MS_ECCLOG.KIND, .ro, 0⟩, ⟨MS_ECCLOG.CHAN, .ro, 0⟩, ⟨MS_ECCLOG.SUB, .ro, 0⟩]⟩
/-- The map of MS_ECCADDR. -/
def mapMSECCADDR : RegMap := ⟨"MS_ECCADDR", [⟨MS_ECCADDR.ADDR, .ro, 0⟩]⟩
/-- The map of MS_CHERR. -/
def mapMSCHERR : RegMap := ⟨"MS_CHERR", [⟨MS_CHERR.CE, .ro, 0⟩, ⟨MS_CHERR.UE, .ro, 0⟩]⟩
/-- The map of DT_DELEG. -/
def mapDTDELEG : RegMap := ⟨"DT_DELEG", [⟨DT_DELEG.FAULTS, .rw, 0⟩, ⟨DT_DELEG.INTS, .rw, 0⟩]⟩
/-- The map of DT_TRAPEN. -/
def mapDTTRAPEN : RegMap := ⟨"DT_TRAPEN", [⟨DT_TRAPEN.IDZ, .rw, 0⟩, ⟨DT_TRAPEN.IOV, .rw, 0⟩]⟩
/-- The map of DT_IFR. -/
def mapDTIFR : RegMap := ⟨"DT_IFR", [⟨DT_IFR.DVCOUNT, .ro, 0⟩, ⟨DT_IFR.DXCOUNT, .ro, 0⟩, ⟨DT_IFR.SVCOUNT, .ro, 0⟩, ⟨DT_IFR.SXCOUNT, .ro, 0⟩]⟩
/-- The map of SL_PSTAT. -/
def mapSLPSTAT : RegMap := ⟨"SL_PSTAT", [⟨SL_PSTAT.STATE, .ro, 0⟩, ⟨SL_PSTAT.ROLE, .ro, 0⟩, ⟨SL_PSTAT.STUCK, .w1c, 0⟩, ⟨SL_PSTAT.FARID, .ro, 0⟩, ⟨SL_PSTAT.FARPORT, .ro, 0⟩]⟩
/-- The map of SL_PCTL. -/
def mapSLPCTL : RegMap := ⟨"SL_PCTL", [⟨SL_PCTL.DATELINE, .rw, 0⟩, ⟨SL_PCTL.RESET, .wo, 0⟩]⟩
/-- The map of SL_RSPTMO. -/
def mapSLRSPTMO : RegMap := ⟨"SL_RSPTMO", [⟨SL_RSPTMO.UNITS, .rw, 4096⟩]⟩
/-- The map of SL_DEVSTAT. -/
def mapSLDEVSTAT : RegMap := ⟨"SL_DEVSTAT", [⟨SL_DEVSTAT.LATE, .ro, 0⟩, ⟨SL_DEVSTAT.HOPDROP, .ro, 0⟩, ⟨SL_DEVSTAT.BADMSG, .ro, 0⟩]⟩
/-- The map of DK_LASER. -/
def mapDKLASER : RegMap := ⟨"DK_LASER", [⟨DK_LASER.LIT, .ro, 0⟩, ⟨DK_LASER.OPEN, .ro, 0⟩, ⟨DK_LASER.FAULT, .ro, 0⟩, ⟨DK_LASER.NOCONN, .ro, 0⟩, ⟨DK_LASER.TXPWR0, .ro, 0⟩, ⟨DK_LASER.TXPWR1, .ro, 0⟩, ⟨DK_LASER.RXPWR0, .ro, 128⟩, ⟨DK_LASER.RXPWR1, .ro, 128⟩]⟩
/-- The map of HB_SESSTAT. -/
def mapHBSESSTAT : RegMap := ⟨"HB_SESSTAT", [⟨HB_SESSTAT.OPEN, .ro, 0⟩, ⟨HB_SESSTAT.OPENING, .ro, 0⟩, ⟨HB_SESSTAT.KEYSEL, .ro, 0⟩, ⟨HB_SESSTAT.FAILS, .ro, 0⟩, ⟨HB_SESSTAT.LANDID, .ro, 0⟩, ⟨HB_SESSTAT.DROPPED, .ro, 0⟩, ⟨HB_SESSTAT.SC, .ro, 0⟩]⟩
/-- The map of HB_SESSCTL. -/
def mapHBSESSCTL : RegMap := ⟨"HB_SESSCTL", [⟨HB_SESSCTL.CLOSE, .wo, 0⟩]⟩
/-- The map of RING_CTL. -/
def mapRINGCTL : RegMap := ⟨"RING_CTL", [⟨RING_CTL.EN, .rw, 0⟩, ⟨RING_CTL.SQLOC, .rw, 0⟩, ⟨RING_CTL.CQLOC, .rw, 0⟩, ⟨RING_CTL.NOTIFY, .rw, 0⟩, ⟨RING_CTL.ERR, .w1c, 0⟩, ⟨RING_CTL.SQSZ, .rw, 0⟩, ⟨RING_CTL.CQSZ, .rw, 0⟩]⟩
/-- The map of RING_PTR. -/
def mapRINGPTR : RegMap := ⟨"RING_PTR", [⟨RING_PTR.SQHEAD, .ro, 0⟩, ⟨RING_PTR.SQTAIL, .rw, 0⟩, ⟨RING_PTR.CQHEAD, .rw, 0⟩, ⟨RING_PTR.CQTAIL, .ro, 0⟩]⟩
/-- The map of RD_CFG. -/
def mapRDCFG : RegMap := ⟨"RD_CFG", [⟨RD_CFG.ARM, .rw, 0⟩, ⟨RD_CFG.CFMT, .rw, 0⟩, ⟨RD_CFG.ROLE, .rw, 0⟩, ⟨RD_CFG.P, .rw, 0⟩, ⟨RD_CFG.MYSLOT, .rw, 0⟩]⟩
/-- The map of RD_LEN. -/
def mapRDLEN : RegMap := ⟨"RD_LEN", [⟨RD_LEN.BYTES, .rw, 0⟩]⟩
/-- The map of RD_DEADLINE. -/
def mapRDDEADLINE : RegMap := ⟨"RD_DEADLINE", [⟨RD_DEADLINE.BUCKET, .rw, 0⟩, ⟨RD_DEADLINE.RESULT, .rw, 0⟩]⟩
/-- The map of RD_PROG. -/
def mapRDPROG : RegMap := ⟨"RD_PROG", [⟨RD_PROG.FILLED, .ro, 0⟩, ⟨RD_PROG.DONEB, .ro, 0⟩]⟩
/-- The map of RD_STAT. -/
def mapRDSTAT : RegMap := ⟨"RD_STAT", [⟨RD_STAT.BUSY, .ro, 0⟩, ⟨RD_STAT.DONE, .w1c, 0⟩, ⟨RD_STAT.CMDLOST, .w1c, 0⟩, ⟨RD_STAT.STATUS, .ro, 0⟩, ⟨RD_STAT.NV, .ro, 0⟩, ⟨RD_STAT.OF, .ro, 0⟩, ⟨RD_STAT.NX, .ro, 0⟩]⟩
/-- The map of RD_BUF. -/
def mapRDBUF : RegMap := ⟨"RD_BUF", [⟨RD_BUF.BUCKET, .ro, 0⟩, ⟨RD_BUF.SLOTS, .ro, 0⟩, ⟨RD_BUF.INUSE, .ro, 0⟩, ⟨RD_BUF.STORE, .ro, 0⟩]⟩
/-- The map of RD_CNT. -/
def mapRDCNT : RegMap := ⟨"RD_CNT", [⟨RD_CNT.STALE, .ro, 0⟩, ⟨RD_CNT.DUPS, .ro, 0⟩, ⟨RD_CNT.PULLS, .ro, 0⟩, ⟨RD_CNT.REPEATS, .ro, 0⟩]⟩
/-- The map of SU_LVSTAT. -/
def mapSULVSTAT : RegMap := ⟨"SU_LVSTAT", [⟨SU_LVSTAT.STATE, .ro, 0⟩, ⟨SU_LVSTAT.FACE, .ro, 0⟩, ⟨SU_LVSTAT.REJOIN, .ro, 0⟩, ⟨SU_LVSTAT.REJFAIL, .w1c, 0⟩, ⟨SU_LVSTAT.FAILOVERS, .ro, 0⟩, ⟨SU_LVSTAT.MISM, .ro, 0⟩, ⟨SU_LVSTAT.TWINID, .ro, 0⟩]⟩
/-- The map of SU_LVCTL. -/
def mapSULVCTL : RegMap := ⟨"SU_LVCTL", [⟨SU_LVCTL.REJOIN, .wo, 0⟩]⟩
/-- The map of SU_LVDIGCTL. -/
def mapSULVDIGCTL : RegMap := ⟨"SU_LVDIGCTL", [⟨SU_LVDIGCTL.GO, .wo, 0⟩, ⟨SU_LVDIGCTL.TAG, .rw, 0⟩]⟩
/-- The map of SU_LVDIGSTAT. -/
def mapSULVDIGSTAT : RegMap := ⟨"SU_LVDIGSTAT", [⟨SU_LVDIGSTAT.BUSY, .ro, 0⟩, ⟨SU_LVDIGSTAT.CMDLOST, .w1c, 0⟩, ⟨SU_LVDIGSTAT.RESULT, .ro, 0⟩]⟩
/-- The map of SU_ALLOTSTAT. -/
def mapSUALLOTSTAT : RegMap := ⟨"SU_ALLOTSTAT", [⟨SU_ALLOTSTAT.MOVES, .ro, 0⟩, ⟨SU_ALLOTSTAT.REPL, .ro, 0⟩, ⟨SU_ALLOTSTAT.EPOCH, .ro, 0⟩]⟩
/-- The map of DK_STAT. -/
def mapDKSTAT : RegMap := ⟨"DK_STAT", [⟨DK_STAT.LEDGEROK, .ro, 0⟩, ⟨DK_STAT.REBUILT, .ro, 0⟩, ⟨DK_STAT.LEDGERFAIL, .ro, 0⟩, ⟨DK_STAT.RFULL, .ro, 0⟩, ⟨DK_STAT.OWNED, .ro, 0⟩, ⟨DK_STAT.PASSSET, .ro, 0⟩, ⟨DK_STAT.PLATKEYS, .ro, 0⟩]⟩
/-- The map of HB_LCMD. -/
def mapHBLCMD : RegMap := ⟨"HB_LCMD", [⟨HB_LCMD.OP, .wo, 0⟩, ⟨HB_LCMD.ARG0, .wo, 0⟩, ⟨HB_LCMD.ARG1, .wo, 0⟩, ⟨HB_LCMD.LEN, .wo, 0⟩]⟩
/-- The map of HB_LSTAT. -/
def mapHBLSTAT : RegMap := ⟨"HB_LSTAT", [⟨HB_LSTAT.BUSY, .ro, 0⟩, ⟨HB_LSTAT.CMDLOST, .w1c, 0⟩, ⟨HB_LSTAT.RESULT, .ro, 0⟩]⟩
/-- The map of CL_MCINFO. -/
def mapCLMCINFO : RegMap := ⟨"CL_MCINFO", [⟨CL_MCINFO.KIND, .ro, 0⟩, ⟨CL_MCINFO.UNIT, .ro, 0⟩, ⟨CL_MCINFO.TILE, .ro, 0⟩]⟩
/-- The map of QT_VSET. -/
def mapQTVSET : RegMap := ⟨"QT_VSET", [⟨QT_VSET.SET, .ro, 750⟩, ⟨QT_VSET.CEIL, .ro, 850⟩, ⟨QT_VSET.TARGET, .ro, 750⟩]⟩
/-- The map of HB_PWRSTAT. -/
def mapHBPWRSTAT : RegMap := ⟨"HB_PWRSTAT", [⟨HB_PWRSTAT.PKG, .ro, 0⟩, ⟨HB_PWRSTAT.UNCORE, .ro, 0⟩, ⟨HB_PWRSTAT.THROT, .ro, 0⟩, ⟨HB_PWRSTAT.CAPPED, .ro, 0⟩, ⟨HB_PWRSTAT.HOT, .ro, 0⟩, ⟨HB_PWRSTAT.RESULT, .ro, 0⟩, ⟨HB_PWRSTAT.BUSY, .ro, 0⟩, ⟨HB_PWRSTAT.CMDLOST, .w1c, 0⟩]⟩
/-- The map of HB_PWRCMD. -/
def mapHBPWRCMD : RegMap := ⟨"HB_PWRCMD", [⟨HB_PWRCMD.OP, .wo, 0⟩, ⟨HB_PWRCMD.GROUP, .wo, 0⟩]⟩
/-- The map of HB_RSTCMD. -/
def mapHBRSTCMD : RegMap := ⟨"HB_RSTCMD", [⟨HB_RSTCMD.OP, .wo, 0⟩, ⟨HB_RSTCMD.QUARTER, .wo, 0⟩, ⟨HB_RSTCMD.CLUSTER, .wo, 0⟩]⟩
/-- The map of HB_RSTSTAT. -/
def mapHBRSTSTAT : RegMap := ⟨"HB_RSTSTAT", [⟨HB_RSTSTAT.CAUSE, .ro, 0⟩, ⟨HB_RSTSTAT.QRST, .ro, 0⟩, ⟨HB_RSTSTAT.DEVRST, .ro, 0⟩]⟩
/-- The map of HB_BOOTSTAT. -/
def mapHBBOOTSTAT : RegMap := ⟨"HB_BOOTSTAT", [⟨HB_BOOTSTAT.STAGE, .ro, 0⟩, ⟨HB_BOOTSTAT.BANK, .ro, 0⟩, ⟨HB_BOOTSTAT.ERRA, .ro, 0⟩, ⟨HB_BOOTSTAT.ERRB, .ro, 0⟩, ⟨HB_BOOTSTAT.KEYREV, .ro, 0⟩, ⟨HB_BOOTSTAT.VERSION, .ro, 0⟩]⟩
/-- The map of HB_FWCMD. -/
def mapHBFWCMD : RegMap := ⟨"HB_FWCMD", [⟨HB_FWCMD.OP, .wo, 0⟩, ⟨HB_FWCMD.BANK, .wo, 0⟩, ⟨HB_FWCMD.FLOOR, .wo, 0⟩, ⟨HB_FWCMD.OFFSET, .wo, 0⟩]⟩
/-- The map of HB_FWSTAT. -/
def mapHBFWSTAT : RegMap := ⟨"HB_FWSTAT", [⟨HB_FWSTAT.BUSY, .ro, 0⟩, ⟨HB_FWSTAT.CMDLOST, .w1c, 0⟩, ⟨HB_FWSTAT.RESULT, .ro, 0⟩]⟩
/-- The map of CL_LADDR. -/
def mapCLLADDR : RegMap := ⟨"CL_LADDR", [⟨CL_LADDR.ADDR, .rw, 0⟩]⟩
/-- The map of CL_LCOUNT. -/
def mapCLLCOUNT : RegMap := ⟨"CL_LCOUNT", [⟨CL_LCOUNT.COUNT, .rw, 0⟩]⟩
/-- The map of CL_EVENT. -/
def mapCLEVENT : RegMap := ⟨"CL_EVENT", [⟨CL_EVENT.BITS, .w1s, 0⟩]⟩
/-- The map of CL_CTXRUN. -/
def mapCLCTXRUN : RegMap := ⟨"CL_CTXRUN", [⟨CL_CTXRUN.RUN, .w1s, 0⟩]⟩
/-- The map of CL_LANES. -/
def mapCLLANES : RegMap := ⟨"CL_LANES", [⟨CL_LANES.LANES, .rw, 0⟩]⟩
/-- The map of TR_WFD0. -/
def mapTRWFD0 : RegMap := ⟨"TR_WFD0", [⟨TR_WFD0.LEVELS, .rw, 0⟩, ⟨TR_WFD0.ENTRY8, .rw, 0⟩, ⟨TR_WFD0.CANON, .rw, 0⟩, ⟨TR_WFD0.ADMODE, .rw, 0⟩, ⟨TR_WFD0.IDX, .rw, 0⟩, ⟨TR_WFD0.PA_LO, .rw, 0⟩, ⟨TR_WFD0.PA_W, .rw, 0⟩, ⟨TR_WFD0.PA_SH, .rw, 0⟩]⟩
/-- The map of TR_WFD2. -/
def mapTRWFD2 : RegMap := ⟨"TR_WFD2", [⟨TR_WFD2.PAOFF, .rw, 0⟩]⟩
/-- The map of TR_ASROOT. -/
def mapTRASROOT : RegMap := ⟨"TR_ASROOT", [⟨TR_ASROOT.VALID, .rw, 0⟩, ⟨TR_ASROOT.ROOT, .rw, 0⟩]⟩
/-- The map of TR_INV. -/
def mapTRINV : RegMap := ⟨"TR_INV", [⟨TR_INV.OP, .wo, 0⟩, ⟨TR_INV.ASID, .wo, 0⟩]⟩
/-- The map of TR_INVADDR. -/
def mapTRINVADDR : RegMap := ⟨"TR_INVADDR", [⟨TR_INVADDR.ADDR, .rw, 0⟩]⟩
/-- The map of TR_INVLEN. -/
def mapTRINVLEN : RegMap := ⟨"TR_INVLEN", [⟨TR_INVLEN.LEN, .rw, 0⟩]⟩
/-- The map of TR_RESUME. -/
def mapTRRESUME : RegMap := ⟨"TR_RESUME", [⟨TR_RESUME.TAG, .wo, 0⟩, ⟨TR_RESUME.ACTION, .wo, 0⟩]⟩
/-- The map of TR_FAULTSTAT. -/
def mapTRFAULTSTAT : RegMap := ⟨"TR_FAULTSTAT", [⟨TR_FAULTSTAT.OPEN, .ro, 0⟩, ⟨TR_FAULTSTAT.STALE, .ro, 0⟩]⟩
/-- The map of TR_WIN_W. -/
def mapTRWINW : RegMap := ⟨"TR_WIN_W", [⟨TR_WIN_W.VALUE, .ro, 0⟩]⟩
/-- The map of TR_WIN_T. -/
def mapTRWINT : RegMap := ⟨"TR_WIN_T", [⟨TR_WIN_T.TTYPE, .ro, 0⟩, ⟨TR_WIN_T.ATTR, .ro, 0⟩, ⟨TR_WIN_T.TID, .ro, 0⟩, ⟨TR_WIN_T.GRAN, .ro, 0⟩]⟩
/-- The map of SU_TRACTCMD. -/
def mapSUTRACTCMD : RegMap := ⟨"SU_TRACTCMD", [⟨SU_TRACTCMD.WORD, .rw, 0⟩]⟩
/-- The map of SU_TRACTCTL. -/
def mapSUTRACTCTL : RegMap := ⟨"SU_TRACTCTL", [⟨SU_TRACTCTL.GO, .wo, 0⟩, ⟨SU_TRACTCTL.BUSY, .ro, 0⟩, ⟨SU_TRACTCTL.CMDLOST, .w1c, 0⟩, ⟨SU_TRACTCTL.STATUS, .ro, 0⟩, ⟨SU_TRACTCTL.DONE, .ro, 0⟩]⟩
/-- The map of MS_COUNT. -/
def mapMSCOUNT : RegMap := ⟨"MS_COUNT", [⟨MS_COUNT.COUNT, .ro, 0⟩]⟩
/-- The map of DT_STATUS. -/
def mapDTSTATUS : RegMap := ⟨"DT_STATUS", [⟨DT_STATUS.ENTRY, .rw, 0⟩, ⟨DT_STATUS.DOUBLE, .rw, 0⟩, ⟨DT_STATUS.IE, .rw, 0⟩, ⟨DT_STATUS.IFLOST, .w1c, 0⟩, ⟨DT_STATUS.PLEV, .rw, 3⟩]⟩
/-- The map of SV_STATUS. -/
def mapSVSTATUS : RegMap := ⟨"SV_STATUS", [⟨SV_STATUS.ENTRY, .rw, 0⟩, ⟨SV_STATUS.IE, .rw, 0⟩, ⟨SV_STATUS.IFLOST, .w1c, 0⟩]⟩
/-- The map of DT_SAVE. -/
def mapDTSAVE : RegMap := ⟨"DT_SAVE", [⟨DT_SAVE.CAUSE, .rw, 0⟩, ⟨DT_SAVE.PLEV, .rw, 0⟩, ⟨DT_SAVE.GM, .rw, 0⟩, ⟨DT_SAVE.DS, .rw, 0⟩, ⟨DT_SAVE.LACT, .rw, 0⟩]⟩
/-- The map of DT_DSAVE. -/
def mapDTDSAVE : RegMap := ⟨"DT_DSAVE", [⟨DT_DSAVE.CAUSE, .rw, 0⟩, ⟨DT_DSAVE.PLEV, .rw, 0⟩, ⟨DT_DSAVE.GM, .rw, 0⟩, ⟨DT_DSAVE.DS, .rw, 0⟩, ⟨DT_DSAVE.LACT, .rw, 0⟩, ⟨DT_DSAVE.LOST, .rw, 0⟩]⟩
/-- The map of DT_ADDR. -/
def mapDTADDR : RegMap := ⟨"DT_ADDR", [⟨DT_ADDR.ADDR, .rw, 0⟩]⟩
/-- The map of DT_TVAL. -/
def mapDTTVAL : RegMap := ⟨"DT_TVAL", [⟨DT_TVAL.VALUE, .rw, 0⟩]⟩
/-- The map of DT_VEC. -/
def mapDTVEC : RegMap := ⟨"DT_VEC", [⟨DT_VEC.ADDR, .rw, 0⟩]⟩
/-- The map of DT_IPEND. -/
def mapDTIPEND : RegMap := ⟨"DT_IPEND", [⟨DT_IPEND.SURV, .w1c, 0⟩, ⟨DT_IPEND.DOOR, .w1c, 0⟩, ⟨DT_IPEND.PEER, .w1c, 0⟩, ⟨DT_IPEND.EVT, .ro, 0⟩, ⟨DT_IPEND.TALLY, .ro, 0⟩, ⟨DT_IPEND.SOFT, .w1c, 0⟩]⟩
/-- The map of DT_IEN. -/
def mapDTIEN : RegMap := ⟨"DT_IEN", [⟨DT_IEN.SURV, .rw, 0⟩, ⟨DT_IEN.DOOR, .rw, 0⟩, ⟨DT_IEN.PEER, .rw, 0⟩, ⟨DT_IEN.EVT, .rw, 0⟩, ⟨DT_IEN.TALLY, .rw, 0⟩, ⟨DT_IEN.SOFT, .rw, 0⟩]⟩
/-- The map of DT_ISET. -/
def mapDTISET : RegMap := ⟨"DT_ISET", [⟨DT_ISET.SURV, .w1s, 0⟩, ⟨DT_ISET.DOOR, .w1s, 0⟩, ⟨DT_ISET.PEER, .w1s, 0⟩, ⟨DT_ISET.EVT, .ro, 0⟩, ⟨DT_ISET.TALLY, .ro, 0⟩, ⟨DT_ISET.SOFT, .w1s, 0⟩]⟩
/-- The map of DT_IEVMASK. -/
def mapDTIEVMASK : RegMap := ⟨"DT_IEVMASK", [⟨DT_IEVMASK.MASK, .rw, 0⟩]⟩
/-- The map of DT_TCMP. -/
def mapDTTCMP : RegMap := ⟨"DT_TCMP", [⟨DT_TCMP.VALUE, .rw, 0⟩, ⟨DT_TCMP.EN, .rw, 0⟩]⟩
/-- The map of SL_COUNT. -/
def mapSLCOUNT : RegMap := ⟨"SL_COUNT", [⟨SL_COUNT.COUNT, .ro, 0⟩]⟩
/-- The map of SL_CREDIT. -/
def mapSLCREDIT : RegMap := ⟨"SL_CREDIT", [⟨SL_CREDIT.CLS0, .ro, 0⟩, ⟨SL_CREDIT.CLS1, .ro, 0⟩]⟩
/-- The map of SL_ERRCAP. -/
def mapSLERRCAP : RegMap := ⟨"SL_ERRCAP", [⟨SL_ERRCAP.VALID, .w1c, 0⟩, ⟨SL_ERRCAP.OVERRUN, .w1c, 0⟩, ⟨SL_ERRCAP.STATUS, .ro, 0⟩, ⟨SL_ERRCAP.CLUSTER, .ro, 0⟩, ⟨SL_ERRCAP.CONTEXT, .ro, 0⟩]⟩
/-- The map of SL_ERRADDR. -/
def mapSLERRADDR : RegMap := ⟨"SL_ERRADDR", [⟨SL_ERRADDR.ADDR, .ro, 0⟩]⟩
/-- The map of RING_BASE. -/
def mapRINGBASE : RegMap := ⟨"RING_BASE", [⟨RING_BASE.ADDR, .rw, 0⟩]⟩
/-- The map of RD_ADDR. -/
def mapRDADDR : RegMap := ⟨"RD_ADDR", [⟨RD_ADDR.ADDR, .rw, 0⟩]⟩
/-- The map of RD_STEP. -/
def mapRDSTEP : RegMap := ⟨"RD_STEP", [⟨RD_STEP.STEP, .rw, 0⟩]⟩
/-- The map of RD_CTL. -/
def mapRDCTL : RegMap := ⟨"RD_CTL", [⟨RD_CTL.START, .wo, 0⟩, ⟨RD_CTL.ABORT, .wo, 0⟩]⟩
/-- The map of RD_FILL. -/
def mapRDFILL : RegMap := ⟨"RD_FILL", [⟨RD_FILL.ADD, .wo, 0⟩]⟩
/-- The map of RD_EVT. -/
def mapRDEVT : RegMap := ⟨"RD_EVT", [⟨RD_EVT.TARGET, .rw, 0⟩]⟩
/-- The map of RD_EVBITS. -/
def mapRDEVBITS : RegMap := ⟨"RD_EVBITS", [⟨RD_EVBITS.BITS, .rw, 0⟩]⟩
/-- The map of RD_COUNTER. -/
def mapRDCOUNTER : RegMap := ⟨"RD_COUNTER", [⟨RD_COUNTER.COUNT, .ro, 0⟩]⟩
/-- The map of SU_LVDIG. -/
def mapSULVDIG : RegMap := ⟨"SU_LVDIG", [⟨SU_LVDIG.VALUE, .rw, 0⟩]⟩
/-- The map of SU_LVDIGVAL. -/
def mapSULVDIGVAL : RegMap := ⟨"SU_LVDIGVAL", [⟨SU_LVDIGVAL.VALUE, .ro, 0⟩]⟩
/-- The map of SU_TRACTQ. -/
def mapSUTRACTQ : RegMap := ⟨"SU_TRACTQ", [⟨SU_TRACTQ.ADDR, .rw, 0⟩]⟩
/-- The map of SU_TRACTINFO. -/
def mapSUTRACTINFO : RegMap := ⟨"SU_TRACTINFO", [⟨SU_TRACTINFO.STACK, .ro, 255⟩, ⟨SU_TRACTINFO.NREPL, .ro, 0⟩, ⟨SU_TRACTINFO.HINTS, .ro, 0⟩, ⟨SU_TRACTINFO.LASTMOVE, .ro, 0⟩, ⟨SU_TRACTINFO.ACC, .ro, 0⟩, ⟨SU_TRACTINFO.TOPQ, .ro, 0⟩]⟩
/-- The map of DK_UID. -/
def mapDKUID : RegMap := ⟨"DK_UID", [⟨DK_UID.UID, .ro, 0⟩]⟩
/-- The map of DK_LEDGER. -/
def mapDKLEDGER : RegMap := ⟨"DK_LEDGER", [⟨DK_LEDGER.SEQ, .ro, 0⟩, ⟨DK_LEDGER.BOOTS, .ro, 0⟩]⟩
/-- The map of DK_THRESH. -/
def mapDKTHRESH : RegMap := ⟨"DK_THRESH", [⟨DK_THRESH.COUNT, .ro, 0⟩, ⟨DK_THRESH.WINDOW, .ro, 0⟩]⟩
/-- The map of DK_SITES. -/
def mapDKSITES : RegMap := ⟨"DK_SITES", [⟨DK_SITES.SITES, .ro, 0⟩]⟩
/-- The map of DK_IDPUB. -/
def mapDKIDPUB : RegMap := ⟨"DK_IDPUB", [⟨DK_IDPUB.BYTES, .ro, 0⟩]⟩
/-- The map of HB_BYTES. -/
def mapHBBYTES : RegMap := ⟨"HB_BYTES", [⟨HB_BYTES.BYTES, .wo, 0⟩]⟩
/-- The map of SU_FQ. -/
def mapSUFQ : RegMap := ⟨"SU_FQ", [⟨SU_FQ.CLASS, .rw, 0⟩, ⟨SU_FQ.UNIT, .rw, 0⟩]⟩
/-- The map of SU_FINFO. -/
def mapSUFINFO : RegMap := ⟨"SU_FINFO", [⟨SU_FINFO.WIN, .ro, 0⟩, ⟨SU_FINFO.LIFE, .ro, 0⟩, ⟨SU_FINFO.LASTING, .ro, 0⟩]⟩
/-- The map of HB_DOMSTAT. -/
def mapHBDOMSTAT : RegMap := ⟨"HB_DOMSTAT", [⟨HB_DOMSTAT.ON, .ro, 0⟩]⟩

/-- The registers of a context set, by offset in the set (spec/03, 04, 05, 08). -/
def ctxSetReg (o : Nat) : Option RegMap :=
  if o = 0x00 then some mapCLLSTAT else
  if o = 0x08 ∨ o = 0x10 ∨ o = 0x20 ∨ o = 0x28 then some mapCLLADDR else
  if o = 0x18 ∨ o = 0x30 then some mapCLLCOUNT else
  if o = 0x38 ∨ o = 0x50 ∨ o = 0x58 then some mapCLLANES else
  if o = 0x40 then some mapCLFCSR else
  if o = 0x48 then some mapCLGCTL else
  if o = 0x60 then some mapCLCSEQ else
  if o = 0x68 then some mapCLCENTRY else
  if o = 0x70 then some mapCLVCFG else
  if o = 0x78 then some mapCLVSE else
  none

/-- The trap registers of a context, by offset in its set (spec/16 R376). -/
def trapSetReg (o : Nat) : Option RegMap :=
  if o = 0x00 then some mapDTSTATUS else
  if o = 0x08 then some mapDTSAVE else
  if o = 0x10 ∨ o = 0x20 ∨ o = 0x68 ∨ o = 0x90 ∨ o = 0xD0 ∨ o = 0xE0 then some mapDTADDR else
  if o = 0x18 ∨ o = 0x70 ∨ o = 0xD8 then some mapDTTVAL else
  if o = 0x28 ∨ o = 0xE8 then some mapDTVEC else
  if o = 0x30 then some mapDTDELEG else
  if o = 0x38 then some mapDTTRAPEN else
  if o = 0x40 then some mapDTIPEND else
  if o = 0x48 then some mapDTIEN else
  if o = 0x50 then some mapDTIEVMASK else
  if o = 0x58 then some mapDTTCMP else
  if o = 0x60 then some mapDTDSAVE else
  if o = 0x80 then some mapDTIFR else
  if o = 0x88 then some mapDTISET else
  if o = 0xC0 then some mapSVSTATUS else
  if o = 0xC8 then some mapDTSAVE else
  none

/-- W1C form of a set-only map: CL_EVENTCLR and CL_CTXSTOP reach the same storage (R105, R121). -/
def asW1C (m : RegMap) : RegMap := ⟨m.name, m.fs.map (fun x => ⟨x.f, .w1c, x.rst⟩)⟩

/-- The registers of a cluster block, by offset in the block. -/
def clusterReg (o : Nat) : Option RegMap :=
  if o = 0x58 ∨ o = 0x68 then (if o = 0x58 then some (asW1C mapCLEVENT) else some (asW1C mapCLCTXRUN)) else
  if o = 0x40 then some mapCLTALLY else
  if o = 0x48 then some mapCLBEATS else
  if o = 0x50 ∨ o = 0x58 then some mapCLEVENT else
  if o = 0x60 ∨ o = 0x68 then some mapCLCTXRUN else
  if o = 0x70 then some mapCLSRSTATE else
  if 0x400 ≤ o ∧ o < 0x440 ∧ o % 8 = 0 then some mapCLFLAGS else
  if 0x440 ≤ o ∧ o < 0x480 ∧ o % 8 = 0 then some mapCLTSR else
  if 0x480 ≤ o ∧ o < 0x4C0 ∧ o % 8 = 0 then some mapCLTSTATE else
  if o = 0x4C0 then some mapCLXSPARE else
  if o = 0x500 then some mapCLMERE else
  if o = 0x508 then some mapCLMEREBASE else
  if 0x600 ≤ o ∧ o < 0x640 ∧ o % 8 = 0 then some mapCLCPSTAT else
  if 0x640 ≤ o ∧ o < 0x680 ∧ o % 8 = 0 then some mapCLCPERR else
  if 0x680 ≤ o ∧ o < 0x6C0 ∧ o % 8 = 0 then some mapCLCPADDR else
  if o = 0x700 then some mapCLICCTL else
  if o = 0x708 then some mapCLPFCTL else
  if o = 0x710 then some mapCLCMOSTAT else
  if 0x800 ≤ o ∧ o < 0xC00 ∧ o % 8 = 0 then some mapCLARR else
  if 0xC00 ≤ o ∧ o < 0xC40 ∧ o % 8 = 0 then some mapCLXLAT else
  if 0xD00 ≤ o ∧ o < 0xD40 ∧ o % 8 = 0 then some mapCLMCINFO else
  if 0x2000 ≤ o ∧ o < 0x3000 ∧ o % 8 = 0 then some mapCLTPC else
  if 0x3000 ≤ o ∧ o < 0x4000 ∧ o % 8 = 0 then some mapCLTBT else
  if 0x1000 ≤ o ∧ o < 0x1400 then ctxSetReg ((o - 0x1000) % 0x80) else
  if 0x4000 ≤ o ∧ o < 0x4800 then trapSetReg ((o - 0x4000) % 0x100) else
  none

/-- The registers of a quarter block. -/
def quarterReg (o : Nat) : Option RegMap :=
  if o = 0x0 then some mapQTRATE else
  if o = 0x8 then some mapQTVSET else
  if o = 0x100 then some mapQTQWAY else
  if o = 0x1000 then some mapTRWFD0 else
  if o = 0x1008 then some mapTRWFD1 else
  if o = 0x1010 then some mapTRWFD2 else
  if 0x1040 ≤ o ∧ o < 0x10C0 ∧ o % 8 = 0 then some mapTRASROOT else
  if o = 0x1100 then some mapTRINV else
  if o = 0x1108 then some mapTRINVADDR else
  if o = 0x1110 then some mapTRINVLEN else
  if o = 0x1118 then some mapTRINVSTAT else
  if o = 0x1180 then some mapTRRESUME else
  if o = 0x1188 then some mapTRFAULTSTAT else
  if o = 0x1200 then some mapTRWALKSTAT else
  if 0x2000 ≤ o ∧ o < 0x2800 ∧ o % 0x20 = 0x18 then some mapTRWINT else
  if 0x2000 ≤ o ∧ o < 0x2800 ∧ o % 8 = 0 then some mapTRWINW else
  none

/-- The registers of a stack block. -/
def stackReg (o : Nat) : Option RegMap :=
  if o = 0x0 then some mapMSLEN else
  if o = 0x8 then some mapMSCHAN else
  if o = 0x10 then some mapMSCTL else
  if o = 0x18 then some mapMSSTAT else
  if o = 0x20 ∨ o = 0x28 ∨ o = 0x30 then some mapMSCOUNT else
  if o = 0x80 then some mapMSECCLOG else
  if o = 0x88 then some mapMSECCADDR else
  if 0x100 ≤ o ∧ o < 0x180 ∧ o % 8 = 0 then some mapMSCHERR else
  none

/-- The registers of a port block. -/
def portReg (o : Nat) : Option RegMap :=
  if o = 0x0 then some mapSLPSTAT else
  if o = 0x8 then some mapSLPCTL else
  if o = 0x10 ∨ o = 0x18 ∨ o = 0x20 ∨ o = 0x28 then some mapSLCOUNT else
  if 0x40 ≤ o ∧ o < 0x70 ∧ o % 8 = 0 then some mapSLCREDIT else
  if o = 0x1000 then some mapSLRSPTMO else
  if o = 0x1008 then some mapSLDEVSTAT else
  if o = 0x1010 then some mapSLERRCAP else
  if o = 0x1018 then some mapSLERRADDR else
  none

/-- The registers of the hub range 0x0000_0000 to 0x000F_FFFF; HB_PLATBUF, HB_KEYBUF and HB_LMAC are buffers of bytes. -/
def hubReg (o : Nat) : Option RegMap :=
  if o = 0x100 then some mapHBMMERR else
  if o = 0x108 then some mapHBMMERRADDR else
  if o = 0x200 then some mapHBCLKSTAT else
  if o = 0x300 then some mapHBPLATCMD else
  if o = 0x308 then some mapHBPLATLEN else
  if o = 0x310 then some mapHBPLATSTAT else
  if o = 0x318 then some mapHBPLATSERIAL else
  if o = 0x400 then some mapHBLCMD else
  if o = 0x408 then some mapHBLSTAT else
  if 0x440 ≤ o ∧ o < 0x470 ∧ o % 8 = 0 then some mapHBBYTES else
  if o = 0x500 then some mapHBPWRSTAT else
  if o = 0x508 then some mapHBPWRCMD else
  if o = 0x600 then some mapHBRSTCMD else
  if o = 0x608 then some mapHBRSTSTAT else
  if o = 0x700 then some mapHBBOOTSTAT else
  if o = 0x710 then some mapHBFWCMD else
  if o = 0x718 then some mapHBFWSTAT else
  if 0x800 ≤ o ∧ o < 0x878 ∧ o % 8 = 0 then some mapHBDOMSTAT else
  if 0x1000 ≤ o ∧ o < 0x1400 ∧ o % 8 = 0 then some mapHBBYTES else
  none

/-- The Dykereeve registers, by offset from 0x0010_0000. -/
def dkReg (o : Nat) : Option RegMap :=
  if o = 0x0 then some mapDKSTAT else
  if o = 0x8 ∨ o = 0x10 then some mapDKUID else
  if o = 0x18 then some mapDKLEDGER else
  if 0x40 ≤ o ∧ o < 0x68 ∧ o % 8 = 0 then some mapDKTHRESH else
  if 0x100 ≤ o ∧ o < 0x168 ∧ o % 8 = 0 then some mapDKSITES else
  if 0x180 ≤ o ∧ o < 0x1E8 ∧ o % 8 = 0 then some mapDKSITES else
  if 0x400 ≤ o ∧ o < 0x460 ∧ o % 8 = 0 then some mapDKLASER else
  if 0x800 ≤ o ∧ o < 0x9B0 ∧ o % 8 = 0 then some mapDKIDPUB else
  none

/-- The Surveyor registers, by offset from 0x0020_0000. -/
def suReg (o : Nat) : Option RegMap :=
  if 0x1000 ≤ o ∧ o < 0x1020 ∧ o % 8 = 0 then some mapSUTRACTCMD else
  if o = 0x1020 then some mapSUTRACTCTL else
  if o = 0x1100 then some mapSULVSTAT else
  if o = 0x1108 then some mapSULVCTL else
  if o = 0x1110 ∨ o = 0x1118 then some mapSULVDIG else
  if o = 0x1120 then some mapSULVDIGCTL else
  if o = 0x1128 then some mapSULVDIGSTAT else
  if o = 0x1130 then some mapSULVDIGVAL else
  if o = 0x1200 then some mapSUALLOTSTAT else
  if o = 0x1208 then some mapSUTRACTQ else
  if o = 0x1210 then some mapSUTRACTINFO else
  if o = 0x1400 then some mapSUFQ else
  if o = 0x1408 then some mapSUFINFO else
  none

/-- The registers of one reduction, by offset in its set of 0x100 (spec/19). -/
def rdSetReg (o : Nat) : Option RegMap :=
  if o = 0x0 then some mapRDCFG else
  if o = 0x8 ∨ o = 0x10 ∨ o = 0x18 then some mapRDADDR else
  if o = 0x20 then some mapRDLEN else
  if o = 0x28 then some mapRDDEADLINE else
  if o = 0x30 then some mapRDSTEP else
  if o = 0x38 then some mapRDCTL else
  if o = 0x40 then some mapRDFILL else
  if o = 0x48 then some mapRDPROG else
  if o = 0x50 then some mapRDSTAT else
  if o = 0x58 then some mapRDEVT else
  if o = 0x60 then some mapRDEVBITS else
  none

/-- The reduction engine's registers, by offset from 0x0030_0000. -/
def rdReg (o : Nat) : Option RegMap :=
  if o < 0x400 then rdSetReg (o % 0x100) else
  if o = 0x1000 ∨ o = 0x1018 then some mapRDCOUNTER else
  if o = 0x1008 then some mapRDBUF else
  if o = 0x1010 then some mapRDCNT else none

/-- The landing and session registers, by offset from 0x0040_0000; 16 rings at 0x1000 with stride 0x40. -/
def landReg (o : Nat) : Option RegMap :=
  if o = 0x0 then some mapHBSESSTAT else
  if o = 0x8 then some mapHBSESSCTL else
  if 0x1000 ≤ o ∧ o < 0x1400 then
    (if o % 0x40 = 0x0 ∨ o % 0x40 = 0x8 then some mapRINGBASE else
     if o % 0x40 = 0x10 then some mapRINGCTL else
     if o % 0x40 = 0x18 then some mapRINGPTR else none)
  else none

/-! ### Whole-register reads and writes (R6, R7) -/

/-- The reset value that a map gives. -/
def RegMap.reset (m : RegMap) : Word :=
  m.fs.foldl (fun a x => setF a x.f x.rst) 0

/-- What a read returns: WO fields read as zero (R6), reserved bits as zero (R7). -/
def RegMap.readVal (m : RegMap) (stored : Word) : Word :=
  m.fs.foldl (fun a x => if x.acc = .wo then a else setF a x.f (getF stored x.f)) 0

/-- One field written (R6): the bits that `mask` selects are written, the others keep their values.
WO fields hold the bits written (R26: stored parameter bits). -/
def RField.write (x : RField) (mask v a : Word) : Word :=
  let m := mask &&& x.f.mask
  match x.acc with
  | .rw => (a &&& ~~~ m) ||| (v &&& m)
  | .wo => (a &&& ~~~ m) ||| (v &&& m)
  | .ro => a
  | .w1c => a &&& ~~~ (v &&& m)
  | .w1s => a ||| (v &&& m)

/-- A write of the bits that `mask` selects (all ones for 8 bytes, one half for 4 bytes, R26). -/
def RegMap.writeVal (m : RegMap) (mask v stored : Word) : Word :=
  m.fs.foldl (fun a x => x.write mask v a) stored

/-- The bits of the register that hold WO fields: the stored parameters of R26. -/
def RegMap.woMask (m : RegMap) : Word :=
  m.fs.foldl (fun a x => if x.acc = .wo then a ||| x.f.mask else a) 0

/-- Only the W1C fields of a map stay writable; everything else reads and keeps. -/
def RegMap.onlyW1C (m : RegMap) : RegMap :=
  ⟨m.name, m.fs.map (fun x => if x.acc = .w1c then x else ⟨x.f, .ro, x.rst⟩)⟩

/-- The map with nothing writable (R8; "RO through the management window"). -/
def RegMap.readOnly (m : RegMap) : RegMap :=
  ⟨m.name, m.fs.map (fun x => ⟨x.f, .ro, x.rst⟩)⟩

/-! ### The window (R23) -/

/-- The blocks of the management window. -/
inductive Blk where
  | hub | dk | su | rd | land
  | cluster (l : Nat)
  | site (p : Nat)
  | quarter (q : Nat)
  | stack (k : Nat)
  | port (p : Nat)
  | reserved
  deriving DecidableEq, Repr

/-- The block of a window offset and the offset in it (R23). -/
def blkOf (o : Nat) : Blk × Nat :=
  if o < 0x0010_0000 then (.hub, o) else
  if o < 0x0020_0000 then (.dk, o - 0x0010_0000) else
  if o < 0x0030_0000 then (.su, o - 0x0020_0000) else
  if o < 0x0040_0000 then (.rd, o - 0x0030_0000) else
  if o < 0x0050_0000 then (.land, o - 0x0040_0000) else
  if o < 0x0100_0000 then (.reserved, 0) else
  if o < 0x0420_0000 then (.cluster ((o - 0x0100_0000) / 0x1_0000), (o - 0x0100_0000) % 0x1_0000) else
  if o < 0x0500_0000 then (.reserved, 0) else
  if o < 0x0840_0000 then (.site ((o - 0x0500_0000) / 0x1_0000), (o - 0x0500_0000) % 0x1_0000) else
  if o < 0x0900_0000 then (.reserved, 0) else
  if o < 0x0940_0000 then (.quarter ((o - 0x0900_0000) / 0x10_0000), (o - 0x0900_0000) % 0x10_0000) else
  if o < 0x0A00_0000 then (.reserved, 0) else
  if o < 0x0A60_0000 then (.stack ((o - 0x0A00_0000) / 0x4_0000), (o - 0x0A00_0000) % 0x4_0000) else
  if o < 0x0B00_0000 then (.reserved, 0) else
  if o < 0x0B30_0000 then (.port ((o - 0x0B00_0000) / 0x4_0000), (o - 0x0B00_0000) % 0x4_0000) else
  (.reserved, 0)

/-- The register map at an offset of a block. -/
def regMapOf : Blk → Nat → Option RegMap
  | .hub, o => hubReg o
  | .dk, o => dkReg o
  | .su, o => suReg o
  | .rd, o => rdReg o
  | .land, o => landReg o
  | .cluster _, o => clusterReg o
  | .site _, o => clusterReg o
  | .quarter _, o => quarterReg o
  | .stack _, o => stackReg o
  | .port _, o => portReg o
  | .reserved, _ => none

/-! ### Window offsets of single registers -/

/-- Offset of a register of logical cluster `l`. -/
def clOff (l o : Nat) : Nat := 0x0100_0000 + 0x1_0000 * l + o
/-- Offset of a context-set register (R103). -/
def csOff (l c o : Nat) : Nat := clOff l (0x1000 + 0x80 * c + o)
/-- Offset of a trap register (R376). -/
def dtOff (l c o : Nat) : Nat := clOff l (0x4000 + 0x100 * c + o)
/-- Offset of a quarter register. -/
def qOff (q o : Nat) : Nat := 0x0900_0000 + 0x10_0000 * q + o
/-- Offset of a stack register. -/
def stkOff (k o : Nat) : Nat := 0x0A00_0000 + 0x4_0000 * k + o
/-- Offset of a port register. -/
def portOff (p o : Nat) : Nat := 0x0B00_0000 + 0x4_0000 * p + o
/-- Offset of a register of reduction `r`. -/
def rdOff (r o : Nat) : Nat := 0x0030_0000 + 0x100 * r + o
/-- Offset of a Surveyor register. -/
def suOff (o : Nat) : Nat := 0x0020_0000 + o
/-- Offset of a Dykereeve register. -/
def dkOff (o : Nat) : Nat := 0x0010_0000 + o
/-- Offset of a landing register. -/
def landOff (o : Nat) : Nat := 0x0040_0000 + o
/-- Offset of a register of ring `n` (R408). -/
def ringOff (n o : Nat) : Nat := 0x0040_1000 + 0x40 * n + o

end Sys2Proof.Machine
end

