-- ==== Sys2Proof/Machine/Tab.lean ====
section
/-!
DEFINITION. Sparse tables: a list of (key, value) pairs in ONE canonical form, keys strictly rising and no
entry equal to the value an unlisted key reads as. Memory, the register store and every other sparse part
of the state are tables of this shape, so that equal contents are equal data.
-/
namespace Sys2Proof.Machine

/-- A sparse table of values by number. -/
abbrev Tab (α : Type) := List (Nat × α)

/-- The entry of a key, where the table lists one. -/
def Tab.find? {α : Type} : Tab α → Nat → Option α
  | [], _ => none
  | (j, v) :: t, k => if j = k then some v else Tab.find? t k

/-- What the table holds at `k`; an unlisted key reads as `d`. -/
def Tab.get {α : Type} (d : α) (t : Tab α) (k : Nat) : α := (Tab.find? t k).getD d

/-- The table without the key `k`. -/
def Tab.erase {α : Type} : Tab α → Nat → Tab α
  | [], _ => []
  | (j, v) :: t, k => if j = k then Tab.erase t k else (j, v) :: Tab.erase t k

/-- The table with `v` listed at `k`. -/
def Tab.insert {α : Type} : Tab α → Nat → α → Tab α
  | [], k, v => [(k, v)]
  | (j, w) :: t, k, v =>
    if j = k then (k, v) :: t
    else if k < j then (k, v) :: (j, w) :: t
    else (j, w) :: Tab.insert t k v

/-- The table with `k` holding `v`: a value equal to what an unlisted key reads as is not listed. -/
def Tab.set {α : Type} [DecidableEq α] (d : α) (t : Tab α) (k : Nat) (v : α) : Tab α :=
  if v = d then Tab.erase t k else Tab.insert t k v

/-- The keys are strictly rising and all above the bound. -/
def Tab.rising {α : Type} : Option Nat → Tab α → Bool
  | _, [] => true
  | none, (j, _) :: t => Tab.rising (some j) t
  | some b, (j, _) :: t => decide (b < j) && Tab.rising (some j) t

/-- The canonical form: keys strictly rising, no entry equal to the default. -/
def Tab.wf {α : Type} [DecidableEq α] (d : α) (t : Tab α) : Bool :=
  Tab.rising none t && t.all (fun p => decide (p.2 ≠ d))

/-- Write a run of values at consecutive keys. -/
def Tab.setRun {α : Type} [DecidableEq α] (d : α) : Tab α → Nat → List α → Tab α
  | t, _, [] => t
  | t, k, v :: vs => Tab.setRun d (Tab.set d t k v) (k + 1) vs

/-- Read a run of values at consecutive keys. -/
def Tab.getRun {α : Type} (d : α) (t : Tab α) (k n : Nat) : List α :=
  (List.range n).map (fun i => Tab.get d t (k + i))

/-- The table without the keys for which `p` holds. -/
def Tab.drop {α : Type} (t : Tab α) (p : Nat → Bool) : Tab α := t.filter (fun e => !p e.1)

/-- The keys listed. -/
def Tab.keys {α : Type} (t : Tab α) : List Nat := t.map (·.1)

/-- The lowest key above every listed key (a fresh key). -/
def Tab.fresh {α : Type} (t : Tab α) : Nat := t.foldl (fun a e => max a (e.1 + 1)) 0

end Sys2Proof.Machine
end

