-- ==== Sys2Proof/Machine/Types.lean ====
section
/-!
DEFINITION. The data the state is made of, part 1: contexts, bundles, queued operations, memory requests,
caches, translation. Plain data throughout.
-/
namespace Sys2Proof.Machine

/-- The modes in force for a bundle (R74: level, execution mode, rounding mode, trap enables; R123 XLANE and
XNAMED; R318 CL_XLAT; R283 CL_MEREBASE), carried by every operation it dispatches (R78). -/
structure Modes where
  plev : Nat
  gm : Bool
  rm : Nat
  tnv : Bool
  tdz : Bool
  idz : Bool
  iov : Bool
  xen : Bool
  asid : Nat
  xlane : Nat
  xnamed : Bool
  mbase : Word
  deriving DecidableEq, Repr

/-- A cause code and its trap value (R357). A machine check carries above bit 8 what CL_MCINFO is to read (spec/21). -/
structure Trap where
  cause : Nat
  tval : Word
  deriving DecidableEq, Repr

/-- An operation of a V or X queue, or of a held record (R78, R374). -/
structure QOp where
  isX : Bool
  addr : Word
  syl : Syllable
  md : Modes
  vcfg : Word
  ops : List Word
  act : Nat
  pos : Nat
  fault : Bool
  deriving DecidableEq, Repr

/-- What a syllable does at its bundle's retirement (R60). -/
inductive Eff where
  | sreg (r : Nat) (v : Word)
  | fflags (bits : Nat)
  | branch (taken : Bool) (tgt : Word)
  | loopTake (n fin : Word)
  | loopSkip (next : Word)
  | lbrk
  | fencei
  | store (mere : Bool) (a n v : Nat)
  | setc (off : Nat) (v : Word)
  | sevt (bits : Nat) (desc : Word)
  | evclr (bits : Nat)
  | copy (w : List Word)
  | pref (hint : Nat) (da : Nat)
  | swtrap (code : Nat)
  | tack
  | tret
  | vcfg (v : Word)
  | ifload (slot : Nat) (ops : List QOp)
  | acquire (scope : Nat)
  | cmoAt (pos : Nat)
  deriving DecidableEq, Repr

/-- How far a syllable of the bundle in W is. `held`: it waits, and the wait may be abandoned (R373); `fixed`: it
waits, and the wait may not; `walking`: on a TLB miss of an address and access class. -/
inductive SylSt where
  | ready
  | walking (va : Word) (acc : Nat)
  | req (id : Nat)
  | held
  | fixed
  | divide
  | faulted (t : Trap)
  | done
  deriving DecidableEq, Repr

/-- An A, B or M syllable of the bundle in W. -/
structure Syl where
  word : Syllable
  st : SylSt
  eff : List Eff
  deriving DecidableEq, Repr

/-- The bundle a context holds in W (R57), with the modes and the active set it issued with. -/
structure WB where
  addr : Word
  len : Nat
  act : Nat
  md : Modes
  isDelay : Bool
  a : Option Syl
  b : Option Syl
  m : Option Syl
  v : Option Syllable
  x : Option Syllable
  deriving DecidableEq, Repr

/-- The delay bundle that is due: where execution continues after it, for which threads (R64, R126 rule 1). -/
structure Delay where
  taken : Bool
  tgt : Word
  act : Nat
  follow : Tab Word
  unresolved : Bool
  deriving DecidableEq, Repr

/-- A pending collective (R137): its bundle, the mask read (none for GBAR, R140), where each waiting thread goes on when
it is not at the bundle that follows; the threads waiting at it are those whose CL_TPC says so. -/
structure Coll where
  addr : Word
  mask : Option Nat
  follow : Tab Word
  deriving DecidableEq, Repr

/-- A parked context (R331): the fault record it waits for (none while it waits for a free one), its fault,
and whether the fault is a vector operation's. -/
structure Park where
  tag : Option Nat
  fault : Trap
  access : Nat
  kind : Nat
  level : Nat
  dev : Word
  vec : Bool
  deriving DecidableEq, Repr

/-- Where a vector operation that yielded on a TLB miss stands (R228): walking, walked, or walked into a fault of a
kind at a level. -/
inductive Yield where
  | walking
  | ready
  | fault (kind level : Nat) (dev : Word)
  deriving DecidableEq, Repr

/-- What the head operation of a context's unit has done: flags and saturation not yet accrued, element groups whose
data is awaited (R227), values and addresses of the elements of those groups, a TLB miss (R228), whether it has been
set up, whether a whole operation has finished, and the fault it stops at once its issued groups have arrived. -/
structure Prog where
  fl : Nat
  xsat : Bool
  waiting : List Nat
  got : Tab Nat
  need : Tab Nat
  va : Word
  acc : Nat
  yield : Option Yield
  setup : Bool
  fin : Bool
  fault : Option (Nat × Trap)
  deriving DecidableEq, Repr

/-- A summary (scalar or flag result of a V or X operation) on its way to its context (R204). -/
structure Summary where
  ctx : Nat
  toFlag : Bool
  idx : Nat
  val : Word
  deriving DecidableEq, Repr

/-- One hardware context. Registers with an address in the cluster block live in the register store. -/
structure Ctx where
  s : Tab Word
  v : Tab (BitVec 4096)
  m : Tab (BitVec 512)
  pc : Word
  cur : Modes
  shadow : List (Nat × Modes)
  wb : Option WB
  dfault : Option Trap
  swtrap : Option Word
  ufault : Option Trap
  dmc : Option Trap
  dcf : Option Word
  delay : Option Delay
  vq : List QOp
  xq : List QOp
  vp : Prog
  xp : Prog
  heldD : List QOp
  heldS : List QOp
  stop : Bool
  park : Option Park
  handler : Nat
  tpend : Tab Word
  lset0 : Nat
  lset1 : Nat
  starve : Tab Nat
  yielded : Tab Nat
  colls : List Coll
  gsel : Option Nat
  wait64 : Nat
  pendS : Nat
  pendF : Nat
  storeErr : Option Word
  ords : Tab Nat
  deriving DecidableEq, Repr

/-- Where an address stands after the window map and the tract lookup (R328, R335). -/
inductive Target where
  | stack (k off : Nat)
  | peer (d off : Nat)
  | host (off : Nat)
  | mgmt (off : Nat)
  deriving DecidableEq, Repr

/-- Who waits for a memory request. `clean`: nobody; `walk`: a walk of a quarter; `hub`: the hub (host commands). -/
inductive ReqSrc where
  | walk (q i : Nat)
  | hub
  | scalar (ctx : Nat)
  | vector (ctx : Nat)
  | copy (id : Nat)
  | fetch (ctx : Nat)
  | prefetch (hint : Nat)
  | clean
  deriving DecidableEq, Repr

/-- What a memory request does. `red` is a scatter-with-reduction element, `swap` a walker's compare-and-swap of a table
entry in host memory (R322). -/
inductive ReqKind where
  | swap (size cmp : Nat)
  | read
  | write
  | atomic (op size : Nat) (cmp : Nat)
  | red (op fmt : Nat)
  deriving DecidableEq, Repr

/-- How far a memory request is; `admitted` carries its place in the order of admission (R341). -/
inductive Stage where
  | toQuarter
  | toStack
  | admitted (n : Nat)
  | remote
  | done
  deriving DecidableEq, Repr

/-- A memory request of a cluster beyond its own store (R298: one of its 384 entries). `passed`: how many younger requests have
gone past it (R341); `tag`, `key`: the TAG of its message and, in a pair, its pairing key (R434). -/
structure Req where
  cl : Nat
  ctx : Nat
  src : ReqSrc
  kind : ReqKind
  da : Nat
  tgt : Target
  qcache : Bool
  len : Nat
  mask : Nat
  data : Nat
  stage : Stage
  out : Nat
  status : Nat
  elem : Nat
  passed : Nat := 0
  tag : Nat := 0
  key : Nat := 0
  deriving DecidableEq, Repr

/-- A line of the instruction cache, the L1 data cache or the line buffer: its 64-byte line number and bytes. -/
structure Line where
  ln : Nat
  data : BitVec 512
  deriving DecidableEq, Repr

/-- A line of a cluster cache, side buffer or quarter cache: its 512-byte line number, which sectors are
held whole, which bytes are dirty (R148, R301), which sectors carry an uncorrectable error, its bytes. -/
structure Sline where
  ln : Nat
  full : Nat
  dirty : BitVec 512
  data : BitVec 4096
  bad : Nat
  deriving DecidableEq, Repr

/-- A TLB entry (R323). -/
structure Tlb where
  asid : Nat
  vpn : Nat
  frame : Nat
  lg : Nat
  wr : Bool
  us : Bool
  ex : Bool
  dirty : Bool
  deriving DecidableEq, Repr

/-- A copy (R289). `row`, `col`: the next byte to move; `pass` 1: the bytes that source and destination share are left
undefined (R290); `fail`: the cause and address of an error (R293). -/
structure Copy where
  ctx : Nat
  w : List Word
  plev : Nat
  xen : Bool
  asid : Nat
  active : Bool
  row : Nat
  col : Nat
  park : Option Park
  pass : Nat
  fail : Option (Nat × Word)
  done : Bool
  deriving DecidableEq, Repr

/-- A cluster. -/
structure Cluster where
  ctx : Tab Ctx
  lbuf : List Line
  ic : Tab Line
  l1 : Tab Line
  cc : Tab Sline
  side : List Sline
  mere : Tab Byte
  badMere : Tab Nat
  tiles : Tab (BitVec 512)
  badTile : Tab Nat
  tlb : List Tlb
  divOwner : Option Nat
  vrun : Option Nat
  xrun : Option Nat
  vwait : Tab Nat
  xwait : Tab Nat
  summ : List Summary
  copies : Tab Copy
  nextSeq : Word
  evq : List Nat
  dormant : Bool
  inReset : Bool
  heldEv : Nat
  deriving DecidableEq, Repr

/-- Who asked for a walk, or waits for a fault record. -/
inductive WalkFor where
  | ctx (cl c : Nat)
  | fetch (cl c : Nat)
  | vec (cl c : Nat)
  | copy (cl id : Nat)
  | quiet (cl c : Nat)
  deriving DecidableEq, Repr

/-- A miss that waits for a walk: whose it is, its address, its access class, whether it is at User level. -/
structure Waiter where
  who : WalkFor
  va : Word
  acc : Nat
  user : Bool
  deriving DecidableEq, Repr

/-- A quarter TLB miss or a walk in progress (R325): the address, class and level of its first waiter, who waits, and the table
reads answered from beyond the device so far, and those that failed. -/
structure Walk where
  asid : Nat
  va : Word
  acc : Nat
  user : Bool
  who : List Waiter
  got : Tab Nat
  bad : List Nat
  deriving DecidableEq, Repr

/-- An outstanding fault record (R330). -/
structure FRec where
  va : Word
  kind : Nat
  access : Nat
  level : Nat
  asid : Nat
  waiters : Nat
  dev : Word
  first : Nat
  sent : Bool
  deriving DecidableEq, Repr

/-- A parcel of the plat (spec/02). -/
structure Parcel where
  id : Nat
  ways : Nat
  prio : Nat
  first : Nat
  clusters : Nat
  cap : Nat
  floorW : Nat
  deriving DecidableEq, Repr

/-- The applied plat (spec/02 R34 to R46, spare substitution R39 applied in `siteOf`). The windows stand in TR_WIN. -/
structure Plat where
  loaded : Bool
  siteOf : Tab Nat
  parcels : List Parcel
  stackOf : List Nat
  self : Nat
  roles : List Nat
  routes : List Byte
  domGroup : List Byte
  groups : List (List Byte)
  levee : Bool
  allot : Bool
  bucket : Nat
  powerPol : Nat
  pkgCap : Nat
  tjCap : Nat
  allotMask : Nat
  twinId : Nat
  twinPort : Nat
  twinUid : List Byte
  agree : List Byte
  hash : List Byte
  deriving DecidableEq, Repr

/-- The placement of a 2 MiB tract (R335, R336): a frame (stack, offset) or none for the window's computed place,
read replicas, hints, whether its frame is lost and whether a DISCARD has covered it since (R344), the next chunk of a move and where it goes. -/
structure Tract where
  frame : Option (Nat × Nat)
  repl : List (Nat × Nat)
  hints : Nat
  pref : Option Nat
  lost : Bool
  covered : Bool
  moving : Option (Nat × Nat × Nat)
  lastMove : Nat
  acc : Nat
  topq : Nat
  deriving DecidableEq, Repr

/-- A quarter: quarter cache (spec/13), quarter TLB, walkers, miss queue, fault records (spec/14). -/
structure Quarter where
  qc : Tab Sline
  upAfter : List Nat
  tlb : List Tlb
  wcache : List (Nat × Nat × Nat)
  missq : List Walk
  walks : Tab Walk
  recs : Tab FRec
  recWait : List WalkFor
  dormant : Bool
  held : Bool
  vcoreHeld : Bool
  deriving DecidableEq, Repr

/-- What a stack controller holds beside its registers: the number of the next request it admits (R341), the map-outs that
wait (R345), the channel that the running restripe takes out, where the patrol scrub is (R349), the die temperature when
self-refresh began (R353), accesses since the last one sampled (R445). -/
structure Stk where
  nextOrd : Nat
  waiting : List Nat
  removing : Option Nat
  scrubPos : Nat
  srTemp : Nat
  seen : Nat
  deriving DecidableEq, Repr

/-- The tract command that runs (R337): its words, the command ring it came from, whether MIGRATE or ADVISE
has begun it, the tracts still to do with the stack each
goes to, and how many are done. -/
structure TractCmd where
  words : List Word
  ring : Option Nat
  started : Bool
  todo : List (Nat × Nat)
  done : Nat
  deriving DecidableEq, Repr

end Sys2Proof.Machine
end

