-- ==== Sys2Proof/Machine/State.lean ====
section
/-!
DEFINITION. The state: the device and the queue of commands that wait for it.
-/
namespace Sys2Proof.Machine

/-- A Brynip message (spec/17 R381): channel, opcode, source and destination device, TAG, HOPS, CLS, ADDR, payload. -/
structure Msg where
  vc : Nat
  op : Nat
  src : Nat
  dst : Nat
  tag : Nat
  hops : Nat
  cls : Nat
  addr : Nat
  data : List Byte
  deriving DecidableEq, Repr

/-- A message that waits for an output port (R384): its source (0 local injection, p + 1 input port p), the port it must leave
by where its route does not say (the twin port, a landing port, a probe's alternate port), the message. -/
structure OutMsg where
  src : Nat
  port : Option Nat
  msg : Msg
  deriving DecidableEq, Repr

/-- A flit kept for resend (R392): its number, its content, whether it is idle, the credits it returns. -/
structure Sent where
  seq : Nat
  content : List Byte
  idle : Bool
  crvc : Nat
  crcls : Nat
  crcnt : Nat
  deriving DecidableEq, Repr

/-- A Sightline port beyond its registers (spec/17): the next number to send and to expect, the retry buffer, whether a NAK is
owed, credits owed to the far end by channel and class (2 v + c), the one last served, resends in a row without an advance of
ACK, how many messages of other channels started while a channel's head held credits, the source each channel served last, the
latched DATELINE, the content of the message that is arriving, the messages sent and not yet acknowledged
(the number of the last flit, whether forwarded), the flits sent, the step of a probe (0 none, 1 waiting, 2 lit,
3 held lit, 4 lit by a reply), whether a class 4 fault waits for the port to be up. -/
structure Port where
  txSeq : Nat
  rxSeq : Nat
  sent : List Sent
  nak : Bool
  owed : Tab Nat
  rrCr : Nat
  resends : Nat
  starve : Tab Nat
  rrSrc : Tab Nat
  dateline : Bool
  partMsg : List Byte
  unacked : List (Nat × Bool × Msg)
  wire : List (List Byte)
  probe : Nat
  lasting : Bool
  deriving DecidableEq, Repr

/-- A port after reset. -/
def Port.empty : Port :=
  { txSeq := 0, rxSeq := 0, sent := [], nak := false, owed := [], rrCr := 0, resends := 0, starve := [], rrSrc := [],
    dateline := false, partMsg := [], unacked := [], wire := [], probe := 0, lasting := false }

/-- The values of the ledger (spec/21 R460). `retired`: site in [9:0], class in [12:10]; `events`: entries of 16 bytes. -/
structure Led where
  seq : Nat
  select : Nat
  evhead : Nat
  platFloor : Nat
  fwFloor : Nat
  sessCtr : Nat
  fails : Nat
  retired : List Nat
  boots : Nat
  totals : List Nat
  chanmap : Tab Nat
  wayoff : Tab Nat
  events : Tab (List Byte)
  deriving DecidableEq, Repr

/-- What waits for a ledger record (R461): the boot, the CHALLENGE of an opening, a failure count, an applied plat, a fault's
action, a Dykereeve command, a firmware floor, Standby. -/
inductive LReason where
  | boot | challenge | fails | plat | fault | lcmd | floor | standby
  deriving DecidableEq, Repr

/-- A record being written: its slot of 128 (64 × bank + slot), how often it has been tried, its bytes, who waits. -/
structure LWrite where
  slot : Nat
  tries : Nat
  bytes : List Byte
  reasons : List LReason
  deriving DecidableEq, Repr

/-- The anchor in key storage (R463). -/
structure Anchor where
  seq : Nat
  platFloor : Nat
  fwFloor : Nat
  sessCtr : Nat
  deriving DecidableEq, Repr

/-- The Dykereeve (spec/21): the ledger's values, events not yet folded into TOTALS, records wanted and being written, key storage,
the stamps of counted events by unit (65536 × class + unit), lifetime counts, the units declared lasting in this boot, the HB_LCMD
command that runs: its word, and 1 once it has been performed and waits for its record. -/
structure Dyke where
  led : Led
  totPend : Tab Nat
  want : List LReason
  writing : Option LWrite
  owner : Option (List Byte)
  pass : Option (List Byte × Nat)
  platKeys : Tab (List Byte)
  anchor : Option Anchor
  stamps : Tab (List Nat)
  life : Tab Nat
  lastF : List Nat
  lcmd : Option (Nat × Nat)
  deriving DecidableEq, Repr

/-- A ledger with nothing in it. -/
def Led.empty : Led :=
  { seq := 0, select := 0, evhead := 0, platFloor := 0, fwFloor := 0, sessCtr := 0, fails := 0, retired := [], boots := 0,
    totals := [0, 0, 0, 0, 0], chanmap := [], wayoff := [], events := [] }

/-- A Dykereeve as it leaves the factory: key storage empty. -/
def Dyke.factory : Dyke :=
  { led := Led.empty, totPend := [], want := [], writing := none, owner := none, pass := none, platKeys := [], anchor := none,
    stamps := [], life := [], lastF := [], lcmd := none }

/-- The opening of a session and the open session (spec/18 R405): 0 none, 1 the ledger record awaited, 2 CHALLENGE sent; the
nonces, the key selected, its value, the TAG of the SOPEN. -/
structure Sess where
  stage : Nat
  nh : List Byte
  nd : List Byte
  keysel : Nat
  key : List Byte
  tag : Nat
  deriving DecidableEq, Repr

/-- No session. -/
def Sess.none : Sess := { stage := 0, nh := [], nd := [], keysel := 0, key := [], tag := 0 }

/-- A ring command in progress (spec/18 R409): its number in its ring, its 64 bytes, SQHEAD after its start, whether it has been
performed, how far a MOVE is and the request it waits for (whether a read), the cluster chosen for an unplaced START (for a REPLAT, 1:
the session ends after its event), its status and detail once they are known, whether its event is to be discarded. -/
structure RCmd where
  idx : Nat
  bytes : List Byte
  head : Nat
  began : Bool
  pos : Nat
  wait : Option (Nat × Bool)
  chosen : Nat
  res : Option (Nat × Nat)
  drop : Bool
  deriving DecidableEq, Repr

/-- A command ring beyond its registers: commands in progress, the number of the next, the request that fetches one, the passes of
the CQ so far, the events the face has not confirmed, events on their way to host memory (request, slot, bytes). -/
structure Ring where
  cmds : List RCmd
  next : Nat
  fetching : Option Nat
  pass : Nat
  unconf : List (Nat × List Byte)
  posts : List (Nat × Nat × List Byte)
  deriving DecidableEq, Repr

/-- A ring after reset. -/
def Ring.empty : Ring := { cmds := [], next := 0, fetching := Option.none, pass := 0, unconf := [], posts := [] }

/-- A part of a host's read or write: bytes at hand, or a request under way and how many bytes it brings. -/
inductive HPart where
  | bytes (bs : List Byte)
  | req (id n : Nat)
  deriving DecidableEq, Repr

/-- A read or write that came in and waits for requests beyond the device (spec/18 R403): its TAG, whether it reads, for a peer's request
its source and the opcode of its answer (R382), its parts. -/
structure HJob where
  tag : Nat
  isRead : Bool
  peer : Option (Nat × Nat)
  parts : List HPart
  deriving DecidableEq, Repr

/-- A bucket at its home in a buffer slot (spec/19 R420 to R424): reduction, step number as TAG carries it, bucket, the sums of the
elements that a share has reached, chunks that each slot has contributed, whether the deadline has expired once, whether it is complete. -/
structure Bkt where
  rid : Nat
  step : Nat
  bucket : Nat
  acc : Tab Nat
  seen : Tab Nat
  expired : Bool
  complete : Bool
  deriving DecidableEq, Repr

/-- A reduction beyond its registers (spec/19): the slot table that START copied, buckets started in order, own shares that wait for their
conversion, RESULT chunks written by bucket, buckets completed at home, requests for a backup's chunks, the step marked
repeated, the step that sends nothing more. -/
structure Red where
  members : List Nat
  started : Nat
  own : List Nat
  written : Tab Nat
  homeDone : List Nat
  pulls : List (Nat × Nat × Nat)
  repeated : Option Nat
  mute : Option Nat
  deriving DecidableEq, Repr

/-- A reduction after reset. -/
def Red.empty : Red :=
  { members := [], started := 0, own := [], written := [], homeDone := [], pulls := [], repeated := Option.none, mute := Option.none }

/-- The pair beyond SU_LVSTAT (spec/20): the BEAT sequence, the probe's step (0 none, 1 asked, 2 no alternate port), the twin's
last state, the digests of this twin and of the other that wait, the replay table (oldest first: SRC, TAG, ADDR, response opcode and
data), how far a rejoin is, a cause to fall out (the LEAVE reason), accesses
sampled by tract and quarter in this epoch and the last. -/
structure Lv where
  beatSeq : Nat
  probe : Nat
  farState : Nat
  farShort : Bool
  cause : Option Nat
  mine : Option (Nat × Nat)
  theirs : Option (Nat × Nat)
  replay : List (Nat × Nat × Nat × Nat × List Byte)
  syncPos : Nat
  epochAcc : Tab (List Nat)
  epochOld : Tab (List Nat)
  deriving DecidableEq, Repr

/-- A pair after reset. -/
def Lv.empty : Lv :=
  { beatSeq := 0, probe := 0, farState := 0, farShort := false, cause := Option.none, mine := Option.none, theirs := Option.none, replay := [], syncPos := 0, epochAcc := [],
    epochOld := [] }

/-- A re-plat between its verification and its apply (spec/02 R49): the image, the flash slot that holds it, whether it came
from the staging buffer. -/
structure Replat where
  img : List Byte
  slot : Nat
  staged : Bool
  deriving DecidableEq, Repr

/-- Operations of the hub that a command register has started and that have not run yet: HB_PWRCMD (OP, GROUP, whether the board
controller wrote it), HB_FWCMD (its word), the domain states before Standby, whether the device is in Standby. -/
structure HubOps where
  pwr : Option (Nat × Nat × Bool)
  fw : Option Word
  savedDom : Option (List Word)
  standby : Bool
  deriving DecidableEq, Repr

/-- The hub as it starts. -/
def HubOps.empty : HubOps := { pwr := none, fw := none, savedDom := none, standby := false }

/-- What holds the device in reset (spec/22): the loss of the reference clock, the thermal trip. -/
inductive Hold where
  | clock | thermal
  deriving DecidableEq, Repr

/-- The instruction of the scan port (spec/23 R496). -/
inductive ScanIr where
  | bypass | idcode | sample | extest | clamp | highz
  deriving DecidableEq, Repr

/-- The I3C target's offset and the last data it returned, the boundary-scan instruction, the boundary register and what the last scan
shifted out (spec/23 R495, R496). -/
structure Board where
  i3cOff : Nat
  i3cOut : Word
  ir : ScanIr
  boundary : Nat
  tdo : Nat
  qvid : List Nat
  deriving DecidableEq, Repr

/-- The board interfaces at power-on: IDCODE selected (PRESUMED, IEEE 1149.1), QVID code 21 on each quarter. -/
def Board.empty : Board := { i3cOff := 0, i3cOut := 0, ir := .idcode, boundary := 0, tdo := 0, qvid := [21, 21, 21, 21] }

/-- Averages and timers of power control that a command brings up to date (spec/22 R470, R471): milliseconds that both limits have held,
the ceilings have stood at the floor with a limit exceeded, and both limits have held without margin; in checks of 100 µs. -/
structure Power where
  calm : Nat
  floorFor : Nat
  within : Nat
  deriving DecidableEq, Repr

/-- Output lands that the block drives (spec/23): FIBRE_SEATED, THERMTRIP_N asserted. -/
structure Pins where
  fibreSeated : Bool
  thermTrip : Bool
  deriving DecidableEq, Repr

/-- Modes of a context that has not started: Datum level, vector mode (reset values of the maps). -/
def Modes.empty : Modes := ⟨3, false, 1, false, false, false, false, false, 0, 0, false, 0⟩

/-- Nothing done yet. -/
def Prog.empty : Prog :=
  { fl := 0, xsat := false, waiting := [], got := [], need := [], va := 0, acc := 0, yield := none, setup := false,
    fin := false, fault := none }

/-- A context after cluster reset. -/
def Ctx.empty : Ctx :=
  { s := [], v := [], m := [], pc := 0, cur := Modes.empty, shadow := [], wb := none, dfault := none,
    swtrap := none, ufault := none, dmc := none, dcf := none, delay := none, vq := [], xq := [],
    vp := Prog.empty, xp := Prog.empty, heldD := [], heldS := [], stop := false, park := none, handler := 0, tpend := [], lset0 := 0, lset1 := 0,
    starve := [], yielded := [], colls := [], gsel := none, wait64 := 0, pendS := 0, pendF := 0,
    storeErr := none, ords := [] }

/-- A cluster after cluster reset: empty caches, dispatch counter 1 (R131). -/
def Cluster.empty : Cluster :=
  { ctx := [], lbuf := [], ic := [], l1 := [], cc := [], side := [], mere := [], badMere := [], tiles := [], badTile := [],
    tlb := [], divOwner := none, vrun := none, xrun := none, vwait := [], xwait := [], summ := [],
    copies := [], nextSeq := 1, evq := [], dormant := false, inReset := false, heldEv := 0 }

/-- A quarter after reset. -/
def Quarter.empty : Quarter :=
  { qc := [], upAfter := [], tlb := [], wcache := [], missq := [], walks := [], recs := [],
    recWait := [], dormant := false, held := false, vcoreHeld := false }

/-- No plat applied (R51: plat-less). -/
def Plat.none : Plat :=
  { loaded := false, siteOf := [], parcels := [], stackOf := [], self := 0, roles := [], routes := [],
    domGroup := [], groups := [], levee := false, allot := false, bucket := 0, powerPol := 0, pkgCap := 0,
    tjCap := 0, allotMask := 0, twinId := 0, twinPort := 0, twinUid := [],
    agree := [], hash := [] }

/-- A tract at its window's computed location. -/
def Tract.home : Tract :=
  { frame := Option.none, repl := [], hints := 0, pref := Option.none, lost := false, covered := false, moving := Option.none,
    lastMove := 0, acc := 0, topq := 0 }

/-- A stack controller after reset. -/
def Stk.empty : Stk := { nextOrd := 0, waiting := [], removing := none, scrubPos := 0, srTemp := 0, seen := 0 }

/-- The device. -/
structure Dev where
  regs : Tab Word
  cl : Tab Cluster
  quarters : Tab Quarter
  mem : Tab Byte
  badMem : Tab Nat
  reqs : Tab Req
  events : List (Nat × Nat)
  outbox : List OutMsg
  inbox : List (Nat × Msg)
  ports : Tab Port
  tagCtr : Nat
  mirrored : List (Nat × Msg)
  freeCtr : Nat
  plat : Plat
  tracts : Tab Tract
  stks : Tab Stk
  fevents : List (Nat × Nat)
  wfdPend : List (Nat × Word × Word)
  tractCmd : Option TractCmd
  tractEnd : Option (Nat × Nat × Nat)
  platbuf : Tab Byte
  flash : Tab Byte
  dyke : Dyke
  sess : Sess
  attest : Option (List Byte × Nat × Nat)
  rings : Tab Ring
  relayed : List Nat
  pins : Pins
  hjobs : List HJob
  red : Tab Red
  bkts : List Bkt
  store : List Msg
  lv : Lv
  replat : Option Replat
  hub : HubOps
  holds : List Hold
  booted : Bool
  board : Board
  power : Power
  deriving DecidableEq, Repr

/-- The state: the device, and the commands that wait, first in, first out. -/
structure State where
  dev : Dev
  pending : List Instr
  deriving DecidableEq, Repr

/-- Why the block stops: it never does. Every trap, error response and reported fault of the spec is a command's effect on the state. -/
inductive Fault where
  /-- Raised by nothing (an inductive needs a constructor to be printed and compared). Safe: no step ends in it. -/
  | none
  deriving DecidableEq, Repr

/-- Why a command has no meaning. -/
inductive Refusal where
  /-- Raised by an arm of exec that has no meaning; there is none such. Safe: nothing is claimed of it. -/
  | notModelled (mnemonic : String)
  deriving DecidableEq, Repr

/-- The device after power-on reset. -/
def Dev.reset : Dev :=
  { regs := [], cl := [], quarters := [], mem := [], badMem := [], reqs := [], events := [], outbox := [], inbox := [], ports := [], tagCtr := 0, mirrored := [],
    freeCtr := 0, plat := Plat.none, tracts := [], stks := [], fevents := [], wfdPend := [], tractCmd := none,
    tractEnd := none, platbuf := [], flash := [], dyke := Dyke.factory, sess := Sess.none,
    attest := Option.none, rings := [], relayed := [], pins := ⟨false, false⟩,
    hjobs := [], red := [], bkts := [], store := [], lv := Lv.empty, replat := none, hub := HubOps.empty, holds := [],
    booted := false, board := Board.empty, power := ⟨0, 0, 0⟩ }

/-- The state after power-on reset. -/
def State.reset : State := { dev := Dev.reset, pending := [] }

end Sys2Proof.Machine
end

