-- ==== Sys2Proof/Machine/Ops.lean ====
section
/-!
DEFINITION. The named operations over the state: the register store, contexts, clusters, quarters, memory
bytes, free values. Every meaning reads and writes the state through these.
-/
namespace Sys2Proof.Machine

/-- The outcome of a command. -/
abbrev Out := Host.Outcome State Fault Refusal

/-- Answer the next state: the device changed by `f`, the queue as it is. -/
def State.upd (s : State) (f : Dev → Dev) : Out := .next { s with dev := f s.dev }

/-! ### Traps -/

/-- A machine check: `info` is what CL_MCINFO will read (KIND, UNIT in [7:4], TILE in [10:8]; spec/21). -/
def mcheck (info : Nat) (tval : Word) : Trap := ⟨9 + 256 * info, tval⟩
/-- The cause code of a trap. -/
def causeOf (t : Trap) : Nat := t.cause % 256

/-! ### Free values -/

/-- A free word, and the counter advanced. -/
def Dev.free (d : Dev) : Word × Dev := (Config.freeWord d.freeCtr, { d with freeCtr := d.freeCtr + 1 })

/-- A choice below `n` that the spec leaves to the hardware. -/
def Dev.choose (d : Dev) (n : Nat) : Nat × Dev :=
  (Config.choice d.freeCtr % (max n 1), { d with freeCtr := d.freeCtr + 1 })

/-! ### The register store -/

/-- The default of DK_THRESH_k: COUNT and WINDOW of R45. -/
def threshDefault (k : Nat) : Word :=
  let cw : Nat × Nat := [(4, 256), (4, 256), (64, 256), (128, 1024), (1024, 256)].getD k (0, 0)
  BitVec.ofNat 64 (cw.1 + cw.2 * 65536)

/-- CL_SRSTATE as the entropy source loads it: never zero (R186). -/
def srValue (w : Word) : Word := if w = 0 then 1 else w

/-- The value of a register that the store does not list: its reset value (R9), a fuse, or, for
CL_SRSTATE, a value of the entropy source. -/
def regDefault (o : Nat) : Word :=
  match blkOf o with
  | (.cluster l, r) =>
    if r = 0x70 then srValue (Config.entropy l)
    else match clusterReg r with | some m => m.reset | none => 0
  | (.dk, r) =>
    if r = 0x8 then Config.uid0 else if r = 0x10 then Config.uid1
    else if 0x40 ≤ r ∧ r < 0x68 then threshDefault ((r - 0x40) / 8)
    else if 0x100 ≤ r ∧ r < 0x168 then Config.siteFuse ((r - 0x100) / 8)
    else if 0x800 ≤ r ∧ r < 0x9B0 then Config.identityPublic ((r - 0x800) / 8)
    else match dkReg r with | some m => m.reset | none => 0
  | (.hub, r) =>
    match hubReg r with
    | some m => if r = 0x700 then setF m.reset HB_BOOTSTAT.KEYREV Config.keyRev.toNat else m.reset
    | none => 0
  | (b, r) => match regMapOf b r with | some m => m.reset | none => 0

/-- What register storage holds at a window offset. -/
def rget (d : Dev) (o : Nat) : Word := (Tab.find? d.regs o).getD (regDefault o)

/-- Register storage with `v` at a window offset. -/
def rset (d : Dev) (o : Nat) (v : Word) : Dev := { d with regs := Tab.set (regDefault o) d.regs o v }

/-- A field of a register. -/
def rgetF (d : Dev) (o : Nat) (f : Fld) : Nat := getF (rget d o) f

/-- A one-bit field of a register. -/
def rbit (d : Dev) (o : Nat) (f : Fld) : Bool := isSet (rget d o) f

/-- A field of a register replaced. -/
def rsetF (d : Dev) (o : Nat) (f : Fld) (v : Nat) : Dev := rset d o (setF (rget d o) f v)

/-- A one-bit field of a register replaced. -/
def rsetB (d : Dev) (o : Nat) (f : Fld) (b : Bool) : Dev := rset d o (setB (rget d o) f b)

/-- A counter field increased, wrapping in its width. -/
def rinc (d : Dev) (o : Nat) (f : Fld) : Dev := rsetF d o f (rgetF d o f + 1)

/-- A counter field increased, saturating at its largest value. -/
def rincSat (d : Dev) (o : Nat) (f : Fld) : Dev :=
  rsetF d o f (satAdd (2 ^ f.w - 1) (rgetF d o f) 1)

/-- Every register whose offset satisfies `p` back at its reset value. -/
def rreset (d : Dev) (p : Nat → Bool) : Dev := { d with regs := Tab.drop d.regs p }

/-! ### Clusters, contexts, quarters, memory -/

/-- Cluster `l`. -/
def getCl (d : Dev) (l : Nat) : Cluster := Tab.get Cluster.empty d.cl l
/-- Cluster `l` replaced. -/
def setCl (d : Dev) (l : Nat) (c : Cluster) : Dev := { d with cl := Tab.set Cluster.empty d.cl l c }
/-- Cluster `l` changed. -/
def updCl (d : Dev) (l : Nat) (f : Cluster → Cluster) : Dev := setCl d l (f (getCl d l))
/-- Context `c` of cluster `l`. -/
def getCtx (d : Dev) (l c : Nat) : Ctx := Tab.get Ctx.empty (getCl d l).ctx c
/-- Context `c` of cluster `l` replaced. -/
def setCtx (d : Dev) (l c : Nat) (x : Ctx) : Dev :=
  updCl d l (fun k => { k with ctx := Tab.set Ctx.empty k.ctx c x })
/-- Context `c` of cluster `l` changed. -/
def updCtx (d : Dev) (l c : Nat) (f : Ctx → Ctx) : Dev := setCtx d l c (f (getCtx d l c))
/-- Quarter `q`. -/
def getQ (d : Dev) (q : Nat) : Quarter := Tab.get Quarter.empty d.quarters q
/-- Quarter `q` changed. -/
def updQ (d : Dev) (q : Nat) (f : Quarter → Quarter) : Dev :=
  { d with quarters := Tab.set Quarter.empty d.quarters q (f (getQ d q)) }

/-- Scalar register `r` of a context: s0 reads as zero (R84). -/
def sread (x : Ctx) (r : Nat) : Word := if r = 0 then 0 else Tab.get 0 x.s r
/-- Scalar register `r` written: a write of s0 is discarded (R84). -/
def swrite (x : Ctx) (r : Nat) (v : Word) : Ctx := if r = 0 then x else { x with s := Tab.set 0 x.s r v }

/-- Vector register `r`. -/
def vread (x : Ctx) (r : Nat) : BitVec 4096 := Tab.get 0 x.v r
/-- Vector register `r` written. -/
def vwrite (x : Ctx) (r : Nat) (w : BitVec 4096) : Ctx := { x with v := Tab.set 0 x.v r w }
/-- Mask register `r`. -/
def mread (x : Ctx) (r : Nat) : BitVec 512 := Tab.get 0 x.m r
/-- Mask register `r` written. -/
def mwrite (x : Ctx) (r : Nat) (w : BitVec 512) : Ctx := { x with m := Tab.set 0 x.m r w }

/-- Bits [lo + w - 1 : lo] of a vector register. -/
def vbits {n : Nat} (x : BitVec n) (lo w : Nat) : Nat := (x.toNat >>> lo) % 2 ^ w
/-- A vector register with bits [lo + w - 1 : lo] replaced. -/
def vput {n : Nat} (x : BitVec n) (lo w v : Nat) : BitVec n :=
  let m := BitVec.ofNat n (ones w <<< lo)
  (x &&& ~~~ m) ||| (BitVec.ofNat n ((v % 2 ^ w) <<< lo))

/-- x-register `r` of thread `t` (R113). -/
def xread (x : Ctx) (r t : Nat) : Word := BitVec.ofNat 64 (vbits (vread x r) (64 * t) 64)
/-- x-register `r` of thread `t` written (R113). -/
def xwrite (x : Ctx) (r t : Nat) (w : Word) : Ctx := vwrite x r (vput (vread x r) (64 * t) 64 w.toNat)

/-- The key of byte `off` of stack `k` in memory: stacks stand 0x10_0000_0000 apart (R338). -/
def memKey (k off : Nat) : Nat := 0x10_0000_0000 * k + off
/-- Memory is in its one canonical form: keys strictly rising, no byte listed that reads as what an unlisted one reads as. -/
abbrev Memory.wf (m : Tab Byte) : Bool := Tab.wf 0 m
/-- A byte of a stack. -/
def mbyte (d : Dev) (k off : Nat) : Byte := Tab.get 0 d.mem (memKey k off)
/-- Bytes of a stack. -/
def mbytes (d : Dev) (k off n : Nat) : List Byte := Tab.getRun 0 d.mem (memKey k off) n
/-- Bytes of a stack written; the sectors touched lose an uncorrectable mark only where written whole. -/
def mwriteBytes (d : Dev) (k off : Nat) (bs : List Byte) : Dev :=
  { d with mem := Tab.setRun 0 d.mem (memKey k off) bs }

end Sys2Proof.Machine
end

