-- ==== Sys2Proof/Machine/Brynip.lean ====
section
/-!
DEFINITION. Brynip messages (spec/17 R380, R381): header, flits and their check, messages put on their way; which twin speaks
for a pair (spec/20 R433).
-/
namespace Sys2Proof.Machine

/-! ### CRC-32C (R378) -/

/-- One byte into a reflected CRC-32C. -/
def crcByte (c b : Nat) : Nat :=
  (List.range 8).foldl (fun c _ => if c.testBit 0 then (c >>> 1) ^^^ 0x82F63B78 else c >>> 1) (c ^^^ b)

/-- The CRC-32C of a byte string. -/
def crc32c (bs : List Byte) : Nat := (bs.foldl (fun c b => crcByte c b.toNat) (ones 32)) ^^^ ones 32

/-! ### Headers -/

/-- The 128-bit header of a message (R381). -/
def hdrNat (m : Msg) : Nat :=
  m.dst % 2 ^ 14 + (m.src % 2 ^ 14) * 2 ^ 14 + (m.vc % 8) * 2 ^ 28 + (m.op % 64) * 2 ^ 31 + (m.data.length % 4096) * 2 ^ 37 +
    (m.tag % 2 ^ 16) * 2 ^ 49 + (m.hops % 32) * 2 ^ 65 + (m.cls % 2) * 2 ^ 70 + (m.addr % 2 ^ 57) * 2 ^ 71

/-- The header as 16 bytes. -/
def hdrBytes (m : Msg) : List Byte := toBytes 16 (hdrNat m)

/-- LEN of a header. -/
def hdrLen (h : Nat) : Nat := bitsOf h 37 12

/-- The message that a header and the bytes after it spell. -/
def msgOf (h : Nat) (payload : List Byte) : Msg :=
  { dst := bitsOf h 0 14, src := bitsOf h 14 14, vc := bitsOf h 28 3, op := bitsOf h 31 6, tag := bitsOf h 49 16,
    hops := bitsOf h 65 5, cls := bitsOf h 70 1, addr := bitsOf h 71 57, data := payload.take (hdrLen h) }

/-- How many flits a message of `n` payload bytes fills (R380). -/
def flitsFor (n : Nat) : Nat := ceilDiv (16 + n) 56

/-- Content bytes cut into flits of 56, the last filled with zeros. -/
def flitCut : Nat → List Byte → List (List Byte)
  | 0, _ => []
  | k + 1, bs => (bs.take 56 ++ List.replicate (56 - bs.length) 0) :: flitCut k (bs.drop 56)

/-- The content bytes of a message's flits (R380). -/
def flitsOf (m : Msg) : List (List Byte) := flitCut (flitsFor m.data.length) (hdrBytes m ++ m.data)

/-- The link trailer's first word (R378). -/
def trailer (seq ack : Nat) (nak idle : Bool) (crvc crcls crcnt : Nat) : Nat :=
  seq % 4096 + (ack % 4096) * 4096 + (if nak then 2 ^ 24 else 0) + (if idle then 2 ^ 25 else 0) + (crvc % 8) * 2 ^ 26 +
    (crcls % 2) * 2 ^ 29 + (crcnt % 4) * 2 ^ 30

/-- A flit of 64 bytes (R378). -/
def flitBytes (content : List Byte) (tr : Nat) : List Byte :=
  let b := content ++ toBytes 4 tr
  b ++ toBytes 4 (crc32c b)

/-! ### The pair (spec/20) -/

/-- SU_LVSTAT.STATE. -/
def lvState (d : Dev) : Nat := rgetF d (suOff 0x1100) SU_LVSTAT.STATE
/-- Is the pair formed (PAIRED)? -/
def paired (d : Dev) : Bool := lvState d == 2
/-- Does this device act as the face? -/
def isFace (d : Dev) : Bool := rbit d (suOff 0x1100) SU_LVSTAT.FACE
/-- Does this device keep silent towards the world outside the pair (R433)? -/
def silent (d : Dev) : Bool := paired d && !isFace d
/-- The device ID that the outside knows: the face ID of a pair (R411, R432), else SELF. -/
def selfId (d : Dev) : Nat :=
  if paired d ∨ lvState d = 3 then min d.plat.self d.plat.twinId else d.plat.self
/-- Is a device ID this device's, or of its pair (R411)? A device without a plat has no other to pass a message to. -/
def isMe (d : Dev) (n : Nat) : Bool :=
  !d.plat.loaded || n == d.plat.self || ((paired d || lvState d == 3) && n == d.plat.twinId)

/-! ### Messages on their way -/

/-- A message of this device put among those that wait for an output port, as local injection (R384); one to this device
itself arrives at once (R387). -/
def inject (d : Dev) (port : Option Nat) (m : Msg) : Dev :=
  if port.isNone ∧ isMe d m.dst then { d with inbox := d.inbox ++ [(99, m)] }
  else { d with outbox := d.outbox ++ [⟨0, port, m⟩] }

/-- A message sent by its route. -/
def send (d : Dev) (m : Msg) : Dev := inject d none m

/-- A message of this device on a channel. -/
def mkMsg (d : Dev) (vc op dst tag addr : Nat) (data : List Byte) : Msg :=
  { vc := vc, op := op, src := selfId d, dst := dst, tag := tag, hops := 0, cls := 0, addr := addr, data := data }

/-- An answer to a message: none from the twin that keeps silent (R433). -/
def reply (d : Dev) (m : Msg) (vc op tag : Nat) (data : List Byte) : Dev :=
  if silent d then d else send d (mkMsg d vc op m.src tag 0 data)

/-- LANDID (R399). -/
def landId (d : Dev) : Nat := rgetF d (landOff 0) HB_SESSTAT.LANDID

/-- An upward host message to the landing device (R399). -/
def sendUp (d : Dev) (op tag addr : Nat) (data : List Byte) : Dev :=
  if silent d then d else send d (mkMsg d 3 op (landId d) tag addr data)

/-- A LOG message: its code and eight bytes of detail (R402), sent while a session is open. -/
def sendLog (d : Dev) (code detail : Nat) : Dev :=
  if rbit d (landOff 0) HB_SESSTAT.OPEN then sendUp d 0x2B 0 0 (toBytes 8 code ++ toBytes 8 detail) else d

/-- A message to the twin, through the twin port (R430). -/
def sendTwin (d : Dev) (op addr : Nat) (data : List Byte) : Dev :=
  inject d (some d.plat.twinPort)
    { vc := 4, op := op, src := d.plat.self, dst := d.plat.twinId, tag := 0, hops := 0, cls := 0, addr := addr, data := data }

/-- A message mirrored to the twin: MIRROR with its header, then MIRRORD with its payload (R433). -/
def mirror (d : Dev) (m : Msg) (key : Nat) : Dev := sendTwin (sendTwin d 3 key (hdrBytes m)) 4 0 m.data

end Sys2Proof.Machine
end

