-- ==== Sys2Proof/Machine/Operands.lean ====
section
/-!
DEFINITION. The syllable frame (spec/03 R52), the scalar operand forms (spec/04 R85), which syllables are legal in
slots A, B and M (spec/04 R86, spec/03 R56, spec/16 R365, spec/12 R285 and R296, spec/13 R309 and R310, spec/06 R150
and R155) and what each names.
-/
namespace Sys2Proof.Machine

/-- STOP, bit 31. -/
def stopBit (w : Syllable) : Bool := w.toNat.testBit 31
/-- SLOT, bits [30:28]. -/
def slotOf (w : Syllable) : Nat := bitsOf w.toNat 28 3
/-- MAJOR, bits [27:22]. -/
def majorOf (w : Syllable) : Nat := bitsOf w.toNat 22 6
/-- Bits [lo + n - 1 : lo] of a syllable. -/
def fld (w : Syllable) (lo n : Nat) : Nat := bitsOf w.toNat lo n
/-- RD, RT or SA: bits [21:17]. -/
def fRD (w : Syllable) : Nat := fld w 17 5
/-- RA: bits [16:12]. -/
def fRA (w : Syllable) : Nat := fld w 12 5
/-- RB: bits [11:7]. -/
def fRB (w : Syllable) : Nat := fld w 7 5
/-- FUNC[5:0], the OP of form R. -/
def fOP (w : Syllable) : Nat := fld w 0 6
/-- FUNC[6], the W variant of form R. -/
def fW (w : Syllable) : Bool := w.toNat.testBit 6
/-- FMT of form F, SZ of form AM. -/
def fFMT (w : Syllable) : Nat := fld w 5 2
/-- RM of form F. -/
def fRM (w : Syllable) : Nat := fld w 2 3
/-- FN of form F. -/
def fFN (w : Syllable) : Nat := fld w 0 2
/-- ORD of form AM and of FENCE. -/
def fORD (w : Syllable) : Nat := fld w 3 2
/-- SCOPE of form AM and of FENCE. -/
def fSCOPE (w : Syllable) : Nat := fld w 1 2
/-- IMM12 and DISP12, signed. -/
def fIMM12 (w : Syllable) : Int := sgn 12 (fld w 0 12)
/-- SEL of form C. -/
def fSEL (w : Syllable) : Nat := fld w 0 17

/-- The kinds of operation: one for each command that executes a syllable. -/
inductive Op where
  | alu | adds | mul | div | fadd | fdiv | fminimum | fcmp | fclass | fcvt
  | load | store | amo | getc | setc | sevt | wevt | wtal
  | br | bc | jr | loop | lbrk | fenceI | vsetvl | fence | copy | warr | pref | cmo | cmosw
  | trap | tack | tret | ifsave | ifload
  | vadd | vfadd | vsadd | vcmp | vmand | vcvt | vpack | vunpack | vmpop | vredsum | vfredosum
  | vcompress | vexpand | vperm | vmatch | vmerge | vld | vlseg | vldx | vstx | vstxr
  | talu | tload | tatomic | tbc | texit | gyield | gvote | gshfl | gbar
  | xopa | tzero | trel | tld | tst | tacc | gxld | gxst
  deriving DecidableEq, Repr

/-- A legal OP of the scalar ALU form (A and B major 0x00, thread majors 0x00 and 0x14). -/
def aluOp (w : Syllable) : Option Op :=
  if 0x15 < fOP w then none
  else if 0x13 ≤ fOP w ∧ fRB w ≠ 0 then none
  else if fOP w = 0x11 ∨ fOP w = 0x12 then some .adds else some .alu

/-- A legal immediate form: shifts take IMM12[11:6] as zero; `k` is the place in the list of R86. -/
def immOp (k : Nat) (w : Syllable) : Option Op :=
  if 4 ≤ k ∧ k ≤ 6 ∧ fld w 6 6 ≠ 0 then none else some .alu

/-- Legal F-form fields: FMT and a rounding RM. -/
def fRound (w : Syllable) : Bool := fFMT w != 3 && decide (fRM w ≤ 5)

/-- The float families by their place k = 0 .. 5 (A majors 0x24 to 0x29). -/
def floatOp (k : Nat) (w : Syllable) : Option Op :=
  match k with
  | 0 => if fRound w then (if fFN w = 3 then some .fdiv else some .fadd) else none
  | 1 => if fRound w then some .fadd else none
  | 2 => if fFMT w ≠ 3 ∧ fFN w = 0 ∧ fRM w ≤ 3 then some .fminimum else none
  | 3 => if fRound w ∧ fFN w ≤ 1 ∧ fRB w = 0 then (if fFN w = 0 then some .fdiv else some .fclass) else none
  | 4 => if fFMT w ≠ 3 ∧ fFN w = 0 ∧ fRM w ≤ 3 then some .fcmp else none
  | _ =>
    let src := fld w 9 3
    if fld w 7 2 ≠ 0 ∨ 5 < fRM w then none
    else if fFN w = 0 then (if fFMT w ≠ 3 ∧ src ≠ 3 then some .fcvt else none)
    else if fFN w = 1 then (if src ≤ 2 then some .fcvt else none)
    else none

/-- Is the SEL of a GETC or SETC well formed (R103)? -/
def selOk (w : Syllable) : Bool :=
  if (fSEL w).testBit 16 then bitsOf (fSEL w) 7 9 == 0 && bitsOf (fSEL w) 0 3 == 0
  else bitsOf (fSEL w) 0 3 == 0

/-- VSETVL is legal (spec/08 R189): CFG12[11] zero, FMT not 0xB to 0xF. -/
def vsetvlOk (w : Syllable) : Bool := fld w 11 1 == 0 && decide (fld w 4 4 ≤ 0xA)

/-- The operation of a legal A or B syllable, or none (R86, R56, R365). -/
def opAB (isA : Bool) (w : Syllable) : Option Op :=
  let mj := majorOf w
  if mj = 0x00 then aluOp w
  else if mj ≤ 0x0A then immOp (mj - 1) w
  else if mj = 0x0C then some .alu
  else if mj = 0x0D then (if fld w 16 1 = 0 then some .alu else none)
  else if isA then
    if mj = 0x20 then (if fOP w = 3 then some .adds else if fOP w ≤ 2 then some .mul else none)
    else if mj = 0x21 then (if fOP w ≤ 3 then some .div else none)
    else if 0x24 ≤ mj ∧ mj ≤ 0x29 then floatOp (mj - 0x24) w
    else none
  else
    if mj = 0x20 then (if selOk w then some .getc else none)
    else if mj = 0x21 then (if selOk w then some .setc else none)
    else if mj = 0x22 then (if fRD w = 0 ∧ fld w 0 7 = 0 then some .sevt else none)
    else if mj = 0x23 then (if fRB w = 0 ∧ fld w 0 7 = 0 then some .wevt else none)
    else if mj = 0x24 then (if fld w 0 7 = 0 then some .wtal else none)
    else if mj = 0x25 then (if vsetvlOk w then some .vsetvl else none)
    else if mj = 0x26 then some .trap
    else if mj = 0x27 then (if fld w 0 22 = 0 then some .tack else none)
    else if mj = 0x28 then (if fld w 0 22 = 0 then some .tret else none)
    else if mj = 0x30 ∨ mj = 0x31 then some .br
    else if mj = 0x32 then (if 6 ≤ fld w 14 3 ∧ fld w 20 2 ≠ 0 then none else some .bc)
    else if mj = 0x33 ∨ mj = 0x34 then some .jr
    else if mj = 0x35 then some .loop
    else if mj = 0x36 then (if fld w 0 22 = 0 then some .lbrk else none)
    else if mj = 0x37 then (if fld w 0 22 = 0 then some .fenceI else none)
    else none

/-- Is the ORD and SCOPE of an atomic legal (R155)? -/
def amoOk (w : Syllable) : Bool := fld w 0 1 == 0 && (fORD w != 0 || fSCOPE w == 0)

/-- The operation of a legal M syllable, or none. -/
def opM (w : Syllable) : Option Op :=
  let mj := majorOf w
  if mj ≤ 0x06 then some .load
  else if 0x08 ≤ mj ∧ mj ≤ 0x0B then some .store
  else if 0x10 ≤ mj ∧ mj ≤ 0x18 then (if amoOk w then some .amo else none)
  else if mj = 0x20 then (if fld w 5 17 = 0 ∧ fld w 0 1 = 0 ∧ fORD w ≠ 0 then some .fence else none)
  else if mj = 0x21 then (if fld w 17 5 = 0 ∧ fld w 0 12 = 0 then some .copy else none)
  else if mj = 0x22 then (if fld w 17 1 = 0 ∧ fld w 0 12 = 0 then some .warr else none)
  else if mj = 0x23 then (if fld w 18 4 = 0 then some .pref else none)
  else if mj = 0x24 then
    (if fld w 20 2 ≠ 0 ∧ fld w 18 2 ≠ 3 ∧ fld w 17 1 = 0 ∧ fld w 0 7 = 0 ∧ (fld w 18 2 ≠ 0 ∨ fld w 20 2 = 2)
     then some .cmo else none)
  else if mj = 0x25 then
    (if fld w 20 2 ≠ 0 ∧ fld w 17 1 = 0 ∧ fld w 0 12 = 0 ∧ (fld w 18 2 ≠ 0 ∨ fld w 20 2 = 2)
     then some .cmosw else none)
  else if mj = 0x30 then (if fld w 18 4 = 0 then some .ifsave else none)
  else if mj = 0x31 then (if fld w 18 4 = 0 then some .ifload else none)
  else none

/-- The B-slot control syllables: majors 0x30 to 0x3F, and TRET (R56, R365). -/
def isCtl (w : Syllable) : Bool :=
  slotOf w == 1 && (decide (0x30 ≤ majorOf w) || majorOf w == 0x28)

/-- The branches that have a delay bundle (R64). -/
def isBranch (w : Syllable) : Bool := slotOf w == 1 && decide (0x30 ≤ majorOf w ∧ majorOf w ≤ 0x34)

/-- Do the MAJOR and the function fields of an A-slot word name an instruction (R86)? -/
def knownA (w : Syllable) : Bool :=
  let mj := majorOf w
  if mj = 0x00 then decide (fOP w ≤ 0x15)
  else if mj = 0x20 ∨ mj = 0x21 then decide (fOP w ≤ 3)
  else if mj = 0x26 ∨ mj = 0x28 then fFN w == 0 && decide (fRM w ≤ 3)
  else if mj = 0x27 ∨ mj = 0x29 then decide (fFN w ≤ 1)
  else decide (mj ≤ 0x0A ∨ mj = 0x0C ∨ mj = 0x0D ∨ mj = 0x24 ∨ mj = 0x25)

/-- The scalar destination of an A, B or M syllable; s0 names none, nor does a word that is no instruction (R54). -/
def sdst (w : Syllable) : Option Nat :=
  let r := fRD w
  let some? (n : Nat) : Option Nat := if n = 0 then none else some n
  match slotOf w with
  | 0 => if knownA w then some? r else none
  | 1 =>
    if majorOf w ≤ 0x0D then (if knownA w then some? r else none)
    else if majorOf w = 0x20 ∨ majorOf w = 0x23 ∨ majorOf w = 0x24 ∨ majorOf w = 0x25 then some? r
    else if majorOf w = 0x31 ∨ majorOf w = 0x34 then some 31
    else none
  | 2 =>
    if majorOf w ≤ 0x06 ∨ (0x10 ≤ majorOf w ∧ majorOf w ≤ 0x18) then some? r else none
  | _ => none

/-- The scalar registers that an A, B or M syllable reads. -/
def ssrc (w : Syllable) : List Nat :=
  let mj := majorOf w
  match slotOf w with
  | 0 =>
    if mj = 0x00 ∨ mj = 0x20 ∨ mj = 0x21 ∨ mj = 0x24 ∨ mj = 0x26 ∨ mj = 0x28 then [fRA w, fRB w]
    else if mj = 0x25 then [fRA w, fRB w, fRD w]
    else if mj ≤ 0x0A ∨ mj = 0x27 ∨ mj = 0x29 then [fRA w]
    else if mj = 0x0D then [fRD w] else []
  | 1 =>
    if mj = 0x00 ∨ mj = 0x22 ∨ mj = 0x24 then [fRA w, fRB w]
    else if mj ≤ 0x0A ∨ mj = 0x23 ∨ mj = 0x25 then [fRA w]
    else if mj = 0x0D ∨ mj = 0x21 ∨ mj = 0x33 ∨ mj = 0x34 ∨ mj = 0x35 then [fRD w]
    else if mj = 0x32 then (if fld w 14 3 < 6 then [fRD w] else []) else []
  | 2 =>
    if mj ≤ 0x06 ∨ mj = 0x23 ∨ mj = 0x30 ∨ mj = 0x31 then [fRA w]
    else if mj ≤ 0x0B then [fRA w, fRD w]
    else if mj ≤ 0x18 ∧ 0x10 ≤ mj then [fRA w, fRB w, fRD w]
    else if mj = 0x21 then [fRA w, fRA w + 1, fRA w + 2, fRA w + 3]
    else if mj = 0x22 then [fRA w]
    else if mj = 0x24 ∨ mj = 0x25 then [fRA w, fRB w] else []
  | _ => []

/-- The condition flag that a BC reads. -/
def fsrc (w : Syllable) : Option Nat :=
  if slotOf w = 1 ∧ majorOf w = 0x32 ∧ 6 ≤ fld w 14 3 then some (fld w 17 3) else none

/-- The window offset of the register that a SEL names on cluster `l`, context `c` (R103). -/
def selOff (l c sel : Nat) : Nat :=
  if sel.testBit 16 then csOff l c (bitsOf sel 0 7) else clOff l (bitsOf sel 0 16)

/-- The lowest level (0 User, 1 Supervisor, 3 Datum) at which context `c` may GETC or SETC the register at offset
`o` of its cluster's block; each register's own chapter gives it (R103, R355, R376). -/
def selLevel (isSet : Bool) (c o : Nat) : Nat :=
  if 0x4000 ≤ o ∧ o < 0x4800 then
    let k := (o - 0x4000) / 0x100
    let r := (o - 0x4000) % 0x100
    if r = 0x88 ∧ isSet then 1
    else if 0xC0 ≤ r then (if k = c then 1 else 3) else 3
  else if 0x2000 ≤ o ∧ o < 0x4000 then (if isSet then 3 else 0)
  else if 0x1000 ≤ o ∧ o < 0x1400 then
    let k := (o - 0x1000) / 0x80
    let r := (o - 0x1000) % 0x80
    if !isSet then 0
    else if r = 0x58 then 3
    else if r = 0x38 ∨ r = 0x48 ∨ r = 0x50 ∨ r = 0x60 ∨ r = 0x68 then 1
    else if k = c then 0 else 1
  else if 0x400 ≤ o ∧ o < 0x440 then (if (o - 0x400) / 8 ≠ c then 1 else 0)
  else if 0x480 ≤ o ∧ o < 0x4C0 then (if isSet then 3 else 0)
  else if o = 0x500 then (if isSet then 3 else 0)
  else if o = 0x508 then (if isSet then 1 else 0)
  else if 0x600 ≤ o ∧ o < 0x6C0 then (if isSet ∨ (o % 0x40) / 8 ≠ c then 1 else 0)
  else if o = 0x700 then (if isSet then 3 else 0)
  else if o = 0x708 ∨ o = 0x710 then (if isSet then 1 else 0)
  else if 0x800 ≤ o ∧ o < 0xC00 then (if isSet ∨ (o - 0x800) / 0x80 ≠ c then 1 else 0)
  else if 0xC00 ≤ o ∧ o < 0xC40 then (if isSet then 3 else 0)
  else if o = 0x60 ∨ o = 0x68 ∨ o = 0x70 then (if isSet then 1 else 0)
  else 0

/-- The level a legal A, B or M syllable needs (R355, R312, R103). -/
def sylLevel (c : Nat) (w : Syllable) : Nat :=
  let mj := majorOf w
  match slotOf w with
  | 1 =>
    if mj = 0x27 ∨ mj = 0x28 then 1
    else if mj = 0x20 ∨ mj = 0x21 then selLevel (mj == 0x21) c (selOff 0 c (fSEL w) - clOff 0 0)
    else 0
  | 2 => if mj = 0x25 ∨ mj = 0x30 ∨ mj = 0x31 then 3 else 0
  | _ => 0

end Sys2Proof.Machine
end

