-- ==== Sys2Proof/Machine/Compute.lean ====
section
/-!
DEFINITION. What the scalar operations compute from their operands (spec/04 R87 to R90, R94, R96 to R99), written
once for the A and B slots, for thread syllables (spec/05 R116) and for the atomic units (spec/15 R350).
-/
namespace Sys2Proof.Machine

/-- The signed value of the low w bits. -/
def sval (w : Nat) (x : Word) : Int := sgn w x.toNat

/-- A result of an operation on `w` bits written to a 64-bit register: sign-extended from the W variant (R87). -/
def wres (w : Nat) (i : Int) : Word := if w = 64 then BitVec.ofInt 64 i else sext64 w (wrap w i)

/-- Count of leading zeros in `w` bits. -/
def clzN (w x : Nat) : Nat := w - bitLen (x % 2 ^ w)
/-- Count of trailing zeros in `w` bits. -/
def ctzN (w x : Nat) : Nat := (lowBit w x).getD w

/-- The ALU operations of R86 major 0x00: the result and whether a checked form overflowed (R87, R88). -/
def aluCompute (op : Nat) (w32 : Bool) (a b : Word) : Word × Bool :=
  let w := if w32 then 32 else 64
  let ua := a.toNat % 2 ^ w
  let ub := b.toNat % 2 ^ w
  let sa := sval w a
  let sb := sval w b
  let sh := b.toNat % w
  let bool (c : Bool) : Word × Bool := (if c then 1 else 0, false)
  let nat (n : Nat) : Word × Bool := (wres w n, false)
  match op with
  | 0x00 => (wres w (sa + sb), false)
  | 0x01 => (wres w (sa - sb), false)
  | 0x02 => nat (ua &&& ub)
  | 0x03 => nat (ua ||| ub)
  | 0x04 => nat (ua ^^^ ub)
  | 0x05 => nat (ua &&& (ub ^^^ ones w))
  | 0x06 => nat (ua <<< sh)
  | 0x07 => nat (ua >>> sh)
  | 0x08 => (wres w (sa / 2 ^ sh), false)
  | 0x09 => nat ((ua >>> sh) ||| (ua <<< (w - sh)))
  | 0x0A => bool (ua == ub)
  | 0x0B => bool (decide (sa < sb))
  | 0x0C => bool (decide (ua < ub))
  | 0x0D => (wres w (min sa sb), false)
  | 0x0E => (wres w (max sa sb), false)
  | 0x0F => nat (min ua ub)
  | 0x10 => nat (max ua ub)
  | 0x11 => (wres w (sa + sb), decide (sgn w (wrap w (sa + sb)) ≠ sa + sb))
  | 0x12 => (wres w (sa - sb), decide (sgn w (wrap w (sa - sb)) ≠ sa - sb))
  | 0x13 => nat (clzN w ua)
  | 0x14 => nat (ctzN w ua)
  | _ => nat (popc w ua)

/-- The immediate forms in the order of R86: which ALU operation each is. -/
def immAlu (k : Nat) : Nat := [0x00, 0x02, 0x03, 0x04, 0x06, 0x07, 0x08, 0x0A, 0x0B, 0x0C].getD k 0

/-- MUL 0, MULH 1, MULHU 2, MULS 3 (R88, R89): the result and whether MULS overflowed. -/
def mulCompute (op : Nat) (w32 : Bool) (a b : Word) : Word × Bool :=
  let w := if w32 then 32 else 64
  let p := sval w a * sval w b
  let u := (a.toNat % 2 ^ w) * (b.toNat % 2 ^ w)
  match op with
  | 0 => (wres w p, false)
  | 1 => (wres w (p / 2 ^ w), false)
  | 2 => (wres w (u / 2 ^ w : Nat), false)
  | _ => (wres w p, decide (sgn w (wrap w p) ≠ p))

/-- DIV 0, DIVU 1, REM 2, REMU 3 (R90): the result, a zero divisor, a signed overflow. -/
def divCompute (op : Nat) (w32 : Bool) (a b : Word) : Word × Bool × Bool :=
  let w := if w32 then 32 else 64
  let sa := sval w a
  let sb := sval w b
  let ua := a.toNat % 2 ^ w
  let ub := b.toNat % 2 ^ w
  let isRem : Bool := decide (2 ≤ op)
  let uns : Bool := op % 2 == 1
  if ub = 0 then (if isRem then wres w sa else wres w (-1), true, false)
  else if uns then (if isRem then wres w (ua % ub : Nat) else wres w (ua / ub : Nat), false, false)
  else if sa = -(2 ^ (w - 1)) ∧ sb = -1 then (if isRem then 0 else wres w sa, false, true)
  else (if isRem then wres w (sa.tmod sb) else wres w (sa.tdiv sb), false, false)

/-- The IEEE format of an FMT field (R85). -/
def fmtOfField (f : Nat) : FFmt := if f = 0 then fmt16 else if f = 1 then fmt32 else fmt64

/-- The rounding mode of an RM field: 0 is CL_FCSR.RM (R85). -/
def rmOf (md : Modes) (rm : Nat) : Nat := if rm = 0 then md.rm else rm

/-- A value put in a register in a format, the bits above zero (R97). -/
def freg (f : FFmt) (rm : Nat) (v : FV) (fl : Nat) : Word × Nat :=
  let (b, fl2) := packF f rm 0 false v
  (BitVec.ofNat 64 b, fl ||| fl2)

/-- FADD, FSUB, FMUL, FDIV by FN (R96). -/
def fArith (fn : Nat) (f : FFmt) (rm : Nat) (a b : Word) : Word × Nat :=
  let x := decodeF f a.toNat
  let y := decodeF f b.toNat
  let (v, fl) := match fn with
    | 0 => addV rm x y
    | 1 => addV rm x y.neg
    | 2 => mulV x y
    | _ => divV x y
  freg f rm v fl

/-- FMADD, FMSUB, FNMADD, FNMSUB by FN (R96): one rounding. -/
def fFma (fn : Nat) (f : FFmt) (rm : Nat) (a b c : Word) : Word × Nat :=
  let x := decodeF f a.toNat
  let y := decodeF f b.toNat
  let z := decodeF f c.toNat
  let x := if fn = 2 ∨ fn = 3 then x.neg else x
  let z := if fn = 1 ∨ fn = 2 then z.neg else z
  let (v, fl) := fmaV rm x y z
  freg f rm v fl

/-- The float families of A majors 0x24 to 0x29 by their place `k`: the result and the flags. `c` is s[RD]. -/
def fCompute (k : Nat) (md : Modes) (w : Syllable) (a b c : Word) : Word × Nat :=
  let f := fmtOfField (fFMT w)
  let rm := rmOf md (fRM w)
  match k with
  | 0 => fArith (fFN w) f rm a b
  | 1 => fFma (fFN w) f rm a b c
  | 2 =>
    let (v, fl) := minmaxOp (fRM w) (decodeF f a.toNat) (decodeF f b.toNat)
    freg f 1 v fl
  | 3 =>
    if fFN w = 0 then (let (v, fl) := sqrtV (decodeF f a.toNat); freg f rm v fl)
    else (BitVec.ofNat 64 (classF f (a.toNat % 2 ^ f.width)), 0)
  | 4 =>
    let (r, fl) := cmpOp (fRM w) (decodeF f a.toNat) (decodeF f b.toNat)
    (if r then 1 else 0, fl)
  | _ =>
    let src := fld w 9 3
    let v : FV := match src with
      | 0 => decodeF fmt16 a.toNat
      | 1 => decodeF fmt32 a.toNat
      | 2 => decodeF fmt64 a.toNat
      | 4 => ofIntV (sval 64 a)
      | 5 => ofIntV a.toNat
      | 6 => ofIntV (sval 32 a)
      | _ => ofIntV ((a.toNat % 2 ^ 32 : Nat) : Int)
    if fFN w = 0 then freg f rm v (sigFlag v)
    else
      let ty := fFMT w
      let wd := if ty ≤ 1 then 32 else 64
      let (i, fl) := toIntV wd (ty % 2 == 0) rm 0 v
      (if ty % 2 = 0 then wres wd i else BitVec.ofInt 64 i, fl)

/-- The new value of an atomic, by its place in the order of M majors 0x10 to 0x18 (R94); none: nothing is written. -/
def amoNew (op bits old val cmp : Nat) : Option Nat :=
  let m := 2 ^ bits
  let so := sgn bits old
  let sv := sgn bits val
  match op with
  | 0 => some (val % m)
  | 1 => if old % m = cmp % m then some (val % m) else none
  | 2 => some ((old + val) % m)
  | 3 => some ((old &&& val) % m)
  | 4 => some ((old ||| val) % m)
  | 5 => some (wrap bits (min so sv))
  | 6 => some (wrap bits (max so sv))
  | 7 => some (min (old % m) (val % m))
  | _ => some (max (old % m) (val % m))

/-- What an atomic writes to its register from the old value: AMOMIN and AMOMAX sign-extend it (R94). -/
def amoOld (op bits old : Nat) : Word :=
  if op = 5 ∨ op = 6 then sext64 bits old else BitVec.ofNat 64 (old % 2 ^ bits)

/-- The size in bytes of a load or store by MAJOR, and whether a load sign-extends (R86, R91). -/
def memSize (mj : Nat) : Nat × Bool :=
  match mj with
  | 0x00 => (1, true) | 0x01 => (1, false) | 0x02 => (2, true) | 0x03 => (2, false)
  | 0x04 => (4, true) | 0x05 => (4, false) | 0x06 => (8, false)
  | 0x08 => (1, false) | 0x09 => (2, false) | 0x0A => (4, false) | _ => (8, false)

/-- A loaded value extended to the register (R91). -/
def loadExt (n : Nat) (sx : Bool) (v : Nat) : Word := if sx then sext64 (8 * n) v else BitVec.ofNat 64 (v % 2 ^ (8 * n))

/-- The condition of BC on a register (R56): EQZ, NEZ, LTZ, GEZ, GTZ, LEZ. -/
def condHolds (c : Nat) (x : Word) : Bool :=
  let i := sval 64 x
  match c with
  | 0 => i == 0
  | 1 => i != 0
  | 2 => decide (i < 0)
  | 3 => decide (0 ≤ i)
  | 4 => decide (0 < i)
  | _ => decide (i ≤ 0)

end Sys2Proof.Machine
end

