-- ==== Sys2Proof/Machine/Xlat.lean ====
section
/-!
DEFINITION. The path of an address (spec/14 R317): the Mere aperture (spec/12 R283), translation through the
cluster TLB (R318, R323), the window map (R328), permissions, the tract lookup (R335).
-/
namespace Sys2Proof.Machine

/-- The physical site of a logical cluster; without a plat entry, none. -/
def siteOfCl (d : Dev) (l : Nat) : Option Nat := Tab.find? d.plat.siteOf l
/-- The quarter a logical cluster stands in (R18). -/
def quarterOf (d : Dev) (l : Nat) : Nat := ((siteOfCl d l).getD 0) / 208
/-- CL_MERE.WAYS of a cluster: W (R280). -/
def mereWays (d : Dev) (l : Nat) : Nat := rgetF d (clOff l 0x500) CL_MERE.WAYS
/-- The populated length of a stack (R339). -/
def stackLen (d : Dev) (k : Nat) : Nat := rgetF d (stkOff k 0) MS_LEN.LEN
/-- The stacks bound to a parcel, ascending (R42). -/
def boundStacks (d : Dev) (p : Nat) : List Nat :=
  filterUpto 24 (fun k => d.plat.stackOf.getD k 0xFF == p)
/-- The granule of GRAN (R42). -/
def granule (g : Nat) : Nat := if g = 0 then 0x1000 else if g = 1 then 0x1_0000 else 0x20_0000

/-- Word j of window i (TR_WIN_i). -/
def winWord (d : Dev) (i j : Nat) : Word := rget d (qOff 0 (0x2000 + 0x20 * i + 8 * j))

/-- Window i resolves device address `a`: where it lands (R328). -/
def winTarget (d : Dev) (i a : Nat) : Option Target :=
  let t := winWord d i 3
  let o := a - (winWord d i 0).toNat + (winWord d i 2).toNat
  let tid := getF t TR_WIN_T.TID
  match getF t TR_WIN_T.TTYPE with
  | 0 => if stackLen d tid ≤ o then none else some (.stack tid o)
  | 1 =>
    let ks := boundStacks d tid
    let n := ks.length
    let len := ks.foldl (fun m k => min m (stackLen d k)) (stackLen d (ks.getD 0 0))
    let g := granule (getF t TR_WIN_T.GRAN)
    if n = 0 ∨ n * len ≤ o then none
    else some (.stack (ks.getD (o / g % n) 0) (o / g / n * g + o % g))
  | 2 => some (.peer tid o)
  | 3 => some (.host o)
  | _ => some (.mgmt o)

/-- Does window i hold device address `a`? A SIZE of zero is an unused entry. -/
def winHolds (d : Dev) (i a : Nat) : Bool :=
  let b := (winWord d i 0).toNat
  let n := (winWord d i 1).toNat
  decide (b ≤ a ∧ a < b + n)

/-- The tract of a device address. -/
def tractOf (d : Dev) (a : Nat) : Tract := Tab.get Tract.home d.tracts (a / 0x20_0000)

/-- A device address through the window map: target and ATTR, or a window miss (R328). A lost tract misses (R344). -/
def resolveWin (d : Dev) (a : Nat) : Option (Target × Nat) :=
  match findUpto 64 (fun i => winHolds d i a) with
  | none => none
  | some i =>
    match winTarget d i a with
    | some (.stack k o) => if (tractOf d a).lost then none else some (.stack k o, getF (winWord d i 3) TR_WIN_T.ATTR)
    | some t => some (t, getF (winWord d i 3) TR_WIN_T.ATTR)
    | none => none

/-- The tract lookup (R335): a stack target moves to the tract's frame; a read may be served by the replica whose
stack stands beside the reader's quarter. A chunk already moved stands at the new frame. -/
def placeTract (d : Dev) (a q : Nat) (write : Bool) (t : Target) : Target :=
  match t with
  | .stack _ _ =>
    let tr := tractOf d a
    let o := a % 0x20_0000
    let base : Target := match tr.frame with
      | some (k, f) => .stack k (f + o)
      | none => t
    let base : Target := match tr.moving with
      | some (next, k, f) => if o / 0x1_0000 < next then .stack k (f + o) else base
      | none => base
    if write then base
    else match tr.repl.find? (fun p => p.1 / 6 == q) with
      | some (k, f) => .stack k (f + o)
      | none => base
  | _ => t

/-- ATTR bits (spec/02 R40's WINDOW entry). -/
def attrWrite (a : Nat) : Bool := a.testBit 0
/-- EXEC. -/
def attrExec (a : Nat) : Bool := a.testBit 1
/-- QCACHE; the management window never uses the caches (R41). -/
def attrQ (a : Nat) : Bool := a.testBit 2
/-- DATUM. -/
def attrDatum (a : Nat) : Bool := a.testBit 3

/-- Classes of access: read, write-class, fetch (R330). -/
inductive AccKind where
  | rd | wr | fe
  deriving DecidableEq, Repr

/-- The code of an access class in a fault record (R330). -/
def AccKind.code : AccKind → Nat
  | .rd => 0 | .wr => 1 | .fe => 2

/-- The Mere offset of an address in the aperture (R283). -/
def mereOff (md : Modes) (a : Word) : Option Nat :=
  let b := (md.mbase.toNat >>> 20) <<< 20
  if md.mbase.toNat.testBit 0 ∧ b ≤ a.toNat ∧ a.toNat < b + 0x10_0000 then some (a.toNat - b) else none

/-- Does translation apply (R318)? -/
def translated (md : Modes) : Bool := md.xen && md.plev != 3

/-- Does a TLB entry hold the page and allow the access (R321, R323)? -/
def tlbAllows (e : Tlb) (asid : Nat) (a : Word) (user : Bool) (k : AccKind) : Bool :=
  e.asid == asid && a.toNat >>> e.lg == e.vpn && (!user || e.us) &&
  (match k with | .rd => true | .wr => e.wr && e.dirty | .fe => e.ex)

/-- The device address through an entry. -/
def tlbAddr (e : Tlb) (a : Word) : Nat := e.frame + a.toNat % 2 ^ e.lg

/-- What becomes of an address. -/
inductive AccRes where
  | mere (off : Nat)
  | ok (da : Nat) (t : Target) (attr : Nat)
  | walk
  | trap (t : Trap)
  | miss (da : Nat)
  deriving DecidableEq, Repr

/-- Window, permission and tract for a device address (R317 steps 3 to 5). -/
def accessDA (d : Dev) (q : Nat) (plev : Nat) (xl : Bool) (va : Word) (da : Nat) (k : AccKind) : AccRes :=
  match resolveWin d da with
  | none => if xl then .miss da else .trap ⟨if k = .fe then 1 else 7, va⟩
  | some (t, at_) =>
    if k = .fe ∧ !attrExec at_ then .trap ⟨1, va⟩
    else if (k = .wr ∧ !attrWrite at_) ∨ (attrDatum at_ ∧ plev ≠ 3) then
      .trap ⟨if k = .fe then 1 else 8, va⟩
    else .ok da (placeTract d da q (k == .wr) t) at_

/-- An access of `n` bytes at `va` from cluster `l` under modes `md` (R317). -/
def access (d : Dev) (l : Nat) (md : Modes) (va : Word) (k : AccKind) : AccRes :=
  match mereOff md va with
  | some o =>
    if k = .fe then .trap ⟨1, va⟩
    else if mereWays d l * 0x1_0000 ≤ o then .trap ⟨8, va⟩ else .mere o
  | none =>
    let q := quarterOf d l
    if translated md then
      match (getCl d l).tlb.find? (fun e => tlbAllows e md.asid va (md.plev == 0) k) with
      | some e => accessDA d q md.plev true va (tlbAddr e va) k
      | none => .walk
    else accessDA d q md.plev false va va.toNat k

end Sys2Proof.Machine
end

