-- ==== Sys2Proof/Machine/Cache.lean ====
section
/-!
DEFINITION. Cache lines and where they stand (spec/13 R299 to R302), stack bytes with their uncorrectable marks
(spec/15 R346 to R349), reads and writes at the home point (spec/06 R147), the cluster store and its dirty bytes
(spec/06 R148, R149), the requests that leave a cluster (spec/12 R298).
-/
namespace Sys2Proof.Machine

/-! ### Lines of 512 bytes -/

/-- A mask of bytes [o, o + n). -/
def byteMask (o n : Nat) : Nat := ones n <<< o

/-- Every bit of a byte mask spread over its byte, for `k` bytes. -/
def spread (k m : Nat) : Nat :=
  (List.range k).foldl (fun a i => if m.testBit i then a ||| (0xFF <<< (8 * i)) else a) 0

/-- Bytes where `m` is set from `new`, elsewhere from `old`, for `k` bytes. -/
def mergeBytes (k m old new : Nat) : Nat :=
  let s := spread k m
  (old &&& (ones (8 * k) - s)) ||| (new &&& s)

/-- The bytes of a line that it holds: whole sectors and dirty bytes (R301). -/
def slHave (l : Sline) : Nat :=
  (List.range 8).foldl (fun a s => if l.full.testBit s then a ||| byteMask (64 * s) 64 else a) l.dirty.toNat

/-- Does the line hold bytes [o, o + n)? -/
def slHit (l : Sline) (o n : Nat) : Bool := byteMask o n &&& slHave l == byteMask o n

/-- Bytes [o, o + n) of a line. -/
def slRead (l : Sline) (o n : Nat) : Nat := vbits l.data (8 * o) (8 * n)

/-- A line with the bytes that `m` selects from `o` on written; `dirt`: they become dirty. -/
def slWrite (l : Sline) (o n m v : Nat) (dirt : Bool) : Sline :=
  let cur := slRead l o n
  { l with data := vput l.data (8 * o) (8 * n) (mergeBytes n m cur v),
           dirty := if dirt then l.dirty ||| BitVec.ofNat 512 (m <<< o) else l.dirty }

/-- Sector `s` filled: fetched bytes go under the dirty ones (R301). -/
def slFill (l : Sline) (s v : Nat) (bad : Bool) : Sline :=
  let dm := bitsOf l.dirty.toNat (64 * s) 64
  let cur := slRead l (64 * s) 64
  { l with data := vput l.data (512 * s) 512 (mergeBytes 64 dm v cur),
           full := setBit l.full s, bad := if bad then setBit l.bad s else clrBit l.bad s }

/-- Is any byte of sector `s` dirty? -/
def slDirty (l : Sline) (s : Nat) : Bool := bitsOf l.dirty.toNat (64 * s) 64 != 0

/-- Sector `s` no longer dirty. -/
def slClean (l : Sline) (s : Nat) : Sline :=
  { l with dirty := l.dirty &&& ~~~ (BitVec.ofNat 512 (byteMask (64 * s) 64)) }

/-- Sector `s` dropped, dirty bytes included. -/
def slDrop (l : Sline) (s : Nat) : Sline :=
  let l := slClean l s
  { l with full := clrBit l.full s, bad := clrBit l.bad s }

/-- Clean sectors dropped, dirty ones kept (R150). -/
def slDropClean (l : Sline) : Sline :=
  (List.range 8).foldl (fun l s => if slDirty l s then l else slDrop l s) l

/-- Does the line hold nothing? -/
def slEmpty (l : Sline) : Bool := l.full == 0 && l.dirty == 0

/-- An empty line of a number. -/
def slNew (ln : Nat) : Sline := ⟨ln, 0, 0, 0, 0⟩

/-- The way in which a set holds a line, among ways lo .. 15. -/
def findWay (t : Tab Sline) (base lo ln : Nat) : Option Nat :=
  ((List.range 16).filter (fun w => lo ≤ w)).find? (fun w =>
    match Tab.find? t (base + w) with | some l => l.ln == ln | none => false)

/-- First key of a cluster cache set (R299: index [15:9]). -/
def ccBase (da : Nat) : Nat := da / 512 % 128 * 16
/-- First key of a quarter cache set (R299: slice [12:9], set [20:13]). -/
def qcBase (da : Nat) : Nat := (da / 512 % 16 * 256 + da / 8192 % 256) * 16

/-! ### Stack bytes -/

/-- How many bytes of the sector of a stack byte and its check bytes are wrong at the dies (R346). -/
def sectorErrs (d : Dev) (k off : Nat) : Nat := Tab.get 0 d.badMem (memKey k off / 64)

/-- Is the sector of a stack byte uncorrectable: wrong in more than four bytes (R346)? -/
def sectorBad (d : Dev) (k off : Nat) : Bool := decide (4 < sectorErrs d k off)

/-- Read `n` bytes of a stack within a sector: the value and whether the sector is uncorrectable. -/
def stackRead (d : Dev) (k off n : Nat) : Nat × Bool := (ofBytes (mbytes d k off n), sectorBad d k off)

/-- The channels of a stack in service, ascending (R339). -/
def inService (d : Dev) (k : Nat) : List Nat := filterUpto 16 (fun c => (rgetF d (stkOff k 8) MS_CHAN.INSVC).testBit c)

/-- A stack controller. -/
def getStk (d : Dev) (k : Nat) : Stk := Tab.get Stk.empty d.stks k
/-- A stack controller changed. -/
def updStk (d : Dev) (k : Nat) (f : Stk → Stk) : Dev := { d with stks := Tab.set Stk.empty d.stks k (f (getStk d k)) }

/-- The channel of a stack offset (R339): during a restripe, offsets below MS_MARK lie on the channels that stay (R343). -/
def chanOf (d : Dev) (k off : Nat) : Nat :=
  let cs := inService d k
  let cs := match (getStk d k).removing with
    | some c => if off < (rget d (stkOff k 0x20)).toNat then cs.filter (· != c) else cs
    | none => cs
  cs.getD (off / 512 % max 1 cs.length) 0

/-- A fault event on its way to the Surveyor: its class (R45) and its unit (R455). -/
def fevent (d : Dev) (cls unit : Nat) : Dev := { d with fevents := d.fevents ++ [(cls, unit)] }

/-- Corrected events counted for a channel and as class 3 events (R347). -/
def countCE (d : Dev) (k ch n : Nat) : Dev :=
  let o := stkOff k (0x100 + 8 * ch)
  let d := rsetF d o MS_CHERR.CE (satAdd (ones 32) (rgetF d o MS_CHERR.CE) n)
  { d with fevents := d.fevents ++ List.replicate n (3, 16 * k + ch) }

/-- An uncorrectable sector captured in MS_ECCLOG, or OVERRUN (R349), and counted in MS_CHERR. -/
def eccCapture (d : Dev) (k off kind : Nat) : Dev :=
  let ch := chanOf d k off
  let o := stkOff k 0x80
  let d := rincSat d (stkOff k (0x100 + 8 * ch)) MS_CHERR.UE
  if rbit d o MS_ECCLOG.VALID then rsetB d o MS_ECCLOG.OVERRUN true
  else
    let w := rget d o
    rset (rset d o (setF (setF (setF (setB w MS_ECCLOG.VALID true) MS_ECCLOG.KIND kind) MS_ECCLOG.CHAN ch)
      MS_ECCLOG.SUB (off / 64 % 8))) (stkOff k 0x88) (BitVec.ofNat 64 (memKey k off / 64 * 64))

/-- What a read of a sector leaves behind: a correction counted, or an uncorrectable sector captured (R347, R349). -/
def noteRead (d : Dev) (k off kind : Nat) : Dev :=
  if sectorBad d k off then eccCapture d k off kind
  else if sectorErrs d k off = 0 then d else countCE d k (chanOf d k off) 1

/-- Write the bytes that `m` selects (R348): a whole sector replaces it; a partial write merges with what the sector reads as,
corrected, and is dropped, captured, where that is uncorrectable. `bad`: the data itself is uncorrectable. -/
def stackWrite (d : Dev) (k off n m v : Nat) (bad : Bool) : Dev :=
  let sec := memKey k off / 64
  if n = 64 ∧ m = ones 64 then
    let d := mwriteBytes d k off (toBytes n v)
    { d with badMem := if bad then Tab.insert d.badMem sec 5 else Tab.erase d.badMem sec }
  else if sectorBad d k off then eccCapture d k off 2
  else
    let d := if sectorErrs d k off = 0 then d else countCE d k (chanOf d k off) 1
    let d := mwriteBytes d k off (toBytes n (mergeBytes n m (ofBytes (mbytes d k off n)) v))
    { d with badMem := if bad then Tab.insert d.badMem sec 5 else Tab.erase d.badMem sec }

/-! ### The quarter cache as home point -/

/-- The ways of a quarter cache that take new lines: ON and not draining (R315). -/
def qcWays (d : Dev) (q : Nat) : List Nat :=
  let r := rget d (qOff q 0x100)
  filterUpto 16 (fun w => (getF r QT_QWAY.ON).testBit w && !(getF r QT_QWAY.DRAIN).testBit w)

/-- The quarter cache line of a device address. -/
def qcFind (d : Dev) (q da : Nat) : Option (Nat × Sline) :=
  let t := (getQ d q).qc
  match findWay t (qcBase da) 0 (da / 512) with
  | some w => (Tab.find? t (qcBase da + w)).map (fun l => (qcBase da + w, l))
  | none => none

/-- A quarter cache line put at a key; an empty one is not listed. -/
def qcPut (d : Dev) (q key : Nat) (l : Sline) : Dev :=
  updQ d q (fun u => { u with qc := if slEmpty l then Tab.erase u.qc key else Tab.insert u.qc key l })

/-- Write sector `s` of a line back to the stack that now backs its device address (R302, R454). -/
def qcWriteBack (d : Dev) (l : Sline) (s : Nat) : Dev :=
  let da := l.ln * 512 + 64 * s
  match resolveWin d da with
  | some (t, _) =>
    match placeTract d da 99 true t with
    | .stack k off => stackWrite d k off 64 (ones 64) (slRead l (64 * s) 64) (l.bad.testBit s)
    | _ => d
  | none => d

/-- Write back every dirty sector of the line at a key. -/
def qcCleanLine (d : Dev) (l : Sline) : Dev :=
  (List.range 8).foldl (fun d s => if slDirty l s then qcWriteBack d l s else d) d

/-- A way for a new line of `da`: a free one, else a victim (R299: not architectural), written back if dirty. -/
def qcAlloc (d : Dev) (q da : Nat) : Option (Nat × Dev) :=
  match qcWays d q with
  | [] => none
  | w0 :: ws =>
    let t := (getQ d q).qc
    match (w0 :: ws).find? (fun w => (Tab.find? t (qcBase da + w)).isNone) with
    | some w => some (qcBase da + w, d)
    | none =>
      let (i, d) := d.choose (ws.length + 1)
      let key := qcBase da + (w0 :: ws).getD i w0
      let d := match Tab.find? t key with | some l => qcCleanLine d l | none => d
      some (key, d)

/-- Read `n` bytes within a sector at the home point of a stack address (R147). -/
def homeRead (d : Dev) (da k off n : Nat) : Nat × Bool :=
  match qcFind d (k / 6) da with
  | some (_, l) =>
    if slHit l (da % 512) n then (slRead l (da % 512) n, l.bad.testBit (da / 64 % 8)) else stackRead d k off n
  | none => stackRead d k off n

/-- What a read at the home point leaves behind, where it reaches the stack (R349). -/
def homeNote (d : Dev) (da k off kind : Nat) : Dev :=
  match qcFind d (k / 6) da with
  | some (_, l) => if slHit l (da / 64 % 8 * 64) 64 then d else noteRead d k off kind
  | none => noteRead d k off kind

/-- Can the quarter cache take the sector of a device address: into its line, unless that way drains, or into a way that takes
lines (R315)? -/
def qcTakes (d : Dev) (q da : Nat) : Bool :=
  match qcFind d q da with
  | some (key, _) => !(rgetF d (qOff q 0x100) QT_QWAY.DRAIN).testBit (key % 16)
  | none => !(qcWays d q).isEmpty

/-- A sector put in the quarter cache; nothing where no way takes lines (R301, R302). -/
def qcFill (d : Dev) (q da v : Nat) (dirty : Bool) : Dev :=
  let s := da / 64 % 8
  let put (d : Dev) (key : Nat) (l : Sline) : Dev :=
    let l := slFill l s v false
    qcPut d q key (if dirty then { l with dirty := l.dirty ||| BitVec.ofNat 512 (byteMask (64 * s) 64) } else l)
  match qcFind d q da with
  | some (key, l) => put d key l
  | none => match qcAlloc d q da with
    | some (key, d) => put d key (slNew (da / 512))
    | none => d

/-- Do the writes of a device address allocate in the quarter cache: does its window have QCACHE (R300)? -/
def qcAllocates (d : Dev) (da : Nat) : Bool := match resolveWin d da with | some (_, at_) => attrQ at_ | none => false

/-- A write that misses in the quarter cache of its home point: with QCACHE the sector is allocated, dirty, a partial one merged
under what the stack holds (R300, R302); else, and where that is uncorrectable or no way takes lines, the stack takes it. -/
def missWrite (d : Dev) (da k off n m v : Nat) (bad : Bool) : Dev :=
  let q := k / 6
  let whole : Bool := n == 64 && m == ones 64
  if !qcAllocates d da ∨ !qcTakes d q da ∨ bad ∨ (!whole ∧ sectorBad d k off) then stackWrite d k off n m v bad
  else
    let d := if whole then d else noteRead d k off 2
    let old := ofBytes (mbytes d k (off / 64 * 64) 64)
    let sh := off % 64
    qcFill d q da (mergeBytes 64 (m <<< sh) old (v <<< (8 * sh))) true

/-- Write within a sector at the home point of a stack address: a line of the quarter cache takes it as dirty (a
draining way writes through and drops it, R316), else a miss. `bad`: the bytes are uncorrectable (spec/21 R454). -/
def homeWrite (d : Dev) (da k off n m v : Nat) (bad : Bool) : Dev :=
  let q := k / 6
  match qcFind d q da with
  | some (key, l) =>
    let s := da / 64 % 8
    if l.full.testBit s then
      let l1 := slWrite l (da % 512) n m v true
      let l1 := { l1 with dirty := l1.dirty ||| BitVec.ofNat 512 (byteMask (64 * s) 64) }
      let l1 := if bad then { l1 with bad := setBit l1.bad s } else if n = 64 ∧ m = ones 64 then { l1 with bad := clrBit l1.bad s } else l1
      if (rgetF d (qOff q 0x100) QT_QWAY.DRAIN).testBit (key % 16) then
        qcPut (qcCleanLine d l1) q key (slNew l.ln)
      else qcPut d q key l1
    else missWrite d da k off n m v bad
  | none => missWrite d da k off n m v bad

/-- Drop the quarter cache sector of an address without writing it back. -/
def qcDropSector (d : Dev) (q da : Nat) : Dev :=
  match qcFind d q da with
  | some (key, l) => qcPut d q key (slDrop l (da / 64 % 8))
  | none => d

/-! ### Requests that leave the cluster -/

/-- The requests of a cluster. -/
def reqsOf (d : Dev) (l : Nat) : List (Nat × Req) := d.reqs.filter (fun e => e.2.cl == l)

/-- May a requester take one more of the 384 entries (R298, R229)? -/
def entryFree (d : Dev) (l : Nat) (src : ReqSrc) : Bool :=
  let rs := reqsOf d l
  let vec := rs.filter (fun e => match e.2.src with | .vector _ => true | _ => false)
  let cop := rs.filter (fun e => match e.2.src with | .copy _ => true | _ => false)
  let lim : Bool := match src with
    | .vector _ => decide (vec.length < 256 ∧ vec.length + cop.length < 352)
    | .copy _ => decide (cop.length < 256 ∧ vec.length + cop.length < 352)
    | _ => true
  lim && decide (rs.length < 384)

/-- Is port `p` up (R387)? -/
def portUp (d : Dev) (p : Nat) : Bool := rgetF d (portOff p 0) SL_PSTAT.STATE == 3

/-- The port that a message for device `t` leaves by now: the primary port of its route byte if it is up, else the
alternate (R387). -/
def routePort (d : Dev) (t : Nat) : Option Nat :=
  match d.plat.routes[t]? with
  | none => none
  | some b =>
    let p := b.toNat % 16
    let a := b.toNat / 16
    if p ≠ 15 ∧ portUp d p then some p else if a ≠ 15 ∧ portUp d a then some a else none

/-- A store error (R391): captured in SL_ERRCAP, and kept for the context's next release of system scope. -/
def storeError (d : Dev) (l c status da : Nat) : Dev :=
  let e := rget d (portOff 0 0x1010)
  let d := if isSet e SL_ERRCAP.VALID then rset d (portOff 0 0x1010) (setB e SL_ERRCAP.OVERRUN true)
    else rset (rset d (portOff 0 0x1010) (setF (setF (setF (setB e SL_ERRCAP.VALID true) SL_ERRCAP.STATUS status)
      SL_ERRCAP.CLUSTER l) SL_ERRCAP.CONTEXT c)) (portOff 0 0x1018) (BitVec.ofNat 64 da)
  updCtx d l c (fun x => { x with storeErr := some (x.storeErr.getD (BitVec.ofNat 64 da)) })

/-- An uncorrectable error of an element's atomic is a machine check at the next bundle boundary (R224). -/
def deferMC (d : Dev) (l c : Nat) (va : Word) (kind : Nat) : Dev :=
  updCtx d l c (fun x => if x.stop then x else { x with dmc := some (x.dmc.getD (mcheck kind va)) })

/-- CL_MCINFO.KIND of a request that ends with status 3 (spec/21): an SRAM array of a quarter cache (the model's status 0x13), link status
3, or memory data. -/
def reqKind (r : Req) (status : Nat) : Nat :=
  if status = 0x13 then 2 else match r.tgt with | .peer _ _ => 4 | .host _ => 4 | _ => 1

/-- The trap of a failed request by its status (R391): an uncorrectable read is a machine check, all else an access
fault. -/
def statusTrap (r : Req) (a : Word) : Trap := if r.status % 16 = 3 then mcheck (reqKind r r.status) a else ⟨8, a⟩

/-- A request dropped from the table. -/
def dropReq (d : Dev) (id : Nat) : Dev := { d with reqs := Tab.erase d.reqs id }

/-- The answer to a host's or a peer's request whose parts have all come in (spec/18 R402, R382): the data, or the first status that is
not zero; its requests end. -/
def jobAnswer (d : Dev) (j : HJob) : Dev :=
  let got (p : HPart) : Nat × List Byte := match p with
    | .bytes bs => (0, bs)
    | .req id n => match Tab.find? d.reqs id with
      | some r => (r.status, toBytes n r.out)
      | none => (5, [])
  let gs := j.parts.map got
  let raw : Nat := match List.find? (fun g : Nat × List Byte => g.1 != 0) gs with
    | some g => g.1
    | none => 0
  let raw := raw % 16
  let st : Nat := if raw = 0 then 0 else if raw = 3 then 3 else 2
  let d := j.parts.foldl (fun d p => match p with | .req id _ => dropReq d id | _ => d) d
  let all := (gs.map (·.2)).flatten
  match j.peer with
  | some (p, op) =>
    if silent d then d
    else if raw ≠ 0 then send d (mkMsg d 1 4 p j.tag 0 (toBytes 8 raw))
    else send d (mkMsg d 1 op p j.tag 0 (if op = 1 then all else if op = 3 then toBytes 8 (ofBytes all) else []))
  | none => if j.isRead ∧ st = 0 then sendUp d 0x22 j.tag 0 all else sendUp d 0x23 j.tag 0 (toBytes 1 st)

/-- Has every part of a host's read or write come in? -/
def jobReady (d : Dev) (j : HJob) : Bool :=
  j.parts.all (fun p => match p with
    | .bytes _ => true
    | .req id _ => match Tab.find? d.reqs id with | some r => r.stage == .done | none => true)

/-- Every host read or write that is complete answered. -/
def hubSettle (d : Dev) : Dev :=
  (d.hjobs.filter (jobReady d)).foldl jobAnswer { d with hjobs := d.hjobs.filter (fun j => !jobReady d j) }

/-- A request is answered: one that nobody waits for ends here, with its error captured (R391, R224); any other waits to be
taken. -/
def finishReq (d : Dev) (id status out : Nat) : Dev :=
  match Tab.find? d.reqs id with
  | none => d
  | some r =>
    let keep : Dev := { d with reqs := Tab.insert d.reqs id { r with stage := .done, status := status, out := out } }
    match r.kind, r.src with
    | .red _ _, _ =>
      let d := dropReq d id
      if status = 0 then d
      else if status % 16 = 3 then deferMC d r.cl r.ctx (BitVec.ofNat 64 r.elem) (reqKind r status) else storeError d r.cl r.ctx (status % 16) r.da
    | .write, .scalar c => if status = 0 then dropReq d id else storeError (dropReq d id) r.cl c (status % 16) r.da
    | .write, .vector c => if status = 0 then dropReq d id else storeError (dropReq d id) r.cl c (status % 16) r.da
    | _, .clean => dropReq d id
    | _, .prefetch 1 => dropReq d id
    | _, .hub => hubSettle keep
    | _, _ => keep

/-- The operation code of a scatter element in a SCATRED message (R382): add, min, max, minu, maxu. -/
def redCode (op : Nat) : Nat := match op with | 2 => 0 | 5 => 1 | 6 => 2 | 7 => 3 | _ => 4

/-- The code of an access size of `n` bytes (R85). -/
def szCode (n : Nat) : Nat := if n = 1 then 0 else if n = 2 then 1 else if n = 4 then 2 else 3

/-- The message by which a request leaves for a peer (R382) or for host memory (spec/18 R402); the face of a pair marks its
atomics (R435). -/
def reqMsg (d : Dev) (r : Req) : Msg :=
  let m (vc op dst a : Nat) (data : List Byte) : Msg := mkMsg d vc op dst r.tag (a % 2 ^ 57) data
  let b2 := if isFace d ∧ 2 ≤ lvState d then 65536 else 0
  match r.tgt with
  | .peer p a =>
    (match r.kind with
     | .read => m 0 1 p a (toBytes 8 r.len)
     | .write => m 0 2 p a (toBytes r.len r.data)
     | .atomic op n cmp => m 0 3 p a (toBytes 8 (op + 256 * szCode n + b2) ++ toBytes 8 r.data ++ toBytes 8 cmp)
     | .red op n => m 0 4 p a (toBytes 8 (redCode op + 256 * szCode n + b2) ++ toBytes 8 r.data)
     | .swap n cmp => m 0 3 p a (toBytes 8 (1 + 256 * szCode n + b2) ++ toBytes 8 r.data ++ toBytes 8 cmp))
  | .host a =>
    (match r.kind with
     | .read => m 3 0x28 (landId d) a (toBytes 8 r.len)
     | .swap n cmp => m 3 0x27 (landId d) a (toBytes 8 n ++ toBytes 8 cmp ++ toBytes 8 r.data)
     | _ => m 3 0x29 (landId d) a (toBytes r.len r.data))
  | _ => m 0 0 0 0 []

/-- May the device reach host memory now: is a session open (spec/18 R404)? -/
def hostReachable (d : Dev) : Bool := rbit d (landOff 0) HB_SESSTAT.OPEN

/-- A request changed. -/
def updReq (d : Dev) (id : Nat) (f : Req → Req) : Dev :=
  match Tab.find? d.reqs id with
  | some r => { d with reqs := Tab.insert d.reqs id (f r) }
  | none => d

/-- The path of a request in its pairing key (R434): scalar, vector and thread, copy. -/
def keyPath (s : ReqSrc) : Nat := match s with | .vector _ => 1 | .copy _ => 2 | _ => 0

/-- What a response says of its request: its status (R391, R402) and the value it brings. -/
def answerOf (m : Msg) : Nat × Nat :=
  match m.vc, m.op with
  | 1, 4 => (ofBytes (m.data.take 1), 0)
  | 3, 0x0B => (ofBytes (m.data.take 1), ofBytes ((m.data.drop 1).take 8))
  | _, _ => (0, ofBytes m.data)

/-- A request gets its TAG, and in a pair its pairing key, whose low bits are the TAG (R434). -/
def tagReq (d : Dev) (id : Nat) : Dev :=
  match Tab.find? d.reqs id with
  | none => d
  | some r =>
    if paired d ∨ lvState d = 3 then
      let p := keyPath r.src
      let n := Tab.get 0 (getCtx d r.cl r.ctx).ords p
      let key := r.cl % 1024 + 1024 * (r.ctx % 8) + 8192 * p + 32768 * n
      let d := updCtx d r.cl r.ctx (fun x => { x with ords := Tab.set 0 x.ords p (n + 1) })
      updReq d id (fun r => { r with key := key, tag := key % 0x1_0000 })
    else { updReq d id (fun r => { r with tag := d.tagCtr % 0x1_0000 }) with tagCtr := d.tagCtr + 1 }

/-- A request leaves the device: a message, or none from the twin that keeps silent, which takes the mirrored response when it is
already here (R434). -/
def leave (d : Dev) (id : Nat) : Dev :=
  let d := tagReq d id
  match Tab.find? d.reqs id with
  | none => d
  | some r =>
    if silent d then
      match d.mirrored.find? (fun e => e.1 == r.key) with
      | some (_, m) =>
        finishReq { d with mirrored := d.mirrored.filter (fun e => e.1 != r.key) } id (answerOf m).1 (answerOf m).2
      | none => d
    else send d (reqMsg d r)

/-- A request for a peer or the host leaves, or is refused at once where no route (R389) or no session is there for it. -/
def goOut (d : Dev) (id : Nat) : Dev :=
  match Tab.find? d.reqs id with
  | none => d
  | some r =>
    let d := updReq d id (fun r => { r with stage := .remote })
    if r.status ≠ 0 then dropReq d id
    else match r.tgt with
    | .peer p _ => if (routePort d p).isNone then finishReq d id 2 0 else leave d id
    | .host _ => if !hostReachable d then finishReq d id 1 0 else leave d id
    | _ => d

/-- A request put among the requests: a local stack request, or a cached read from beyond, goes to the quarter cache or the
stack; any other goes out. -/
def newReq (d : Dev) (r : Req) : Dev :=
  let id := Tab.fresh d.reqs
  let put (st : Stage) : Dev := { d with reqs := Tab.insert d.reqs id { r with stage := st } }
  match r.tgt with
  | .stack _ _ => put (if r.qcache then .toQuarter else .toStack)
  | .mgmt _ => d
  | _ => if r.qcache ∧ r.kind = .read then put .toQuarter else goOut (put .remote) id

/-! ### The cluster store's cache -/

/-- Does the cluster have a cluster cache (R280)? -/
def hasCC (d : Dev) (l : Nat) : Bool := decide (mereWays d l < 16)

/-- The cluster cache line of a device address. -/
def ccFind (d : Dev) (l da : Nat) : Option (Nat × Sline) :=
  let t := (getCl d l).cc
  match findWay t (ccBase da) (mereWays d l) (da / 512) with
  | some w => (Tab.find? t (ccBase da + w)).map (fun x => (ccBase da + w, x))
  | none => none

/-- A cluster cache line put at a key; an empty one is not listed. -/
def ccPut (d : Dev) (l key : Nat) (x : Sline) : Dev :=
  updCl d l (fun k => { k with cc := if slEmpty x then Tab.erase k.cc key else Tab.insert k.cc key x })

/-- The dirty bytes of sector `s` of a cluster cache line leave for their home point as one write (R148). -/
def ccWriteBack (d : Dev) (l : Nat) (x : Sline) (s : Nat) : Dev :=
  let da := x.ln * 512 + 64 * s
  match resolveWin d da with
  | some (t, at_) =>
    let t := placeTract d da (quarterOf d l) true t
    newReq d { cl := l, ctx := 0, src := .clean, kind := .write, da := da, tgt := t, qcache := attrQ at_, len := 64,
               mask := bitsOf x.dirty.toNat (64 * s) 64, data := slRead x (64 * s) 64, stage := .toQuarter,
               out := 0, status := if x.bad.testBit s then 3 else 0, elem := 0 }
  | none => d

/-- Every dirty sector of a line leaves for its home point. -/
def ccCleanLine (d : Dev) (l : Nat) (x : Sline) : Dev :=
  (List.range 8).foldl (fun d s => if slDirty x s then ccWriteBack d l x s else d) d

/-- The dirty bytes of sector `s` of a cluster cache line written to their home point at once (R148). -/
def cleanSectorNow (d : Dev) (l : Nat) (x : Sline) (s : Nat) : Dev :=
  let da := x.ln * 512 + 64 * s
  match resolveWin d da with
  | some (t, _) =>
    match placeTract d da (quarterOf d l) true t with
    | .stack k off => homeWrite d da k off 64 (bitsOf x.dirty.toNat (64 * s) 64) (slRead x (64 * s) 64) (x.bad.testBit s)
    | _ => d
  | none => d

/-- Every dirty sector of a line written to its home point at once. -/
def cleanLineNow (d : Dev) (l : Nat) (x : Sline) : Dev :=
  (List.range 8).foldl (fun d s => if slDirty x s then cleanSectorNow d l x s else d) d

/-- A key for a new line of `da` in the cluster cache; a victim's dirty sectors are written back (R301), before any later
write of the cluster to them. -/
def ccAlloc (d : Dev) (l da : Nat) : Nat × Dev :=
  let w0 := mereWays d l
  let t := (getCl d l).cc
  let ways := (List.range 16).filter (fun w => w0 ≤ w)
  match ways.find? (fun w => (Tab.find? t (ccBase da + w)).isNone) with
  | some w => (ccBase da + w, d)
  | none =>
    let (i, d) := d.choose ways.length
    let key := ccBase da + ways.getD i 15
    let d := match Tab.find? t key with | some x => cleanLineNow d l x | none => d
    (key, d)

/-- The side buffer's line of a device address (R306). -/
def sideFind (d : Dev) (l da : Nat) : Option Sline := (getCl d l).side.find? (fun x => x.ln == da / 512)

/-- A line leaves the side buffer. -/
def sideDrop (d : Dev) (l ln : Nat) : Dev :=
  let d := updCl d l (fun k => { k with side := k.side.filter (fun x => x.ln != ln) })
  rsetF d (clOff l 0x708) CL_PFCTL.LINES (getCl d l).side.length

/-- A demand access promotes the side buffer's line into the cluster cache with its valid sectors (R307). -/
def promote (d : Dev) (l da : Nat) : Dev :=
  match sideFind d l da with
  | none => d
  | some x =>
    let d := sideDrop d l x.ln
    if !hasCC d l then d
    else match ccFind d l da with
      | some (key, y) =>
        ccPut d l key ((List.range 8).foldl (fun y s =>
          if x.full.testBit s ∧ !y.full.testBit s then slFill y s (slRead x (64 * s) 64) (x.bad.testBit s) else y) y)
      | none =>
        let (key, d) := ccAlloc d l da
        ccPut d l key x

/-- The L1 data cache line of an address (R299: index [12:6], 4 ways): its key. -/
def l1Find (d : Dev) (l da : Nat) : Option (Nat × Line) :=
  let t := (getCl d l).l1
  let base := da / 64 % 128 * 4
  match (List.range 4).find? (fun w => match Tab.find? t (base + w) with | some x => x.ln == da / 64 | none => false) with
  | some w => (Tab.find? t (base + w)).map (fun x => (base + w, x))
  | none => none

/-- The L1 data cache filled with a line. -/
def l1Fill (d : Dev) (l da v : Nat) : Dev :=
  let base := da / 64 % 128 * 4
  let t := (getCl d l).l1
  let (w, d) := match (List.range 4).find? (fun w => (Tab.find? t (base + w)).isNone) with
    | some w => (w, d)
    | none => d.choose 4
  updCl d l (fun k => { k with l1 := Tab.insert k.l1 (base + w) ⟨da / 64, BitVec.ofNat 512 v⟩ })

/-- A store updates the L1 copy of its bytes, and never allocates (R149). -/
def l1Store (d : Dev) (l da n m v : Nat) : Dev :=
  match l1Find d l da with
  | some (key, x) =>
    let o := da % 64
    let nv := mergeBytes n m (vbits x.data (8 * o) (8 * n)) v
    updCl d l (fun k => { k with l1 := Tab.insert k.l1 key { x with data := vput x.data (8 * o) (8 * n) nv } })
  | none => d

/-- The line of an address leaves the L1 data cache. -/
def l1Drop (d : Dev) (l da : Nat) : Dev :=
  match l1Find d l da with
  | some (key, _) => updCl d l (fun k => { k with l1 := Tab.erase k.l1 key })
  | none => d

/-- Every line leaves the L1 data cache. -/
def l1Clear (d : Dev) (l : Nat) : Dev := updCl d l (fun k => { k with l1 := [] })

/-- What a read inside the cluster found: the value and whether its sector is uncorrectable. -/
abbrev Got := Option (Nat × Bool)

/-- A read of `n` bytes at a device address from the cluster's own caches: L1 first on the scalar path, then the
cluster cache, then the side buffer (R300, R307). -/
def clusterRead (d : Dev) (l da n : Nat) (scalar : Bool) : Got × Dev :=
  match (if scalar then l1Find d l da else none) with
  | some (_, x) => (some (vbits x.data (8 * (da % 64)) (8 * n), false), d)
  | none =>
    let hitLine (x : Sline) : Got :=
      if slHit x (da % 512) n then some (slRead x (da % 512) n, x.bad.testBit (da / 64 % 8)) else none
    if hasCC d l then
      let d1 := match (ccFind d l da).bind (fun p => hitLine p.2) with
        | some _ => d
        | none => match (sideFind d l da).bind hitLine with
          | some _ => promote d l da
          | none => d
      match ccFind d1 l da with
      | some (_, x) =>
        match hitLine x with
        | some g =>
          let d1 := if scalar ∧ x.full.testBit (da / 64 % 8) ∧ !g.2
            then l1Fill d1 l da (slRead x (da / 64 % 8 * 64) 64) else d1
          (some g, d1)
        | none => (none, d1)
      | none => (none, d1)
    else
      match (sideFind d l da).bind hitLine with
      | some g => (some g, sideDrop d l (da / 512))
      | none => (none, d)

/-- A fetched sector goes into the cluster cache (and, for the scalar path, the L1); peer and host lines are held
clean (R148, R301). -/
def clusterFill (d : Dev) (l da v : Nat) (scalar bad : Bool) : Dev :=
  let s := da / 64 % 8
  if hasCC d l then
    let p : Nat × Sline × Dev := match ccFind d l da with
      | some (key, x) => (key, slFill x s v bad, d)
      | none =>
        let (key, d) := ccAlloc d l da
        (key, slFill (slNew (da / 512)) s v bad, d)
    let d := ccPut p.2.2 l p.1 p.2.1
    if scalar ∧ !bad then l1Fill d l da (slRead p.2.1 (64 * s) 64) else d
  else if scalar ∧ !bad then l1Fill d l da v else d

/-- A store performed at the cluster (R148, R149, R280, R301): L1 copy updated; a stack address becomes dirty in the
cluster cache, or leaves for the home point when there is none; peer and host stores go to their target. -/
def clusterStore (d : Dev) (l c da : Nat) (t : Target) (qc : Bool) (n m v : Nat) (src : ReqSrc) : Dev :=
  let d := l1Store d l da n m v
  let leave (d : Dev) : Dev :=
    newReq d { cl := l, ctx := c, src := src, kind := .write, da := da, tgt := t, qcache := qc, len := n, mask := m,
               data := v, stage := .toQuarter, out := 0, status := 0, elem := 0 }
  match t with
  | .stack _ _ =>
    if hasCC d l then
      let d := promote d l da
      match ccFind d l da with
      | some (key, x) => ccPut d l key (slWrite x (da % 512) n m v true)
      | none =>
        let (key, d) := ccAlloc d l da
        ccPut d l key (slWrite (slNew (da / 512)) (da % 512) n m v true)
    else leave (sideDrop d l (da / 512))
  | _ =>
    let d := sideDrop d l (da / 512)
    let d := match ccFind d l da with
      | some (key, x) => ccPut d l key (slWrite x (da % 512) n m v false)
      | none => d
    leave d

/-- Before an atomic or a copy write of a sector: the cluster's dirty bytes of it are written back to the home point,
and the sector leaves the cluster cache, and for an atomic the L1 (R156, R291). -/
def flushSector (d : Dev) (l da : Nat) (l1too : Bool) : Dev :=
  let d := if l1too then l1Drop d l da else d
  match ccFind d l da with
  | some (key, x) =>
    let s := da / 64 % 8
    let d := if slDirty x s then
        (match resolveWin d (x.ln * 512 + 64 * s) with
         | some (t, _) =>
           match placeTract d (x.ln * 512 + 64 * s) (quarterOf d l) true t with
           | .stack k off => homeWrite d (x.ln * 512 + 64 * s) k off 64 (bitsOf x.dirty.toNat (64 * s) 64) (slRead x (64 * s) 64) (x.bad.testBit s)
           | _ => d
         | none => d) else d
    ccPut d l key (slDrop x s)
  | none => d

/-- Bytes of the Mere (R280). -/
def mereRead (d : Dev) (l off n : Nat) : Nat := ofBytes (Tab.getRun 0 (getCl d l).mere off n)
/-- Bytes of the Mere written. -/
def mereWrite (d : Dev) (l off n v : Nat) : Dev :=
  updCl d l (fun k => { k with mere := Tab.setRun 0 k.mere off (toBytes n v),
                                badMere := k.badMere.filter (fun e => !(decide (off ≤ e.1) && decide (e.1 < off + n))) })
/-- Does a Mere read meet an uncorrectable byte? -/
def mereBad (d : Dev) (l off n : Nat) : Bool :=
  (getCl d l).badMere.any (fun e => decide (off ≤ e.1) && decide (e.1 < off + n))

end Sys2Proof.Machine
end

