-- ==== Sys2Proof/Machine/Ctl.lean ====
section
/-!
DEFINITION. Management accesses and control registers (spec/01 R23 to R31, spec/04 R103, R504, the access rules that
each register's chapter gives), starting and stopping contexts (spec/05 R121, R122, spec/16 R356), events on
their way (spec/04 R105).
-/
namespace Sys2Proof.Machine

/-! ### Power domains (spec/02 R44) -/

/-- Domain of way w of quarter q. -/
def domWay (q w : Nat) : Nat := 832 + 16 * q + w
/-- Domain of a stack controller. -/
def domStack (k : Nat) : Nat := 896 + k
/-- Domain of an optical engine. -/
def domPort (p : Nat) : Nat := 920 + p
/-- Window offset of the HB_DOMSTAT word of a domain. -/
def domOff (n : Nat) : Nat := 0x800 + 8 * (n / 64)
/-- Is a domain on? -/
def domOn (d : Dev) (n : Nat) : Bool := (rget d (domOff n)).toNat.testBit (n % 64)
/-- A domain switched. -/
def domSet (d : Dev) (n : Nat) (b : Bool) : Dev :=
  let w := (rget d (domOff n)).toNat
  rset d (domOff n) (BitVec.ofNat 64 (if b then setBit w (n % 64) else clrBit w (n % 64)))

/-! ### Which storage an offset reaches -/

/-- The logical cluster that occupies a site. -/
def logicalOf (d : Dev) (p : Nat) : Option Nat := (List.find? (fun e => e.2 == p) d.plat.siteOf).map (·.1)

/-- The storage a window offset reaches: the logical block for the alias of a mapped site (R24), CL_EVENT for
CL_EVENTCLR, CL_CTXRUN for CL_CTXSTOP, quarter 0's block and port 0's block for what exists once (R326, R398). -/
def canonOff (d : Dev) (o : Nat) : Nat :=
  let cl (base r : Nat) : Nat := base + (if r = 0x58 then 0x50 else if r = 0x68 then 0x60 else r)
  match blkOf o with
  | (.cluster l, r) => cl (clOff l 0) r
  | (.site p, r) =>
    match logicalOf d p with
    | some e => cl (clOff e 0) r
    | none => cl (o - r) r
  | (.quarter _, r) =>
    if (0x1000 ≤ r ∧ r < 0x1200) ∨ (0x2000 ≤ r ∧ r < 0x2800) then qOff 0 r else o
  | (.port _, r) => if 0x1000 ≤ r ∧ r < 0x1020 then portOff 0 r else o
  | _ => o

/-- Is the block's domain Dormant or off (R28), or the cluster in reset (spec/22 R480)? -/
def blkAsleep (d : Dev) (b : Blk) : Bool :=
  match b with
  | .cluster l => match siteOfCl d l with
    | some p => !domOn d p || (getCl d l).inReset
    | none => false
  | .site p => !domOn d p || (match logicalOf d p with | some l => (getCl d l).inReset | none => false)
  | .quarter q => (getQ d q).dormant
  | .stack k => !domOn d (domStack k)
  | .port p => !domOn d (domPort p)
  | _ => false

/-- Is the range reserved, or the logical cluster unmapped (R27)? -/
def blkUnmapped (d : Dev) (b : Blk) : Bool :=
  match b with
  | .reserved => true
  | .cluster l => (siteOfCl d l).isNone
  | _ => false

/-- The SOURCE code of an issuer (R31). -/
def agentCode : Agent → Nat
  | .cluster l => l
  | .host => 0x0400
  | .surveyor => 0x0401
  | .dykereeve => 0x0402
  | .board => 0x0400
  | .peer _ => 0x0400

/-- A management error (R31): its bit is set; offset and source are captured when HB_MMERR[3:0] were clear, else
OVERRUN is set. -/
def mmErr (d : Dev) (f : Fld) (ag : Agent) (o : Nat) : Dev :=
  let clear : Bool := getF (rget d 0x100) ⟨0, 4⟩ == 0
  let d := if clear then
      rset d 0x108 (setF (setF 0 HB_MMERR_ADDR.OFFSET o) HB_MMERR_ADDR.SOURCE (agentCode ag))
    else rsetB d 0x100 HB_MMERR.OVERRUN true
  rsetB d 0x100 f true

/-! ### Reading -/

/-- DT_IPEND as it reads: bit 3 while CL_EVENT meets DT_IEVMASK, bit 4 while the tally compare holds (R371). -/
def ipendView (d : Dev) (l c : Nat) : Word :=
  let w := rget d (dtOff l c 0x40)
  let ev : Bool := ((rget d (clOff l 0x50)).toNat &&& getF (rget d (dtOff l c 0x50)) DT_IEVMASK.MASK) != 0
  let t := rget d (dtOff l c 0x58)
  let ta : Bool := isSet t DT_TCMP.EN && decide (getF t DT_TCMP.VALUE ≤ (rget d (clOff l 0x40)).toNat)
  setB (setB w DT_IPEND.EVT ev) DT_IPEND.TALLY ta

/-- CL_GLOOP as it reads: the set of the innermost active level (R127). -/
def gloopView (d : Dev) (l c : Nat) : Word :=
  let st := rget d (csOff l c 0)
  let x := getCtx d l c
  if isSet st CL_LSTAT.ACT1 then BitVec.ofNat 64 x.lset1
  else if isSet st CL_LSTAT.ACT0 then BitVec.ofNat 64 x.lset0 else 0

/-- CL_VSE as it reads: the first element not yet entered of the running V operation (R212). -/
def vseView (d : Dev) (l c : Nat) : Word :=
  match (getCl d l).vrun, (getCtx d l c).vq with
  | some k, o :: _ => if k = c then BitVec.ofNat 64 o.pos else rget d (csOff l c 0x78)
  | _, _ => rget d (csOff l c 0x78)

/-- CL_TSR as it reads: the next step or row of the running X operation (R264). -/
def tsrView (d : Dev) (l c : Nat) : Word :=
  match (getCl d l).xrun, (getCtx d l c).xq with
  | some k, o :: _ => if k = c then BitVec.ofNat 64 o.pos else rget d (clOff l (0x440 + 8 * c))
  | _, _ => rget d (clOff l (0x440 + 8 * c))

/-- DT_IFR as it reads: the entries held in the two slots (R364). -/
def ifrView (d : Dev) (l c : Nat) : Word :=
  let x := getCtx d l c
  let n (isX : Bool) (q : List QOp) : Nat := (q.filter (fun o => o.isX == isX)).length
  setF (setF (setF (setF 0 DT_IFR.DVCOUNT (n false x.heldD)) DT_IFR.DXCOUNT (n true x.heldD))
    DT_IFR.SVCOUNT (n false x.heldS)) DT_IFR.SXCOUNT (n true x.heldS)

/-- SU_TRACTINFO as it reads: the tract that SU_TRACTQ names (R449). -/
def tractInfoView (d : Dev) : Word :=
  let a := (rget d (suOff 0x1208)).toNat / 0x20_0000 * 0x20_0000
  let tt := (findUpto 64 (fun i => winHolds d i a)).map (fun i => getF (winWord d i 3) TR_WIN_T.TTYPE)
  let t := tractOf d a
  if tt ≠ some 0 ∧ tt ≠ some 1 then setF 0 SU_TRACTINFO.STACK 0xFF
  else
    let w := setF 0 SU_TRACTINFO.STACK (match t.frame with | some (k, _) => k | none => 0xFE)
    let w := setF (setF w SU_TRACTINFO.NREPL t.repl.length) SU_TRACTINFO.HINTS t.hints
    setF (setF (setF w SU_TRACTINFO.LASTMOVE t.lastMove) SU_TRACTINFO.ACC (min 0xFFFF t.acc)) SU_TRACTINFO.TOPQ t.topq

/-- The number by which a unit shows (SU_FQ, LOG, event log): a site, channel or port is its own; an array has an array number. -/
def unitNo (cls unit : Nat) : Nat := if cls = 2 then Config.arrayNo unit % 65536 else unit

/-- SU_FINFO as it reads: the unit that SU_FQ names (R455): events of the window that ended at its last event, events since power-on
reset, whether it was declared lasting. -/
def finfoView (d : Dev) : Word :=
  let q := rget d (suOff 0x1400)
  let cls := getF q SU_FQ.CLASS
  match List.find? (fun e => e.1 / 65536 == cls && unitNo cls (e.1 % 65536) == getF q SU_FQ.UNIT) d.dyke.life with
  | some e =>
    setB (setF (setF 0 SU_FINFO.WIN (min 0xFFFF (Tab.get [] d.dyke.stamps e.1).length)) SU_FINFO.LIFE e.2)
      SU_FINFO.LASTING (d.dyke.lastF.contains e.1)
  | none => 0

/-- The value a register shows: storage, or what the register derives from the rest of the state. -/
def regView (d : Dev) (o : Nat) : Word :=
  match blkOf o with
  | (.cluster l, r) =>
    if 0x4000 ≤ r ∧ r < 0x4800 then
      let c := (r - 0x4000) / 0x100
      if (r - 0x4000) % 0x100 = 0x40 then ipendView d l c
      else if (r - 0x4000) % 0x100 = 0x80 then ifrView d l c
      else if (r - 0x4000) % 0x100 = 0x88 then rget d (dtOff l c 0x40)
      else rget d o
    else if 0x1000 ≤ r ∧ r < 0x1400 then
      let c := (r - 0x1000) / 0x80
      if (r - 0x1000) % 0x80 = 0x38 then gloopView d l c
      else if (r - 0x1000) % 0x80 = 0x78 then vseView d l c
      else rget d o
    else if 0x440 ≤ r ∧ r < 0x480 then tsrView d l ((r - 0x440) / 8)
    else if r = 0x4C0 then Config.xspare ((siteOfCl d l).getD 0)
    else rget d o
  | (.su, r) => if r = 0x1210 then tractInfoView d else if r = 0x1408 then finfoView d else rget d o
  | _ => rget d o

/-- Half `h` (0 low, 1 high) of a word (R26). -/
def halfOf (w : Word) (h : Nat) : Word := BitVec.ofNat 64 (bitsOf w.toNat (32 * h) 32)

/-- Is the access 4 or 8 bytes, naturally aligned (R25)? -/
def sizeOk (o n : Nat) : Bool := (n == 4 && o % 4 == 0) || (n == 8 && o % 8 == 0)

/-- Is the offset in HB_PLATBUF? -/
def inPlatbuf (o : Nat) : Bool := decide (0x4_0000 ≤ o ∧ o < 0x8_0000)

/-- A management read by an agent (R25 to R28): none is an error to the issuer (R25). -/
def mgmtRead (d : Dev) (ag : Agent) (o n : Nat) : Option Word × Dev :=
  if !sizeOk o n then (none, mmErr d HB_MMERR.SIZE ag o)
  else
    let b := blkOf o
    if blkUnmapped d b.1 then (some 0, mmErr d HB_MMERR.UNMAPPED ag o)
    else if blkAsleep d b.1 then
      (some (if n = 4 then BitVec.ofNat 64 (ones 32) else BitVec.ofNat 64 (ones 64)), mmErr d HB_MMERR.DORMANT ag o)
    else if inPlatbuf o then (some (BitVec.ofNat 64 (ofBytes (Tab.getRun 0 d.platbuf (o - 0x4_0000) n))), d)
    else match regMapOf b.1 (b.2 / 8 * 8) with
      | none => (some 0, mmErr d HB_MMERR.UNMAPPED ag o)
      | some m =>
        let v := m.readVal (regView d (canonOff d (o / 8 * 8)))
        (some (if n = 8 then v else halfOf v (o / 4 % 2)), d)

/-! ### Writing -/

/-- VLMAX of a CL_VCFG value: min(512, 4096 × SPAN / SEW) (R188). -/
def vlMax (w : Word) : Nat := min 512 (4096 * 2 ^ getF w CL_VCFG.SPAN / (8 * 2 ^ getF w CL_VCFG.SEW))

/-- Values that a register stores as another (each named in its register's map). -/
def fixStored (o : Nat) (old w : Word) : Word :=
  match blkOf o with
  | (.cluster _, r) =>
    if 0x1000 ≤ r ∧ r < 0x1400 then
      match (r - 0x1000) % 0x80 with
      | 0x00 => if isSet w CL_LSTAT.ACT0 then w else setB w CL_LSTAT.ACT1 false
      | 0x40 => let m := getF w CL_FCSR.RM
                if m = 0 ∨ 6 ≤ m then setF w CL_FCSR.RM 1 else w
      | 0x70 =>
        let w := if 0xB ≤ getF w CL_VCFG.FMT then setF w CL_VCFG.FMT 0 else w
        if vlMax w < getF w CL_VCFG.VL then setF w CL_VCFG.VL (vlMax w) else w
      | _ => w
    else if 0x4000 ≤ r ∧ r < 0x4800 then
      match (r - 0x4000) % 0x100 with
      | 0x00 => if getF w DT_STATUS.PLEV = 2 then setF w DT_STATUS.PLEV 0 else w
      | 0x08 => if getF w DT_SAVE.PLEV = 2 then setF w DT_SAVE.PLEV 0 else w
      | 0x60 => if getF w DT_SAVE.PLEV = 2 then setF w DT_SAVE.PLEV 0 else w
      | 0xC8 => if getF w DT_SAVE.PLEV = 2 then setF w DT_SAVE.PLEV 0
                else if getF w DT_SAVE.PLEV = 3 then setF w DT_SAVE.PLEV 1 else w
      | 0x30 => setF w ⟨9, 1⟩ 0
      | _ => w
    else if 0x2000 ≤ r ∧ r < 0x3000 then (if getF w CL_TPC.STATE = 2 then setF w CL_TPC.STATE 3 else w)
    else if r = 0x70 then srValue w
    else if r = 0x500 then (if 16 < getF w CL_MERE.WAYS then setF w CL_MERE.WAYS 16 else w)
    else if 0x480 ≤ r ∧ r < 0x4C0 then w
    else w
  | _ => let _ := old; w

/-- A register written by its access codes (R6, R7, R26), with the values it stores as another. `mask` selects the
bits written. DT_ISET reaches DT_IPEND (R371). -/
def regWrite (d : Dev) (m : RegMap) (o : Nat) (mask v : Word) : Dev :=
  let o := canonOff d o
  let dst : Nat := match blkOf o with
    | (.cluster _, r) => if 0x4000 ≤ r ∧ r < 0x4800 ∧ (r - 0x4000) % 0x100 = 0x88 then o - 0x48 else o
    | _ => o
  let old := rget d dst
  rset d dst (fixStored dst old (m.writeVal mask v old))

/-- Is context `c` of cluster `l` running (CL_CTXRUN)? -/
def running (d : Dev) (l c : Nat) : Bool := (rget d (clOff l 0x60)).toNat.testBit c

/-- The map of a cluster register as the management window lets an agent write it: R504 for context sets, R143,
R376, and what each register's chapter makes read-only through the window. -/
def windowMap (d : Dev) (ag : Agent) (l r : Nat) (m : RegMap) : RegMap :=
  if 0x1000 ≤ r ∧ r < 0x1400 then
    (if running d l ((r - 0x1000) / 0x80) ∨ (r - 0x1000) % 0x80 < 0x38 then m.readOnly else m)
  else if 0x2000 ≤ r ∧ r < 0x4000 then m.readOnly
  else if 0x4000 ≤ r ∧ r < 0x4800 then
    (if (r - 0x4000) % 0x100 = 0x88 then
      (match ag with | .cluster _ => m.readOnly | .board => m.readOnly | _ => m)
     else m.readOnly)
  else if 0x440 ≤ r ∧ r < 0x510 then m.readOnly
  else if (0x600 ≤ r ∧ r < 0x6C0) ∨ (0x700 ≤ r ∧ r < 0xC40) then m.onlyW1C
  else m

/-- The map of a register as an agent may write it through the window. -/
def agentMap (d : Dev) (ag : Agent) (b : Blk) (r : Nat) (m : RegMap) : RegMap :=
  match b with
  | .dk => if ag = .dykereeve then m else m.readOnly
  | .cluster l => windowMap d ag l r m
  | .site p =>
    match logicalOf d p with
    | some e => windowMap d ag e r m
    | none => m
  | .quarter _ => if r = 0x8 ∨ r = 0x0 then m.readOnly else m
  | _ => m

/-- The bits a 4- or 8-byte write selects, and its value in place (R26). -/
def writeMask (o n : Nat) (v : Word) : Word × Word :=
  if n = 8 then (BitVec.ofNat 64 (ones 64), v)
  else
    let h := 32 * (o / 4 % 2)
    (BitVec.ofNat 64 (ones 32 <<< h), BitVec.ofNat 64 ((v.toNat % 2 ^ 32) <<< h))

/-- A write to a register with a command field (R26): a half without the field stores its parameter bits and starts nothing; a
non-zero command starts with the parameters as they then stand, which return to zero. `lost`: what happens instead while a command runs. -/
def onCmd (d : Dev) (m : RegMap) (o : Nat) (cmd : Fld) (mask v : Word) (lost : Option Dev) (go : Word → Dev → Dev) : Dev :=
  let w := m.writeVal mask v (rget d o)
  if mask &&& cmd.mask = 0 ∨ getF w cmd = 0 then rset d o w
  else match lost with
    | some d => d
    | none => go w (rset d o (w &&& ~~~ m.woMask))

/-- What a management write does before any command field acts: the errors of R25 to R29, or the register it writes
(its map as the agent may write it, the mask and the value). -/
inductive MWrite where
  | err (d : Dev)
  | ignored (d : Dev)
  | buf (d : Dev)
  | reg (m : RegMap) (b : Blk) (r : Nat) (mask v : Word)

/-- The checks of a management write (R25 to R29). -/
def mgmtCheck (d : Dev) (ag : Agent) (o n : Nat) (v : Word) : MWrite :=
  if !sizeOk o n then .err (mmErr d HB_MMERR.SIZE ag o)
  else
    let b := blkOf o
    let aliasRefused : Bool := match b.1 with
      | .site _ => !(ag == .surveyor || ag == .dykereeve)
      | _ => false
    if blkUnmapped d b.1 then .ignored (mmErr d HB_MMERR.UNMAPPED ag o)
    else if aliasRefused then .ignored (mmErr d HB_MMERR.ALIAS ag o)
    else if blkAsleep d b.1 then .ignored (mmErr d HB_MMERR.DORMANT ag o)
    else if inPlatbuf o then .buf { d with platbuf := Tab.setRun 0 d.platbuf (o - 0x4_0000) (toBytes n v.toNat) }
    else match regMapOf b.1 (b.2 / 8 * 8) with
      | none => .ignored (mmErr d HB_MMERR.UNMAPPED ag o)
      | some m =>
        let mv := writeMask o n v
        .reg (agentMap d ag b.1 (b.2 / 8 * 8) m) b.1 (b.2 / 8 * 8) mv.1 mv.2

/-! ### Modes, starts and stops -/

/-- The modes that a context's registers now hold (R74). -/
def modesNow (d : Dev) (l c : Nat) : Modes :=
  let f := rget d (csOff l c 0x40)
  let g := rget d (csOff l c 0x48)
  let t := rget d (dtOff l c 0x38)
  let x := rget d (clOff l (0xC00 + 8 * c))
  { plev := getF (rget d (dtOff l c 0)) DT_STATUS.PLEV, gm := isSet g CL_GCTL.MODE, rm := getF f CL_FCSR.RM,
    tnv := isSet f CL_FCSR.TNV, tdz := isSet f CL_FCSR.TDZ, idz := isSet t DT_TRAPEN.IDZ, iov := isSet t DT_TRAPEN.IOV,
    xen := isSet x CL_XLAT.EN, asid := getF x CL_XLAT.ASID, xlane := getF g CL_GCTL.XLANE,
    xnamed := isSet g CL_GCTL.XNAMED, mbase := rget d (clOff l 0x508) }

/-- Offset of CL_TPC of a thread. -/
def tpcOff (l c t : Nat) : Nat := clOff l (0x2000 + 0x200 * c + 8 * t)
/-- Offset of CL_TBT of a thread. -/
def tbtOff (l c t : Nat) : Nat := clOff l (0x3000 + 0x200 * c + 8 * t)
/-- The state of a thread (CL_TPC.STATE). -/
def tstate (d : Dev) (l c t : Nat) : Nat := rgetF d (tpcOff l c t) CL_TPC.STATE
/-- The program counter of a thread. -/
def tpc (d : Dev) (l c t : Nat) : Nat := rgetF d (tpcOff l c t) CL_TPC.ADDR * 4
/-- CL_TPC of a thread written. -/
def setTpc (d : Dev) (l c t st pc : Nat) : Dev :=
  rset d (tpcOff l c t) (setF (setF 0 CL_TPC.STATE st) CL_TPC.ADDR (pc / 4))
/-- A thread's program counter set, its state kept. -/
def setPcT (d : Dev) (l c t pc : Nat) : Dev := rsetF d (tpcOff l c t) CL_TPC.ADDR (pc / 4)
/-- A thread's state set. -/
def setSt (d : Dev) (l c t st : Nat) : Dev := rsetF d (tpcOff l c t) CL_TPC.STATE st

/-- Fold over the threads of a mask, ascending. -/
def onLanes (m : Nat) (d : Dev) (f : Dev → Nat → Dev) : Dev :=
  (List.range 64).foldl (fun d t => if m.testBit t then f d t else d) d

/-- CL_GLIVE. -/
def glive (d : Dev) (l c : Nat) : Nat := (rget d (csOff l c 0x50)).toNat

/-- Event bits on their way to a cluster. -/
def postEvent (d : Dev) (l bits : Nat) : Dev := { d with events := d.events ++ [(l, bits % 2 ^ 32)] }

/-- The logical clusters a target descriptor names, of those the plat maps (R105). -/
def descTargets (d : Dev) (desc : Word) : List Nat :=
  let n := desc.toNat
  let ids := Tab.keys d.plat.siteOf
  if n.testBit 32 then ids
  else ids.filter (fun i => decide (bitsOf n 0 10 ≤ i ∧ i ≤ bitsOf n 16 10))

/-- Events sent to the clusters a descriptor names; an empty mask sends nothing (R105). -/
def sendEvents (d : Dev) (bits : Nat) (desc : Word) : Dev :=
  if bits % 2 ^ 32 = 0 then d else (descTargets d desc).foldl (fun d l => postEvent d l bits) d

/-- The end of a context whose units are idle: the run bit clears, and ENDEV is set where ENDEN is (R122). -/
def endContext (d : Dev) (l c : Nat) : Dev :=
  let g := rget d (csOff l c 0x48)
  let d := rset d (clOff l 0x60) (BitVec.ofNat 64 (clrBit (rget d (clOff l 0x60)).toNat c))
  let d := updCtx d l c (fun x => { x with
    stop := false, wb := none, dfault := none, swtrap := none, ufault := none,
    dmc := none, dcf := none, delay := none, vq := [], xq := [], vp := Prog.empty, xp := Prog.empty,
    heldD := [], heldS := [], park := none,
    shadow := [], handler := 0, colls := [], gsel := none, pendS := 0, pendF := 0 })
  let d := updCl d l (fun k => { k with evq := k.evq.filter (· != c) })
  if isSet g CL_GCTL.ENDEN then
    rset d (clOff l 0x50) (rget d (clOff l 0x50) ||| BitVec.ofNat 64 (1 <<< getF g CL_GCTL.ENDEV))
  else d

/-- One context started (R121, R356): the next dispatch number, fetch at CL_CENTRY, Datum level, empty records. -/
def startContext (d : Dev) (l c : Nat) : Dev :=
  if running d l c then d
  else
    let seq := (getCl d l).nextSeq
    let d := updCl d l (fun k => { k with nextSeq := k.nextSeq + 1 })
    let d := rset d (csOff l c 0x60) seq
    let d := rset d (clOff l 0x60) (rget d (clOff l 0x60) ||| BitVec.ofNat 64 (1 <<< c))
    let st := rget d (dtOff l c 0)
    let d := rset d (dtOff l c 0) (setF (setF (setF (setF st DT_STATUS.ENTRY 0) DT_STATUS.DOUBLE 0)
      DT_STATUS.IFLOST 0) DT_STATUS.PLEV 3)
    let sv := rget d (dtOff l c 0xC0)
    let d := rset d (dtOff l c 0xC0) (setF (setF sv SV_STATUS.ENTRY 0) SV_STATUS.IFLOST 0)
    let entry := rget d (csOff l c 0x68)
    let md := modesNow d l c
    let live := glive d l c
    let d := updCtx d l c (fun x => { x with
      pc := entry, cur := md, shadow := [], wb := none, dfault := none,
      swtrap := none, ufault := none, dmc := none, dcf := none, delay := none, heldD := [], heldS := [], stop := false,
      park := none, handler := 0, tpend := [], lset0 := 0, lset1 := 0, starve := [], yielded := [],
      colls := [], gsel := none, wait64 := 0, storeErr := none })
    if md.gm then
      let d := (List.range 64).foldl (fun d t =>
        if live.testBit t then setTpc d l c t 0 entry.toNat else setSt d l c t 3) d
      if live = 0 then endContext d l c else d
    else d

/-- Bits of CL_CTXRUN written 1: each named context starts if it is not running (R121). -/
def startMask (d : Dev) (l m : Nat) : Dev :=
  (List.range 8).foldl (fun d c => if m.testBit c then startContext d l c else d) d

/-- Which syllable waits keep a bundle abandonable (R373): a divide, a fence, WEVT, WTAL, WARR, a maintenance
operation, a SETC to CL_MERE. -/
def abandonable (w : WB) : Bool :=
  let held (s : Option Syl) : Bool := match s with
    | some y => y.st == .held || y.st == .divide
    | none => false
  let fixed (s : Option Syl) : Bool := match s with
    | some y => (match y.st with | .walking _ _ => true | .req _ => true | .fixed => true | _ => false)
    | none => false
  (held w.a || held w.b || held w.m) && !(fixed w.a || fixed w.b || fixed w.m)

/-- The bundle in W discarded, the divider freed (R60, R83, R107). -/
def discardBundle (d : Dev) (l c : Nat) : Dev :=
  let d := updCtx d l c (fun x => { x with wb := none, dfault := none })
  updCl d l (fun k => { k with divOwner := if k.divOwner = some c then none else k.divOwner,
                               evq := k.evq.filter (· != c) })

/-- A fault record loses a waiting item (R333). -/
def leaveRecord (d : Dev) (q idx : Nat) : Dev :=
  updQ d q (fun u => match Tab.find? u.recs idx with
    | some r => { u with recs := Tab.insert u.recs idx { r with waiters := r.waiters - 1 } }
    | none => u)

/-- A stop of one context by another agent (R122): an abandonable wait ends; a parked context leaves its record (R333);
held records run to completion (R375). -/
def stopContext (d : Dev) (l c : Nat) : Dev :=
  if !running d l c then d
  else
    let x := getCtx d l c
    let d := match x.park with
      | some p => (match p.tag with | some t => leaveRecord d (t / 1024) (t % 1024) | none => d)
      | none => d
    let d := match x.wb with
      | some w => if abandonable w then discardBundle d l c else d
      | none => d
    updCtx d l c (fun x => { x with
      stop := true, park := none, ufault := none, dmc := none, dcf := none, dfault := none, swtrap := none,
      vq := x.vq ++ (x.heldS ++ x.heldD).filter (fun o => !o.isX),
      xq := x.xq ++ (x.heldS ++ x.heldD).filter (fun o => o.isX), heldD := [], heldS := [] })

/-- Bits of CL_CTXSTOP written 1 (R122). -/
def stopMask (d : Dev) (l m : Nat) : Dev :=
  (List.range 8).foldl (fun d c => if m.testBit c then stopContext d l c else d) d

/-! ### Parked items (spec/14 R332), copies, fault records -/

/-- A retry reinstates a parked context (R332). -/
def unparkCtx (d : Dev) (l c : Nat) : Dev := updCtx d l c (fun x => { x with park := none })

/-- An unresolved answer hands the context its translation-fault trap (R332), which it takes before anything else; a
fetch keeps the fetch fault's cause. A stopping context takes none (R122). -/
def unresolveCtx (d : Dev) (l c : Nat) : Dev :=
  match (getCtx d l c).park with
  | some p =>
    updCtx (unparkCtx d l c) l c (fun x => { x with
      ufault := some p.fault,
      vq := match p.vec, x.vq with | true, o :: q => { o with fault := true } :: q | _, q => q })
  | none => d

/-- CL_CPSTAT of a context brought up to its copies (R297). -/
def refreshCpstat (d : Dev) (l c : Nat) : Dev :=
  let cs := (getCl d l).copies.filter (fun e => e.2.ctx == c)
  let d := rsetF d (clOff l (0x600 + 8 * c)) CL_CPSTAT.OUT cs.length
  rsetF d (clOff l (0x600 + 8 * c)) CL_CPSTAT.PARKED (cs.filter (fun e => e.2.park.isSome)).length

/-- A copy of a cluster replaced. -/
def setCopy (d : Dev) (l id : Nat) (cp : Copy) : Dev :=
  refreshCpstat (updCl d l (fun k => { k with copies := Tab.insert k.copies id cp })) l cp.ctx

/-- TR_FAULTSTAT.OPEN brought up to the outstanding records. -/
def refreshOpen (d : Dev) : Dev :=
  rsetF d (qOff 0 0x1188) TR_FAULTSTAT.OPEN ((List.range 4).foldl (fun n q => n + (getQ d q).recs.length) 0)

/-! ### A line of a quarter cache maintained (spec/13 R311) -/

/-- Is the line one of a stack? -/
def lineOfStack (d : Dev) (x : Sline) : Bool :=
  match resolveWin d (x.ln * 512) with | some (.stack _ _, _) => true | _ => false

/-- A quarter cache line cleaned, discarded, or both; a line that is not of a stack is only discarded (R311). -/
def qcMaintain (d : Dev) (q op key : Nat) (x : Sline) : Dev :=
  let d := if op.testBit 0 && lineOfStack d x then qcCleanLine d x else d
  if op.testBit 1 || !lineOfStack d x then qcPut d q key (slNew x.ln) else qcPut d q key { x with dirty := 0 }

end Sys2Proof.Machine
end

