-- ==== Sys2Proof/Machine/Ledger.lean ====
section
/-!
DEFINITION. The ledger (spec/21 R459 to R463) and the flash it lies in (spec/22 R483): records, their writing, the event log, the
retired list, map-outs.
-/
namespace Sys2Proof.Machine

/-! ### Flash -/

/-- A byte of the flash; an erased byte reads 0xFF. -/
def fbyte (d : Dev) (a : Nat) : Byte := Tab.get 0xFF d.flash a
/-- Bytes of the flash. -/
def fbytes (d : Dev) (a n : Nat) : List Byte := (List.range n).map (fun i => fbyte d (a + i))
/-- Bytes programmed: a program clears bits and sets none. -/
def fprog (d : Dev) (a : Nat) (bs : List Byte) : Dev :=
  { d with flash := Tab.setRun 0xFF d.flash a (List.zipWith (fun o b => o &&& b) (fbytes d a bs.length) bs) }
/-- A range erased. -/
def ferase (d : Dev) (a n : Nat) : Dev := { d with flash := Tab.drop d.flash (fun x => decide (a ≤ x ∧ x < a + n)) }
/-- Is a range erased? -/
def ferased (d : Dev) (a n : Nat) : Bool := !d.flash.any (fun e => decide (a ≤ e.1 ∧ e.1 < a + n))

/-! ### Records -/

/-- The Dykereeve changed. -/
def updDk (d : Dev) (f : Dyke → Dyke) : Dev := { d with dyke := f d.dyke }
/-- The ledger's values changed. -/
def updLed (d : Dev) (f : Led → Led) : Dev := updDk d (fun k => { k with led := f k.led })

/-- A record's bytes 0x000 to 0x1FF (R460). -/
def ledBody (r : Led) : List Byte :=
  toBytes 4 0x5247444C ++ toBytes 2 1 ++ toBytes 2 0x0204 ++ toBytes 4 r.seq ++ toBytes 1 r.select ++ toBytes 1 r.evhead ++
  toBytes 2 0 ++ toBytes 8 r.platFloor ++ toBytes 8 r.fwFloor ++ toBytes 8 r.sessCtr ++ toBytes 2 r.fails ++
  toBytes 2 (min 64 r.retired.length) ++ toBytes 4 r.boots ++ ((List.range 5).map (fun i => toBytes 4 (r.totals.getD i 0))).flatten ++
  toBytes 4 0 ++ ((List.range 64).map (fun i => toBytes 2 (r.retired.getD i 0))).flatten ++
  ((List.range 24).map (fun k => toBytes 2 (Tab.get 0 r.chanmap k))).flatten ++
  ((List.range 4).map (fun q => toBytes 2 (Tab.get 0 r.wayoff q))).flatten ++
  ((List.range 16).map (fun i => Tab.get (toBytes 16 0) r.events i)).flatten

/-- A record with its CRC (R460). -/
def ledBytes (r : Led) : List Byte := ledBody r ++ toBytes 4 (crc32c (ledBody r))

/-- `n` bytes at an offset of a byte string, as a number. -/
def fieldAt (bs : List Byte) (o n : Nat) : Nat := ofBytes ((bs.drop o).take n)

/-- The record that a slot's bytes hold, if they are valid but for the anchor (R462). -/
def parseLed (bs : List Byte) : Option Led :=
  if fieldAt bs 0 4 ≠ 0x5247444C ∨ fieldAt bs 4 2 ≠ 1 ∨ fieldAt bs 6 2 ≠ 0x0204 ∨ fieldAt bs 0x200 4 ≠ crc32c (bs.take 0x200) then none
  else some {
    seq := fieldAt bs 8 4, select := fieldAt bs 0xC 1, evhead := fieldAt bs 0xD 1, platFloor := fieldAt bs 0x10 8,
    fwFloor := fieldAt bs 0x18 8, sessCtr := fieldAt bs 0x20 8, fails := fieldAt bs 0x28 2,
    retired := (List.range (fieldAt bs 0x2A 2)).map (fun i => fieldAt bs (0x48 + 2 * i) 2), boots := fieldAt bs 0x2C 4,
    totals := (List.range 5).map (fun i => fieldAt bs (0x30 + 4 * i) 4),
    chanmap := (List.range 24).foldl (fun t k => Tab.set 0 t k (fieldAt bs (0xC8 + 2 * k) 2)) [],
    wayoff := (List.range 4).foldl (fun t q => Tab.set 0 t q (fieldAt bs (0xF8 + 2 * q) 2)) [],
    events := (List.range 16).foldl (fun t i => Tab.set (toBytes 16 0) t i ((bs.drop (0x100 + 16 * i)).take 16)) [] }

/-- Where slot `s` of 128 begins: bank s / 64 (R459, R483). -/
def slotAt (s : Nat) : Nat := 0x48_0000 + 1024 * s
/-- The slot of a sequence number (R459). -/
def slotOfSeq (n : Nat) : Nat := 64 * (n % 2) + n / 2 % 64

/-! ### What the ledger is asked to record -/

/-- A record is wanted (R461). -/
def ledgerAsk (d : Dev) (r : LReason) : Dev := updDk d (fun k => { k with want := k.want ++ [r] })

/-- An entry of the event log (R460). -/
def ledgerEvent (d : Dev) (kind cls unit detail : Nat) : Dev :=
  updLed d (fun r => { r with
    events := Tab.set (toBytes 16 0) r.events (r.evhead % 16)
      (toBytes 4 r.boots ++ toBytes 1 kind ++ toBytes 1 cls ++ toBytes 2 unit ++ toBytes 8 detail)
    evhead := (r.evhead + 1) % 16 })

/-- The registers that show the ledger: DK_LEDGER, DK_RETIRED, HB_SESSTAT.FAILS (R460, R466). -/
def showLedger (d : Dev) : Dev :=
  let r := d.dyke.led
  let d := rset d (dkOff 0x18) (setF (setF 0 DK_LEDGER.SEQ r.seq) DK_LEDGER.BOOTS r.boots)
  let d := (List.range 13).foldl (fun d w => rset d (dkOff (0x180 + 8 * w))
    (BitVec.ofNat 64 (maskOf 64 (fun j => r.retired.any (fun e => e % 1024 == 64 * w + j))))) d
  rsetF d (landOff 0) HB_SESSTAT.FAILS (min 255 r.fails)

/-- A map-out put in the ledger (R342). -/
def recordMapout (d : Dev) (k ch : Nat) : Dev :=
  ledgerAsk (updLed d (fun r => { r with chanmap := Tab.set 0 r.chanmap k (setBit (Tab.get 0 r.chanmap k) ch) })) .fault

/-- A site retired for a class of fault (R457, R458): beyond 64 entries DK_STAT.RFULL is set and nothing is recorded. -/
def retireSite (d : Dev) (site cls : Nat) : Dev :=
  let r := d.dyke.led.retired
  if r.any (fun e => e % 1024 == site) then d
  else if 64 ≤ r.length then rsetB d (dkOff 0) DK_STAT.RFULL true
  else showLedger (ledgerAsk (updLed d (fun x => { x with retired := x.retired ++ [site % 1024 + 1024 * cls] })) .fault)

/-! ### Writing a record -/

/-- May a record be programmed into a slot: one that begins a sector waits for the sector's erase (R459). -/
def slotReady (d : Dev) (slot : Nat) : Bool := slot % 4 != 0 || ferased d (slotAt slot) 1024

/-- LEDGER_WRITE: the next record, with every field's current value and the totals folded in, goes to its slot; it waits for the
slot's erase (R459, R461). -/
def ledgerWrite (d : Dev) : Dev :=
  let k := d.dyke
  let seq := (k.led.seq + 1) % 2 ^ 32
  let slot := slotOfSeq seq
  if k.want = [] ∨ k.writing.isSome ∨ !slotReady d slot then d
  else
    let led : Led := { k.led with
      seq := seq, totals := (List.range 5).map (fun i => satAdd (ones 32) (k.led.totals.getD i 0) (Tab.get 0 k.totPend i)) }
    let bs := ledBytes led
    updDk (fprog d (slotAt slot) bs) (fun k => { k with
      led := led, totPend := [], want := [], writing := some ⟨slot, 0, bs, k.want⟩ })

/-- Does the sector from a slot on hold the newest record, one that a retry put there (R461)? -/
def sectorInUse (d : Dev) (slot : Nat) : Bool :=
  (match d.dyke.writing with | some w => w.slot / 4 == slot / 4 | none => false) ||
  (List.range 4).any (fun i => match parseLed (fbytes d (slotAt (slot / 4 * 4 + i)) 0x204) with
    | some r => r.seq == d.dyke.led.seq
    | none => false)

/-- FLASH_SECTOR_ERASE: the sector that a ledger bank's next record begins is erased (R459), unless the newest record lies in it. -/
def sectorErase (bank : Nat) (d : Dev) : Dev :=
  let n := d.dyke.led.seq + 1
  let n := if n % 2 = bank % 2 then n else n + 1
  let i := n / 2 % 64
  if i % 4 = 0 ∧ !sectorInUse d (64 * (bank % 2) + i) then ferase d (slotAt (64 * (bank % 2) + i)) 4096 else d

/-- A record that did not read back equal is written to the bank's next slot, up to three times (R461). -/
def ledgerRetry (d : Dev) (w : LWrite) : Dev :=
  let slot := 64 * (w.slot / 64) + (w.slot + 1) % 64
  updDk (fprog d (slotAt slot) w.bytes) (fun k => { k with writing := some { w with slot := slot, tries := w.tries + 1 } })

/-- The anchor in key storage brought up to the record (R463). -/
def setAnchor (d : Dev) : Dev :=
  let r := d.dyke.led
  updDk d (fun k => { k with anchor := some ⟨r.seq, r.platFloor, r.fwFloor, r.sessCtr⟩ })

/-- A record written and read back: the anchor follows at every 4,096th record and at a risen floor (R463). -/
def ledgerDone (d : Dev) : Dev :=
  let r := d.dyke.led
  let rose : Bool := match d.dyke.anchor with
    | some a => decide (a.platFloor < r.platFloor ∨ a.fwFloor < r.fwFloor)
    | none => decide (0 < r.platFloor ∨ 0 < r.fwFloor)
  let d := showLedger (rsetB (updDk d (fun k => { k with writing := none })) (dkOff 0) DK_STAT.LEDGEROK true)
  if r.seq % 4096 = 0 then setAnchor d else if rose then setAnchor d else d

/-- Is sequence number `a` newer than `b` (R462)? -/
def newer (a b : Nat) : Bool := decide (0 < (a + 2 ^ 32 - b) % 2 ^ 32 ∧ (a + 2 ^ 32 - b) % 2 ^ 32 < 2 ^ 31)

/-- The newest valid record in the flash (R462). -/
def newestLed (d : Dev) : Option Led :=
  let least := match d.dyke.anchor with | some a => a.seq | none => 0
  ((List.range 128).filterMap (fun s => parseLed (fbytes d (slotAt s) 0x204))).foldl (fun best r =>
    if r.seq < least then best else match best with
      | none => some r
      | some b => if newer r.seq b.seq then some r else some b) none

/-- The ledger read at boot: the newest valid record, or one rebuilt from the anchor (R462, R463). -/
def readLedger (d : Dev) : Dev :=
  match newestLed d with
  | some r => rsetB (updLed d (fun _ => r)) (dkOff 0) DK_STAT.LEDGEROK true
  | none =>
    let r := match d.dyke.anchor with
      | some a => { Led.empty with seq := a.seq + 4096, sessCtr := a.sessCtr + 4096, platFloor := a.platFloor, fwFloor := a.fwFloor }
      | none => Led.empty
    ledgerEvent (rsetB (updLed d (fun _ => r)) (dkOff 0) DK_STAT.REBUILT true) 7 0 0 0

/-- LEDGER_WRITE. -/
def execLedgerWrite (s : State) : Out := s.upd ledgerWrite
/-- FLASH_SECTOR_ERASE. -/
def execFlashSectorErase (bank : Nat) (s : State) : Out := s.upd (sectorErase bank)

end Sys2Proof.Machine
end

