-- ==== Sys2Proof/Machine/Tracts.lean ====
section
/-!
DEFINITION. Tracts and their frames (spec/14 R335, R336): where a tract stands, the frame reserve, the move of a chunk, tract
commands (R337), a DISCARD, lost tracts (spec/15 R344).
-/
namespace Sys2Proof.Machine

/-- Bytes of a tract, and of its frame. -/
def tractLen : Nat := 0x20_0000
/-- Bytes of a chunk of a moving tract. -/
def chunkLen : Nat := 0x1_0000

/-- Tract `t`. -/
def getTract (d : Dev) (t : Nat) : Tract := Tab.get Tract.home d.tracts t
/-- Tract `t` changed. -/
def updTract (d : Dev) (t : Nat) (f : Tract → Tract) : Dev :=
  { d with tracts := Tab.set Tract.home d.tracts t (f (getTract d t)) }

/-- The window that holds a device address. -/
def winOf (d : Dev) (a : Nat) : Option Nat := findUpto 64 (fun i => winHolds d i a)

/-- Where a device address stands now: stack and offset. -/
def placeNow (d : Dev) (a : Nat) : Option (Nat × Nat) :=
  match resolveWin d a with
  | some (t, _) => (match placeTract d a 99 true t with | .stack k o => some (k, o) | _ => none)
  | none => none

/-- The pages of 4 KiB that hold `n` bytes of device address from `a` on, with their places. -/
def pieces (d : Dev) (a n : Nat) : List (Nat × Nat) := (List.range (n / 4096)).filterMap (fun i => placeNow d (a + 4096 * i))

/-! ### Bytes moved and cleared -/

/-- `n` bytes of stack memory, with the state of their sectors, moved to another place. -/
def moveMem (d : Dev) (k1 o1 k2 o2 n : Nat) : Dev :=
  let a := memKey k1 o1
  let b := memKey k2 o2
  let inA (x : Nat) : Bool := decide (a ≤ x ∧ x < a + n)
  let inB (x : Nat) : Bool := decide (b ≤ x ∧ x < b + n)
  let secA (x : Nat) : Bool := inA (64 * x)
  let secB (x : Nat) : Bool := inB (64 * x)
  let src := d.mem.filter (fun e => inA e.1)
  let bad := d.badMem.filter (fun e => secA e.1)
  let mem := Tab.drop (Tab.drop d.mem inA) inB
  let bm := Tab.drop (Tab.drop d.badMem secA) secB
  { d with mem := src.foldl (fun m e => Tab.set 0 m (e.1 - a + b) e.2) mem,
           badMem := bad.foldl (fun m e => Tab.insert m ((64 * e.1 - a + b) / 64) e.2) bm }

/-- `n` bytes of stack memory made zero, without errors. -/
def zeroMem (d : Dev) (k o n : Nat) : Dev :=
  let a := memKey k o
  { d with mem := Tab.drop d.mem (fun x => decide (a ≤ x ∧ x < a + n)),
           badMem := Tab.drop d.badMem (fun x => decide (a ≤ 64 * x ∧ 64 * x < a + n)) }

/-- The lines of a range of device addresses leave every quarter cache, dirty stack bytes written back or dropped. -/
def qcLeave (d : Dev) (lo hi : Nat) (clean : Bool) : Dev :=
  (List.range 4).foldl (fun d q => (getQ d q).qc.foldl (fun d e =>
    if lo ≤ e.2.ln * 512 ∧ e.2.ln * 512 < hi then
      qcPut (if clean then qcCleanLine d e.2 else d) q e.1 (slNew e.2.ln) else d) d) d

/-- Requests on their way to a stack follow the bytes of a range that has moved. -/
def retarget (d : Dev) (lo hi : Nat) : Dev :=
  { d with reqs := d.reqs.map (fun e =>
      match e.2.tgt, placeNow d e.2.da with
      | .stack _ _, some (k, o) =>
        if lo ≤ e.2.da ∧ e.2.da < hi ∧ e.2.stage ≠ .done then
          (e.1, { e.2 with tgt := .stack k o, stage := match e.2.stage with | .admitted _ => .toStack | st => st })
        else e
      | _, _ => e) }

/-! ### The frame reserve -/

/-- The offsets of stack `k` that window `i` reaches: first, and first beyond (R42). -/
def winReach (d : Dev) (i k : Nat) : Nat × Nat :=
  let t := winWord d i 3
  let n := (winWord d i 1).toNat
  let o := (winWord d i 2).toNat
  let tid := getF t TR_WIN_T.TID
  if n = 0 then (0, 0)
  else match getF t TR_WIN_T.TTYPE with
    | 0 => if tid = k then (o, o + n) else (0, 0)
    | 1 =>
      let ks := boundStacks d tid
      let g := granule (getF t TR_WIN_T.GRAN)
      if ks.contains k then (o / (g * ks.length) * g, ceilDiv (o + n) (g * ks.length) * g) else (0, 0)
    | _ => (0, 0)

/-- Is [a, b) clear of [c, e)? -/
def disjoint (a b c e : Nat) : Bool := decide (b ≤ c ∨ e ≤ a)

/-- The frames that tracts hold on stack `k`: places, replicas, and where they move to. -/
def framesHeld (d : Dev) (k : Nat) : List Nat :=
  (d.tracts.map (fun e =>
    let f := (match e.2.frame with | some p => [p] | none => []) ++ e.2.repl ++
      (match e.2.moving with | some (_, a, b) => [(a, b)] | none => [])
    (f.filter (fun p => p.1 == k)).map (·.2))).flatten

/-- Is the frame at offset `f` of stack `k` in the reserve (spec/14, Tracts and migration)? -/
def frameFree (d : Dev) (k f : Nat) : Bool :=
  decide (f + tractLen ≤ stackLen d k) &&
  (List.range 64).all (fun i => let r := winReach d i k; disjoint f (f + tractLen) r.1 r.2) &&
  !(framesHeld d k).contains f

/-- The lowest free frame of a stack. -/
def freeFrame (d : Dev) (k : Nat) : Option Nat :=
  ((List.range (stackLen d k / tractLen)).map (· * tractLen)).find? (frameFree d k)

/-- The parcel that a tract belongs to: that of its window. -/
def tractParcel (d : Dev) (t : Nat) : Nat :=
  match winOf d (t * tractLen) with
  | some i =>
    let w := winWord d i 3
    if getF w TR_WIN_T.TTYPE = 1 then getF w TR_WIN_T.TID else d.plat.stackOf.getD (getF w TR_WIN_T.TID) 0xFF
  | none => 0xFF

/-- May a tract move to stack `k` (R335)? -/
def mayMove (d : Dev) (t k : Nat) : Bool :=
  let p := tractParcel d t
  let r := d.plat.stackOf.getD k 0xFE
  r == p || r == 0xFF || (p != 0xFF && decide (r < 16) && d.plat.allotMask.testBit p && d.plat.allotMask.testBit r)

/-! ### A move -/

/-- A tract begins to move to a frame of stack `k`; none where no frame is free. Its replicas go (R335, R336). -/
def startMove (d : Dev) (t k : Nat) : Option Dev :=
  (freeFrame d k).map (fun f => updTract d t (fun x => { x with repl := [], moving := some (0, k, f) }))

/-- One chunk of a moving tract: its lines leave the old home point's quarter cache, its bytes go to the new frame, and the chunk
switches; after the last one the frame is the tract's place (R335). -/
def moveChunk (d : Dev) (t : Nat) : Dev :=
  match (getTract d t).moving with
  | none => d
  | some (n, k, f) =>
    let lo := t * tractLen + chunkLen * n
    let d := qcLeave d lo (lo + chunkLen) true
    let ps := pieces d lo chunkLen
    let d := ((List.range 16).zip ps).foldl (fun d p => moveMem d p.2.1 p.2.2 k (f + chunkLen * n + 4096 * p.1) 4096) d
    let d := updTract d t (fun x =>
      if n + 1 < 32 then { x with moving := some (n + 1, k, f) } else
        { x with frame := some (k, f), moving := none, lastMove := rgetF d (suOff 0x1200) SU_ALLOTSTAT.EPOCH })
    retarget d lo (lo + chunkLen)

/-- Every chunk of a move at once (a move that a map-out forces, R344). -/
def moveWhole (d : Dev) (t k : Nat) : Option Dev :=
  (startMove d t k).map (fun d => (List.range 32).foldl (fun d _ => moveChunk d t) d)

/-- The lost tracts that a DISCARD has covered get a frame, zero, when one is free (R344). -/
def assignCovered (d : Dev) : Dev :=
  d.tracts.foldl (fun d e =>
    if e.2.lost ∧ e.2.covered then
      match (List.range 24).findSome? (fun k => if mayMove d e.1 k then (freeFrame d k).map (fun f => (k, f)) else none) with
      | some (k, f) => updTract (zeroMem d k f tractLen) e.1 (fun x => { x with lost := false, covered := false, frame := some (k, f) })
      | none => d
    else d) d

/-- DISCARD of a tract (R336): it reads as zero, its replicas go, its lines in quarter caches go unwritten. -/
def discardTract (d : Dev) (t : Nat) : Dev :=
  let a := t * tractLen
  if (getTract d t).lost then assignCovered (updTract d t (fun x => { x with covered := true }))
  else
    let d := qcLeave d a (a + tractLen) false
    let d := (pieces d a tractLen).foldl (fun d p => zeroMem d p.1 p.2 4096) d
    updTract d t (fun x => { x with repl := [] })

/-! ### Tract commands (R337) -/

/-- A byte of a tract command. -/
def tcByte (w : List Word) (i : Nat) : Nat := bitsOf (w.getD (i / 8) 0).toNat (8 * (i % 8)) 8

/-- The tracts of a command's range. -/
def tcTracts (w : List Word) : List Nat :=
  (List.range ((w.getD 1 0).toNat / tractLen)).map (fun i => (w.getD 0 0).toNat / tractLen + i)

/-- The stack that tract `j` of the range goes to: the target, or the target parcel's stacks in turn (R336). -/
def tcStack (d : Dev) (w : List Word) (j : Nat) : Option Nat :=
  if tcByte w 0x12 = 0 then (if tcByte w 0x13 < 24 then some (tcByte w 0x13) else none)
  else
    let ks := boundStacks d (tcByte w 0x13)
    if tcByte w 0x13 < 16 then ks[j % max 1 ks.length]? else none

/-- Does a tract stand wholly within TTYPE 0 or 1 windows? -/
def tractInWindows (d : Dev) (t : Nat) : Bool :=
  (List.range 512).all (fun i => match winOf d (t * tractLen + 4096 * i) with
    | some j => decide (getF (winWord d j 3) TR_WIN_T.TTYPE ≤ 1)
    | none => false)

/-- The status a tract command ends with at once, if it does (R337): reserved fields first, then a length of zero, the range,
the target. -/
def tcCheck (d : Dev) (w : List Word) : Option Nat :=
  let op := tcByte w 0x10
  let hints := tcByte w 0x11
  let a := (w.getD 0 0).toNat
  let n := (w.getD 1 0).toNat
  if op ≠ 1 ∧ op ≠ 2 ∨ 16 ≤ hints ∨ 1 < tcByte w 0x12 ∨ bitsOf (w.getD 2 0).toNat 32 32 ≠ 0 ∨ w.getD 3 0 ≠ 0 then some 4
  else if n = 0 then some 0
  else if a % tractLen ≠ 0 ∨ n % tractLen ≠ 0 ∨ !(tcTracts w).all (tractInWindows d) then some 1
  else if (op = 1 ∨ hints.testBit 1) ∧
      !((List.range (tcTracts w).length).zip (tcTracts w)).all (fun p =>
        match tcStack d w p.1 with | some k => mayMove d p.2 k | none => false) then some 2
  else none

/-- The running tract command ends with a status (R337). -/
def tractEnds (d : Dev) (c : TractCmd) (status : Nat) : Dev :=
  let o := suOff 0x1020
  let d := rset d o (setF (setF (setB (rget d o) SU_TRACTCTL.BUSY false) SU_TRACTCTL.STATUS status) SU_TRACTCTL.DONE c.done)
  { d with tractCmd := none, tractEnd := match c.ring with | some n => some (n, status, c.done) | none => d.tractEnd }

/-- A tract command given to the Surveyor (R337): refused at once by its status, or running. -/
def tractGo (d : Dev) (w : List Word) (ring : Option Nat) : Dev :=
  let c : TractCmd := { words := w, ring := ring, started := false, todo := [], done := 0 }
  match tcCheck d w with
  | some s => tractEnds d c s
  | none => { rsetB d (suOff 0x1020) SU_TRACTCTL.BUSY true with tractCmd := some c }

/-- A write of GO (R337). -/
def suTractGo (d : Dev) : Dev :=
  if rbit d (suOff 0x1020) SU_TRACTCTL.BUSY then rsetB d (suOff 0x1020) SU_TRACTCTL.CMDLOST true
  else tractGo d ((List.range 4).map (fun i => rget d (suOff (0x1000 + 8 * i)))) none

/-- The next tract of a running MIGRATE begins to move; the command ends after the last, or where no frame is free. -/
def tractNext (d : Dev) : Dev :=
  match d.tractCmd with
  | none => d
  | some c =>
    match c.todo with
    | [] => tractEnds d c 0
    | (t, k) :: _ =>
      match startMove d t k with
      | some d => d
      | none => tractEnds d c 3

/-- MIGRATE: the running command begins to move the tracts of its range (R336). -/
def migrate (d : Dev) : Dev :=
  match d.tractCmd with
  | some c =>
    if tcByte c.words 0x10 ≠ 1 ∨ c.started then d
    else
      let ts := tcTracts c.words
      let todo := ((List.range ts.length).zip ts).map (fun p => (p.2, (tcStack d c.words p.1).getD 0))
      tractNext { d with tractCmd := some { c with started := true, todo := todo } }
  | none => d

/-- ADVISE: the hints of every tract of the range, and DISCARD (R336). -/
def advise (d : Dev) : Dev :=
  match d.tractCmd with
  | some c =>
    if tcByte c.words 0x10 ≠ 2 then d
    else
      let h := tcByte c.words 0x11
      let pref := tcByte c.words 0x13 + 256 * tcByte c.words 0x12
      let d := (tcTracts c.words).foldl (fun d t =>
        let d := updTract d t (fun x => { x with hints := h, pref := if h.testBit 1 then some pref else none,
                                                 repl := if h.testBit 2 then [] else x.repl })
        if h.testBit 3 then discardTract d t else d) d
      tractEnds d { c with done := (tcTracts c.words).length } 0
  | none => d

/-- TRACT_CHUNK_MOVE: a chunk of a moving tract has moved; after the last one the command counts the tract and goes on
(R335, R336). -/
def chunkMove (t : Nat) (d : Dev) : Dev :=
  if (getTract d t).moving.isNone then d
  else
    let d := moveChunk d t
    if (getTract d t).moving.isSome then d
    else
      let d := assignCovered d
      match d.tractCmd with
      | some c =>
        (match c.todo with
         | (u, _) :: r => if u = t then tractNext { d with tractCmd := some { c with todo := r, done := c.done + 1 } } else d
         | [] => d)
      | none => d

/-! ### The meanings -/

/-- MIGRATE. -/
def execMigrate (s : State) : Out := s.upd migrate
/-- ADVISE. -/
def execAdvise (s : State) : Out := s.upd advise
/-- TRACT_CHUNK_MOVE. -/
def execTractChunkMove (tract : Nat) (s : State) : Out := s.upd (chunkMove tract)

end Sys2Proof.Machine
end

