-- ==== Sys2Proof/Machine/Stacks.lean ====
section
/-!
DEFINITION. Memory stacks (spec/15): the order and completion of requests (R341, R348, R349), the atomic unit (R350), map-out
and restripe (R343 to R345), the patrol scrub (R349), refresh (R352), self-refresh (R353), the symbol code (R346).
-/
namespace Sys2Proof.Machine

/-! ### The symbol code (R346) -/

/-- A product in GF(2^8) modulo x^8 + x^4 + x^3 + x^2 + 1. -/
def gfMul (a b : Nat) : Nat :=
  (List.range 8).foldl (fun r i =>
    let r2 := if r.testBit 7 then (2 * r) ^^^ 0x11D else 2 * r
    if b.testBit (7 - i) then r2 ^^^ a else r2) 0

/-- The generator (x - α^0) … (x - α^7), lowest coefficient first. -/
def rsGen : List Nat :=
  ((List.range 8).foldl (fun (p : List Nat × Nat) _ =>
    let scaled := p.1.map (fun c => gfMul c p.2) ++ [0]
    (List.zipWith (· ^^^ ·) scaled (0 :: p.1), gfMul p.2 2)) ([1], 1)).1

/-- The eight check bytes of a sector: the remainder of the data polynomial divided by the generator, check byte i the
coefficient of x^i. -/
def rsCheck (bs : List Byte) : List Nat :=
  bs.reverse.foldl (fun r b =>
    let f := b.toNat ^^^ r.getD 7 0
    List.zipWith (fun x g => x ^^^ gfMul f g) (0 :: r.take 7) (rsGen.take 8)) (List.replicate 8 0)

/-! ### Requests -/

/-- The stack and offset of a request. -/
def reqStack (r : Req) : Option (Nat × Nat) := match r.tgt with | .stack k o => some (k, o) | _ => none

/-- A request's place in the order of admission. -/
def reqOrd (r : Req) : Option Nat := match r.stage with | .admitted n => some n | _ => none

/-- The requests that a stack's controller holds. -/
def heldReqs (d : Dev) (k : Nat) : List (Nat × Req) :=
  d.reqs.filter (fun e => (reqOrd e.2).isSome && (match reqStack e.2 with | some (j, _) => j == k | none => false))

/-- Is an offset in the chunk that a restripe is moving (R343)? -/
def inMotion (d : Dev) (k off : Nat) : Bool :=
  match (getStk d k).removing with
  | some _ => off / chunkLen == (rget d (stkOff k 0x20)).toNat / chunkLen
  | none => false

/-- Does an older request of the same cluster that writes the same sector wait to be admitted (R144)? -/
def writeAhead (d : Dev) (id : Nat) (r : Req) : Bool :=
  d.reqs.any (fun e => decide (e.1 < id) && e.2.cl == r.cl && e.2.da / 64 == r.da / 64 && e.2.kind != .read &&
    (e.2.stage == .toQuarter || e.2.stage == .toStack))

/-- STACK_REQUEST_ADMIT: a request enters its channel's queue of 64, or is held by back-pressure (R341); one that waits for a
chunk in motion, through self-refresh, or behind an older write of its sector, waits (R343, R353, R144). An offset beyond the populated length is a window miss. -/
def stackAdmit (id : Nat) (d : Dev) : Dev :=
  match Tab.find? d.reqs id with
  | none => d
  | some r =>
    match r.stage, r.tgt with
    | .toStack, .stack k off =>
      if rbit d (stkOff k 0x18) MS_STAT.SR ∨ inMotion d k off ∨ (getQ d (k / 6)).held ∨ writeAhead d id r then d
      else if stackLen d k ≤ off then finishReq d id 1 0
      else
        let ch := chanOf d k off
        let n := (heldReqs d k).filter (fun e => match reqStack e.2 with | some (_, o) => chanOf d k o == ch | none => false)
        if 64 ≤ n.length then
          rset d (stkOff k 0x28) (rget d (stkOff k 0x28) + 1)
        else
          let m := (getStk d k).nextOrd
          updReq (updStk d k (fun s => { s with nextOrd := m + 1 })) id (fun r => { r with stage := .admitted m, passed := 0 })
    | _, _ => d

/-- May an admitted request go next: no older one of its sector stands before it, and none of its channel that 32 younger ones
have passed (R341)? -/
def mayFinish (d : Dev) (r : Req) : Bool :=
  match reqStack r, reqOrd r with
  | some (k, off), some n =>
    (heldReqs d k).all (fun e => match reqStack e.2, reqOrd e.2 with
      | some (_, o), some m => !(decide (m < n) && (o / 64 == off / 64 ||
          (chanOf d k o == chanOf d k off && decide (32 ≤ e.2.passed))))
      | _, _ => true)
  | _, _ => false

/-- The older requests of a channel that a finishing one passes over. -/
def notePassed (d : Dev) (r : Req) : Dev :=
  match reqStack r, reqOrd r with
  | some (k, off), some n =>
    { d with reqs := d.reqs.map (fun e =>
        match reqStack e.2, reqOrd e.2 with
        | some (j, o), some m =>
          if j = k ∧ m < n ∧ chanOf d k o = chanOf d k off then (e.1, { e.2 with passed := e.2.passed + 1 }) else e
        | _, _ => e) }
  | _, _ => d

/-- The KIND that an uncorrectable sector is captured with, by its consumer (R349). -/
def eccKind (d : Dev) (r : Req) : Nat :=
  match r.src with
  | .prefetch _ => 4
  | .copy id => (match Tab.find? (getCl d r.cl).copies id with | some cp => if getF (cp.w.getD 2 0) ⟨48, 3⟩ = 1 then 4 else 1 | none => 1)
  | _ => 1

/-- Does the quarter cache of a stack hold the sector of a device address? -/
def qcHolds (d : Dev) (k da : Nat) : Bool :=
  match qcFind d (k / 6) da with | some (_, l) => l.full.testBit (da / 64 % 8) | none => false

/-- A request's bytes written at the home point. -/
def writeAtStack (d : Dev) (r : Req) (k off : Nat) : Dev :=
  if r.qcache ∨ qcHolds d k r.da then homeWrite d r.da k off r.len r.mask r.data (r.status == 3)
  else stackWrite d k off r.len r.mask r.data (r.status == 3)

/-- In Allotment mode the controller samples one access in 16, by tract and quarter (R445). -/
def sampleAccess (d : Dev) (k : Nat) (r : Req) : Dev :=
  if !d.plat.allot ∨ 1023 ≤ r.cl then d
  else
    let n := (getStk d k).seen + 1
    let d := updStk d k (fun s => { s with seen := n % 16 })
    if n < 16 then d
    else
      let t := r.da / tractLen
      let q := quarterOf d r.cl
      let c := Tab.get [0, 0, 0, 0] d.lv.epochAcc t
      { d with lv := { d.lv with epochAcc := Tab.set [0, 0, 0, 0] d.lv.epochAcc t (c.set q (c.getD q 0 + 1)) } }

/-- STACK_REQUEST_COMPLETE: a read's data departs, filling the quarter cache unless it is uncorrectable (R349); a write of a
sector replaces it, a partial write merges (R348). -/
def stackComplete (id : Nat) (d : Dev) : Dev :=
  match Tab.find? d.reqs id with
  | none => d
  | some r =>
    match r.tgt, r.kind with
    | .stack k off, .read =>
      if !mayFinish d r then d
      else
        let d := sampleAccess (notePassed d r) k r
        let g := homeRead d r.da k off r.len
        let d := homeNote d r.da k off (eccKind d r)
        let d := if r.qcache && !g.2 && r.len == 64 && !qcHolds d k r.da && qcTakes d (k / 6) r.da then qcFill d (k / 6) r.da g.1 false else d
        finishReq d id (if g.2 then 3 else 0) g.1
    | .stack k off, .write =>
      if !mayFinish d r then d
      else
        let d := sampleAccess (notePassed d r) k r
        finishReq (writeAtStack d r k off) id 0 0
    | _, _ => d

/-- An atomic at a stack's atomic unit (R350): the quarter cache's sector is written back and dropped, then the old value, and
none where the sector is uncorrectable. -/
def atomApply (d : Dev) (da k off n op v cmp : Nat) : Option Nat × Dev :=
  let d := match qcFind d (k / 6) da with
    | some (_, l) => qcDropSector (if slDirty l (da / 64 % 8) then qcWriteBack d l (da / 64 % 8) else d) (k / 6) da
    | none => d
  if sectorBad d k off then (none, eccCapture d k off 3)
  else
    let old := ofBytes (mbytes d k off n)
    let d := match amoNew op (8 * n) old v cmp with
      | some w => stackWrite d k off n (ones n) w false
      | none => noteRead d k off 3
    (some old, rset d (stkOff k 0x30) (rget d (stkOff k 0x30) + 1))

/-- ATOMIC_UNIT_APPLY: an admitted atomic, or element of a scatter-with-reduction, is applied in its turn (R350). -/
def atomicUnit (id : Nat) (d : Dev) : Dev :=
  match Tab.find? d.reqs id with
  | none => d
  | some r =>
    let go (op n cmp : Nat) : Dev :=
      match r.tgt with
      | .stack k off =>
        if !mayFinish d r then d
        else
          let p := atomApply (notePassed d r) r.da k off n op r.data cmp
          (match p.1 with
           | some old => finishReq p.2 id 0 old
           | none => finishReq p.2 id 3 0)
      | _ => d
    match r.kind with
    | .atomic op n cmp => go op n cmp
    | .red op n => go op n 0
    | .swap n cmp => go 1 n cmp
    | _ => d

/-! ### Map-out and restripe (R343 to R345) -/

/-- Bytes of one channel. -/
def chanLen : Nat := 0xC000_0000

/-- The tract frames at or above a new length move to the reserve, or are lost (R344). -/
def saveFrames (d : Dev) (k len : Nat) : Dev :=
  d.tracts.foldl (fun d e =>
    match (getTract d e.1).frame with
    | some (j, f) =>
      if j = k ∧ len < f + tractLen then
        match (List.range 24).findSome? (fun j => if mayMove d e.1 j then moveWhole d e.1 j else none) with
        | some d => d
        | none => updTract (qcLeave d (e.1 * tractLen) ((e.1 + 1) * tractLen) false) e.1
            (fun x => { x with frame := none, repl := [], moving := none, lost := true, covered := false })
      else d
    | none => d) d

/-- The lines of the quarter cache that stand at or above an offset of a stack go unwritten (R343). -/
def qcAbove (d : Dev) (k len : Nat) : Dev :=
  (getQ d (k / 6)).qc.foldl (fun d e =>
    match placeNow d (e.2.ln * 512) with
    | some (j, o) => if j = k ∧ len ≤ o then qcPut d (k / 6) e.1 (slNew e.2.ln) else d
    | none => d) d

/-- Bytes of a stack at or above an offset are lost. -/
def dropAbove (d : Dev) (k len : Nat) : Dev :=
  let a := memKey k len
  let b := memKey (k + 1) 0
  { d with mem := Tab.drop d.mem (fun x => decide (a ≤ x ∧ x < b)),
           badMem := Tab.drop d.badMem (fun x => decide (a ≤ 64 * x ∧ 64 * x < b)) }

/-- A map-out begins: the frames beyond the new length move, MS_LEN drops, what lies beyond it is lost, and the restripe starts;
with one channel in service nothing is left to restripe (R343). -/
def beginMapout (d : Dev) (k ch : Nat) : Dev :=
  let cs := inService d k
  let len := (cs.length - 1) * chanLen
  let old := stackLen d k
  let d := qcAbove d k len
  let d := saveFrames (rsetF d (stkOff k 0) MS_LEN.LEN len) k len
  let d := dropAbove d k (min len old)
  let d := updStk d k (fun s => { s with scrubPos := 0 })
  if cs.length ≤ 1 then rsetF d (stkOff k 8) MS_CHAN.INSVC (clrBit (rgetF d (stkOff k 8) MS_CHAN.INSVC) ch)
  else
    rset (rsetB (updStk d k (fun s => { s with removing := some ch })) (stkOff k 0x18) MS_STAT.RESTRIPE true) (stkOff k 0x20) 0

/-- The map-outs that wait on a stack, as MS_STAT.PENDING counts them. -/
def setWaiting (d : Dev) (k : Nat) (w : List Nat) : Dev :=
  rsetF (updStk d k (fun s => { s with waiting := w })) (stkOff k 0x18) MS_STAT.PENDING w.length

/-- A map-out requested: of a channel already out or asked for, ignored; else recorded in the ledger (R342); during a restripe it
waits (R345). -/
def mapOut (d : Dev) (k ch : Nat) : Dev :=
  let s := getStk d k
  if !(inService d k).contains ch ∨ s.removing = some ch ∨ s.waiting.contains ch then d
  else
    let d := recordMapout d k ch
    if s.removing.isSome then setWaiting d k (s.waiting ++ [ch]) else beginMapout d k ch

/-- RESTRIPE_CHUNK: the chunk at MS_MARK has moved, its correctable sectors corrected (R343). -/
def restripeChunk (k : Nat) (d : Dev) : Dev :=
  match (getStk d k).removing with
  | none => d
  | some _ =>
    let m := (rget d (stkOff k 0x20)).toNat
    if stackLen d k ≤ m then d
    else
      let a := memKey k m
      let inA (x : Nat) : Bool := decide (a ≤ 64 * x ∧ 64 * x < a + chunkLen)
      let fix := d.badMem.filter (fun e => inA e.1 && decide (e.2 ≤ 4))
      let d := fix.foldl (fun d e => countCE d k (chanOf d k (64 * e.1 - memKey k 0)) 1) d
      let d := { d with badMem := d.badMem.filter (fun e => !(inA e.1 && decide (e.2 ≤ 4))) }
      rset d (stkOff k 0x20) (BitVec.ofNat 64 (m + chunkLen))

/-- RESTRIPE_COMPLETE: every chunk has moved; the channel is out, and the next map-out that waits begins (R345). -/
def restripeComplete (k : Nat) (d : Dev) : Dev :=
  match (getStk d k).removing with
  | none => d
  | some ch =>
    if (rget d (stkOff k 0x20)).toNat < stackLen d k then d
    else
      let d := updStk d k (fun s => { s with removing := none })
      let d := rset (rsetB d (stkOff k 0x18) MS_STAT.RESTRIPE false) (stkOff k 0x20) 0
      let d := rsetF d (stkOff k 8) MS_CHAN.INSVC (clrBit (rgetF d (stkOff k 8) MS_CHAN.INSVC) ch)
      match (getStk d k).waiting with
      | [] => d
      | c :: r => beginMapout (setWaiting d k r) k c

/-! ### Scrub, refresh, self-refresh -/

/-- PATROL_SCRUB: the next populated sector is read; a correctable one is rewritten (R349). -/
def patrolScrub (k : Nat) (d : Dev) : Dev :=
  if !rbit d (stkOff k 0x10) MS_CTL.SCRUB ∨ stackLen d k = 0 ∨ rbit d (stkOff k 0x18) MS_STAT.SR then d
  else
    let o := (getStk d k).scrubPos
    let d := updStk d k (fun s => { s with scrubPos := if o + 64 < stackLen d k then o + 64 else 0 })
    let d := noteRead d k o 4
    if sectorBad d k o then d else { d with badMem := Tab.erase d.badMem (memKey k o / 64) }

/-- REFRESH_RATE_SAMPLE: the die temperature sets the refresh rate, and the dies' own counts of corrections, one for each
channel, are added (R352, R347). -/
def refreshSample (k temp : Nat) (counts : List Nat) (d : Dev) : Dev :=
  let t := sgn 8 temp
  let o := stkOff k 0x18
  let d := rset d o (setF (setF (rget d o) MS_STAT.TEMP temp) MS_STAT.RATE (if 95 < t then 2 else if 85 < t then 1 else 0))
  (List.range 16).foldl (fun d c => if counts.getD c 0 = 0 then d else countCE d k c (counts.getD c 0)) d

/-- SELF_REFRESH_ENTRY: the stack keeps its contents and serves nothing (R353). -/
def srEnter (k : Nat) (d : Dev) : Dev :=
  if rbit d (stkOff k 0x18) MS_STAT.SR then d
  else rsetB (updStk d k (fun s => { s with srTemp := rgetF d (stkOff k 0x18) MS_STAT.TEMP })) (stkOff k 0x18) MS_STAT.SR true

/-- SELF_REFRESH_EXIT at a die temperature: after a move of more than 20 °C it retrains, and the channels of `fail` that fail it
are mapped out (R353). -/
def srExit (k temp fail : Nat) (d : Dev) : Dev :=
  if !rbit d (stkOff k 0x18) MS_STAT.SR then d
  else
    let d := rsetB (rsetF d (stkOff k 0x18) MS_STAT.TEMP temp) (stkOff k 0x18) MS_STAT.SR false
    let was := sgn 8 (getStk d k).srTemp
    if 20 < (sgn 8 temp - was).natAbs then
      (List.range 16).foldl (fun d c => if fail.testBit c then mapOut d k c else d) d
    else d

/-! ### The meanings -/

/-- STACK_REQUEST_ADMIT. -/
def execStackRequestAdmit (id : Nat) (s : State) : Out := s.upd (stackAdmit id)
/-- STACK_REQUEST_COMPLETE. -/
def execStackRequestComplete (id : Nat) (s : State) : Out := s.upd (stackComplete id)
/-- ATOMIC_UNIT_APPLY. -/
def execAtomicUnitApply (id : Nat) (s : State) : Out := s.upd (atomicUnit id)
/-- RESTRIPE_CHUNK. -/
def execRestripeChunk (k : Nat) (s : State) : Out := s.upd (restripeChunk k)
/-- RESTRIPE_COMPLETE. -/
def execRestripeComplete (k : Nat) (s : State) : Out := s.upd (restripeComplete k)
/-- PATROL_SCRUB. -/
def execPatrolScrub (k : Nat) (s : State) : Out := s.upd (patrolScrub k)
/-- STACK_REFRESH: refresh changes no value that any access or register shows (R352); its time is left out. -/
def execStackRefresh (_k : Nat) (s : State) : Out := s.upd id
/-- REFRESH_RATE_SAMPLE. -/
def execRefreshRateSample (k temp : Nat) (counts : List Nat) (s : State) : Out := s.upd (refreshSample k temp counts)
/-- READ_TIMING_RETUNE: retuning changes no value that any access or register shows (R352); its time is left out. -/
def execReadTimingRetune (_k _ch : Nat) (s : State) : Out := s.upd id
/-- SELF_REFRESH_ENTRY. -/
def execSelfRefreshEntry (k : Nat) (s : State) : Out := s.upd (srEnter k)
/-- SELF_REFRESH_EXIT. -/
def execSelfRefreshExit (k temp fail : Nat) (s : State) : Out := s.upd (srExit k temp fail)

end Sys2Proof.Machine
end

