-- ==== Sys2Proof/Machine/TransCtl.lean ====
section
/-!
DEFINITION. Control of translation (spec/14): invalidation (R326), writes of the walker format and the roots (R327), answers to
fault records (R332, R333).
-/
namespace Sys2Proof.Machine

/-- TR_WALKSTAT.BUSY of a quarter brought up to its walks. -/
def refreshBusy (d : Dev) (q : Nat) : Dev := rsetF d (qOff q 0x1200) TR_WALKSTAT.BUSY (getQ d q).walks.length

/-- The requests of a walk given up: one on its way answers nobody. -/
def orphanWalk (d : Dev) (q i : Nat) : Dev :=
  { d with reqs := (d.reqs.filter (fun e => !(e.2.src == .walk q i && e.2.stage == .done))).map (fun e =>
      if e.2.src = .walk q i then (e.1, { e.2 with src := .clean }) else e) }

/-- A walk in progress is discarded, and its misses rejoin the queue (R326). -/
def discardWalk (d : Dev) (q i : Nat) : Dev :=
  match Tab.find? (getQ d q).walks i with
  | none => d
  | some w =>
    refreshBusy (updQ (orphanWalk d q i) q (fun u => { u with
      walks := Tab.erase u.walks i, missq := u.missq ++ [{ w with got := [], bad := [] }] })) q

/-- Every TLB loses the entries for which `p` holds, every walk cache those of the spaces for which `sp` holds, and the walks
of those spaces are discarded (R326). -/
def dropTrans (d : Dev) (p : Tlb → Bool) (sp : Nat → Bool) : Dev :=
  let d := (Tab.keys d.cl).foldl (fun d l => updCl d l (fun k => { k with tlb := k.tlb.filter (fun e => !p e) })) d
  (List.range 4).foldl (fun d q =>
    let d := updQ d q (fun u => { u with tlb := u.tlb.filter (fun e => !p e), wcache := u.wcache.filter (fun e => !sp e.1) })
    (getQ d q).walks.foldl (fun d e => if sp e.2.asid then discardWalk d q e.1 else d) d) d

/-- Does a TLB entry of a space hold a page of [lo, hi)? -/
def tlbIn (asid lo hi : Nat) (e : Tlb) : Bool :=
  e.asid == asid && decide (e.vpn * 2 ^ e.lg < hi ∧ lo < (e.vpn + 1) * 2 ^ e.lg)

/-- Window offset of TR_INVSTAT. -/
def invStat : Nat := qOff 0 0x1118

/-- TR_INVSTAT.DONE advances by one. -/
def invDone (d : Dev) : Dev := rinc d invStat TR_INVSTAT.DONE

/-- A write of OP and ASID to TR_INV (R326): 1 every space, 2 a space, 3 the range in TR_INVADDR and TR_INVLEN. -/
def trInv (op asid : Nat) (d : Dev) : Dev :=
  if rbit d invStat TR_INVSTAT.BUSY then rsetB d invStat TR_INVSTAT.CMDLOST true
  else
    let lo := (rget d (qOff 0 0x1108)).toNat / 4096 * 4096
    let len := (rget d (qOff 0 0x1110)).toNat
    let busy (d : Dev) : Dev := rsetB d invStat TR_INVSTAT.BUSY true
    match op % 4 with
    | 0 => d
    | 1 => busy (dropTrans d (fun _ => true) (fun _ => true))
    | 2 => busy (dropTrans d (fun e => e.asid == asid) (fun a => a == asid))
    | _ => if len = 0 then invDone d
           else busy (dropTrans d (tlbIn asid lo (lo + len)) (fun a => a == asid))

/-- Is a walk in progress anywhere? -/
def walking (d : Dev) : Bool := (List.range 4).any (fun q => (getQ d q).walks != [])

/-- The register at offset `o` of quarter 0's window (the walker format, or a root) written, with its invalidation (R327). -/
def wfdAt (o : Nat) (d : Dev) (w : Nat × Word × Word) : Dev :=
  match quarterReg o with
  | none => d
  | some m =>
    let d := regWrite d m w.1 w.2.1 w.2.2
    if o < 0x1040 then dropTrans d (fun _ => true) (fun _ => true)
    else
      let n := (o - 0x1040) / 8
      dropTrans d (fun e => e.asid == n) (fun a => a == n)

/-- A waiting write of the walker format or of a root takes effect (R327). -/
def wfdOne (d : Dev) (w : Nat × Word × Word) : Dev := wfdAt (w.1 - qOff 0 0) d w

/-- The waiting writes of the walker format take effect where no walk is in progress (R327). -/
def wfdSettle (d : Dev) : Dev :=
  if walking d then d else d.wfdPend.foldl wfdOne { d with wfdPend := [] }

/-- A write to TR_WFD0 to TR_WFD2 or TR_ASROOT_n: it waits for the walks in progress, with new misses held (R327). -/
def wfdWrite (d : Dev) (o : Nat) (mask v : Word) : Dev := wfdSettle { d with wfdPend := d.wfdPend ++ [(canonOff d o, mask, v)] }

/-! ### Answers to fault records -/

/-- Every context and copy parked on a record answered: a retry releases it, an unresolved answer hands a context its trap and
fails a copy with CAUSE 2 (R332, R293). -/
def answerItems (d : Dev) (tag : Nat) (retry : Bool) : Dev :=
  (Tab.keys d.cl).foldl (fun d l =>
    let d := (List.range 8).foldl (fun d c =>
      match (getCtx d l c).park with
      | some p => if p.tag = some tag then (if retry then unparkCtx d l c else unresolveCtx d l c) else d
      | none => d) d
    (getCl d l).copies.foldl (fun d e =>
      match e.2.park with
      | some p =>
        if p.tag = some tag then
          setCopy d l e.1 { e.2 with park := none, fail := if retry then e.2.fail else some (2, p.fault.tval) }
        else d
      | none => d) d) d

/-- A record answered: its items go on, and it frees (R332). -/
def answerRecord (d : Dev) (tag : Nat) (retry : Bool) : Dev :=
  refreshOpen (updQ (answerItems d tag retry) (tag / 1024) (fun u => { u with recs := Tab.erase u.recs (tag % 1024) }))

/-- A write of TAG and ACTION to TR_RESUME (R332). -/
def trResume (tag action : Nat) (d : Dev) : Dev :=
  if (Tab.find? (getQ d (tag / 1024 % 4)).recs (tag % 1024)).isSome ∧ (action = 1 ∨ action = 2) then
    answerRecord d (tag % 4096) (action == 1)
  else rinc d (qOff 0 0x1188) TR_FAULTSTAT.STALE

/-- Every outstanding record answered as unresolved, when a session closes (R333). -/
def answerAll (d : Dev) : Dev :=
  (List.range 4).foldl (fun d q => (Tab.keys (getQ d q).recs).foldl (fun d i => answerRecord d (1024 * q + i) false) d) d

end Sys2Proof.Machine
end

