-- ==== Sys2Proof/Machine/Session.lean ====
section
/-!
DEFINITION. Sessions and rings as the rest of the hub meets them (spec/18): the end of a session (R407), a ring's registers (R408).
-/
namespace Sys2Proof.Machine

/-- A ring. -/
def getRing (d : Dev) (n : Nat) : Ring := Tab.get Ring.empty d.rings n
/-- A ring changed. -/
def updRing (d : Dev) (n : Nat) (f : Ring → Ring) : Dev := { d with rings := Tab.set Ring.empty d.rings n (f (getRing d n)) }

/-- Is a session open? -/
def sessOpen (d : Dev) : Bool := rbit d (landOff 0) HB_SESSTAT.OPEN

/-- Is there a route to the host now: the landing device's, or on the landing device a landing port that is up (R400, R407)? -/
def landPort (d : Dev) : Option Nat :=
  if portUp d 10 ∧ d.plat.roles.getD 10 0 = 3 then some 10
  else findUpto 12 (fun p => portUp d p && d.plat.roles.getD p 0 == 4)

/-- The port by which upward messages leave (R401). -/
def upPort (d : Dev) : Option Nat := if isMe d (landId d) then landPort d else routePort d (landId d)

/-- The session, or the opening of one, ends (R407): fault records are answered as unresolved, host-memory accesses complete with
status 1, events of commands in progress will be discarded; SCLOSED is sent where a reason is to be told and a route exists. -/
def endSession (d : Dev) (reason : Option Nat) : Dev :=
  let was := sessOpen d
  let o := landOff 0
  let d := rset d o (setB (setB (setB (rget d o) HB_SESSTAT.OPEN false) HB_SESSTAT.OPENING false) HB_SESSTAT.KEYSEL false)
  let d := { d with sess := Sess.none }
  if !was then d
  else
    let d := match reason with
      | some r => if (upPort d).isSome then sendUp d 0x2C 0 0 (toBytes 1 r) else d
      | none => d
    let d := answerAll d
    let d := (Tab.keys d.reqs).foldl (fun d id => match Tab.find? d.reqs id with
      | some r => (match r.tgt with | .host _ => if r.stage = .remote then finishReq d id 1 0 else d | _ => d)
      | none => d) d
    { d with rings := d.rings.map (fun e => (e.1, { e.2 with cmds := (e.2.cmds.filter (·.began)).map (fun c => { c with drop := true }), fetching := none })) }

/-! ### Ring registers (R408) -/

/-- Slots of the submission queue (`i` 0) or completion queue (`i` 1): 0 where it is disabled. -/
def ringSlots (d : Dev) (n i : Nat) : Nat :=
  let w := rget d (ringOff n 0x10)
  let sz := if i = 0 then getF w RING_CTL.SQSZ else getF w RING_CTL.CQSZ
  if sz = 0 then 0 else 2 ^ sz

/-- A tail or head given to a ring (R408): one at or beyond the size sets ERR, which stops the ring. `i` 0 SQTAIL, 1 CQHEAD. -/
def ringPtr (d : Dev) (n i v : Nat) : Dev :=
  let o := ringOff n 0x18
  if ringSlots d n i ≤ v then rsetB d (ringOff n 0x10) RING_CTL.ERR true
  else if i = 0 then rsetF d o RING_PTR.SQTAIL v else rsetF d o RING_PTR.CQHEAD v

/-- A write to RING_CTL (R408): sizes above 16 store 16, EN is stored as 0 while a size is 0. -/
def ringCtl (d : Dev) (n : Nat) (w : Word) : Dev :=
  let w := if 16 < getF w RING_CTL.SQSZ then setF w RING_CTL.SQSZ 16 else w
  let w := if 16 < getF w RING_CTL.CQSZ then setF w RING_CTL.CQSZ 16 else w
  let w := if getF w RING_CTL.SQSZ = 0 ∨ getF w RING_CTL.CQSZ = 0 then setB w RING_CTL.EN false else w
  rset d (ringOff n 0x10) w

end Sys2Proof.Machine
end

