-- ==== Sys2Proof/Machine/Sightline.lean ====
section
/-!
DEFINITION. Sightline ports (spec/17): flits, credits and resends (R378, R379, R383, R392), the choice of what a port sends (R384),
forwarding (R387), link reset (R393), training (R394), lasers and probes (R396, R397).
-/
namespace Sys2Proof.Machine

/-- A port. -/
def getPort (d : Dev) (p : Nat) : Port := Tab.get Port.empty d.ports p
/-- A port changed. -/
def updPort (d : Dev) (p : Nat) (f : Port → Port) : Dev := { d with ports := Tab.set Port.empty d.ports p (f (getPort d p)) }
/-- SL_PSTAT.STATE of a port. -/
def portState (d : Dev) (p : Nat) : Nat := rgetF d (portOff p 0) SL_PSTAT.STATE
/-- SL_PSTAT.STATE written. -/
def setPortState (d : Dev) (p st : Nat) : Dev := rsetF d (portOff p 0) SL_PSTAT.STATE st
/-- The role of a port in the plat: 0 dark, 1 twin, 2 peer, 3 landing, 4 alternate landing (R43). -/
def portRole (d : Dev) (p : Nat) : Nat := d.plat.roles.getD p 0

/-! ### Buffers and credits (R379, R383) -/

/-- Flits of the buffer of a channel, for each class (R383). -/
def vcFlits (v : Nat) : Nat := match v with | 0 => 128 | 1 => 128 | 2 => 256 | 3 => 64 | 4 => 64 | _ => 16

/-- A message leaves the buffer of the port that received it: its flits' credits are owed to the far end (R379). -/
def oweCredits (d : Dev) (p : Nat) (m : Msg) : Dev :=
  if 12 ≤ p then d
  else updPort d p (fun x =>
    let k := 2 * m.vc + m.cls
    { x with owed := Tab.set 0 x.owed k (Tab.get 0 x.owed k + flitsFor m.data.length) })

/-- The credits that the next outgoing flit returns: of the next channel and class in rotation that is owed some, at most 3. -/
def pickOwed (x : Port) : Option (Nat × Nat) :=
  ((List.range 12).map (fun i => (x.rrCr + 1 + i) % 12)).findSome? (fun k =>
    let n := Tab.get 0 x.owed k
    if n = 0 then none else some (k, min 3 n))

/-- Credits held for the far end's buffer of a channel and class. -/
def credits (d : Dev) (p v c : Nat) : Nat :=
  rgetF d (portOff p (0x40 + 8 * v)) (if c = 0 then SL_CREDIT.CLS0 else SL_CREDIT.CLS1)

/-- Credits held, set. -/
def setCredits (d : Dev) (p v c n : Nat) : Dev :=
  rsetF d (portOff p (0x40 + 8 * v)) (if c = 0 then SL_CREDIT.CLS0 else SL_CREDIT.CLS1) n

/-! ### Sending flits -/

/-- A flit put on the lanes: a message flit, or an idle one. It takes owed credits and the link's ACK and NAK along, and a number
where it is a message flit or returns credits, when it is kept for resend (R378, R379, R392). -/
def sendFlit (d : Dev) (p : Nat) (content : List Byte) (idle : Bool) : Dev :=
  let x := getPort d p
  let cr := if x.sent.length < 256 then pickOwed x else none
  let k := match cr with | some (k, _) => k | none => 0
  let n := match cr with | some (_, n) => n | none => 0
  let tr := trailer x.txSeq x.rxSeq x.nak idle (k / 2) (k % 2) n
  let f := flitBytes content tr
  let numbered : Bool := !idle || n != 0
  updPort d p (fun x => { x with
    wire := x.wire ++ [f], nak := false, rrCr := if n = 0 then x.rrCr else k,
    owed := Tab.set 0 x.owed k (Tab.get 0 x.owed k - n), txSeq := if numbered then (x.txSeq + 1) % 4096 else x.txSeq,
    sent := if numbered then x.sent ++ [⟨x.txSeq, content, idle, k / 2, k % 2, n⟩] else x.sent })

/-- Every flit kept for resend sent again in order (R392): one resend, one class 4 event. -/
def resend (d : Dev) (p : Nat) : Dev :=
  let x := getPort d p
  let again := x.sent.map (fun f => flitBytes f.content (trailer f.seq x.rxSeq x.nak f.idle f.crvc f.crcls f.crcnt))
  let d := updPort d p (fun x => { x with wire := x.wire ++ again, nak := false, resends := x.resends + 1 })
  fevent (rset d (portOff p 0x20) (rget d (portOff p 0x20) + BitVec.ofNat 64 x.sent.length)) 4 p

/-! ### Link reset (R393) -/

/-- A channel's request answered with ERROR (R382). -/
def errorTo (d : Dev) (m : Msg) (status : Nat) : Dev := reply d m 1 4 m.tag (toBytes 8 status)

/-- The outstanding request that a message of this device carried. -/
def reqOfMsg (d : Dev) (m : Msg) : Option Nat :=
  (List.find? (fun e : Nat × Req => e.2.stage == .remote && e.2.tag == m.tag &&
    (match e.2.tgt with | .peer p _ => m.vc == 0 && p == m.dst | .host _ => m.vc == 3 | _ => false)) d.reqs).map (·.1)

/-- The messages sent and not acknowledged are not sent again: this device's requests complete with status 5, forwarded requests are
answered with ERROR 5, the rest are discarded (R393). -/
def dropUnacked (d : Dev) (p : Nat) : Dev :=
  (getPort d p).unacked.foldl (fun d e =>
    let m := e.2.2
    if e.2.1 then (if m.vc = 0 then errorTo d m 5 else d)
    else match reqOfMsg d m with
      | some id => finishReq d id 5 0
      | none => d) d

/-- A port's link ends: what either end holds in part is discarded, credits and numbers go (R393). A session ends whose upward
messages leave by the port; on the landing device every relayed session is told (R401). -/
def linkDown (d : Dev) (p st : Nat) : Dev :=
  let wasUp := portUp d p
  let mine : Bool := wasUp && upPort d == some p
  let landing : Bool := wasUp && isMe d (landId d) && (portRole d p == 3 || portRole d p == 4) && upPort d == some p
  let relay : Bool := wasUp && (portRole d p == 3 || portRole d p == 4)
  let d := dropUnacked d p
  let d := updPort d p (fun x => { Port.empty with wire := x.wire, probe := x.probe, lasting := x.lasting })
  let d := (List.range 6).foldl (fun d v => rset d (portOff p (0x40 + 8 * v)) 0) d
  let d := setPortState d p st
  let d := if mine || landing then endSession d (some 1) else d
  let lv := suOff 0x1100
  let d := if p = d.plat.twinPort ∧ rbit d lv SU_LVSTAT.REJOIN then
      rsetB (rsetB d lv SU_LVSTAT.REJOIN false) lv SU_LVSTAT.REJFAIL true else d
  if relay then
    { d.relayed.foldl (fun d t => send d (mkMsg d 3 0x0C t 0 0 [])) d with relayed := [] }
  else d

/-- LINK_RESET: a port enters link reset (R393); a dark or failed port has no link to reset. -/
def linkReset (p : Nat) (d : Dev) : Dev :=
  if portState d p = 2 ∨ portState d p = 3 ∨ portState d p = 4 then linkDown d p 5 else d

/-! ### Receiving flits (R392) -/

/-- The flits that an ACK covers leave the retry buffer, and the messages whose last flit they hold (R392). -/
def ackFlits (x : Port) (ack : Nat) : Port :=
  let covered (s : Nat) : Bool := let n := (ack + 4096 - s) % 4096; decide (1 ≤ n ∧ n ≤ 2048)
  { x with
    sent := x.sent.filter (fun f => !covered f.seq)
    unacked := x.unacked.filter (fun e => !covered e.1)
    resends := if x.sent.any (fun f => covered f.seq) then 0 else x.resends }

/-- A flit's content joins the message that is arriving; a whole message goes into the device (R380). -/
def takeContent (d : Dev) (p : Nat) (content : List Byte) : Dev :=
  let bs := (getPort d p).partMsg ++ content
  let h := ofBytes (bs.take 16)
  if bs.length < 56 * flitsFor (hdrLen h) then updPort d p (fun x => { x with partMsg := bs })
  else { updPort d p (fun x => { x with partMsg := [] }) with inbox := d.inbox ++ [(p, msgOf h (bs.drop 16))] }

/-- FLIT_RECEIVE: a flit arrives on a port's lanes (R378, R379, R392). -/
def flitReceive (p : Nat) (flit : List Byte) (d : Dev) : Dev :=
  if !portUp d p ∨ flit.length ≠ 64 then d
  else
    let tr := fieldAt flit 56 4
    let x := getPort d p
    let nak (d : Dev) : Dev := updPort d p (fun x => { x with nak := true })
    if fieldAt flit 60 4 ≠ crc32c (flit.take 60) then nak d
    else if bitsOf tr 0 12 ≠ x.rxSeq then nak d
    else
      let idle := tr.testBit 25
      let n := bitsOf tr 30 2
      let ack := bitsOf tr 12 12
      let d := updPort d p (fun x => { ackFlits x ack with
        rxSeq := if idle ∧ n = 0 then x.rxSeq else (x.rxSeq + 1) % 4096 })
      let v := bitsOf tr 26 3
      let c := bitsOf tr 29 1
      let d := if n = 0 then d else setCredits d p v c (credits d p v c + n)
      let d := if idle then d
        else takeContent (rset d (portOff p 0x18) (rget d (portOff p 0x18) + 1)) p (flit.take 56)
      if tr.testBit 24 ∧ (getPort d p).sent ≠ [] then
        let d := resend d p
        if 8 ≤ (getPort d p).resends then linkReset p d else d
      else d

/-- FLIT_RETRY_TIMEOUT: ACK has not advanced for 4 µs (R392); after eight resends in a row, link reset (R393). -/
def retryTimeout (p : Nat) (d : Dev) : Dev :=
  if !portUp d p ∨ (getPort d p).sent = [] then d
  else
    let d := resend d p
    if 8 ≤ (getPort d p).resends then linkReset p d else d

/-! ### Starting messages (R384) -/

/-- The port that a waiting message leaves by now (R387); held where its route is down. -/
def outPort (d : Dev) (o : OutMsg) : Option Nat :=
  match o.port with | some p => some p | none => routePort d o.msg.dst

/-- The message that a port would send next on a channel: of the next source in rotation that has one, its oldest. -/
def headOf (d : Dev) (p v : Nat) : Option OutMsg :=
  let ms := d.outbox.filter (fun o => outPort d o == some p && o.msg.vc == v)
  let last := Tab.get 0 (getPort d p).rrSrc v
  ((List.range 13).map (fun i => (last + 1 + i) % 13)).findSome? (fun s => ms.find? (fun o => o.src == s))

/-- The class that a message takes on a port's link (R387 step 3). -/
def classOn (d : Dev) (p : Nat) (m : Msg) : Nat := if (getPort d p).dateline then 1 else m.cls

/-- Does the head message of a channel hold credits for all of its flits (R383)? -/
def headHolds (d : Dev) (p v : Nat) : Bool :=
  match headOf d p v with
  | some o => decide (flitsFor o.msg.data.length ≤ credits d p v (classOn d p o.msg))
  | none => false

/-- The channels in order of output priority (R383). -/
def vcOrder : List Nat := [5, 1, 4, 3, 2, 0]

/-- The channel a free port picks: one passed over 64 times first, else by priority (R384). -/
def pickVc (d : Dev) (p : Nat) : Option Nat :=
  match vcOrder.find? (fun v => headHolds d p v && decide (64 ≤ Tab.get 0 (getPort d p).starve v)) with
  | some v => some v
  | none => vcOrder.find? (headHolds d p)

/-- The first of a list's entries equal to `o` dropped. -/
def dropFirst (o : OutMsg) : List OutMsg → List OutMsg
  | [] => []
  | x :: r => if x = o then r else x :: dropFirst o r

/-- A message sent on a port: its credits spent, its flits on the lanes, its buffer freed where it was forwarded (R379, R383). -/
def emit (d : Dev) (p v : Nat) (o : OutMsg) : Dev :=
  let m := { o.msg with cls := classOn d p o.msg }
  let fl := flitsOf m
  let others := vcOrder.filter (fun u => u != v && headHolds d p u)
  let d := { d with outbox := dropFirst o d.outbox }
  let d := if o.src = 0 then d else oweCredits d (o.src - 1) o.msg
  let d := setCredits d p v m.cls (credits d p v m.cls - fl.length)
  let d := fl.foldl (fun d c => sendFlit d p c false) d
  let d := rset d (portOff p 0x10) (rget d (portOff p 0x10) + BitVec.ofNat 64 fl.length)
  updPort d p (fun x => { x with
    rrSrc := Tab.set 0 x.rrSrc v o.src,
    starve := Tab.set 0 (others.foldl (fun t u => Tab.set 0 t u (Tab.get 0 t u + 1)) x.starve) v 0,
    unacked := x.unacked ++ [((x.txSeq + 4095) % 4096, o.src != 0, m)] })

/-! ### Buffer slots of reductions (spec/19 R422) -/

/-- RID of a message. -/
def mRid (m : Msg) : Nat := bitsOf m.addr 0 4
/-- BUCKET of a message. -/
def mBucket (m : Msg) : Nat := bitsOf m.addr 33 16

/-- The registers that show the buffer and the store. -/
def showBuf (d : Dev) : Dev :=
  let o := rdOff 0 0x1008
  rset d o (setF (setF (rget d o) RD_BUF.INUSE d.bkts.length) RD_BUF.STORE d.store.length)

/-- Has the last RESULT of a complete bucket left its port? -/
def resultsGone (d : Dev) (b : Bkt) : Bool :=
  !d.outbox.any (fun o => o.msg.vc == 2 && o.msg.op == 2 && mRid o.msg == b.rid && mBucket o.msg == b.bucket && o.msg.tag == b.step)

/-- Buffer slots whose results have gone are free (R422). -/
def reapBkts (d : Dev) : Dev := showBuf { d with bkts := d.bkts.filter (fun b => !(b.complete && resultsGone d b)) }

/-- MESSAGE_START: a free port starts a message, or sends an idle flit where none can start (R377, R384). While the retry buffer has no
room for its flits nothing but idle flits is sent (R392). -/
def messageStart (p : Nat) (d : Dev) : Dev :=
  if !portUp d p then d
  else match pickVc d p with
    | some v =>
      (match headOf d p v with
       | some o =>
         if 256 < (getPort d p).sent.length + flitsFor o.msg.data.length then sendFlit d p (List.replicate 56 0) true
         else reapBkts (emit d p v o)
       | none => d)
    | none => sendFlit d p (List.replicate 56 0) true

/-! ### Forwarding (R387) -/

/-- The first inbox message for which `p` holds, and the inbox without it. -/
def takeFirst (f : Nat × Msg → Bool) : List (Nat × Msg) → Option ((Nat × Msg) × List (Nat × Msg))
  | [] => none
  | x :: r => if f x then some (x, r) else (takeFirst f r).map (fun y => (y.1, x :: y.2))

/-- A count of SL_DEVSTAT advanced. -/
def devCount (d : Dev) (f : Fld) : Dev := rincSat d (portOff 0 0x1008) f

/-- Is a message of a channel and a length that Brynip has (R380, R381)? -/
def msgFits (m : Msg) : Bool := decide (m.vc ≤ 5 ∧ m.data.length ≤ 2048)

/-- Does a whole message that port `p` received for another device go on now: a request, one at the hop limit, or one with a route (R387,
R389)? -/
def goesOn (d : Dev) (p : Nat) (e : Nat × Msg) : Bool :=
  e.1 == p && !isMe d e.2.dst && msgFits e.2 && (e.2.vc == 0 || decide (30 ≤ e.2.hops) || (routePort d e.2.dst).isSome)

/-- MESSAGE_FORWARD: the oldest whole message that port `p` received for another device and that need not wait for a route goes on
(R387); a request without a route or at the hop limit is answered with ERROR 2 (R389). -/
def messageForward (p : Nat) (d : Dev) : Dev :=
  match takeFirst (goesOn d p) d.inbox with
  | none => d
  | some ((_, m), rest) =>
    let gone (d : Dev) : Dev := oweCredits { d with inbox := rest } p m
    if m.hops + 1 = 31 ∨ m.hops = 31 then
      let d := devCount (gone d) SL_DEVSTAT.HOPDROP
      if m.vc = 0 then errorTo d m 2 else d
    else if (routePort d m.dst).isNone then (if m.vc = 0 then errorTo (gone d) m 2 else d)
    else
      let d := if m.vc = 3 ∧ m.op = 1 ∧ (portRole d p = 3 ∨ portRole d p = 4) ∧ !d.relayed.contains m.dst then
          { d with relayed := d.relayed ++ [m.dst] } else d
      { d with inbox := rest, outbox := d.outbox ++ [⟨p + 1, none, { m with hops := m.hops + 1 }⟩] }

/-- UPWARD_RELAY: on the landing device the oldest upward message goes out unchanged through the landing port, or the alternate
landing port, that is up; else it is held (R400). -/
def upwardRelay (d : Dev) : Dev :=
  match takeFirst (fun e => isMe d e.2.dst && e.2.vc == 3 && decide (0x20 ≤ e.2.op)) d.inbox, landPort d with
  | some ((p, m), rest), some q =>
    { d with inbox := rest, outbox := d.outbox ++ [⟨if p < 12 then p + 1 else 0, some q, m⟩] }
  | _, _ => d

/-- CHANNEL_STUCK: a channel that holds messages for a port has made no progress for 1 s (R388). -/
def channelStuck (p v : Nat) (d : Dev) : Dev :=
  if d.outbox.any (fun o => outPort d o == some p && o.msg.vc == v) then rsetB d (portOff p 0) SL_PSTAT.STUCK true else d

/-! ### Training (R394) -/

/-- Do two roles pair? The host adapter's own role is 5 (the model's number for it). -/
def rolesPair (a b : Nat) : Bool :=
  (a == 1 && b == 1) || (a == 2 && b == 2) || ((a == 3 || a == 4) && b == 5)

/-- LINK_TRAINING_COMPLETE: the far end's device ID, port and role are known: the port is up with full credits, or mismatched
(R394). The count of class 4 restarts, and a class 4 fault that waited acts (R456). -/
def trainingComplete (p farId farPort farRole : Nat) (d : Dev) : Dev :=
  if portState d p ≠ 2 ∧ portState d p ≠ 5 then d
  else
    let d := rset d (portOff p 0) (setF (setF (rget d (portOff p 0)) SL_PSTAT.FARID farId) SL_PSTAT.FARPORT farPort)
    if !rolesPair (portRole d p) farRole then setPortState d p 4
    else
      let wait := (getPort d p).lasting
      let d := setPortState d p 3
      let d := (List.range 6).foldl (fun d v => setCredits (setCredits d p v 0 (vcFlits v)) p v 1 (vcFlits v)) d
      let d := updPort d p (fun x => { Port.empty with wire := x.wire, dateline := rbit d (portOff p 8) SL_PCTL.DATELINE })
      let d := updDk d (fun k => { k with stamps := Tab.erase k.stamps (4 * 65536 + p) })
      if wait then linkReset p d else d

/-- LINK_TRAINING_RETRY: a training that failed starts again; the port stays in TRAIN (R394). -/
def trainingRetry (p : Nat) (d : Dev) : Dev :=
  if portState d p = 2 ∨ portState d p = 5 then setPortState d p 2 else d

/-! ### Lasers and probes (R396, R397) -/

/-- DK_LASER of a port. -/
def laserOff (p : Nat) : Nat := dkOff (0x400 + 8 * p)
/-- Are a port's transmit lanes lit? -/
def lit (d : Dev) (p : Nat) : Bool := rbit d (laserOff p) DK_LASER.LIT
/-- A measured power: a free value (the spec gives the field, not what it reads). -/
def measured (d : Dev) (o : Nat) (f : Fld) : Dev := rsetF d.free.2 o f d.free.1.toNat
/-- A port's transmit lanes lit or darkened, with their monitored output measured. -/
def setLit (d : Dev) (p : Nat) (b : Bool) : Dev :=
  measured (measured (rsetB d (laserOff p) DK_LASER.LIT b) (laserOff p) DK_LASER.TXPWR0) (laserOff p) DK_LASER.TXPWR1
/-- Both receive lanes of a port see light, of a measured power. -/
def seesLight (d : Dev) (p : Nat) : Dev := measured (measured d (laserOff p) DK_LASER.RXPWR0) (laserOff p) DK_LASER.RXPWR1
/-- The receive lanes of a port see no light: both powers read 0x80. -/
def noLight (d : Dev) (p : Nat) : Dev := rsetF (rsetF d (laserOff p) DK_LASER.RXPWR0 0x80) (laserOff p) DK_LASER.RXPWR1 0x80

/-- Does the scan port's instruction keep every optical engine dark (spec/23 R496)? -/
def scanDark (d : Dev) : Bool := d.board.ir == .extest || d.board.ir == .highz

/-- May a port's lanes be lit at all (R396)? Not of dark role, not after a laser fault, not without the connector, not in Standby, not in
EXTEST or HIGHZ. -/
def mayLight (d : Dev) (p : Nat) : Bool :=
  !scanDark d && !d.hub.standby && portRole d p != 0 && !rbit d (laserOff p) DK_LASER.FAULT && !rbit d (laserOff p) DK_LASER.NOCONN

/-- A port darkened: its link, if it has one, ends. -/
def darken (d : Dev) (p st : Nat) : Dev :=
  let d := setLit d p false
  if 2 ≤ portState d p ∧ portState d p ≤ 5 then linkDown d p st else setPortState d p st

/-- A port starts to probe: it waits a random time (R397 step 1). -/
def startProbe (d : Dev) (p : Nat) : Dev :=
  if mayLight d p then updPort (setPortState d p 1) p (fun x => { x with probe := 1 }) else d

/-- OPEN_FIBRE_DETECT: a lit port loses light for 2 µs: it goes dark, and probes for its partner (R396, R397). -/
def openFibre (p : Nat) (d : Dev) : Dev :=
  if !lit d p then d
  else startProbe (noLight (rsetB (darken d p 0) (laserOff p) DK_LASER.OPEN true) p) p

/-- CONNECTOR_REMOVED: every port goes dark, and FIBRE_SEATED falls (R396, R497). -/
def connectorRemoved (d : Dev) : Dev :=
  let d := (List.range 12).foldl (fun d p =>
    let st := if portState d p = 6 then 6 else 0
    updPort (noLight (rsetB (darken d p st) (laserOff p) DK_LASER.NOCONN true) p) p (fun x => { x with probe := 0 })) d
  { d with pins := { d.pins with fibreSeated := false } }

/-- CONNECTOR_SEATED: connector-present asserts, FIBRE_SEATED rises, and the ports probe (R497, R397). -/
def connectorSeated (d : Dev) : Dev :=
  let d := (List.range 12).foldl (fun d p => startProbe (rsetB d (laserOff p) DK_LASER.NOCONN false) p) d
  { d with pins := { d.pins with fibreSeated := true } }

/-- LASER_FAULT: a lane's output above +5 dBm darkens its port until power-on or pin reset (R396, R397). -/
def laserFault (p : Nat) (d : Dev) : Dev :=
  updPort (rsetB (darken d p 6) (laserOff p) DK_LASER.FAULT true) p (fun x => { x with probe := 0 })

/-- The step of a port's probe. -/
def probeStep (d : Dev) (p : Nat) : Nat := (getPort d p).probe
/-- The step of a port's probe set. -/
def setProbe (d : Dev) (p n : Nat) : Dev := updPort d p (fun x => { x with probe := n })

/-- PROBE_TIMER: the probe's lanes are lit for 2.0 ms (R397 step 1). -/
def probeTimer (p : Nat) (d : Dev) : Dev :=
  if probeStep d p = 1 ∧ mayLight d p then setProbe (setLit d p true) p 2 else d

/-- PROBE_LIGHT_SEEN: light on both receive lanes for 500 µs: a dark port replies, a probing one holds its lanes lit (R397 steps 2
and 3). -/
def probeSeen (p : Nat) (d : Dev) : Dev :=
  if probeStep d p = 2 then setProbe (seesLight d p) p 3
  else if probeStep d p = 1 ∧ mayLight d p then setProbe (setLit (seesLight d p) p true) p 4 else d

/-- PROBE_END: the 2.0 ms of a probe are over: lanes not held go dark until the next probe (R397). -/
def probeEnd (p : Nat) (d : Dev) : Dev := if probeStep d p = 2 then setProbe (setLit d p false) p 1 else d

/-- PROBE_LIGHT_STEADY: both receive lanes have seen light for 1 ms: training starts (R397 step 5). -/
def probeSteady (p : Nat) (d : Dev) : Dev :=
  if probeStep d p = 3 ∨ probeStep d p = 4 then
    rsetB (setProbe (setPortState d p 2) p 0) (laserOff p) DK_LASER.OPEN false
  else d

/-- PROBE_LIGHT_LOST: a port lit by step 2 or 3 loses light for 2 µs: it goes dark and probes again (R397 step 4). -/
def probeLost (p : Nat) (d : Dev) : Dev :=
  if probeStep d p = 3 ∨ probeStep d p = 4 then setProbe (setLit (noLight d p) p false) p 1 else d

/-! ### The meanings -/

/-- FLIT_RECEIVE. -/
def execFlitReceive (p : Nat) (flit : List Byte) (s : State) : Out := s.upd (flitReceive p flit)
/-- FLIT_RETRY_TIMEOUT. -/
def execFlitRetryTimeout (p : Nat) (s : State) : Out := s.upd (retryTimeout p)
/-- MESSAGE_START. -/
def execMessageStart (p : Nat) (s : State) : Out := s.upd (messageStart p)
/-- MESSAGE_FORWARD. -/
def execMessageForward (p : Nat) (s : State) : Out := s.upd (messageForward p)
/-- UPWARD_RELAY. -/
def execUpwardRelay (s : State) : Out := s.upd upwardRelay
/-- CHANNEL_STUCK. -/
def execChannelStuck (p vc : Nat) (s : State) : Out := s.upd (channelStuck p vc)
/-- LINK_RESET. -/
def execLinkReset (p : Nat) (s : State) : Out := s.upd (linkReset p)
/-- LINK_TRAINING_COMPLETE. -/
def execLinkTrainingComplete (p farId farPort farRole : Nat) (s : State) : Out := s.upd (trainingComplete p farId farPort farRole)
/-- LINK_TRAINING_RETRY. -/
def execLinkTrainingRetry (p : Nat) (s : State) : Out := s.upd (trainingRetry p)
/-- OPEN_FIBRE_DETECT. -/
def execOpenFibreDetect (p : Nat) (s : State) : Out := s.upd (openFibre p)
/-- CONNECTOR_REMOVED. -/
def execConnectorRemoved (s : State) : Out := s.upd connectorRemoved
/-- CONNECTOR_SEATED. -/
def execConnectorSeated (s : State) : Out := s.upd connectorSeated
/-- LASER_FAULT. -/
def execLaserFault (p : Nat) (s : State) : Out := s.upd (laserFault p)
/-- PROBE_TIMER. -/
def execProbeTimer (p : Nat) (s : State) : Out := s.upd (probeTimer p)
/-- PROBE_LIGHT_SEEN. -/
def execProbeLightSeen (p : Nat) (s : State) : Out := s.upd (probeSeen p)
/-- PROBE_LIGHT_STEADY. -/
def execProbeLightSteady (p : Nat) (s : State) : Out := s.upd (probeSteady p)
/-- PROBE_LIGHT_LOST. -/
def execProbeLightLost (p : Nat) (s : State) : Out := s.upd (probeLost p)
/-- PROBE_END. -/
def execProbeEnd (p : Nat) (s : State) : Out := s.upd (probeEnd p)

end Sys2Proof.Machine
end

