-- ==== Sys2Proof/Machine/Hub.lean ====
section
/-!
DEFINITION. What the hub does with messages and addresses: taking a message that has come in, with what a pair adds to it (spec/20
R433), and Datum-level accesses of the hub's engines (spec/18 R403, spec/19 R415).
-/
namespace Sys2Proof.Machine

/-! ### Messages that have come in -/

/-- Does a message come from outside the pair? -/
def outside (d : Dev) (m : Msg) : Bool := m.src != d.plat.self && m.src != d.plat.twinId

/-- Is a message one that the face mirrors before it acts (R433)? -/
def mirroredKind (m : Msg) : Bool :=
  m.vc == 0 || m.vc == 3 || m.vc == 5 || (m.vc == 2 && (m.op == 2 || m.op == 4))

/-- Is a message a response to a request of this device (R434)? -/
def isResponse (m : Msg) : Bool := m.vc == 1 || (m.vc == 3 && (m.op == 0x0A || m.op == 0x0B))

/-- Does a message keep its place among those of its source on its channel (R161)? Upward messages in relay and the host's answers to
this device's own accesses do not wait for the host's commands. -/
def inOrder (m : Msg) : Bool := !(m.vc == 3 && (decide (0x20 ≤ m.op) || m.op == 0x0A || m.op == 0x0B))

/-- The first message that `f` accepts and that no earlier message of its source on its channel stands before, and the others. -/
def takeOrdered (mine : Msg → Bool) (f : Msg → Bool) : List (Nat × Msg) → List (Nat × Msg) → Option ((Nat × Msg) × List (Nat × Msg))
  | _, [] => none
  | seen, x :: r =>
    let before (y : Nat × Msg) : Bool := mine y.2 && inOrder y.2 && y.2.vc == x.2.vc && y.2.src == x.2.src
    if mine x.2 && f x.2 && !(inOrder x.2 && seen.any before) then some (x, seen.reverse ++ r)
    else takeOrdered mine f (x :: seen) r

/-- The oldest message for this device that `ok` accepts, with the port it came by, taken out of its port's buffer. The face of a pair
has first sent one from outside to its twin; the silent twin passes one on to the face unchanged and takes nothing (R433). Ports from
99 on are the device itself. Nothing is taken before boot. -/
def receiveAt (d : Dev) (ok : Msg → Bool) : Option (Nat × Msg) × Dev :=
  match (if d.booted then takeOrdered (fun m => isMe d m.dst) ok [] d.inbox else none) with
  | none => (none, d)
  | some ((p, m), rest) =>
    let d := oweCredits { d with inbox := rest } p m
    if paired d ∧ p < 12 ∧ outside d m ∧ m.vc ≠ 4 then
      if silent d then (none, inject d (some d.plat.twinPort) m)
      else if mirroredKind m && !isResponse m then (some (p, m), mirror d m 0)
      else (some (p, m), d)
    else (some (p, m), d)

/-- The same, where the port does not matter. -/
def receive (d : Dev) (ok : Msg → Bool) : Option Msg × Dev :=
  match receiveAt d ok with
  | (some (_, m), d) => (some m, d)
  | (none, d) => (none, d)

/-! ### Datum-level accesses of the hub -/

/-- A range cut at sector boundaries: address and length of each piece. -/
def sectorsOf (a n : Nat) : List (Nat × Nat) :=
  (List.range (ceilDiv (a % 64 + n) 64)).map (fun i =>
    let lo := max a (a / 64 * 64 + 64 * i)
    let hi := min (a + n) (a / 64 * 64 + 64 * (i + 1))
    (lo, hi - lo))

/-- Where a Datum-level access of the hub goes (R317 steps 3 to 5): none on a window miss or without the permission, and for
the management window. -/
def hubTarget (d : Dev) (a : Nat) (write : Bool) : Option Target :=
  match resolveWin d a with
  | some (t, at_) =>
    if write && !attrWrite at_ then none
    else match placeTract d a 99 write t with
      | .mgmt _ => none
      | t => some t
  | none => none

/-- Bytes of this device's stacks read by the hub: none where one does not lie in a stack or is uncorrectable. -/
def hubRead (d : Dev) (a n : Nat) : Option (List Byte) × Dev :=
  (sectorsOf a n).foldl (fun (acc : Option (List Byte) × Dev) p =>
    match acc.1, hubTarget acc.2 p.1 false with
    | some bs, some (.stack k o) =>
      let g := homeRead acc.2 p.1 k o p.2
      (if g.2 then none else some (bs ++ toBytes p.2 g.1), homeNote acc.2 p.1 k o 1)
    | _, _ => (none, acc.2)) (some [], d)

/-- A write of the hub to this device's stacks: false where a byte does not lie in one that may be written; the bytes before
it are written. -/
def hubWrite (d : Dev) (a : Nat) (bs : List Byte) : Bool × Dev :=
  (sectorsOf a bs.length).foldl (fun (acc : Bool × Dev) p =>
    if !acc.1 then acc
    else match hubTarget acc.2 p.1 true with
      | some (.stack k o) =>
        let d := if (tractOf acc.2 p.1).repl = [] then acc.2 else updTract acc.2 (p.1 / tractLen) (fun x => { x with repl := [] })
        (true, homeWrite d p.1 k o p.2 (ones p.2) (ofBytes ((bs.drop (p.1 - a)).take p.2)) false)
      | _ => (false, acc.2)) (true, d)

/-- A request of the hub for a peer or for host memory. -/
def hubReq (d : Dev) (t : Target) (a n : Nat) (kind : ReqKind) (data : Nat) : Nat × Dev :=
  (Tab.fresh d.reqs,
   newReq d { cl := 1023, ctx := 0, src := .hub, kind := kind, da := a, tgt := t, qcache := false, len := n, mask := ones n, data := data,
              stage := .remote, out := 0, status := 0, elem := 0 })

end Sys2Proof.Machine
end

