-- ==== Sys2Proof/Machine/Reduction.lean ====
section
/-!
DEFINITION. The reduction engine (spec/19): register writes that start, fill and abort a step (R414 to R416), contributions (R417), the
home's sums (R420 to R423), late and missing contributions (R424 to R427), the end of a step (R428).
-/
namespace Sys2Proof.Machine

/-- Reduction `r`. -/
def getRed (d : Dev) (r : Nat) : Red := Tab.get Red.empty d.red r
/-- Reduction `r` changed. -/
def updRed (d : Dev) (r : Nat) (f : Red → Red) : Dev := { d with red := Tab.set Red.empty d.red r (f (getRed d r)) }

/-! ### Configuration -/

/-- RD_STAT.BUSY. -/
def rdBusy (d : Dev) (r : Nat) : Bool := rbit d (rdOff r 0x50) RD_STAT.BUSY
/-- RD_STEP as TAG carries it. -/
def rdStep (d : Dev) (r : Nat) : Nat := rgetF d (rdOff r 0x30) RD_STEP.STEP % 65536
/-- RD_LEN. -/
def rdLen (d : Dev) (r : Nat) : Nat := rgetF d (rdOff r 0x20) RD_LEN.BYTES
/-- RD_PROG.FILLED. -/
def rdFilled (d : Dev) (r : Nat) : Nat := rgetF d (rdOff r 0x48) RD_PROG.FILLED
/-- P. -/
def rdP (d : Dev) (r : Nat) : Nat := rgetF d (rdOff r 0) RD_CFG.P
/-- RD_SRC, or RD_RES. -/
def rdAddr (d : Dev) (r o : Nat) : Nat := rgetF d (rdOff r o) RD_ADDR.ADDR * 64
/-- BS in MiB (R414): what the last START took, or POLICY.BUCKET. -/
def bsMiB (d : Dev) : Nat :=
  let n := rgetF d (rdOff 0 0x1008) RD_BUF.BUCKET
  if n ≠ 0 then n else if d.plat.bucket = 0 then 8 else d.plat.bucket
/-- BS. -/
def bsLen (d : Dev) : Nat := bsMiB d * 0x10_0000
/-- NB (R414). -/
def rdNB (d : Dev) (r : Nat) : Nat := ceilDiv (rdLen d r) (bsLen d)
/-- Bytes of bucket `b`. -/
def bktLen (d : Dev) (r b : Nat) : Nat := min ((b + 1) * bsLen d) (rdLen d r) - b * bsLen d
/-- Contribution chunks of bucket `b` (R417). -/
def bktChunks (d : Dev) (r b : Nat) : Nat := ceilDiv (bktLen d r b) 4096
/-- Is bucket `b` full (R416)? -/
def bktFull (d : Dev) (r b : Nat) : Bool := decide (min ((b + 1) * bsLen d) (rdLen d r) ≤ rdFilled d r)

/-- PRIMARY of a slot table entry. -/
def mPrimary (e : Nat) : Nat := bitsOf e 0 14
/-- BACKUP of a slot table entry, where it has one. -/
def mBackup (e : Nat) : Option Nat := if e.testBit 31 then none else some (bitsOf e 16 14)
/-- The home device of bucket `b` (R414). -/
def homeOf (d : Dev) (r b : Nat) : Nat := mPrimary ((getRed d r).members.getD (b % max 1 (rdP d r)) 0)
/-- Every device of the slot table but this one, in slot order, primary before backup, each once. -/
def othersOf (d : Dev) (r : Nat) : List Nat :=
  (((getRed d r).members.map (fun e => mPrimary e :: (mBackup e).toList)).flatten.eraseDups).filter (fun t => !isMe d t)

/-! ### Messages (R418) -/

/-- ADDR of a reduction message. -/
def rdMsgAddr (rid slot chunk bucket : Nat) : Nat :=
  rid % 16 + slot % 2 ^ 14 * 2 ^ 4 + chunk % 2 ^ 15 * 2 ^ 18 + bucket % 2 ^ 16 * 2 ^ 33
/-- SLOT of a message. -/
def mSlot (m : Msg) : Nat := bitsOf m.addr 4 14
/-- CHUNK of a message. -/
def mChunk (m : Msg) : Nat := bitsOf m.addr 18 15
/-- A reduction message sent; none from the silent twin (R436), and none of a step that sends nothing more. -/
def rdSend (d : Dev) (r op dst slot chunk bucket : Nat) (data : List Byte) : Dev :=
  if silent d then d else send d (mkMsg d 2 op dst (rdStep d r) (rdMsgAddr r slot chunk bucket) data)

/-- Is a step silent here: ended by an access error or ABORT, or repeated (R415, R425, R428)? -/
def rdMute (d : Dev) (r : Nat) : Bool := (getRed d r).mute == some (rdStep d r)

/-- A count of RD_CNT advanced. -/
def rdCount (d : Dev) (f : Fld) : Dev := rincSat d (rdOff 0 0x1010) f

/-! ### Buffer slots (R420) -/

/-- The buffer slot of a bucket. -/
def findBkt (d : Dev) (r step b : Nat) : Option Bkt :=
  d.bkts.find? (fun x => x.rid == r && x.step == step && x.bucket == b)

/-- A bucket's buffer slot replaced. -/
def putBkt (d : Dev) (x : Bkt) : Dev :=
  { d with bkts := d.bkts.map (fun y => if y.rid = x.rid ∧ y.step = x.step ∧ y.bucket = x.bucket then x else y) }

/-- A buffer slot for a bucket: the one it holds, or a free one, when its deadline starts; none where all are held. -/
def takeBkt (d : Dev) (r step b : Nat) : Option (Bkt × Dev) :=
  let d := reapBkts d
  match findBkt d r step b with
  | some x => some (x, d)
  | none =>
    if 64 / bsMiB d ≤ d.bkts.length then none
    else
      let x : Bkt := { rid := r, step := step, bucket := b, acc := [], seen := [], expired := false, complete := false }
      some (x, showBuf { d with bkts := d.bkts ++ [x] })

/-! ### Contributions (R417) -/

/-- The gradient elements of a chunk. -/
def chunkVals (bs : List Byte) : List FV :=
  (List.range (bs.length / 4)).map (fun i => decodeF fmt32 (fieldAt bs (4 * i) 4))

/-- The payload of a contribution chunk: the converted elements, then the scale bytes (R417). -/
def chunkPayload (cfmt : Bool) (bs : List Byte) : List Byte :=
  let xs := chunkVals bs
  let blks := (List.range (ceilDiv xs.length 32)).map (fun i =>
    blockConvert (if cfmt then 4 else 5) 1 false (List.replicate 32 0) ((xs.drop (32 * i)).take 32))
  (blks.map (fun b => b.2.1.map (fun x => BitVec.ofNat 8 x))).flatten ++ blks.map (fun b => BitVec.ofNat 8 b.1)

/-- The value of element `i` of a contribution's payload of `k` elements, and whether its block is a NaN block. -/
def shareVal (cfmt : Bool) (bs : List Byte) (k i : Nat) : FV × Bool :=
  let sc := fieldAt bs (k + i / 32) 1
  if sc = 0xFF then (.nan false, true)
  else (scaleV ((sc : Int) - 127) (decodeCode (if cfmt then 4 else 5) (fieldAt bs i 1)), false)

/-- The flags of a bucket's sums accrue in RD_STAT (R421). -/
def rdFlags (d : Dev) (r fl : Nat) : Dev :=
  let o := rdOff r 0x50
  let w := rget d o
  let w := if fl &&& flNV ≠ 0 then setB w RD_STAT.NV true else w
  let w := if fl &&& flOF ≠ 0 then setB w RD_STAT.OF true else w
  rset d o (if fl &&& flNX ≠ 0 then setB w RD_STAT.NX true else w)

/-- One share of an element joins its sum: the first is taken exactly, each later one is added in binary32 with one rounding
(R421). -/
def addShare (acc : Tab Nat × Nat) (e : Nat) (v : FV × Bool) : Tab Nat × Nat :=
  let fl := if v.2 then flNV else 0
  match Tab.find? acc.1 e with
  | none =>
    let p := packF fmt32 1 0 false v.1
    (Tab.insert acc.1 e p.1, acc.2 ||| fl)
  | some old =>
    let s := addV 1 (decodeF fmt32 old) v.1
    let p := packF fmt32 1 0 false s.1
    (Tab.insert acc.1 e p.1, acc.2 ||| fl ||| s.2 ||| p.2)

/-- A chunk's shares join the sums of its bucket (R421, R422): a chunk that its slot has contributed before counts as a duplicate. -/
def applyChunk (d : Dev) (x : Bkt) (slot chunk : Nat) (bs : List Byte) : Bkt × Dev :=
  if (Tab.get 0 x.seen slot).testBit chunk then (x, rdCount d RD_CNT.DUPS)
  else
    let k := bs.length * 32 / 33
    let cf := rbit d (rdOff x.rid 0) RD_CFG.CFMT
    let r := (List.range k).foldl (fun a i => addShare a (1024 * chunk + i) (shareVal cf bs k i)) (x.acc, 0)
    let x := { x with acc := r.1, seen := Tab.set 0 x.seen slot (setBit (Tab.get 0 x.seen slot) chunk) }
    (x, rdFlags (putBkt d x) x.rid r.2)

/-! ### The end of a step (R428) -/

/-- A step ends: BUSY clears, STATUS and DONE are set, and the event bits go to the clusters that RD_EVT names (R428). In a pair the
face tells its twin (R436). -/
def stepEnd (d : Dev) (r status : Nat) : Dev :=
  if !rdBusy d r then d
  else
    let o := rdOff r 0x50
    let d := rset d o (setF (setB (setB (rget d o) RD_STAT.BUSY false) RD_STAT.DONE true) RD_STAT.STATUS status)
    let d := updRed d r (fun x => { x with own := [], pulls := [] })
    let d := if paired d ∧ isFace d then
        inject d (some d.plat.twinPort) { mkMsg d 2 4 d.plat.twinId (rdStep d r) (rdMsgAddr r 0 status 0) [] with src := d.plat.self }
      else d
    sendEvents d (rgetF d (rdOff r 0x60) RD_EVBITS.BITS) (rget d (rdOff r 0x58))

/-- Every buffer slot and stored share of a step goes (R425, R428); the shares count as stale. -/
def dropStep (d : Dev) (r step : Nat) : Dev :=
  let gone (m : Msg) : Bool := mRid m == r && m.tag == step
  let n := (d.store.filter gone).length
  let d := { d with bkts := d.bkts.filter (fun b => !(b.rid == r && b.step == step)), store := d.store.filter (fun m => !gone m) }
  showBuf ((List.range n).foldl (fun d _ => rdCount d RD_CNT.STALE) d)

/-- The device sends nothing more for the current step. -/
def muteStep (d : Dev) (r : Nat) : Dev := updRed d r (fun x => { x with mute := some (rdStep d r) })

/-- An access of the engine failed: the step ends with status 5 (R415). -/
def accessError (d : Dev) (r : Nat) : Dev := stepEnd (muteStep d r) r 5

/-- STEPREP applied to the current step (R425). -/
def applySteprep (d : Dev) (r : Nat) : Dev :=
  let s := rdStep d r
  let d := updRed (dropStep d r s) r (fun x => { x with repeated := some s, mute := some s, own := [], pulls := [] })
  stepEnd d r 2

/-- A home repeats the step (R425): STEPREP to every other device, then to itself. -/
def repeatStep (d : Dev) (r : Nat) : Dev :=
  let d := (othersOf d r).foldl (fun d t => rdSend d r 4 t 0 0 0 []) d
  applySteprep (rdCount d RD_CNT.REPEATS) r

/-! ### Results -/

/-- Results written to RD_RES (R422, R418): `chunk` counts 512 elements. The step ends after the last (R428). -/
def writeResult (d : Dev) (r b chunk : Nat) (bs : List Byte) : Dev :=
  let w := hubWrite d (rdAddr d r 0x18 + b * bsLen d + 2048 * chunk) bs
  if !w.1 then accessError w.2 r
  else
    let d := w.2
    let d := if paired d ∧ isFace d then
        inject d (some d.plat.twinPort) { mkMsg d 2 2 d.plat.twinId (rdStep d r) (rdMsgAddr r 0 chunk b) bs with src := d.plat.self }
      else d
    let all := ones (ceilDiv (bktLen d r b) 2048)
    let old := Tab.get 0 (getRed d r).written b
    let now := setBit old chunk
    let d := updRed d r (fun x => { x with written := Tab.set 0 x.written b now })
    if old = now ∨ now ≠ all then d
    else
      let d := rinc d (rdOff r 0x48) RD_PROG.DONEB
      if rgetF d (rdOff r 0x48) RD_PROG.DONEB = rdNB d r then stepEnd d r 0 else d

/-- The sums of a RESULT chunk. -/
def resultBytes (x : Bkt) (chunk n : Nat) : List Byte :=
  ((List.range n).map (fun i => toBytes 4 (Tab.get 0 x.acc (512 * chunk + i)))).flatten

/-- A bucket whose every slot has contributed every chunk is complete: its RESULT messages start, and the home's own RD_RES is
written (R422). -/
def maybeComplete (d : Dev) (x : Bkt) : Dev :=
  let r := x.rid
  let full := ones (bktChunks d r x.bucket)
  if x.complete ∨ x.step ≠ rdStep d r ∨ (getRed d r).members = [] ∨
      !(List.range (rdP d r)).all (fun s => Tab.get 0 x.seen s == full) then d
  else
    let x := { x with complete := true }
    let d := updRed (putBkt d x) r (fun y => { y with homeDone := y.homeDone ++ [x.bucket] })
    let n := bktLen d r x.bucket / 4
    let chunks := (List.range (ceilDiv n 512)).map (fun c => (c, resultBytes x c (min 512 (n - 512 * c))))
    let d := if rdMute d r then d else
      chunks.foldl (fun d c => (othersOf d r).foldl (fun d t => rdSend d r 2 t 0 c.1 x.bucket c.2) d) d
    let d := chunks.foldl (fun d c => if rdBusy d r then writeResult d r x.bucket c.1 c.2 else d) d
    reapBkts d

/-! ### Sending (R416, R426) -/

/-- The chunks of a bucket sent to its home in the order given (R417). -/
def sendChunks (d : Dev) (r b : Nat) (cs : List Nat) : Dev :=
  cs.foldl (fun d c =>
    if rdMute d r then d
    else
      let g := hubRead d (rdAddr d r 0x10 + b * bsLen d + 4096 * c) (min 4096 (bktLen d r b - 4096 * c))
      match g.1 with
      | none => accessError g.2 r
      | some bs =>
        rdSend g.2 r 1 (homeOf g.2 r b) (rgetF g.2 (rdOff r 0) RD_CFG.MYSLOT) c b
          (chunkPayload (rbit g.2 (rdOff r 0) RD_CFG.CFMT) bs)) d

/-- A bucket of which this device is the home and a slot's primary is full: it takes a buffer slot, and its share awaits conversion
(R420). -/
def ownFull (d : Dev) (r b : Nat) : Dev :=
  let d := updRed d r (fun x => { x with own := x.own ++ [b] })
  match takeBkt d r (rdStep d r) b with
  | some (_, d) => d
  | none => d

/-- What full buckets now allow: a primary starts them in order; a backup sends what it has been asked for (R416, R426). The silent
twin sends nothing (R436). -/
def rdAdvance (d : Dev) (r : Nat) : Dev :=
  if !rdBusy d r ∨ rdMute d r ∨ silent d then d
  else
    let d := (List.range (rdNB d r)).foldl (fun d b =>
      if rgetF d (rdOff r 0) RD_CFG.ROLE = 1 ∨ b ≠ (getRed d r).started ∨ !bktFull d r b ∨ rdMute d r then d
      else
        let d := updRed d r (fun x => { x with started := b + 1 })
        if isMe d (homeOf d r b) then ownFull d r b else sendChunks d r b (List.range (bktChunks d r b))) d
    let ready := (getRed d r).pulls.filter (fun p => bktFull d r p.1)
    let d := updRed d r (fun x => { x with pulls := x.pulls.filter (fun p => !ready.contains p) })
    ready.foldl (fun d p => sendChunks d r p.1 ((filterUpto (bktChunks d r p.1) (fun c => p.2.2.testBit c)).reverse)) d

/-! ### Register writes -/

/-- A write of 1 to START (R414, R415, R416). -/
def rdStart (d : Dev) (r : Nat) : Dev :=
  if rdBusy d r then rsetB d (rdOff r 0x50) RD_STAT.CMDLOST true
  else
    let o := rdOff r 0x50
    let d := rset d o (setF (setB (setB (setB (setB (rget d o) RD_STAT.NV false) RD_STAT.OF false) RD_STAT.NX false)
      RD_STAT.BUSY true) RD_STAT.STATUS 0)
    let d := rset d (rdOff r 0x48) 0
    let bs := if d.plat.bucket = 0 then 8 else d.plat.bucket
    let d := rset d (rdOff 0 0x1008) (setF (setF (rget d (rdOff 0 0x1008)) RD_BUF.BUCKET bs) RD_BUF.SLOTS (64 / bs))
    let old := (getRed d r).repeated
    let d := updRed d r (fun _ => { Red.empty with repeated := old, mute := if old = some (rdStep d r) then old else none })
    let s := rdStep d r
    let d := showBuf { d with bkts := d.bkts.filter (fun b => !(b.rid == r && decide (2 ^ 15 ≤ (b.step + 65536 - s) % 65536))) }
    if rdLen d r = 0 then stepEnd d r 0
    else
      let g := hubRead d (rdAddr d r 0x8) (4 * rdP d r)
      let d := g.2
      match g.1 with
      | none => stepEnd d r 4
      | some bs =>
        if rdLen d r % 128 ≠ 0 ∨ 65535 < rdNB d r ∨ rdP d r = 0 then stepEnd d r 4
        else updRed d r (fun x => { x with members := (List.range (rdP d r)).map (fun i => fieldAt bs (4 * i) 4) })

/-- A write of 1 to ABORT (R428). -/
def rdAbort (d : Dev) (r : Nat) : Dev :=
  if !rdBusy d r then d else stepEnd (dropStep (muteStep d r) r (rdStep d r)) r 1

/-- A write to RD_FILL (R416). -/
def rdFill (d : Dev) (r add : Nat) : Dev :=
  if !rdBusy d r ∨ add = 0 then d
  else rdAdvance (rsetF d (rdOff r 0x48) RD_PROG.FILLED (satAdd (rdLen d r) (rdFilled d r) add)) r

/-- A write to a register of reduction `r` at offset `o` of its set: most are ignored while the reduction is busy; P above 16,384
stores 16,384, and ARM stores 0 while P is 0. -/
def rdWrite (d : Dev) (m : RegMap) (r o : Nat) (mask v : Word) : Dev :=
  if o ≤ 0x30 then
    (if rdBusy d r then d
     else
      let d := regWrite d m (rdOff r o) mask v
      if o = 0 then
        let w := rget d (rdOff r 0)
        let w := if 16384 < getF w RD_CFG.P then setF w RD_CFG.P 16384 else w
        rset d (rdOff r 0) (if getF w RD_CFG.P = 0 then setB w RD_CFG.ARM false else w)
      else d)
  else
    let on (f : Fld) : Bool := isSet (v &&& mask) f
    if o = 0x38 then
      let d := if on RD_CTL.START then rdStart d r else d
      if on RD_CTL.ABORT then rdAbort d r else d
    else if o = 0x40 then rdFill d r (getF (v &&& mask) RD_FILL.ADD)
    else regWrite d m (rdOff r o) mask v

/-! ### Messages taken (R418, R419) -/

/-- Has a reduction message a length that its opcode allows (R418)? -/
def rdLenOk (m : Msg) : Bool :=
  let n := m.data.length
  match m.op with
  | 1 => decide (1 ≤ n ∧ n ≤ 2048)
  | 2 => decide (n % 4 = 0 ∧ 4 ≤ n ∧ n ≤ 2048)
  | 3 => decide (1 ≤ n ∧ n ≤ 2048)
  | 4 => n == 0
  | _ => false

/-- Does this device accept a reduction message (R418)? -/
def rdAccepts (d : Dev) (m : Msg) : Bool :=
  m.vc == 2 && rdLenOk m && decide (mRid m < 4) && rbit d (rdOff (mRid m) 0) RD_CFG.ARM

/-- How a message's step stands to the current one (R419): 0 discarded, 1 current, 2 newer. -/
def stepClass (d : Dev) (m : Msg) : Nat :=
  let r := mRid m
  let n := (m.tag + 65536 - rdStep d r) % 65536
  if 2 ^ 15 ≤ n then 0 else if n = 0 then (if (getRed d r).repeated = some m.tag then 0 else 1) else 2

/-- One more stale message (R419). -/
def staleMsg (d : Dev) : Dev := rdCount d RD_CNT.STALE

/-- A CONTRIB placed in its bucket's sums, where the bucket has or gets a buffer slot (R420, R421, R422). -/
def placeContrib (d : Dev) (m : Msg) : Option Dev :=
  let r := mRid m
  if stepClass d m = 0 then some (staleMsg d)
  else if stepClass d m = 1 ∧ (getRed d r).homeDone.contains (mBucket m) then some (rdCount d RD_CNT.DUPS)
  else match takeBkt d r m.tag (mBucket m) with
    | none => none
    | some (x, d) =>
      let p := applyChunk d x (mSlot m) (mChunk m) m.data
      some (maybeComplete p.2 p.1)

/-- The next CONTRIB that has come in is placed, or waits in the store of 2,048 messages (R423); while that is full it stays in its
port's buffer. -/
def takeContrib (d : Dev) : Dev :=
  if 2048 ≤ d.store.length then d
  else match receive d (fun m => rdAccepts d m && m.op == 1) with
    | (some m, d) =>
      (match placeContrib d m with
       | some d => d
       | none => showBuf { d with store := d.store ++ [m] })
    | (none, d) => d

/-- CONTRIB_PLACE: the first stored share of a reduction that can be placed (R423). -/
def contribPlace (r : Nat) (d : Dev) : Dev :=
  match d.store.find? (fun m => mRid m == r && (placeContrib d m).isSome) with
  | some m =>
    let d := { d with store := d.store.erase m }
    showBuf ((placeContrib d m).getD d)
  | none => d

/-- What reading chunk `c` of the home's own share gave, `g`, joins the sums of bucket `x`, or ends the bucket where the access
failed (R415, R420). -/
def ownJoin (r c : Nat) (x : Bkt) (g : Option (List Byte) × Dev) : Option Bkt × Dev :=
  match g.1 with
  | none => (none, accessError g.2 r)
  | some bs =>
    let q := applyChunk g.2 x (rgetF g.2 (rdOff r 0) RD_CFG.MYSLOT) c (chunkPayload (rbit g.2 (rdOff r 0) RD_CFG.CFMT) bs)
    (some q.1, q.2)

/-- One chunk of the home's own share of bucket `b` joins the sums; none left once an access has failed (R415, R420). -/
def ownChunk (r b : Nat) (a : Option Bkt × Dev) (c : Nat) : Option Bkt × Dev :=
  match a.1 with
  | none => a
  | some x =>
    ownJoin r c x (hubRead a.2 (rdAddr a.2 r 0x10 + b * bsLen a.2 + 4096 * c) (min 4096 (bktLen a.2 r b - 4096 * c)))

/-- The home's own share is in: its bucket may be complete. -/
def ownEnd (p : Option Bkt × Dev) : Dev :=
  match p.1 with
  | some x => maybeComplete p.2 x
  | none => p.2

/-- OWN_SHARE_CONVERTED: the home's own share of the first bucket that waits and has a buffer slot joins the sums (R420). -/
def ownConverted (r : Nat) (d : Dev) : Dev :=
  match (getRed d r).own.find? (fun b => (takeBkt d r (rdStep d r) b).isSome) with
  | none => d
  | some b =>
    match takeBkt d r (rdStep d r) b with
    | none => d
    | some (x, d) =>
      let d := updRed d r (fun y => { y with own := y.own.erase b })
      ownEnd ((List.range (bktChunks d r b)).foldl (ownChunk r b) (some x, d))

/-- RESULT: sums written to RD_RES (R418, R419, R427). -/
def takeResult (d : Dev) : Dev :=
  match receive d (fun m => rdAccepts d m && m.op == 2) with
  | (some m, d) => if stepClass d m ≠ 1 ∨ !rdBusy d (mRid m) then staleMsg d
    else writeResult d (mRid m) (mBucket m) (mChunk m) m.data
  | (none, d) => d

/-- RPULL: the chunks named are sent in descending order once the bucket is full (R426). -/
def takeRpull (d : Dev) : Dev :=
  match receive d (fun m => rdAccepts d m && m.op == 3) with
  | (some m, d) =>
    let r := mRid m
    if stepClass d m ≠ 1 then staleMsg d
    else if ofBytes m.data = 0 ∨ !rdBusy d r then d
    else rdAdvance (updRed d r (fun x => { x with pulls := x.pulls ++ [(mBucket m, mSlot m, ofBytes m.data)] })) r
  | (none, d) => d

/-- STEPREP: the step is repeated (R425). The face's message about the end of a step ends it on the twin (R436). -/
def takeSteprep (d : Dev) : Dev :=
  match receive d (fun m => rdAccepts d m && m.op == 4) with
  | (some m, d) =>
    if silent d ∧ m.src = d.plat.twinId ∧ mChunk m ≠ 2 then stepEnd d (mRid m) (mChunk m)
    else if stepClass d m ≠ 1 then staleMsg d
    else applySteprep d (mRid m)
  | (none, d) => d

/-! ### Deadlines -/

/-- BUCKET_DEADLINE: a bucket's deadline has passed before the bucket is complete (R424). -/
def bucketDeadline (r b : Nat) (d : Dev) : Dev :=
  let s := rdStep d r
  match findBkt d r s b with
  | none => d
  | some x =>
    if x.complete ∨ rgetF d (rdOff r 0x28) RD_DEADLINE.BUCKET = 0 ∨ silent d ∨ rdMute d r then d
    else
      let full := ones (bktChunks d r b)
      let late := (List.range (rdP d r)).filter (fun i => Tab.get 0 x.seen i != full)
      let mem (i : Nat) : Nat := (getRed d r).members.getD i 0
      if 256 < rdP d r ∨ x.expired ∨ late.any (fun i => (mBackup (mem i)).isNone) then repeatStep d r
      else
        late.foldl (fun d i =>
          let miss := full ^^^ Tab.get 0 x.seen i
          rdCount (rdSend d r 3 ((mBackup (mem i)).getD 0) i 0 b (toBytes (ceilDiv (bktChunks d r b) 8) miss)) RD_CNT.PULLS)
          (putBkt d { x with expired := true })

/-- RESULT_DEADLINE: results are overdue (R427). -/
def resultDeadline (r : Nat) (d : Dev) : Dev :=
  if !rdBusy d r ∨ rgetF d (rdOff r 0x28) RD_DEADLINE.RESULT = 0 ∨ silent d ∨ rdFilled d r < rdLen d r then d else stepEnd d r 3

/-! ### The meanings -/

/-- OWN_SHARE_CONVERTED. -/
def execOwnShareConverted (r : Nat) (s : State) : Out := s.upd (ownConverted r)
/-- CONTRIB. -/
def execContrib (s : State) : Out := s.upd takeContrib
/-- CONTRIB_PLACE. -/
def execContribPlace (r : Nat) (s : State) : Out := s.upd (contribPlace r)
/-- RESULT. -/
def execResult (s : State) : Out := s.upd takeResult
/-- RPULL. -/
def execRpull (s : State) : Out := s.upd takeRpull
/-- STEPREP. -/
def execSteprep (s : State) : Out := s.upd takeSteprep
/-- BUCKET_DEADLINE. -/
def execBucketDeadline (r b : Nat) (s : State) : Out := s.upd (bucketDeadline r b)
/-- RESULT_DEADLINE. -/
def execResultDeadline (r : Nat) (s : State) : Out := s.upd (resultDeadline r)

end Sys2Proof.Machine
end

