-- ==== Sys2Proof/Machine/Pair.lean ====
section
/-!
DEFINITION. The pair (spec/20): forming it (R430, R431), suspecting the twin and falling out (R441, R442), taking over (R443), digests
(R439), the start of a rejoin (R444).
-/
namespace Sys2Proof.Machine

/-- Window offset of SU_LVSTAT. -/
def lvOff : Nat := suOff 0x1100
/-- The pair's data changed. -/
def updLv (d : Dev) (f : Lv → Lv) : Dev := { d with lv := f d.lv }
/-- SU_LVSTAT.STATE written. -/
def setLv (d : Dev) (st : Nat) : Dev := rsetF d lvOff SU_LVSTAT.STATE st
/-- SU_LVSTAT.FACE written. -/
def setFace (d : Dev) (b : Bool) : Dev := rsetB d lvOff SU_LVSTAT.FACE b
/-- The device's UID. -/
def devUid : List Byte := toBytes 8 Config.uid0.toNat ++ toBytes 8 Config.uid1.toNat

/-- The UID by which the host knows the device: in a pair the face's (R411). -/
def sessUid (d : Dev) : List Byte := if silent d then d.plat.twinUid else devUid

/-! ### Every context stopped -/

/-- Does a context of any cluster run? -/
def anyRunning (d : Dev) : Bool := (Tab.keys d.plat.siteOf).any (fun l => rget d (clOff l 0x60) != 0)
/-- Is a copy outstanding on any cluster? -/
def anyCopy (d : Dev) : Bool := d.cl.any (fun e => e.2.copies != [])
/-- Is a reduction busy? -/
def anyReduction (d : Dev) : Bool := (List.range 4).any (rdBusy d)
/-- Every running context stopped (R122). -/
def stopAll (d : Dev) : Dev := (Tab.keys d.plat.siteOf).foldl (fun d l => stopMask d l 0xFF) d

/-! ### Falling out and taking over -/

/-- A twin falls out (R441): LEAVE if it can, every context stopped, OUT. -/
def fallOut (d : Dev) (reason : Nat) : Dev :=
  if lvState d ≠ 2 then d
  else
    let d := if portUp d d.plat.twinPort then sendTwin d 9 0 (toBytes 1 reason) else d
    updLv (setFace (setLv (stopAll d) 4) false) (fun v => { v with cause := none, probe := 0 })

/-- TWIN_FALL_OUT: a cause to fall out that has come up acts. -/
def twinFallOut (d : Dev) : Dev :=
  match d.lv.cause with
  | some r => if lvState d = 2 then fallOut d r else updLv d (fun v => { v with cause := none })
  | none => d

/-- A cause to fall out comes up while the pair is formed (R441). -/
def lvCause (d : Dev) (reason : Nat) : Dev :=
  if paired d then updLv d (fun v => { v with cause := some (v.cause.getD reason) }) else d

/-- Bytes written to a ring's queue at a slot of its base: a local write at once, one to host memory as a request (spec/18 R409). -/
def queueWrite (d : Dev) (n slot : Nat) (bs : List Byte) : Option Nat × Dev :=
  let a := rgetF d (ringOff n 8) RING_BASE.ADDR * 64 + 32 * slot
  if rbit d (ringOff n 0x10) RING_CTL.CQLOC then (none, (hubWrite d a bs).2)
  else
    let p := hubReq d (.host a) a 32 .write (ofBytes bs)
    (some p.1, p.2)

/-- A device enters ALONE (R443): it becomes the face, sends the requests it held, rewrites the completion slots that its twin had not
confirmed, repeats the step of every busy reduction, and says so. -/
def enterAlone (d : Dev) : Dev :=
  let was := isFace d
  let d := setFace (setLv d 3) true
  let d := updLv d (fun v => { v with probe := 0, cause := none })
  let d := if was then d else d.reqs.foldl (fun d e => if e.2.stage = .remote then send d (reqMsg d e.2) else d) d
  let d := if was then d else (List.range 16).foldl (fun d n =>
    (getRing d n).unconf.foldl (fun d u => (queueWrite d n u.1 u.2).2) d) d
  let d := (List.range 4).foldl (fun d r => if rdBusy d r then applySteprep d r else d) d
  let d := rincSat d lvOff SU_LVSTAT.FAILOVERS
  sendLog d 1 (fieldAt d.plat.twinUid 0 8)

/-- The twin is suspected (R442): an MREAD of its SU_LVSTAT through the alternate port of its route, or only a wait where there is
none. -/
def suspect (d : Dev) : Dev :=
  if d.lv.probe ≠ 0 then d
  else match d.plat.routes[d.plat.twinId]? with
    | some b =>
      let alt := b.toNat / 16
      if alt = 15 ∨ alt = d.plat.twinPort then updLv d (fun v => { v with probe := 2 })
      else
        updLv (inject d (some alt) { vc := 5, op := 1, src := d.plat.self, dst := d.plat.twinId, tag := 0xFFFF, hops := 0, cls := 0,
                                     addr := lvOff, data := [] }) (fun v => { v with probe := 1 })
    | none => updLv d (fun v => { v with probe := 2 })

/-- TWIN_SILENCE: no twin-channel message for 1 ms, or the twin port is down (R442). -/
def twinSilence (d : Dev) : Dev := if paired d then suspect d else d

/-- FORMING_TIMEOUT: no answer to HELLO within 10 s (R431). -/
def formingTimeout (d : Dev) : Dev := if lvState d = 1 then suspect d else d

/-- Both twins are alive though they do not hear each other (R442): the higher one falls out, the other goes on alone. A device that was
still forming pairs with nobody. -/
def split (d : Dev) : Dev :=
  if lvState d = 1 then (if d.plat.self < d.plat.twinId then enterAlone d else setLv (updLv d (fun v => { v with probe := 0 })) 4)
  else if isFace d then enterAlone d else fallOut d 2

/-- The probe's answer: the twin's SU_LVSTAT, or none that helps (R442). -/
def probeAnswer (d : Dev) (w : Option Nat) : Dev :=
  if d.lv.probe ≠ 1 then d
  else match w with
    | some v => if v % 8 = 1 ∨ v % 8 = 2 then split d else enterAlone d
    | none => enterAlone d

/-- TWIN_PROBE_DEADLINE: 2 ms have passed (R442). -/
def probeDeadline (d : Dev) : Dev :=
  match d.lv.probe with
  | 1 => enterAlone d
  | 2 => split d
  | _ => d

/-! ### Forming a pair (R430) -/

/-- The digest over the applied sections that HELLO carries. -/
def agreeDigest (d : Dev) : List Byte := Config.sha384 d.plat.agree

/-- HELLO sent through the twin port. -/
def sendHello (d : Dev) : Dev := sendTwin d 1 0 (devUid ++ agreeDigest d)

/-- HELLO_TIMER: a device in FORMING sends HELLO every 10 ms. -/
def helloTimer (d : Dev) : Dev := if lvState d = 1 then sendHello d else d

/-- Fresh seeds written to the CL_SRSTATE of every logical cluster, and sent to the twin as SEED (R436). -/
def sendSeeds (d : Dev) : Dev :=
  let ls := Tab.keys d.plat.siteOf
  let d := ls.foldl (fun d l => let (w, d) := d.free; rset d (clOff l 0x70) (srValue w)) d
  (List.range (ceilDiv ls.length 256)).foldl (fun d i =>
    let part := (ls.drop (256 * i)).take 256
    sendTwin d 8 (part.headD 0) (part.map (fun l => toBytes 8 (rget d (clOff l 0x70)).toNat)).flatten) d

/-- HELLO received in FORMING: it is answered; equal digests and the UID of the plat's TWIN section make the pair (R430, R46). -/
def helloTaken (d : Dev) (m : Msg) : Dev :=
  if lvState d ≠ 1 then d
  else
    let d := updLv (sendHello d) (fun v => { v with probe := 0 })
    if m.data.take 16 = d.plat.twinUid ∧ (m.data.drop 16).take 48 = agreeDigest d then
      let d := setLv d 2
      if d.plat.self < d.plat.twinId then sendSeeds (setFace d true) else setFace d false
    else setLv d 5

/-- BEAT sent: sequence, SU_LVSTAT.STATE, and whether the plat is SHORT (in a byte that R442 leaves open). -/
def beatTimer (d : Dev) : Dev :=
  if lvState d = 0 then d
  else
    let sh := if rbit d 0x310 HB_PLATSTAT.SHORT then 1 else 0
    updLv (sendTwin d 2 0 (toBytes 4 d.lv.beatSeq ++ toBytes 1 (lvState d) ++ toBytes 3 sh))
      (fun v => { v with beatSeq := (v.beatSeq + 1) % 2 ^ 32 })

/-! ### Digests (R439) -/

/-- Window offset of SU_LVDIGSTAT. -/
def digOff : Nat := suOff 0x1128

/-- The digest's RESULT, with BUSY clear. -/
def digEnds (d : Dev) (res : Nat) : Dev :=
  updLv (rset d digOff (setF (setB (rget d digOff) SU_LVDIGSTAT.BUSY false) SU_LVDIGSTAT.RESULT res)) (fun v => { v with mine := none })

/-- Both digests of one tag are at hand: compared (R439). -/
def digCompare (d : Dev) : Dev :=
  match d.lv.mine, d.lv.theirs with
  | some (t, a), some (u, b) =>
    if t ≠ u then d
    else
      let d := updLv (digEnds d (if a = b then 0 else 1)) (fun v => { v with theirs := none })
      if a = b then d else sendLog (rincSat d lvOff SU_LVSTAT.MISM) 2 t
  | _, _ => d

/-- Does a range lie within TTYPE 0 and 1 windows? An empty one does. -/
def rangeLocal (d : Dev) (a n : Nat) : Bool :=
  n == 0 || (List.range (ceilDiv (a % 4096 + n) 4096)).all (fun i =>
    match resolveWin d (a / 4096 * 4096 + 4096 * i) with | some (.stack _ _, _) => true | _ => false)

/-- The 64 bytes of a digest's sector at an address, read where they stand. -/
def digBytes (d : Dev) (a : Nat) : List Byte × Dev :=
  (sectorsOf a 64).foldl (fun (acc : List Byte × Dev) p =>
    match hubTarget acc.2 p.1 false with
    | some (.stack k o) => (acc.1 ++ toBytes p.2 (homeRead acc.2 p.1 k o p.2).1, homeNote acc.2 p.1 k o 1)
    | _ => (acc.1 ++ toBytes p.2 0, acc.2)) ([], d)

/-- The digest D of a range: its sectors' CRC-32C values h, their sum and their exclusive or (R439). -/
def digestOf (d : Dev) (a n : Nat) : Nat × Dev :=
  let r := (List.range (n / 64)).foldl (fun (acc : Nat × Nat × Dev) i =>
    let p := digBytes acc.2.2 (a + 64 * i)
    let h := crc32c (toBytes 8 (64 * i) ++ p.1)
    ((acc.1 + h) % 2 ^ 32, acc.2.1 ^^^ h, p.2)) (0, 0, d)
  (r.1 * 2 ^ 32 + r.2.1, r.2.2)

/-- A write of GO: the digest of the range; a pair compares it (R439). -/
def digestGo (d : Dev) : Dev :=
  if rbit d digOff SU_LVDIGSTAT.BUSY then rsetB d digOff SU_LVDIGSTAT.CMDLOST true
  else
    let d := rsetB d digOff SU_LVDIGSTAT.BUSY true
    let a := (rget d (suOff 0x1110)).toNat
    let n := (rget d (suOff 0x1118)).toNat
    if n % 64 ≠ 0 ∨ !rangeLocal d a n then digEnds d 4
    else
      let p := digestOf d a n
      let d := rset p.2 (suOff 0x1130) (BitVec.ofNat 64 p.1)
      let tag := rgetF d (suOff 0x1120) SU_LVDIGCTL.TAG
      if !paired d then digEnds d 2
      else digCompare (updLv (sendTwin d 6 0 (toBytes 8 tag ++ toBytes 8 p.1)) (fun v => { v with mine := some (tag, p.1) }))

/-- DIGEST_TIMEOUT: the twin gave no digest for the tag within 10 s (R439). -/
def digestTimeout (d : Dev) : Dev := if rbit d digOff SU_LVDIGSTAT.BUSY then digEnds d 3 else d

/-! ### Rejoin (R444) -/

/-- A write of 1 to REJOIN: a rejoin starts, or REJFAIL is set (R444). -/
def rejoinGo (d : Dev) : Dev :=
  if lvState d = 3 ∧ d.lv.farState = 4 ∧ !d.lv.farShort ∧ portUp d d.plat.twinPort ∧ !anyRunning d ∧ !anyCopy d ∧ !anyReduction d ∧
      d.tractCmd.isNone ∧ !rbit d lvOff SU_LVSTAT.REJOIN then
    updLv (rsetB d lvOff SU_LVSTAT.REJOIN true) (fun v => { v with syncPos := 0 })
  else rsetB d lvOff SU_LVSTAT.REJFAIL true

/-! ### The meanings -/

/-- TWIN_FALL_OUT. -/
def execTwinFallOut (s : State) : Out := s.upd twinFallOut
/-- TWIN_SILENCE. -/
def execTwinSilence (s : State) : Out := s.upd twinSilence
/-- FORMING_TIMEOUT. -/
def execFormingTimeout (s : State) : Out := s.upd formingTimeout
/-- TWIN_PROBE_DEADLINE. -/
def execTwinProbeDeadline (s : State) : Out := s.upd probeDeadline
/-- HELLO_TIMER. -/
def execHelloTimer (s : State) : Out := s.upd helloTimer
/-- BEAT_TIMER. -/
def execBeatTimer (s : State) : Out := s.upd beatTimer
/-- DIGEST_TIMEOUT. -/
def execDigestTimeout (s : State) : Out := s.upd digestTimeout

end Sys2Proof.Machine
end

