-- ==== Sys2Proof/Machine/Plat.lean ====
section
/-!
DEFINITION. The plat (spec/02): its verification (R47), parsing, spare substitution (R39), what its application loads (R48).
-/
namespace Sys2Proof.Machine

/-! ### Sections -/

/-- A directory entry: TYPE, FLAGS, OFFSET, LENGTH, the last four bytes. -/
structure Sect where
  ty : Nat
  flags : Nat
  off : Nat
  len : Nat
  zero : Nat
  deriving DecidableEq, Repr

/-- SECTIONS of an image. -/
def pSections (b : List Byte) : Nat := fieldAt b 0x0C 2
/-- SIGOFF of an image. -/
def pSigoff (b : List Byte) : Nat := fieldAt b 0x28 4

/-- The directory of an image. -/
def pDir (b : List Byte) : List Sect :=
  (List.range (pSections b)).map (fun i =>
    let e := (b.drop (0x40 + 16 * i)).take 16
    ⟨fieldAt e 0 2, fieldAt e 2 2, fieldAt e 4 4, fieldAt e 8 4, fieldAt e 12 4⟩)

/-- The bytes of a section; none where it is absent or of length zero (R37). -/
def pSect (b : List Byte) (ty : Nat) : List Byte :=
  match (pDir b).find? (fun s => s.ty == ty) with
  | some s => (b.drop s.off).take s.len
  | none => []

/-- Are all bytes zero? -/
def allZero (b : List Byte) : Bool := b.all (· == 0)

/-! ### Layout (R34, R35, R37) -/

/-- Is a section's length one that its layout has? -/
def lenOk (ty : Nat) (b : List Byte) : Bool :=
  let n := b.length
  match ty with
  | 1 => n == 1668
  | 2 => decide (4 ≤ n) && n == 4 + 16 * fieldAt b 0 1
  | 3 => n == 0 || n == 24
  | 4 => decide (n % 32 = 0 ∧ n ≤ 2048)
  | 5 => n == 0 || (decide (16 ≤ n) && n == 16 + fieldAt b 2 2)
  | 6 => n == 0 || n == 1196
  | 7 => n == 16
  | 8 => n % 8 == 0
  | 9 => n == 0 || n == 24
  | _ => true

/-- The section types that a plat must hold (R37). -/
def required : List Nat := [1, 2, 4, 7]

/-- Step 7 of R47: none where the layout holds, else DETAIL. -/
def layoutFault (b : List Byte) : Option Nat :=
  let n := pSections b
  let dir := pDir b
  let hdr : Bool := decide (fieldAt b 6 2 < 2 ∧ 1 ≤ n ∧ n ≤ 32) && fieldAt b 0xF 1 == 0 && pSigoff b % 64 == 0 &&
    fieldAt b 8 4 == pSigoff b + 16608 && allZero ((b.drop 0x2C).take 20)
  if !hdr then some 0
  else
    let bad (i : Nat) (s : Sect) : Bool :=
      !decide (s.flags < 2 ∧ s.off % 64 = 0 ∧ s.zero = 0 ∧ 0x40 + 16 * n ≤ s.off ∧ s.off + s.len ≤ pSigoff b) ||
      (s.flags == 1 && !decide (1 ≤ s.ty ∧ s.ty ≤ 9)) ||
      (dir.take i).any (fun t => t.ty == s.ty || decide (max s.off t.off < min (s.off + s.len) (t.off + t.len))) ||
      !(s.len == 0 || lenOk s.ty (pSect b s.ty))
    match ((List.range dir.length).zip dir).find? (fun p => bad p.1 p.2) with
    | some p => some p.2.ty
    | none => required.find? (fun t => pSect b t == [])

/-! ### Cross-checks (R38, R40 to R46) -/

/-- The fuse map marks a site defective (R38). -/
def siteDefective (p : Nat) : Bool := (Config.siteFuse (p / 64)).toNat.testBit (p % 64)

/-- The SITE entry of a site. -/
def siteEntry (s : List Byte) (p : Nat) : Nat := fieldAt s (4 + 2 * p) 2
/-- ROLE of a SITE entry. -/
def siteRole (e : Nat) : Nat := bitsOf e 12 2

/-- R38. -/
def siteOk (s : List Byte) : Bool :=
  let es := (List.range 832).map (fun p => (p, siteEntry s p))
  let en := es.filter (fun e => siteRole e.2 == 0)
  let n := fieldAt s 0 2
  decide (1 ≤ n ∧ n ≤ 800) && en.length == n && (es.filter (fun e => siteRole e.2 == 1)).length == fieldAt s 2 2 &&
  es.all (fun e => decide (siteRole e.2 ≤ 2) && bitsOf e.2 10 2 == 0 && bitsOf e.2 14 2 == 0 &&
    (siteRole e.2 == 0 || bitsOf e.2 0 10 == 0) && (siteRole e.2 == 2 || !siteDefective e.1)) &&
  (List.range n).all (fun i => (en.filter (fun e => bitsOf e.2 0 10 == i)).length == 1)

/-- The parcels of a PARCEL section. -/
def parcelsOf (s : List Byte) : List Parcel :=
  (List.range (fieldAt s 0 1)).map (fun i =>
    let e := (s.drop (4 + 16 * i)).take 16
    { id := fieldAt e 0 1, ways := fieldAt e 1 1, prio := fieldAt e 2 1, first := fieldAt e 4 2, clusters := fieldAt e 6 2,
      cap := fieldAt e 8 2, floorW := fieldAt e 0xA 2 })

/-- PKGCAP in force under a POLICY section. -/
def pkgCapOf (pol : List Byte) : Nat := if fieldAt pol 4 2 = 0 then 1000 else fieldAt pol 4 2

/-- R40 for the PARCEL section, with its field ranges. -/
def parcelOk (s : List Byte) (enabled : Nat) (pkg : Nat) : Bool :=
  let ps := parcelsOf s
  decide (1 ≤ ps.length ∧ ps.length ≤ 16) && fieldAt s 1 3 == 0 &&
  (List.range ps.length).all (fun i => fieldAt s (4 + 16 * i + 3) 1 == 0 && fieldAt s (4 + 16 * i + 12) 4 == 0) &&
  ps.all (fun p => decide (p.id < 16 ∧ p.ways ≤ 16) && (ps.filter (fun r => r.id == p.id)).length == 1 &&
    (p.clusters == 0 || decide (p.first + p.clusters ≤ enabled))) &&
  (List.range enabled).all (fun l => (ps.filter (fun p => decide (p.first ≤ l ∧ l < p.first + p.clusters))).length == 1) &&
  decide (ps.foldl (fun a p => a + p.floorW) 0 ≤ pkg)

/-- The parcel of each stack: shared where the section is absent (R37). -/
def stackBytes (s : List Byte) : List Nat := if s = [] then List.replicate 24 0xFF else s.map (·.toNat)

/-- R40 for the STACK section. -/
def stackSectOk (s : List Byte) (ps : List Parcel) : Bool :=
  (stackBytes s).all (fun k => k == 0xFF || ps.any (fun p => p.id == k))

/-- A window of the WINDOW section. -/
structure Win where
  base : Nat
  size : Nat
  toff : Nat
  t : Nat
  deriving DecidableEq, Repr

/-- The windows in use of a WINDOW section. -/
def winsOf (s : List Byte) : List Win :=
  ((List.range (s.length / 32)).map (fun i =>
    let e := (s.drop (32 * i)).take 32
    (⟨fieldAt e 0 8, fieldAt e 8 8, fieldAt e 16 8, fieldAt e 24 8⟩ : Win))).filter (fun w => w.size != 0)

/-- TTYPE of a window. -/
def Win.ttype (w : Win) : Nat := bitsOf w.t 0 8
/-- TID of a window. -/
def Win.tid (w : Win) : Nat := bitsOf w.t 16 16
/-- GRAN of a window. -/
def Win.gran (w : Win) : Nat := bitsOf w.t 32 8

/-- The granules of stack `k`, as unit u = ⌊t / G⌋ of granule G, that a window reaches: lowest and first beyond (R41). The range of
stack bytes it reaches lies between them, each bound whole or not at all at the ends. -/
def winSpan (w : Win) (bound : Nat → List Nat) (k : Nat) : Nat × Nat :=
  match w.ttype with
  | 0 => if w.tid = k then (w.toff, w.toff + w.size) else (0, 0)
  | 1 =>
    let ks := bound w.tid
    match (List.range ks.length).find? (fun j => ks.getD j 99 == k) with
    | some j =>
      let g := granule w.gran
      let n := ks.length
      let lo := ceilDiv (w.toff / g - min (w.toff / g) j) n
      let hi := ceilDiv ((w.toff + w.size) / g - min ((w.toff + w.size) / g) j) n
      (lo * g, hi * g)
    | none => (0, 0)
  | _ => (0, 0)

/-- Do two windows reach one stack byte (R41)? -/
def winsMeet (a b : Win) (bound : Nat → List Nat) : Bool :=
  (List.range 24).any (fun k =>
    let x := winSpan a bound k
    let y := winSpan b bound k
    decide (x.1 < x.2 ∧ y.1 < y.2 ∧ x.1 < y.2 ∧ y.1 < x.2))

/-- SELF (R37). -/
def selfOf (route : List Byte) : Nat := if route = [] then 0 else fieldAt route 0 2

/-- Is a device reachable under the ROUTE section (R41), which gives no way to SELF (R43)? -/
def reachable (route : List Byte) (t : Nat) : Bool :=
  decide (t < fieldAt route 2 2 ∧ t ≠ selfOf route) && (let b := fieldAt route (16 + t) 1; b % 16 != 15 || b / 16 != 15)

/-- R41, R42 for the WINDOW section, with its field ranges. -/
def windowOk (s : List Byte) (bound : Nat → List Nat) (ps : List Parcel) (route : List Byte) : Bool :=
  let ws := winsOf s
  let ok (w : Win) : Bool :=
    decide (w.base % 0x20_0000 = 0 ∧ w.size % 0x20_0000 = 0 ∧ w.toff % 0x20_0000 = 0 ∧ w.ttype ≤ 4 ∧ bitsOf w.t 12 4 = 0 ∧
      bitsOf w.t 40 24 = 0) &&
    (w.ttype == 1 || w.gran == 0) && decide (w.gran ≤ 2) &&
    (match w.ttype with
     | 0 => decide (w.tid < 24)
     | 1 => ps.any (fun p => p.id == w.tid) && bound w.tid != []
     | 2 => decide (w.tid < 2 ^ 14) && reachable route w.tid
     | 3 => w.tid == 0
     | _ => w.tid == 0 && w.base == 0x200_0000_0000 && w.size == 0x1000_0000 && w.toff == 0)
  decide (1 ≤ s.length / 32) && ws.all ok &&
  (List.range ws.length).all (fun i => (List.range i).all (fun j =>
    match ws[i]?, ws[j]? with
    | some a, some b => decide (a.base + a.size ≤ b.base ∨ b.base + b.size ≤ a.base) && !winsMeet a b bound
    | _, _ => true))

/-- The roles of the ports (R37, R43). -/
def rolesOf (route twin : List Byte) : List Nat :=
  if route = [] then
    (List.range 12).map (fun p => if p = 10 then 3 else if p = 0 ∧ twin ≠ [] then 1 else 0)
  else (List.range 12).map (fun p => fieldAt route (4 + p) 1)

/-- R43, with its field ranges. -/
def routeOk (route twin : List Byte) : Bool :=
  let rs := rolesOf route twin
  let cnt (r : Nat) : Nat := (rs.filter (· == r)).length
  let named (p : Nat) : Bool := p == 15 || rs.getD p 0 == 1 || rs.getD p 0 == 2
  decide (selfOf route < 2 ^ 14 ∧ cnt 1 ≤ 1 ∧ cnt 3 ≤ 1) && rs.all (fun r => decide (r ≤ 4)) &&
  (cnt 4 == 0 || cnt 3 == 1) && decide (fieldAt route 2 2 ≤ 16384) &&
  (List.range (fieldAt route 2 2)).all (fun t =>
    t == selfOf route || (let b := fieldAt route (16 + t) 1; named (b % 16) && named (b / 16)))

/-- R44, with its field ranges: `used k` says whether a window in use targets stack k. -/
def powerOk (s : List Byte) (used : Nat → Bool) : Bool :=
  s == [] ||
  ((List.range 940).all (fun n => let g := fieldAt s n 1; decide (g < 64) || g == 0xFE || g == 0xFF) &&
   (List.range 8).all (fun i => fieldAt s (932 + i) 1 == 0xFE) &&
   (List.range 64).all (fun g => decide (fieldAt s (940 + 4 * g) 1 ≤ 1 ∧ fieldAt s (941 + 4 * g) 1 ≤ 3)) &&
   (List.range 24).all (fun k => let g := fieldAt s (domStack k) 1
     !(used k && decide (g < 64) && fieldAt s (940 + 4 * g) 1 == 1)))

/-- The field ranges of POLICY. -/
def policyOk (s : List Byte) : Bool :=
  decide (fieldAt s 0 1 ≤ 1 ∧ fieldAt s 1 1 ≤ 1 ∧ fieldAt s 2 1 ≤ 64 ∧ fieldAt s 3 1 ≤ 1) &&
  (fieldAt s 4 2 == 0 || decide (200 ≤ fieldAt s 4 2 ∧ fieldAt s 4 2 ≤ 1000)) &&
  (fieldAt s 6 1 == 0 || decide (60 ≤ fieldAt s 6 1 ∧ fieldAt s 6 1 ≤ 95)) &&
  fieldAt s 7 1 == 0 && allZero (s.drop 10)

/-- The field ranges of THRESH. -/
def threshOk (s : List Byte) : Bool :=
  (List.range (s.length / 8)).all (fun i => decide (fieldAt s (8 * i) 1 ≤ 4) && fieldAt s (8 * i + 1) 1 == 0)

/-- R46 for the TWIN section. -/
def twinOk (s : List Byte) (roles : List Nat) : Bool :=
  s == [] || (decide (fieldAt s 0 2 < 2 ^ 14 ∧ fieldAt s 2 1 < 12) && roles.getD (fieldAt s 2 1) 0 == 1 && fieldAt s 3 5 == 0)

/-- The stacks bound to a parcel under a STACK section. -/
def boundOf (stk : List Byte) (p : Nat) : List Nat := filterUpto 24 (fun k => (stackBytes stk).getD k 0xFF == p)

/-- Step 8 of R47: none where every cross-check holds, else DETAIL. -/
def crossFault (b : List Byte) : Option Nat :=
  let site := pSect b 1
  let par := pSect b 2
  let stk := pSect b 3
  let win := pSect b 4
  let route := pSect b 5
  let pol := pSect b 7
  let twin := pSect b 9
  let ps := parcelsOf par
  let bound := boundOf stk
  let used (k : Nat) : Bool := (winsOf win).any (fun w =>
    (w.ttype == 0 && w.tid == k) || (w.ttype == 1 && (bound w.tid).contains k))
  if !siteOk site then some 1
  else if !parcelOk par (fieldAt site 0 2) (pkgCapOf pol) then some 2
  else if !stackSectOk stk ps then some 3
  else if !windowOk win bound ps route then some 4
  else if !routeOk route twin then some 5
  else if !powerOk (pSect b 6) used then some 6
  else if !policyOk pol then some 7
  else if !threshOk (pSect b 8) then some 8
  else if !twinOk twin (rolesOf route twin) ∨ (fieldAt pol 0 1 = 1 ∧ twin = []) then some 9
  else none

/-! ### Verification (R47) -/

/-- Does a signature block verify under a key of 432 bytes: an RSA modulus, an SLH-DSA key (R36)? The first answer is RSA's. -/
def sigsOk (key img : List Byte) (sigoff : Nat) : Bool × Bool :=
  let body := img.take sigoff
  (Config.rsaPssOk (key.take 384) body ((img.drop sigoff).take 384),
   Config.slhDsaOk (key.drop 384) body ((img.drop (sigoff + 384)).take 16224))

/-- A plat checked (R47): RESULT and DETAIL. `len`: HB_PLATLEN, for the staging buffer. -/
def platCheck (d : Dev) (b : List Byte) (len : Option Nat) : Nat × Nat :=
  let n := fieldAt b 8 4
  let key := Tab.find? d.dyke.platKeys (fieldAt b 0x0E 1)
  let sig := sigsOk (key.getD []) b (pSigoff b)
  if n < 16736 ∨ 262144 < n ∨ (len.isSome ∧ len ≠ some n) then (2, 0)
  else if fieldAt b 0 4 ≠ 0x544C504A ∨ fieldAt b 4 2 ≠ 1 then (1, 0)
  else if !allZero ((b.drop 0x18).take 16) ∧ (b.drop 0x18).take 16 ≠ devUid then (6, 0)
  else if fieldAt b 0x10 8 < d.dyke.led.platFloor then (5, 0)
  else if key.isNone ∨ !sig.1 then (3, 0)
  else if !sig.2 then (4, 0)
  else match layoutFault b with
    | some t => (7, t)
    | none => match crossFault b with
      | some t => (8, t)
      | none => (0, 0)

/-- Step 9 of R47: in Levee mode the twin must agree (R46). What the two Dykereeves exchange has no message in the spec, so the twin's
answer is a free choice. -/
def twinAgrees (d : Dev) (b : List Byte) : Bool × Dev :=
  if fieldAt (pSect b 7) 0 1 = 1 then (let p := d.choose 2; (p.1 == 0, p.2)) else (true, d)

/-- A plat verified, the twin's agreement included (R47). -/
def platVerify (d : Dev) (b : List Byte) (len : Option Nat) : (Nat × Nat) × Dev :=
  let r := platCheck d b len
  if r.1 ≠ 0 then (r, d) else let a := twinAgrees d b; (if a.1 then (0, 0) else (0x0A, 0), a.2)

/-- The image of a flash slot: LENGTH bytes, at most 256 KiB (R47, R49). -/
def slotImage (d : Dev) (slot : Nat) : List Byte :=
  let a := 0x40_0000 + 0x4_0000 * slot
  fbytes d a (min 262144 (fieldAt (fbytes d (a + 8) 4) 0 4))

/-- The image of the staging buffer. -/
def stageImage (d : Dev) : List Byte := Tab.getRun 0 d.platbuf 0 (rgetF d 0x308 HB_PLATLEN.LEN)

/-- RESULT and DETAIL of HB_PLATSTAT. -/
def platResult (d : Dev) (r : Nat × Nat) : Dev :=
  rset d 0x310 (setF (setF (rget d 0x310) HB_PLATSTAT.RESULT r.1) HB_PLATSTAT.DETAIL r.2)

/-! ### Application -/

/-- The lowest spare site that may stand in, of those `ok` allows. -/
def spareFor (spares used : List Nat) (ok : Nat → Bool) : Option Nat := spares.find? (fun p => !used.contains p && ok p)

/-- The site of each logical cluster with spares in place of retired sites, and whether a cluster has none (R39). -/
def substitute (site : List Byte) (retired : List Nat) : Tab Nat × Bool :=
  let ret (p : Nat) : Bool := retired.any (fun e => e % 1024 == p)
  let sites := (List.range 832).map (fun p => (p, siteEntry site p))
  let en := sites.filter (fun e => siteRole e.2 == 0)
  let spares := (sites.filter (fun e => siteRole e.2 == 1 && !ret e.1)).map (·.1)
  let good := (en.filter (fun e => !ret e.1)).foldl (fun t e => Tab.insert t (bitsOf e.2 0 10) e.1) []
  let r := (en.filter (fun e => ret e.1)).foldl (fun (acc : Tab Nat × List Nat × Bool) e =>
    let pick := (spareFor spares acc.2.1 (fun p => p / 208 == e.1 / 208)).orElse (fun _ => spareFor spares acc.2.1 (fun _ => true))
    match pick with
    | some p => (Tab.insert acc.1 (bitsOf e.2 0 10) p, acc.2.1 ++ [p], acc.2.2)
    | none => (acc.1, acc.2.1, true)) (good, [], false)
  (r.1, r.2.2)

/-- The plat that an image spells, for a retired list. -/
def platOf (b : List Byte) (retired : List Nat) : Plat × Bool :=
  let route := pSect b 5
  let pol := pSect b 7
  let twin := pSect b 9
  let pow := pSect b 6
  let sub := substitute (pSect b 1) retired
  ({ loaded := true, siteOf := sub.1, parcels := parcelsOf (pSect b 2), stackOf := stackBytes (pSect b 3), self := selfOf route,
     roles := rolesOf route twin, routes := (route.drop 16).take (fieldAt route 2 2),
     domGroup := if pow = [] then List.replicate 940 0xFF else pow.take 940,
     groups := if pow = [] then [] else (List.range 64).map (fun g => (pow.drop (940 + 4 * g)).take 4),
     levee := fieldAt pol 0 1 == 1, allot := fieldAt pol 1 1 == 1, bucket := fieldAt pol 2 1, powerPol := fieldAt pol 3 1,
     pkgCap := pkgCapOf pol, tjCap := if fieldAt pol 6 1 = 0 then 95 else fieldAt pol 6 1, allotMask := fieldAt pol 8 2,
     twinId := fieldAt twin 0 2, twinPort := fieldAt twin 2 1, twinUid := (twin.drop 8).take 16,
     agree := pSect b 2 ++ pSect b 3 ++ pSect b 4 ++ pol ++ pSect b 8, hash := Config.sha384 (b.take (pSigoff b)) }, sub.2)

/-- The windows loaded into TR_WIN_0 to TR_WIN_63. -/
def loadWindows (d : Dev) (win : List Byte) : Dev :=
  (List.range 64).foldl (fun d i => (List.range 4).foldl (fun d j =>
    rset d (qOff 0 (0x2000 + 0x20 * i + 8 * j)) (BitVec.ofNat 64 (fieldAt win (32 * i + 8 * j) 8))) d) d

/-- The thresholds loaded into DK_THRESH_0 to DK_THRESH_4: zero selects a default (R45). -/
def loadThresh (d : Dev) (s : List Byte) : Dev :=
  (List.range 5).foldl (fun d k =>
    let dflt := threshDefault k
    let w := (List.range (s.length / 8)).foldl (fun w i =>
      if fieldAt s (8 * i) 1 = k then
        let c := fieldAt s (8 * i + 2) 2
        let n := fieldAt s (8 * i + 4) 4
        let w := if c = 0 then setF w DK_THRESH.COUNT (getF dflt DK_THRESH.COUNT) else setF w DK_THRESH.COUNT c
        if n = 0 then setF w DK_THRESH.WINDOW (getF dflt DK_THRESH.WINDOW) else setF w DK_THRESH.WINDOW n
      else w) dflt
    rset d (dkOff (0x40 + 8 * k)) w) d

/-- The initial Mere size of a cluster: its parcel's MERE_WAYS. -/
def mereWaysOf (d : Dev) (l : Nat) : Nat :=
  match d.plat.parcels.find? (fun p => decide (p.first ≤ l ∧ l < p.first + p.clusters)) with
  | some p => p.ways
  | none => 0

/-- The image's settings in force (R48): everything but what a re-plat does to the parts of a running device. -/
def platLoad (d : Dev) (b : List Byte) : Dev :=
  let p := platOf b d.dyke.led.retired
  let d := { d with plat := p.1 }
  let d := loadThresh (loadWindows d (pSect b 4)) (pSect b 8)
  let d := (List.range 12).foldl (fun d q => rsetF d (portOff q 0) SL_PSTAT.ROLE (d.plat.roles.getD q 0)) d
  let o := 0x310
  let d := rset d o (setB (setB (setB (rget d o) HB_PLATSTAT.LOCKED true) HB_PLATSTAT.PLATLESS false) HB_PLATSTAT.SHORT p.2)
  let d := rset d 0x318 (BitVec.ofNat 64 (fieldAt b 0x10 8))
  let d := rset d lvOff (setF (setF (setB (rget d lvOff) SU_LVSTAT.FACE false) SU_LVSTAT.STATE (if d.plat.levee then 1 else 0))
    SU_LVSTAT.TWINID d.plat.twinId)
  updLv d (fun v => { Lv.empty with beatSeq := v.beatSeq, replay := v.replay, epochAcc := v.epochAcc, epochOld := v.epochOld })

end Sys2Proof.Machine
end

