-- ==== Sys2Proof/Machine/Power.lean ====
section
/-!
DEFINITION. Power (spec/22 R468 to R478): set-points and ceilings, the ways of the quarter caches (spec/13 R315, R316), domains switched
on and off, groups, Standby.
-/
namespace Sys2Proof.Machine

/-! ### Ways of a quarter cache -/

/-- A bit of QT_QWAY.ON or DRAIN of way `w` written. -/
def setWay (d : Dev) (q w : Nat) (f : Fld) (b : Bool) : Dev :=
  let o := qOff q 0x100
  let v := rgetF d o f
  rsetF d o f (if b then setBit v w else clrBit v w)

/-- Is way `w` of a quarter on, is it draining? -/
def wayBit (d : Dev) (q w : Nat) (f : Fld) : Bool := (rgetF d (qOff q 0x100) f).testBit w

/-- WAY_POWER_DOWN: the drain of a way begins; a way that is draining or off is left (R315, R316). -/
def wayDown (q w : Nat) (d : Dev) : Dev :=
  if wayBit d q w QT_QWAY.ON ∧ !wayBit d q w QT_QWAY.DRAIN then setWay d q w QT_QWAY.DRAIN true else d

/-- Every line of a way written back and dropped (R315 steps 2 and 3). -/
def drainWay (d : Dev) (q w : Nat) : Dev :=
  (getQ d q).qc.foldl (fun d e => if e.1 % 16 = w then qcPut (qcCleanLine d e.2) q e.1 (slNew e.2.ln) else d) d

/-- WAY_DRAIN_COMPLETE: every set has been visited: the way's domain goes off, or the way returns to service empty where a
power-up came meanwhile (R315, R316). -/
def wayDrained (q w : Nat) (d : Dev) : Dev :=
  if !wayBit d q w QT_QWAY.DRAIN then d
  else
    let up : Bool := (getQ d q).upAfter.contains w
    let d := setWay (drainWay d q w) q w QT_QWAY.DRAIN false
    let d := updQ d q (fun u => { u with upAfter := u.upAfter.filter (· != w) })
    if up then d else domSet (setWay d q w QT_QWAY.ON false) (domWay q w) false

/-- WAY_POWER_UP: the way joins the cache empty; during a drain the request takes effect when the drain completes (R315,
R316). -/
def wayUp (q w : Nat) (d : Dev) : Dev :=
  if wayBit d q w QT_QWAY.DRAIN then
    updQ d q (fun u => { u with upAfter := if u.upAfter.contains w then u.upAfter else u.upAfter ++ [w] })
  else if wayBit d q w QT_QWAY.ON then d
  else setWay (domSet d (domWay q w) true) q w QT_QWAY.ON true

/-! ### Clusters reset (R480, R474) -/

/-- Who waits for a walk or a fault record of a cluster. -/
def whoCl : WalkFor → Nat
  | .ctx l _ => l | .fetch l _ => l | .vec l _ => l | .copy l _ => l | .quiet l _ => l

/-- The items of a cluster leave the miss queues, the walks and the waits for a record. -/
def dropWaiters (d : Dev) (l : Nat) : Dev :=
  (List.range 4).foldl (fun d q => updQ d q (fun u =>
    let w (x : Walk) : Walk := { x with who := x.who.filter (fun y => whoCl y.who != l) }
    { u with missq := (u.missq.map w).filter (fun x => x.who != []), walks := u.walks.map (fun e => (e.1, w e.2)),
             recWait := u.recWait.filter (fun x => whoCl x != l) })) d

/-- A cluster's parked items leave their records (R333). -/
def leaveAll (d : Dev) (l : Nat) : Dev :=
  let tags := ((getCl d l).ctx.filterMap (fun e => e.2.park.bind (·.tag))) ++ ((getCl d l).copies.filterMap (fun e => e.2.park.bind (·.tag)))
  tags.foldl (fun d t => leaveRecord d (t / 1024) (t % 1024)) (dropWaiters d l)

/-- The requests of a cluster answer nobody any more: a read not yet under way goes, a write goes on. -/
def orphanCluster (d : Dev) (l : Nat) : Dev :=
  { d with reqs := (d.reqs.filter (fun e => !(e.2.cl == l && (e.2.stage == .done ||
        (e.2.kind == .read && (e.2.stage == .toQuarter || e.2.stage == .toStack)))))).map (fun e =>
      if e.2.cl = l then (e.1, { e.2 with src := .clean }) else e) }

/-- Is an offset a register of a cluster's logical block, apart from CL_TALLY and CL_BEATS? -/
def clRegP (l : Nat) (keepTally : Bool) (o : Nat) : Bool :=
  decide (clOff l 0 ≤ o ∧ o < clOff (l + 1) 0) && !(keepTally && (o == clOff l 0x40 || o == clOff l 0x48))

/-- A cluster's registers and state as cluster reset leaves them (R480 steps 4 and 5): MERE_WAYS of the parcel, the dispatch counter at 1,
CL_SRSTATE from the entropy source. -/
def clusterFresh (d : Dev) (l : Nat) (keepTally : Bool) : Dev :=
  let held := (getCl d l).heldEv
  let d := rreset (setCl d l { Cluster.empty with heldEv := held }) (clRegP l keepTally)
  let (w, d) := d.free
  rset (rsetF d (clOff l 0x500) CL_MERE.WAYS (mereWaysOf d l)) (clOff l 0x70) (srValue w)

/-- A cluster reset (R480): every context and copy abandoned, parked items removed, the cluster cache cleaned, everything else lost. Until
it completes, management accesses find the cluster asleep. -/
def clusterReset (d : Dev) (l : Nat) : Dev :=
  let d := orphanCluster (leaveAll d l) l
  let d := (getCl d l).cc.foldl (fun d e => ccCleanLine d l e.2) d
  let d := clusterFresh d l true
  let d := { d with events := d.events.filter (fun e => e.1 != l) }
  lvCause (updCl d l (fun k => { k with inReset := true })) 1

/-- Has a cluster a write to a stack under way? -/
def stackWrites (d : Dev) (l : Nat) : Bool :=
  d.reqs.any (fun e => e.2.cl == l && e.2.kind == .write && (match e.2.tgt with | .stack _ _ => true | _ => false))

/-- CLUSTER_RESET_COMPLETE: the dirty sectors have been written back (R480). -/
def clusterResetComplete (l : Nat) (d : Dev) : Dev :=
  if stackWrites d l ∨ (getQ d (quarterOf d l)).held then d
  else updCl d l (fun k => { k with inReset := false })

/-! ### Domains (R44, R473 to R478) -/

/-- Can a cluster's domain be switched off (R474)? -/
def clusterIdle (d : Dev) (l : Nat) : Bool :=
  rget d (clOff l 0x60) == 0 && (getCl d l).copies == [] &&
  (getCl d l).ctx.all (fun e => e.2.park.isNone)

/-- A cluster becomes Dormant (R474): its cache is cleaned, and its state is lost. -/
def clusterSleep (d : Dev) (l : Nat) : Dev :=
  let d := (getCl d l).cc.foldl (fun d e => ccCleanLine d l e.2) d
  let d := orphanCluster d l
  updCl (clusterFresh d l false) l (fun k => { k with dormant := true })

/-- Event bits held for a cluster reach CL_EVENT (R475). -/
def giveHeld (d : Dev) (l : Nat) : Dev :=
  let b := (getCl d l).heldEv
  updCl (rset d (clOff l 0x50) (rget d (clOff l 0x50) ||| BitVec.ofNat 64 b)) l (fun k => { k with heldEv := 0 })

/-- A quarter leaves Quarter Dormant (R476). -/
def quarterWake (d : Dev) (q : Nat) : Dev :=
  if (getQ d q).dormant then rsetB (updQ d q (fun u => { u with dormant := false })) (qOff q 0) QT_RATE.VALID false else d

/-- A domain powered up: an enabled site's, a way's, a stack's, a port's that is not of dark role (R44, R475, R478). -/
def domUp (d : Dev) (n : Nat) : Dev :=
  if domOn d n then d
  else if n < 832 then
    match logicalOf d n with
    | some l =>
      let d := domSet (quarterWake d (n / 208)) n true
      giveHeld (updCl d l (fun k => { k with dormant := false })) l
    | none => d
  else if n < 896 then wayUp ((n - 832) / 16) ((n - 832) % 16) (quarterWake d ((n - 832) / 16))
  else if 920 ≤ n ∧ n < 932 then (if portRole d (n - 920) = 0 then d else domSet d n true)
  else domSet d n true

/-- A domain powered down (R474, R315); a hub domain and a port of a role other than dark stay on (R44, R478). -/
def domDown (d : Dev) (n : Nat) : Dev :=
  if !domOn d n then d
  else if n < 832 then
    match logicalOf d n with
    | some l => domSet (clusterSleep d l) n false
    | none => domSet d n false
  else if n < 896 then wayDown ((n - 832) / 16) ((n - 832) % 16) d
  else if n < 920 then domSet d n false
  else d

/-- The group byte of a domain. -/
def groupOf (d : Dev) (n : Nat) : Nat := fieldAt d.plat.domGroup n 1
/-- The domains of a group, ascending. -/
def groupDoms (d : Dev) (g : Nat) : List Nat := filterUpto 940 (fun n => groupOf d n == g)
/-- INIT of a group. -/
def groupInit (d : Dev) (g : Nat) : Nat := fieldAt (d.plat.groups.getD g []) 0 1
/-- FLAGS of a group. -/
def groupFlags (d : Dev) (g : Nat) : Nat := fieldAt (d.plat.groups.getD g []) 1 1
/-- IDLE of a group. -/
def groupIdle (d : Dev) (g : Nat) : Nat := fieldAt (d.plat.groups.getD g []) 2 2

/-- Does a window in use target a stack? -/
def stackUsed (d : Dev) (k : Nat) : Bool :=
  (List.range 64).any (fun i => let r := winReach d i k; decide (r.1 < r.2))

/-- The clusters of a group. -/
def groupClusters (d : Dev) (g : Nat) : List Nat := (groupDoms d g).filterMap (fun n => if n < 832 then logicalOf d n else none)

/-- The result of HB_PWRCMD, with BUSY clear. -/
def pwrEnds (d : Dev) (res : Nat) : Dev :=
  let d := rset d 0x500 (setB (setF (rget d 0x500) HB_PWRSTAT.RESULT res) HB_PWRSTAT.BUSY false)
  { d with hub := { d.hub with pwr := none } }

/-- GROUP_UP: the domains of the group power up in ascending order (R478). -/
def groupUp (d : Dev) : Dev :=
  match d.hub.pwr with
  | some (1, g, _) => pwrEnds ((groupDoms d g).foldl domUp d) 0
  | _ => d

/-- GROUP_DOWN: the group is switched off, or refused (R478). -/
def groupDown (d : Dev) : Dev :=
  match d.hub.pwr with
  | some (2, g, _) =>
    if !(groupFlags d g).testBit 1 then pwrEnds d 1
    else if (groupClusters d g).any (fun l => !clusterIdle d l) then pwrEnds d 2
    else if (groupDoms d g).any (fun n => decide (896 ≤ n ∧ n < 920) && stackUsed d (n - 896)) then pwrEnds d 3
    else pwrEnds ((groupDoms d g).foldl domDown d) 0
  | _ => d

/-- IDLE_POWER_DOWN: a group with IDLE_OFF whose clusters have been Still for IDLE units is made Dormant (spec/02, R474). -/
def idleDown (g : Nat) (d : Dev) : Dev :=
  if 64 ≤ g ∨ !(groupFlags d g).testBit 0 ∨ groupIdle d g = 0 ∨ (groupClusters d g).any (fun l => !clusterIdle d l) ∨
      (groupDoms d g).any (fun n => decide (896 ≤ n ∧ n < 920) && stackUsed d (n - 896)) then d
  else (groupDoms d g).foldl domDown d

/-- CLUSTER_WAKE: a Dormant cluster powers up and receives the event bits held for it (R475); none does in Standby (R477). -/
def clusterWake (l : Nat) (d : Dev) : Dev :=
  if d.hub.standby then d else match siteOfCl d l with | some p => domUp d p | none => d

/-- Are all domains of a quarter off? -/
def quarterOff (d : Dev) (q : Nat) : Bool :=
  (List.range 208).all (fun i => !domOn d (208 * q + i)) && (List.range 16).all (fun w => !domOn d (domWay q w))

/-! ### VCORE (R468 to R472) -/

/-- Window offset of QT_VSET of a quarter. -/
def vsetOff (q : Nat) : Nat := qOff q 8

/-- TARGET brought up to SET and CEIL (R468); 0 while VCORE is off, in Standby (R477). -/
def vTarget (d : Dev) (q : Nat) : Dev :=
  rsetF d (vsetOff q) QT_VSET.TARGET
    (if d.hub.standby then 0 else min (rgetF d (vsetOff q) QT_VSET.SET) (rgetF d (vsetOff q) QT_VSET.CEIL))

/-- QUARTER_DORMANT_ENTRY (R476): TLB, walk cache and walkers go off, and VCORE is held at 0.55 V. -/
def quarterSleep (q : Nat) (d : Dev) : Dev :=
  if 4 ≤ q ∨ !quarterOff d q ∨ (getQ d q).dormant then d
  else vTarget (rsetF (updQ d q (fun u => { u with dormant := true, tlb := [], wcache := [] })) (vsetOff q) QT_VSET.SET 550) q

/-- The parcel share procedure of R469, one round: `give` for each parcel, with weights, limits, and the budget. -/
def shareRound (ws : List Nat) (lim : List Rat) (b : Rat) (give : List Rat) : List Rat :=
  let left := b - give.foldl (· + ·) 0
  let opn (i : Nat) : Bool := decide (give.getD i 0 < lim.getD i 0) && ws.getD i 0 != 0
  let tot : Nat := (filterUpto give.length opn).foldl (fun a i => a + ws.getD i 0) 0
  if left ≤ 0 ∨ tot = 0 then give
  else (List.range give.length).map (fun i =>
    let g := give.getD i 0
    if opn i then g + min (left * (ws.getD i 0 : Rat) / (tot : Rat)) (lim.getD i 0 - g) else g)

/-- The shares of the parcels (R469): every round but the last saturates a parcel, so 17 rounds suffice for 16. -/
def shares (ws floors caps dem : List Nat) (b : Rat) : List Rat :=
  let n := ws.length
  let lim : List Rat := (List.range n).map (fun i => min (dem.getD i 0 : Rat) (if caps.getD i 0 = 0 then b else (caps.getD i 0 : Rat)))
  let give : List Rat := (List.range n).map (fun i => ((min (floors.getD i 0) (dem.getD i 0) : Nat) : Rat))
  let sum := give.foldl (· + ·) 0
  let give := if b < sum then give.map (fun g => g * b / sum) else give
  (List.range 17).foldl (fun g _ => shareRound ws lim b g) give

/-- The enabled clusters of a parcel, and those of them in a quarter. -/
def parcelClusters (d : Dev) (p : Parcel) : List Nat := (Tab.keys d.plat.siteOf).filter (fun l => decide (p.first ≤ l ∧ l < p.first + p.clusters))

/-- The power that R469 gives each quarter, for the power of the other rails and each parcel's demand, in W. -/
def quarterShares (d : Dev) (other : Nat) (dem : List Nat) : List Rat :=
  let ps := d.plat.parcels
  let ws := ps.map (fun p => if d.plat.powerPol = 1 then p.prio else (parcelClusters d p).length)
  let b : Rat := ((d.plat.pkgCap - other : Nat) : Rat)
  let g := shares ws (ps.map (·.floorW)) (ps.map (·.cap)) dem b
  (List.range 4).map (fun q => ((List.range ps.length).zip ps).foldl (fun (a : Rat) e =>
    let ls := parcelClusters d e.2
    if ls = [] then a
    else a + g.getD e.1 0 * ((ls.filter (fun l => quarterOf d l == q)).length : Rat) / (ls.length : Rat)) 0)

/-- POWER_BUDGET_TICK: the cluster budget divided, and each quarter's SET at the step that the Surveyor's model chooses for its share
(R469). -/
def budgetTick (other : Nat) (dem : List Nat) (d : Dev) : Dev :=
  if !d.plat.loaded ∨ d.hub.standby then d
  else
    let sh := quarterShares d other dem
    (List.range 4).foldl (fun d q =>
      let s := if (getQ d q).dormant then 550 else 550 + 10 * (Config.powerModel q (sh.getD q 0).num (sh.getD q 0).den % 31)
      vTarget (rsetF d (vsetOff q) QT_VSET.SET s) q) d

/-- The QVID code of a target in mV. -/
def qvidCode (mv : Nat) : Nat := if mv = 0 then 0 else (mv - 540) / 10

/-- QVID_STEP: a quarter's code moves one step towards its target (R490). -/
def qvidStep (q : Nat) (d : Dev) : Dev :=
  let n := d.board.qvid.getD q 21
  let t := qvidCode (rgetF d (vsetOff q) QT_VSET.TARGET)
  let n := if n < t then n + 1 else if t < n then n - 1 else n
  if 4 ≤ q then d else { d with board := { d.board with qvid := d.board.qvid.set q n } }

/-- CEIL of a quarter. -/
def ceilOf (d : Dev) (q : Nat) : Nat := rgetF d (vsetOff q) QT_VSET.CEIL
/-- CEIL of a quarter written. -/
def setCeil (d : Dev) (q v : Nat) : Dev := vTarget (rsetF d (vsetOff q) QT_VSET.CEIL v) q
/-- The package cap and the junction ceiling in force (R470). -/
def capsNow (d : Dev) : Nat × Nat := if d.plat.loaded then (d.plat.pkgCap, d.plat.tjCap) else (1000, 95)

/-- CEILING_CHECK: every 100 µs, the averaged package power, the power of the rails other than VCORE, and each quarter's hottest
sensor against the limits (R470). -/
def ceilingCheck (pkg other : Nat) (tj : List Nat) (d : Dev) : Dev :=
  let caps := capsNow d
  let t (q : Nat) : Nat := tj.getD q 0
  let above : Bool := decide (caps.1 < pkg)
  let hot (q : Nat) : Bool := decide (caps.2 < t q)
  let d := rset d 0x500 (setF (setF (rget d 0x500) HB_PWRSTAT.PKG pkg) HB_PWRSTAT.UNCORE other)
  let floor : Bool := (List.range 4).all (fun q => ceilOf d q == 550)
  let any : Bool := above || (List.range 4).any hot
  let calmNow : Bool := decide (100 * pkg ≤ 98 * caps.1) && (List.range 4).all (fun q => decide (t q + 2 ≤ caps.2))
  let p := d.power
  let d := { d with power := { calm := if calmNow then p.calm + 1 else 0, floorFor := if floor then p.floorFor + 1 else 0,
                                within := if any then 0 else p.within + 1 } }
  let d := (List.range 4).foldl (fun d q => if above || hot q then setCeil d q (max 550 (ceilOf d q - 10)) else d) d
  let d := if above then rsetB d 0x500 HB_PWRSTAT.CAPPED true else d
  let d := if (List.range 4).any hot then rsetB d 0x500 HB_PWRSTAT.HOT true else d
  let d := if 100 ≤ d.power.calm ∧ d.power.calm % 10 = 0 then
      (List.range 4).foldl (fun d q => setCeil d q (min 850 (ceilOf d q + 10))) d else d
  if (List.range 4).all (fun q => ceilOf d q == 850) then
    rset d 0x500 (setB (setB (rget d 0x500) HB_PWRSTAT.CAPPED false) HB_PWRSTAT.HOT false)
  else d

/-- THROTTLE_STEP: 10 ms at the floor with a limit exceeded raise THROT, up to 4; 10 ms within both limits lower it (R471). -/
def throttleStep (d : Dev) : Dev :=
  let k := rgetF d 0x500 HB_PWRSTAT.THROT
  if 100 ≤ d.power.floorFor ∧ d.power.within = 0 then
    { rsetF d 0x500 HB_PWRSTAT.THROT (min 4 (k + 1)) with power := { d.power with floorFor := 0 } }
  else if 100 ≤ d.power.within then
    { rsetF d 0x500 HB_PWRSTAT.THROT (k - 1) with power := { d.power with within := 0 } }
  else d

/-! ### Standby (R477) -/

/-- STANDBY: accepted only when nothing runs; the ledger is written, clusters, ways, VCORE and ports go off, the stacks refresh
themselves. -/
def standby (d : Dev) : Dev :=
  match d.hub.pwr with
  | some (3, _, _) =>
    if anyRunning d ∨ anyCopy d ∨ anyReduction d ∨ d.tractCmd.isSome ∨
        (List.range 24).any (fun k => rbit d (stkOff k 0x18) MS_STAT.RESTRIPE) then pwrEnds d 4
    else
      let saved := (List.range 15).map (fun w => rget d (0x800 + 8 * w))
      let d := ledgerWrite (ledgerAsk d .standby)
      let d := (List.range 832).foldl domDown d
      let d := (List.range 4).foldl (fun d q => (List.range 16).foldl (fun d w => wayDrained q w (wayDown q w d)) d) d
      let d := (List.range 4).foldl (fun d q => rsetF (updQ d q (fun u => { u with tlb := [], wcache := [] })) (vsetOff q) QT_VSET.TARGET 0) d
      let d := (List.range 24).foldl (fun d k => srEnter k d) d
      let d := (List.range 12).foldl (fun d p => updPort (darken d p 0) p (fun x => { x with probe := 0 })) d
      let d := pwrEnds d 0
      { d with hub := { d.hub with savedDom := some saved, standby := true } }
  | _ => d

/-! ### The meanings -/

/-- GROUP_UP. -/
def execGroupUp (s : State) : Out := s.upd groupUp
/-- GROUP_DOWN. -/
def execGroupDown (s : State) : Out := s.upd groupDown
/-- IDLE_POWER_DOWN. -/
def execIdlePowerDown (g : Nat) (s : State) : Out := s.upd (idleDown g)
/-- CLUSTER_WAKE. -/
def execClusterWake (cl : Nat) (s : State) : Out := s.upd (clusterWake cl)
/-- QUARTER_DORMANT_ENTRY. -/
def execQuarterDormantEntry (q : Nat) (s : State) : Out := s.upd (quarterSleep q)
/-- QUARTER_DORMANT_EXIT. -/
def execQuarterDormantExit (q : Nat) (s : State) : Out := s.upd (fun d => quarterWake d q)
/-- POWER_BUDGET_TICK. -/
def execPowerBudgetTick (other : Nat) (demand : List Nat) (s : State) : Out := s.upd (budgetTick other demand)
/-- QVID_STEP. -/
def execQvidStep (q : Nat) (s : State) : Out := s.upd (qvidStep q)
/-- CEILING_CHECK. -/
def execCeilingCheck (pkg other : Nat) (tj : List Nat) (s : State) : Out := s.upd (ceilingCheck pkg other tj)
/-- THROTTLE_STEP. -/
def execThrottleStep (s : State) : Out := s.upd throttleStep
/-- STANDBY. -/
def execStandby (s : State) : Out := s.upd standby
/-- CLUSTER_RESET_COMPLETE. -/
def execClusterResetComplete (cl : Nat) (s : State) : Out := s.upd (clusterResetComplete cl)

end Sys2Proof.Machine
end

