-- ==== Sys2Proof/Machine/Reset.lean ====
section
/-!
DEFINITION. Resets (spec/22 R479 to R482, spec/01 R14, R17): quarter, device, pin and power-on reset, and what survives each.
-/
namespace Sys2Proof.Machine

/-- A third fault is reported (spec/16 R361): the ledger's event log, and outside Levee mode the host. -/
def reportThird (d : Dev) (l c : Nat) (c0 c1 c2 : Nat) : Dev :=
  let site := (siteOfCl d l).getD 0x3FF
  let detail := c0 % 256 + c1 % 256 * 2 ^ 8 + c2 % 256 * 2 ^ 16 + c % 8 * 2 ^ 24
  let d := ledgerAsk (ledgerEvent d 2 0 site detail) .fault
  if lvState d = 2 ∨ lvState d = 3 then lvCause d 0 else sendLog d Config.thirdFaultLog detail

/-! ### Quarter reset (R481) -/

/-- Is a request inside the routers and bridges of a quarter: on its way to one of its stacks, or from one of its clusters? -/
def reqInside (d : Dev) (q : Nat) (r : Req) : Bool :=
  (r.stage == .toQuarter || r.stage == .toStack) &&
  ((match r.tgt with | .stack k _ => k / 6 == q | _ => false) || (decide (r.cl < 1023) && quarterOf d r.cl == q))

/-- The clusters of a quarter. -/
def quarterClusters (d : Dev) (q : Nat) : List Nat := (Tab.keys d.plat.siteOf).filter (fun l => quarterOf d l == q)

/-- A quarter enters reset (R481): requests inside it are discarded with status 5; its caches, TLB and fault records go unwritten; every
cluster is reset with its counters. -/
def quarterReset (q : Nat) (d : Dev) : Dev :=
  if 4 ≤ q then d
  else
    let d := d.reqs.foldl (fun d e => if reqInside d q e.2 then finishReq d e.1 5 0 else d) d
    let d := (quarterClusters d q).foldl (fun d l =>
      let sleepy := (getCl d l).dormant
      let d := orphanCluster (leaveAll d l) l
      let d := clusterFresh d l false
      updCl d l (fun k => { k with inReset := true, dormant := sleepy })) d
    let d := updQ d q (fun u => { u with qc := [], tlb := [], wcache := [], missq := [], walks := [], recs := [], recWait := [], held := true })
    let d := refreshBusy (refreshOpen { d with reqs := d.reqs.filter (fun e => match e.2.src with | .walk p _ => p != q | _ => true) }) q
    lvCause (rincSat d 0x608 HB_RSTSTAT.QRST) 1

/-- A quarter leaves reset: held requests proceed, and the event bits held reach its clusters (R481, R475). -/
def quarterRelease (q : Nat) (d : Dev) : Dev :=
  if !(getQ d q).held ∨ (getQ d q).vcoreHeld then d
  else
    let d := updQ d q (fun u => { u with held := false })
    (quarterClusters d q).foldl (fun d l =>
      if (getCl d l).dormant then updCl d l (fun k => { k with inReset := false })
      else giveHeld (updCl d l (fun k => { k with inReset := false })) l) d

/-- VCORE_UNDERVOLTAGE: a quarter's VCORE, in mV, is below 0.53 V (R14). -/
def vcoreLow (q mv : Nat) (d : Dev) : Dev :=
  if 530 ≤ mv ∨ 4 ≤ q ∨ (getQ d q).vcoreHeld then d else updQ (quarterReset q d) q (fun u => { u with vcoreHeld := true })

/-- VCORE_RECOVERED: VCORE has been at or above 0.55 V for 100 µs (R14). -/
def vcoreOk (q mv : Nat) (d : Dev) : Dev :=
  if mv < 550 ∨ !(getQ d q).vcoreHeld then d else quarterRelease q (updQ d q (fun u => { u with vcoreHeld := false }))

/-! ### Resets of device scope (R479, R482) -/

/-- The registers that a pin or device reset keeps: RD_COUNTER and HB_RSTSTAT. -/
def keptRegs (t : Tab Word) : Tab Word := t.filter (fun e => e.1 == rdOff 0 0x1000 || e.1 == 0x608)

/-- LEAVE put on the twin port's lanes, where it can be (R441). -/
def sayLeave (d : Dev) : Dev :=
  let p := d.plat.twinPort
  let m : Msg := { vc := 4, op := 9, src := d.plat.self, dst := d.plat.twinId, tag := 0, hops := 0, cls := 0, addr := 0, data := toBytes 1 1 }
  if paired d ∧ portUp d p ∧ 1 ≤ credits d p 4 (classOn d p m) then emit d p 4 ⟨0, some p, m⟩ else d

/-- What a pin or device reset keeps of the stacks (R482 note b): nothing where the clock was lost, else all but stacks whose restripe was
running. -/
def keptMem (d : Dev) (clockLost : Bool) : Tab Byte × Tab Nat :=
  let gone (k : Nat) : Bool := clockLost || (getStk d k).removing.isSome
  (d.mem.filter (fun e => !gone (e.1 / 0x10_0000_0000)), d.badMem.filter (fun e => !gone (64 * e.1 / 0x10_0000_0000)))

/-- A pin or device reset (R479, R482): boot follows. `fault`: DK_LASER.FAULT is kept. -/
def scopeReset (d : Dev) (cause : Nat) (laserFault clockLost : Bool) : Dev :=
  let d := sayLeave d
  let r := rincSat (rsetF d 0x608 HB_RSTSTAT.CAUSE cause) 0x608 HB_RSTSTAT.DEVRST
  let mem := keptMem d clockLost
  let wires := d.ports.map (fun e => (e.1, { Port.empty with wire := e.2.wire }))
  let n : Dev := { Dev.reset with
    regs := keptRegs r.regs
    mem := mem.1, badMem := mem.2, flash := d.flash, freeCtr := d.freeCtr
    ports := wires.foldl (fun t e => Tab.set Port.empty t e.1 e.2) []
    dyke := { Dyke.factory with owner := d.dyke.owner, pass := d.dyke.pass, platKeys := d.dyke.platKeys, anchor := d.dyke.anchor,
                                stamps := d.dyke.stamps, life := d.dyke.life, totPend := d.dyke.totPend }
    pins := { d.pins with thermTrip := false }
    holds := d.holds
    board := { d.board with i3cOff := 0, i3cOut := 0 } }
  if laserFault then
    (List.range 12).foldl (fun x p => if rbit d (laserOff p) DK_LASER.FAULT then
      setPortState (rsetB x (laserOff p) DK_LASER.FAULT true) p 6 else x) n
  else n

/-- A device reset with a cause (HB_RSTSTAT.CAUSE). -/
def deviceReset (d : Dev) (cause : Nat) : Dev := scopeReset d cause true false

/-- PIN_RESET. -/
def pinReset (d : Dev) : Dev := scopeReset d 1 false false

/-- POWER_ON_RESET: everything but flash, key storage and fuses (R482). -/
def powerOnReset (d : Dev) : Dev :=
  { Dev.reset with
    flash := d.flash, freeCtr := d.freeCtr, pins := { d.pins with thermTrip := false }
    dyke := { Dyke.factory with owner := d.dyke.owner, pass := d.dyke.pass, platKeys := d.dyke.platKeys, anchor := d.dyke.anchor } }

/-- REFERENCE_CLOCK_LOSS (R17): the stacks lose their contents, and the device is held in reset. -/
def clockLoss (d : Dev) : Dev :=
  if d.holds.contains .clock then d
  else
    let d := scopeReset d 2 true true
    { rsetB d 0x200 HB_CLKSTAT.REFLOST true with holds := d.holds ++ [.clock] }

/-- REFERENCE_CLOCK_RESTORED: the clock has run for 1 ms (R17). -/
def clockBack (d : Dev) : Dev :=
  if d.holds.contains .clock then { rsetB d 0x200 HB_CLKSTAT.REFOK true with holds := d.holds.filter (· != .clock) } else d

/-- THERMAL_TRIP: a sensor at 105 °C or more for 10 µs (R472, R492). -/
def thermalTrip (d : Dev) : Dev :=
  if d.holds.contains .thermal then d
  else
    let d := deviceReset d 3
    { d with holds := d.holds ++ [.thermal], pins := { d.pins with thermTrip := true } }

/-- THERMAL_TRIP_CLEAR: every sensor reads 85 °C or less (R472). -/
def thermalClear (d : Dev) : Dev :=
  if d.holds.contains .thermal then { d with holds := d.holds.filter (· != .thermal), pins := { d.pins with thermTrip := false } } else d

/-! ### The meanings -/

/-- QUARTER_RESET_RELEASE. -/
def execQuarterResetRelease (q : Nat) (s : State) : Out := s.upd (quarterRelease q)
/-- VCORE_UNDERVOLTAGE. -/
def execVcoreUndervoltage (q mv : Nat) (s : State) : Out := s.upd (vcoreLow q mv)
/-- VCORE_RECOVERED. -/
def execVcoreRecovered (q mv : Nat) (s : State) : Out := s.upd (vcoreOk q mv)
/-- PIN_RESET. -/
def execPinReset (s : State) : Out := s.upd pinReset
/-- POWER_ON_RESET. -/
def execPowerOnReset (s : State) : Out := s.upd powerOnReset
/-- REFERENCE_CLOCK_LOSS. -/
def execReferenceClockLoss (s : State) : Out := s.upd clockLoss
/-- REFERENCE_CLOCK_RESTORED. -/
def execReferenceClockRestored (s : State) : Out := s.upd clockBack
/-- THERMAL_TRIP. -/
def execThermalTrip (s : State) : Out := s.upd thermalTrip
/-- THERMAL_TRIP_CLEAR. -/
def execThermalTripClear (s : State) : Out := s.upd thermalClear

/-- QT_RATE_UPDATE: the replica's measurement (R15): rate in Mbeat/s, VCORE in mV, the hottest sensor in °C as 8 bits. -/
def rateUpdate (q rate mv tj : Nat) (d : Dev) : Dev :=
  let o := qOff q 0
  if 4 ≤ q then d
  else rset d o (setB (setF (setF (setF (rget d o) QT_RATE.RATE rate) QT_RATE.VCORE mv) QT_RATE.TJ tj) QT_RATE.VALID true)
/-- QT_RATE_UPDATE. -/
def execQtRateUpdate (q rate mv tj : Nat) (s : State) : Out := s.upd (rateUpdate q rate mv tj)

end Sys2Proof.Machine
end

