-- ==== Sys2Proof/Machine/Boot.lean ====
section
/-!
DEFINITION. Boot (spec/22 R486), firmware (R484, R485, R487), the application of a plat to a running device (spec/02 R49, R50).
-/
namespace Sys2Proof.Machine

/-! ### Firmware (R484, R485) -/

/-- Where a firmware bank begins (R483). -/
def bankAt (bank : Nat) : Nat := 0x20_0000 * (bank % 2)

/-- The check of a firmware bank: the code of its first failing step, 0 where it is valid (R485). -/
def fwCheck (d : Dev) (bank : Nat) : Nat :=
  let a := bankAt bank
  let h := fbytes d a 64
  let len := fieldAt h 0x0C 4
  let so := fieldAt h 0x10 4
  let k := fieldAt h 6 1
  let img := fbytes d a (min len 0x20_0000)
  let sig := sigsOk (Config.kilvavinKey k) img so
  if fieldAt h 0 4 ≠ 0x57464C4A ∨ fieldAt h 4 2 ≠ 1 then 1
  else if len ≠ so + 16608 ∨ 0x20_0000 < len ∨ so % 64 ≠ 0 ∨ fieldAt h 7 1 ≠ 0 ∨ !allZero (h.drop 0x18) then 2
  else if 4 ≤ k ∨ Config.keyRev.toNat.testBit k then 6
  else if fieldAt h 8 4 < d.dyke.led.fwFloor then 5
  else if !sig.1 then 3
  else if !sig.2 then 4
  else 0

/-- VERSION of a bank's image. -/
def fwVersion (d : Dev) (bank : Nat) : Nat := fieldAt (fbytes d (bankAt bank + 8) 4) 0 4

/-- The bank that runs: of the valid ones the higher version, bank A where they are equal (R485). -/
def fwPick (d : Dev) : Option Nat :=
  match fwCheck d 0, fwCheck d 1 with
  | 0, 0 => if fwVersion d 0 < fwVersion d 1 then some 1 else some 0
  | 0, _ => some 0
  | _, 0 => some 1
  | _, _ => none

/-- HB_BOOTSTAT.STAGE written. -/
def setStage (d : Dev) (n : Nat) : Dev := rsetF d 0x700 HB_BOOTSTAT.STAGE n

/-- Is the device in recovery (R485)? -/
def recovery (d : Dev) : Bool := rgetF d 0x700 HB_BOOTSTAT.STAGE == 0xF

/-- An operation on firmware that has ended. -/
def fwEnds (d : Dev) (res : Nat) : Dev :=
  let d := rset d 0x718 (setB (setF (rget d 0x718) HB_FWSTAT.RESULT res) HB_FWSTAT.BUSY false)
  { d with hub := { d.hub with fw := none } }

/-- Is a bank the one that runs? -/
def bankRuns (d : Dev) (bank : Nat) : Bool := !recovery d && rgetF d 0x700 HB_BOOTSTAT.BANK == bank

/-- The firmware operation that waits, where its OP is `op` and its bank does not run (R487). -/
def fwOp (d : Dev) (op : Nat) (go : Word → Nat → Dev) : Dev :=
  match d.hub.fw with
  | some w =>
    if getF w HB_FWCMD.OP ≠ op then d
    else if bankRuns d (getF w HB_FWCMD.BANK) then fwEnds d 2
    else go w (getF w HB_FWCMD.BANK)
  | none => d

/-- FW_ERASE. -/
def fwErase (d : Dev) : Dev := fwOp d 1 (fun _ b => fwEnds (ferase d (bankAt b) 0x20_0000) 0)

/-- FW_WRITE: HB_PLATLEN bytes of HB_PLATBUF programmed at OFFSET; it fails where the flash does not read back equal (R487). -/
def fwWrite (d : Dev) : Dev :=
  fwOp d 2 (fun w b =>
    let bs := stageImage d
    let o := getF w HB_FWCMD.OFFSET
    if bs = [] then fwEnds d 0
    else if o % 256 ≠ 0 ∨ 0x20_0000 < o + bs.length then fwEnds d 3
    else
      let n := fprog d (bankAt b + o) bs
      fwEnds n (if fbytes n (bankAt b + o) bs.length = bs then 0 else 4))

/-- FW_COMMIT: the bank is checked; FLOOR raises the ledger's floor (R487). -/
def fwCommit (d : Dev) : Dev :=
  fwOp d 3 (fun w b =>
    match fwCheck d b with
    | 0 =>
      let v := fwVersion d b
      let d := if getF w HB_FWCMD.FLOOR = 1 ∧ d.dyke.led.fwFloor < v then ledgerAsk (updLed d (fun r => { r with fwFloor := v })) .floor else d
      fwEnds d 0
    | c => fwEnds d (0x10 + c))

/-! ### What boot brings up -/

/-- DK_STAT's view of key storage (R466). -/
def showKeys (d : Dev) : Dev :=
  let o := dkOff 0
  rset d o (setF (setB (setB (rget d o) DK_STAT.OWNED d.dyke.owner.isSome) DK_STAT.PASSSET d.dyke.pass.isSome) DK_STAT.PLATKEYS
    (maskOf 4 (fun k => (Tab.find? d.dyke.platKeys k).isSome)))

/-- Stack training (R342): the channels that fail, and those the ledger records, are mapped out; a new map-out is recorded and costs the
stack its contents (R482 note b). -/
def trainStack (d : Dev) (k fail : Nat) : Dev :=
  let led := Tab.get 0 d.dyke.led.chanmap k
  let fail := fail % 65536
  let fresh := maskOf 16 (fun c => fail.testBit c && !led.testBit c)
  let out := led ||| fail
  let cs := filterUpto 16 (fun c => !out.testBit c)
  let o := stkOff k 8
  let d := rset d o (setF (setF (rget d o) MS_CHAN.INSVC (ones 16 ^^^ (out % 65536))) MS_CHAN.TRAINFAIL fail)
  let d := rsetF d (stkOff k 0) MS_LEN.LEN (cs.length * chanLen)
  if fresh = 0 then d
  else (List.range 16).foldl (fun d c => if fresh.testBit c then recordMapout d k c else d) (dropAbove d k 0)

/-- Is a domain powered at load (R44, spec/02 POWER)? -/
def initOn (d : Dev) (n : Nat) : Bool :=
  let g := groupOf d n
  let by' : Bool := decide (64 ≤ g) || groupInit d g == 0
  if n < 832 then (logicalOf d n).isSome && by'
  else if n < 896 then by' && !(Tab.get 0 d.dyke.led.wayoff ((n - 832) / 16)).testBit ((n - 832) % 16)
  else if 920 ≤ n ∧ n < 932 then portRole d (n - 920) != 0
  else by'

/-- Every domain brought to its state at load (R478). -/
def powerInit (d : Dev) : Dev :=
  (List.range 940).foldl (fun d n => if initOn d n then domUp d n else domDown d n) d

/-- The probe starts on every port whose role is not dark (R397, R486 step 5); the SerDes PLLs are locked (HB_CLKSTAT.SERLOCK, spec/01:
how long they take is not modelled). -/
def startPorts (d : Dev) : Dev := (List.range 12).foldl startProbe (rsetB d 0x200 HB_CLKSTAT.SERLOCK true)

/-- A device without a plat (R33): port 10 in the landing role, the stacks trained, no cluster and no window. -/
def platless (d : Dev) : Dev :=
  let d := { d with plat := { Plat.none with roles := (List.range 12).map (fun p => if p = 10 then 3 else 0) } }
  let d := rsetB (rsetF d (portOff 10 0) SL_PSTAT.ROLE 3) 0x310 HB_PLATSTAT.PLATLESS true
  (List.range 24).foldl (fun d k => domSet d (domStack k) true)
    ((List.range 8).foldl (fun d i => domSet d (932 + i) true) (domSet d (domPort 10) true))

/-- Steps 4 to 7 for a device with a plat (R486). -/
def bringUp (d : Dev) (fails : List Nat) : Dev :=
  let d := (List.range 24).foldl (fun d k => trainStack d k (fails.getD k 0)) d
  let d := rsetB d 0x200 HB_CLKSTAT.MEMLOCK true
  powerInit (startPorts d)

/-- The plat that boot applies (R32): that of the selected slot, else the other's. -/
def bootPlat (d : Dev) : Dev :=
  let s := d.dyke.led.select % 2
  let v1 := platVerify d (slotImage d s) none
  let apply (d : Dev) (slot : Nat) (fb : Bool) : Dev :=
    let d := platLoad (platResult d (0, 0)) (slotImage d slot)
    let d := rset d 0x310 (setB (setF (rget d 0x310) HB_PLATSTAT.ACTIVE_SLOT slot) HB_PLATSTAT.FALLBACK fb)
    (Tab.keys d.plat.siteOf).foldl (fun d l => clusterFresh d l true) d
  if v1.1.1 = 0 then apply v1.2 s false
  else
    let v2 := platVerify v1.2 (slotImage d (1 - s)) none
    if v2.1.1 = 0 then apply v2.2 (1 - s) true else platless (platResult v2.2 v2.1)

/-- BOOT (R486): once nothing holds the device in reset. `fails`: the channels of each stack that fail training. -/
def boot (fails : List Nat) (d : Dev) : Dev :=
  if d.holds ≠ [] ∨ d.booted then d
  else
    let d := rsetB { d with booted := true } 0x200 HB_CLKSTAT.REFOK true
    let d := readLedger d
    let d := showKeys (showLedger (ledgerAsk (updLed d (fun r => { r with boots := (r.boots + 1) % 2 ^ 32 })) .boot))
    let o := 0x700
    let d := rset d o (setF (setF (rget d o) HB_BOOTSTAT.ERRA (fwCheck d 0)) HB_BOOTSTAT.ERRB (fwCheck d 1))
    match fwPick d with
    | none =>
      let d := setStage (platless d) 0xF
      let d := (List.range 24).foldl (fun d k => trainStack d k (fails.getD k 0)) d
      startPorts (rsetB d 0x200 HB_CLKSTAT.MEMLOCK true)
    | some b =>
      let d := rset d o (setF (setF (rget d o) HB_BOOTSTAT.BANK b) HB_BOOTSTAT.VERSION (fwVersion d b))
      let d := bootPlat d
      if d.plat.loaded then setStage (bringUp d fails) 8
      else
        let d := (List.range 24).foldl (fun d k => trainStack d k (fails.getD k 0)) d
        setStage (startPorts (rsetB d 0x200 HB_CLKSTAT.MEMLOCK true)) 5

/-- WAKE (R477): boot steps 4 to 7 without verification, and the domain states from before Standby. The pair forms again. -/
def wake (fails : List Nat) (d : Dev) : Dev :=
  match d.hub.pwr, d.hub.savedDom with
  | some (4, _, _), some saved =>
    let d := { d with hub := { d.hub with standby := false } }
    let d := (List.range 24).foldl (fun d k => srExit k (rgetF d (stkOff k 0x18) MS_STAT.TEMP) 0 d) d
    let d := (List.range 24).foldl (fun d k => trainStack d k (fails.getD k 0)) d
    let d := (List.range 4).foldl vTarget d
    let d := startPorts d
    let d := (List.range 940).foldl (fun d n =>
      if (saved.getD (n / 64) 0).toNat.testBit (n % 64) then domUp d n else domDown d n) d
    let d := if d.plat.levee then setLv (setFace d false) 1 else d
    let d := pwrEnds d 0
    { d with hub := { d.hub with savedDom := none } }
  | some (4, _, _), none => pwrEnds d 0
  | _, _ => d

/-! ### Re-plat (spec/02 R49, R50) -/

/-- The route bytes that name a port. -/
def routesVia (p : Plat) (port : Nat) : List (Nat × Nat) :=
  ((List.range p.routes.length).zip p.routes).filterMap (fun e =>
    if e.2.toNat % 16 = port ∨ e.2.toNat / 16 = port then some (e.1, e.2.toNat) else none)

/-- The window of a tract, as its four words. -/
def tractWin (d : Dev) (t : Nat) : List Word :=
  match winOf d (t * tractLen) with | some i => (List.range 4).map (winWord d i) | none => []

/-- The new plat applied (R49 step 5, R50). -/
def replatApply (d : Dev) (r : Replat) : Dev :=
  let old := d.plat
  let olds := Tab.keys old.siteOf
  let wins := d.tracts.map (fun e => (e.1, tractWin d e.1))
  let d := { d with reqs := [], events := [] }
  let d := olds.foldl (fun d l => (getCl d l).cc.foldl (fun d e => cleanLineNow d l e.2) d) d
  let d := (List.range 4).foldl (fun d q => (getQ d q).qc.foldl (fun d e => qcCleanLine d e.2) d) d
  let d := (List.range 4).foldl (fun d q => refreshBusy (updQ d q (fun u => { u with
    qc := [], tlb := [], wcache := [], missq := [], walks := [], recWait := [],
    recs := u.recs.map (fun e => (e.1, { e.2 with waiters := 0 })) })) q) d
  let d := olds.foldl (fun d l => rreset (setCl d l Cluster.empty) (clRegP l true)) d
  let d := (List.range 4).foldl (fun d n => stepEnd d n 1) d
  let d := showBuf { d with bkts := [], store := [], wfdPend := [] }
  let d := platLoad (platResult d (0, 0)) r.img
  let d := rset d 0x310 (setB (setF (rget d 0x310) HB_PLATSTAT.ACTIVE_SLOT (if r.staged then 0 else r.slot)) HB_PLATSTAT.FALLBACK false)
  let d := { d with tracts := d.tracts.filter (fun e => wins.contains (e.1, tractWin d e.1)) }
  let d := (Tab.keys d.plat.siteOf).foldl (fun d l => clusterFresh d l true) d
  let keep : Bool := old.roles.getD 10 0 == 3 && portRole d 10 == 3
  let asked : Bool := d.rings.any (fun e => e.2.cmds.any (fun c => c.began && fieldAt c.bytes 0 1 == 6))
  let d := if keep then d
    else if asked ∧ sessOpen d then { d with rings := d.rings.map (fun e => (e.1, { e.2 with
      cmds := e.2.cmds.map (fun c => if c.began ∧ fieldAt c.bytes 0 1 = 6 then { c with chosen := 1 } else c) })) }
    else endSession d (some 4)
  let d := (List.range 12).foldl (fun d p =>
    if portRole d p = 0 then (if old.roles.getD p 0 = 0 then d else updPort (darken d p 0) p (fun x => { x with probe := 0 }))
    else if old.roles.getD p 0 = 0 then startProbe d p
    else if old.roles.getD p 0 ≠ portRole d p ∨ routesVia old p ≠ routesVia d.plat p then linkReset p d
    else d) d
  let d := powerInit d
  let raise : Bool := (fieldAt r.img 6 2).testBit 0
  let d := updLed d (fun x => { x with
    select := r.slot, platFloor := if raise then max x.platFloor (fieldAt r.img 0x10 8) else x.platFloor })
  let d := if recovery d then d else setStage d 8
  ledgerAsk { d with replat := none } .plat

/-- REPLAT_QUIESCED: outstanding requests and copies have completed (R49 steps 4 and 5). -/
def replatQuiesced (d : Dev) : Dev :=
  match d.replat with
  | some r => if d.reqs.all (fun e => e.2.stage == .done) ∧ !anyCopy d then replatApply d r else d
  | none => d

/-- The outstanding requests abandoned: each write to a stack has reached it in whole or not at all, which of them is free (R50). -/
def abandonReqs (d : Dev) : Dev :=
  d.reqs.foldl (fun d e =>
    match e.2.kind, e.2.tgt with
    | .write, .stack k off =>
      if e.2.stage = .done then d
      else let p := d.choose 2; if p.1 = 0 then p.2 else writeAtStack p.2 e.2 k off
    | _, _ => d) d

/-- REPLAT_QUIESCE_TIMEOUT: the remaining requests are abandoned (R49 step 4). -/
def replatTimeout (d : Dev) : Dev := match d.replat with | some r => replatApply (abandonReqs d) r | none => d

/-- A command written to HB_PLATCMD, or given by the REPLAT ring command (R49): copied, verified, stored; a plat that passes then waits for
the quiesce. -/
def platCmd (d : Dev) (op slot : Nat) : Dev :=
  if op % 4 = 0 then d
  else if rbit d 0x310 HB_PLATSTAT.BUSY ∨ rbit d 0x718 HB_FWSTAT.BUSY then rsetB d 0x310 HB_PLATSTAT.CMDLOST true
  else if recovery d then d
  else
    let staged : Bool := op % 4 != 3
    let len := rgetF d 0x308 HB_PLATLEN.LEN
    if staged ∧ len = 0 then platResult d (0x0B, 0)
    else
      let img := if staged then stageImage d else slotImage d slot
      let v := platVerify d img (if staged then some len else none)
      let r := v.1
      let d := platResult v.2 r
      if r.1 ≠ 0 ∨ op % 4 = 1 then d
      else
        let into := if staged then 1 - d.dyke.led.select % 2 else slot
        let d := if staged then fprog (ferase d (0x40_0000 + 0x4_0000 * into) 0x4_0000) (0x40_0000 + 0x4_0000 * into) img else d
        { rsetB d 0x310 HB_PLATSTAT.BUSY true with replat := some ⟨img, into, staged⟩ }

/-! ### The meanings -/

/-- BOOT. -/
def execBoot (fails : List Nat) (s : State) : Out := s.upd (boot fails)
/-- WAKE. -/
def execWake (fails : List Nat) (s : State) : Out := s.upd (wake fails)
/-- FW_ERASE. -/
def execFwErase (s : State) : Out := s.upd fwErase
/-- FW_WRITE. -/
def execFwWrite (s : State) : Out := s.upd fwWrite
/-- FW_COMMIT. -/
def execFwCommit (s : State) : Out := s.upd fwCommit
/-- REPLAT_QUIESCED. -/
def execReplatQuiesced (s : State) : Out := s.upd replatQuiesced
/-- REPLAT_QUIESCE_TIMEOUT. -/
def execReplatQuiesceTimeout (s : State) : Out := s.upd replatTimeout

end Sys2Proof.Machine
end

