-- ==== Sys2Proof/Machine/Lcmd.lean ====
section
/-!
DEFINITION. Commands to the Dykereeve (spec/21 R467): their check, and the step of each.
-/
namespace Sys2Proof.Machine

/-- Bytes of a buffer of registers at a window offset. -/
def regBytes (d : Dev) (o n : Nat) : List Byte :=
  ((List.range (ceilDiv n 8)).map (fun i => toBytes 8 (rget d (o + 8 * i)).toNat)).flatten.take n

/-- HB_LMAC. -/
def lmac (d : Dev) : List Byte := regBytes d 0x440 48
/-- The first `n` bytes of HB_KEYBUF. -/
def keybuf (d : Dev) (n : Nat) : List Byte := regBytes d 0x1000 n

/-- The session counter as 8 bytes. -/
def scBytes (d : Dev) : List Byte := toBytes 8 d.dyke.led.sessCtr

/-- The buffer's first 32 bytes, unmaskKey with the session's key (R467). -/
def unmaskKey (d : Dev) : List Byte :=
  List.zipWith (fun a b => a ^^^ b) (keybuf d 32) ((Config.hmac384 d.sess.key (toBytes 1 0x57 ++ sessUid d ++ scBytes d)).take 32)

/-- HB_LSTAT.BUSY clears with a RESULT. -/
def lcmdEnds (d : Dev) (res : Nat) : Dev :=
  updDk (rset d 0x408 (setB (setF (rget d 0x408) HB_LSTAT.RESULT res) HB_LSTAT.BUSY false)) (fun k => { k with lcmd := none })

/-- A mismatch counted in F (R406). -/
def countFail (d : Dev) : Dev :=
  showLedger (ledgerAsk (updLed d (fun r => { r with fails := min 0xFFFF (r.fails + 1) })) .fails)

/-- Arguments of a command: 4 where they are bad, 3 where the session's key may not give it (R467). -/
def lcmdArgs (d : Dev) (w : Word) : Nat :=
  let a0 := getF w HB_LCMD.ARG0
  let a1 := getF w HB_LCMD.ARG1
  let len := getF w HB_LCMD.LEN
  let second := rbit d (landOff 0) HB_SESSTAT.KEYSEL
  match getF w HB_LCMD.OP with
  | 1 => if a1 < 832 then 0 else 4
  | 2 => if a0 < 24 ∧ a1 < 16 then 0 else 4
  | 3 => if len = 32 then 0 else 4
  | 4 => if second then 3 else
      let n := fieldAt (keybuf d 36) 32 4
      if len = 36 ∧ 1000 ≤ n ∧ n ≤ 16777216 then 0 else 4
  | 5 => if second then 3 else if len = 432 ∧ a0 < 4 then 0 else 4
  | 6 => if second then 3 else if a0 < 4 then 0 else 4
  | 7 => if a0 < 4 ∧ a1 < 16 then 0 else 4
  | _ => 4

/-- A command written to HB_LCMD: checked, and refused or left for its step (R467). -/
def lcmdGo (w : Word) (d : Dev) : Dev :=
  let len := getF w HB_LCMD.LEN
  let claim : Bool := getF w HB_LCMD.OP == 3 && d.dyke.owner.isNone
  let mac := Config.hmac384 d.sess.key (toBytes 1 0x43 ++ sessUid d ++ scBytes d ++ toBytes 8 w.toNat ++ keybuf d len)
  if recovery d then d
  else if !claim ∧ d.dyke.owner.isNone then lcmdEnds d 6
  else if !claim ∧ !sessOpen d then lcmdEnds d 1
  else if 1024 < len then lcmdEnds d 4
  else if !claim ∧ mac ≠ lmac d then lcmdEnds (countFail d) 2
  else match lcmdArgs d w with
    | 0 => updDk (rsetB d 0x408 HB_LSTAT.BUSY true) (fun k => { k with lcmd := some (w.toNat, 0) })
    | e => lcmdEnds d e

/-- The command that waits for its step, where its OP is `op`: performed, it waits for its ledger record. -/
def lcmdStep (op : Nat) (f : Word → Dev → Dev) (d : Dev) : Dev :=
  match d.dyke.lcmd with
  | some (n, 0) =>
    let w : Word := BitVec.ofNat 64 n
    if getF w HB_LCMD.OP ≠ op then d
    else showKeys (showLedger (ledgerAsk (updDk (f w d) (fun k => { k with lcmd := some (n, 1) })) .lcmd))
  | _ => d

/-- CLEARSITE: the site leaves the retired list. -/
def clearSite (w : Word) (d : Dev) : Dev :=
  let site := getF w HB_LCMD.ARG1
  let cls := match d.dyke.led.retired.find? (fun e => e % 1024 == site) with | some e => e / 1024 | none => 0
  ledgerEvent (updLed d (fun r => { r with retired := r.retired.filter (fun e => e % 1024 != site) })) 3 cls site 0

/-- CLEARCHAN: the channel's bit in CHANMAP. -/
def clearChan (w : Word) (d : Dev) : Dev :=
  let k := getF w HB_LCMD.ARG0
  let c := getF w HB_LCMD.ARG1
  ledgerEvent (updLed d (fun r => { r with chanmap := Tab.set 0 r.chanmap k (clrBit (Tab.get 0 r.chanmap k) c) })) 4 3 (16 * k + c) 0

/-- SETOWNER: the owner secret set, the passphrase key emptied, F cleared. -/
def setOwner (_ : Word) (d : Dev) : Dev :=
  let key := if d.dyke.owner.isNone then keybuf d 32 else unmaskKey d
  ledgerEvent (updLed (updDk d (fun k => { k with owner := some key, pass := none })) (fun r => { r with fails := 0 })) 5 0 0 0

/-- SETPASS: the passphrase key and its iteration count. -/
def setPass (_ : Word) (d : Dev) : Dev :=
  ledgerEvent (updDk d (fun k => { k with pass := some (unmaskKey d, fieldAt (keybuf d 36) 32 4) })) 5 0 1 0

/-- SETPLATKEY: a plat key slot. -/
def setPlatKey (w : Word) (d : Dev) : Dev :=
  ledgerEvent (updDk d (fun k => { k with platKeys := Tab.insert k.platKeys (getF w HB_LCMD.ARG0) (keybuf d 432) })) 6 0 (getF w HB_LCMD.ARG0) 0

/-- CLEARPLATKEY: a plat key slot emptied. -/
def clearPlatKey (w : Word) (d : Dev) : Dev :=
  ledgerEvent (updDk d (fun k => { k with platKeys := Tab.erase k.platKeys (getF w HB_LCMD.ARG0) })) 6 0 (getF w HB_LCMD.ARG0) 0

/-- CLEARWAY: the way's bit in WAYOFF. -/
def clearWay (w : Word) (d : Dev) : Dev :=
  let q := getF w HB_LCMD.ARG0
  updLed d (fun r => { r with wayoff := Tab.set 0 r.wayoff q (clrBit (Tab.get 0 r.wayoff q) (getF w HB_LCMD.ARG1)) })

/-- CLEARSITE. -/
def execClearsite (s : State) : Out := s.upd (lcmdStep 1 clearSite)
/-- CLEARCHAN. -/
def execClearchan (s : State) : Out := s.upd (lcmdStep 2 clearChan)
/-- SETOWNER. -/
def execSetowner (s : State) : Out := s.upd (lcmdStep 3 setOwner)
/-- SETPASS. -/
def execSetpass (s : State) : Out := s.upd (lcmdStep 4 setPass)
/-- SETPLATKEY. -/
def execSetplatkey (s : State) : Out := s.upd (lcmdStep 5 setPlatKey)
/-- CLEARPLATKEY. -/
def execClearplatkey (s : State) : Out := s.upd (lcmdStep 6 clearPlatKey)
/-- CLEARWAY. -/
def execClearway (s : State) : Out := s.upd (lcmdStep 7 clearWay)

end Sys2Proof.Machine
end

