-- ==== Sys2Proof/Machine/Mgmt.lean ====
section
/-!
DEFINITION. Management writes as a whole (spec/01 R23 to R31): a register by its access codes, and the commands that registers with a
command field start.
-/
namespace Sys2Proof.Machine

/-- A write to HB_PWRCMD (R477, R478): Wake from the board controller only; the others from anyone but it. -/
def pwrCmd (d : Dev) (ag : Agent) (w : Word) : Dev :=
  let op := getF w HB_PWRCMD.OP
  let start : Dev := rsetB { d with hub := { d.hub with pwr := some (op, getF w HB_PWRCMD.GROUP, ag == .board) } } 0x500 HB_PWRSTAT.BUSY true
  match op with
  | 4 => if ag = .board then start else pwrEnds d 5
  | 1 => start
  | 2 => start
  | 3 => start
  | _ => d

/-- A write to HB_RSTCMD (R479 to R481). -/
def rstCmd (d : Dev) (w : Word) : Dev :=
  match getF w HB_RSTCMD.OP with
  | 1 => deviceReset d 5
  | 2 => quarterReset (getF w HB_RSTCMD.QUARTER) d
  | 3 =>
    let l := getF w HB_RSTCMD.CLUSTER
    if (siteOfCl d l).isSome then clusterReset d l else d
  | _ => d

/-- A write to HB_FWCMD (R487). -/
def fwCmd (d : Dev) (w : Word) : Dev :=
  if !sessOpen d then fwEnds d 1
  else rsetB { d with hub := { d.hub with fw := some w } } 0x718 HB_FWSTAT.BUSY true

/-- Hub registers with a command field. -/
def hubApply (d : Dev) (ag : Agent) (m : RegMap) (o : Nat) (mask v : Word) : Dev :=
  let lostIf (b : Bool) (r : Nat) (f : Fld) : Option Dev := if b then some (rsetB d r f true) else none
  let fwBusy := rbit d 0x718 HB_FWSTAT.BUSY
  let plBusy := rbit d 0x310 HB_PLATSTAT.BUSY
  if o = 0x300 then onCmd d m o HB_PLATCMD.OP mask v (lostIf (plBusy || fwBusy) 0x310 HB_PLATSTAT.CMDLOST)
    (fun w d => platCmd d (getF w HB_PLATCMD.OP) (getF w HB_PLATCMD.SLOT))
  else if o = 0x400 then onCmd d m o HB_LCMD.OP mask v (lostIf (rbit d 0x408 HB_LSTAT.BUSY) 0x408 HB_LSTAT.CMDLOST) lcmdGo
  else if o = 0x508 then onCmd d m o HB_PWRCMD.OP mask v (lostIf (rbit d 0x500 HB_PWRSTAT.BUSY) 0x500 HB_PWRSTAT.CMDLOST)
    (fun w d => if recovery d then d else pwrCmd d ag w)
  else if o = 0x600 then onCmd d m o HB_RSTCMD.OP mask v none (fun w d => if recovery d then d else rstCmd d w)
  else if o = 0x710 then onCmd d m o HB_FWCMD.OP mask v (lostIf (plBusy || fwBusy) 0x718 HB_FWSTAT.CMDLOST) (fun w d => fwCmd d w)
  else regWrite d m o mask v

/-- Surveyor registers with a command field. -/
def suApply (d : Dev) (m : RegMap) (r o : Nat) (mask v : Word) : Dev :=
  if r = 0x1020 then
    (let d := regWrite d { m with fs := m.fs.filter (fun x => x.acc != .wo) } o mask v
     if isSet (v &&& mask) SU_TRACTCTL.GO then suTractGo d else d)
  else if r = 0x1108 then onCmd d m o SU_LVCTL.REJOIN mask v none (fun _ d => rejoinGo d)
  else if r = 0x1120 then onCmd d m o SU_LVDIGCTL.GO mask v none (fun _ d => digestGo d)
  else regWrite d m o mask v

/-- Landing registers: HB_SESSCTL and the rings (R407, R408). -/
def landApply (d : Dev) (m : RegMap) (r o : Nat) (mask v : Word) : Dev :=
  if r = 0x8 then onCmd d m o HB_SESSCTL.CLOSE mask v none (fun _ d => if sessOpen d then endSession d (some 3) else d)
  else if 0x1000 ≤ r ∧ r < 0x1400 then
    let n := (r - 0x1000) / 0x40
    match r % 0x40 with
    | 0x10 => ringCtl d n (m.writeVal mask v (rget d o))
    | 0x18 =>
      let w := m.writeVal mask v (rget d o)
      let d := if mask &&& RING_PTR.SQTAIL.mask = 0 then d else ringPtr d n 0 (getF w RING_PTR.SQTAIL)
      if mask &&& RING_PTR.CQHEAD.mask = 0 then d else ringPtr d n 1 (getF w RING_PTR.CQHEAD)
    | _ => if rbit d (ringOff n 0x10) RING_CTL.EN then d else regWrite d m o mask v
  else regWrite d m o mask v

/-- Quarter registers: walker format, invalidation, answers to fault records (R326, R327, R332). -/
def quarterApply (d : Dev) (m : RegMap) (r o : Nat) (mask v : Word) : Dev :=
  if 0x1000 ≤ r ∧ r < 0x10C0 then wfdWrite d o mask v
  else if r = 0x1100 then onCmd d m o TR_INV.OP mask v (if rbit d invStat TR_INVSTAT.BUSY then some (rsetB d invStat TR_INVSTAT.CMDLOST true) else none)
    (fun w d => trInv (getF w TR_INV.OP) (getF w TR_INV.ASID) d)
  else if r = 0x1180 then onCmd d m o TR_RESUME.ACTION mask v none
    (fun w d => trResume (getF w TR_RESUME.TAG) (getF w TR_RESUME.ACTION) d)
  else regWrite d m o mask v

/-- The logical cluster whose registers a block holds. -/
def blkCluster (d : Dev) : Blk → Option Nat
  | .cluster l => some l
  | .site p => logicalOf d p
  | _ => none

/-- A register written by an agent, as its map lets that agent write it, with the command it starts. -/
def mgmtApply (d : Dev) (ag : Agent) (m : RegMap) (b : Blk) (r o : Nat) (mask v : Word) : Dev :=
  let c := canonOff d o
  match b with
  | .hub => hubApply d ag m o mask v
  | .su => suApply d m r o mask v
  | .rd => if r < 0x400 then rdWrite d m (r / 0x100) (r % 0x100) mask v else regWrite d m o mask v
  | .land => landApply d m r o mask v
  | .quarter _ => quarterApply d m r c mask v
  | .stack k =>
    if r = 0x10 then
      let d := regWrite d { m with fs := m.fs.filter (fun x => x.acc != .wo) } o mask v
      onCmd d { m with fs := m.fs.filter (fun x => x.acc == .wo) } o MS_CTL.MAPOUT mask v none (fun w d => mapOut d k (getF w MS_CTL.CHAN))
    else regWrite d m o mask v
  | .port p =>
    if r = 0x8 then
      let d := regWrite d { m with fs := m.fs.filter (fun x => x.acc != .wo) } o mask v
      onCmd d { m with fs := m.fs.filter (fun x => x.acc == .wo) } o SL_PCTL.RESET mask v none (fun _ d => linkReset p d)
    else
      let d := regWrite d m o mask v
      if r = 0x1000 ∧ rgetF d c SL_RSPTMO.UNITS = 0 then rsetF d c SL_RSPTMO.UNITS 0x1000 else d
  | _ =>
    match blkCluster d b with
    | some l =>
      if r = 0x60 then startMask d l (v &&& mask).toNat
      else if r = 0x68 then stopMask d l (v &&& mask).toNat
      else regWrite d m o mask v
    | none => regWrite d m o mask v

/-- A management write by an agent: false where the issuer gets an error (R25). -/
def mgmtWrite (d : Dev) (ag : Agent) (o n : Nat) (v : Word) : Bool × Dev :=
  match mgmtCheck d ag o n v with
  | .err d => (false, d)
  | .ignored d => (true, d)
  | .buf d => (true, d)
  | .reg m b r mask v => (true, mgmtApply d ag m b r (o / 8 * 8) mask v)

/-- What a cluster's own write to HB_RSTCMD leaves of the step that wrote it (R479 to R481): nothing of the cluster's, whose reset has
taken effect. -/
def settleReset (d0 d : Dev) (l : Nat) : Dev :=
  if d0.booted ∧ !d.booted then rreset { d with cl := [] } (clRegP l false)
  else if !(getCl d0 l).inReset ∧ (getCl d l).inReset then updCl (clusterFresh d l true) l (fun k => { k with inReset := true })
  else d

end Sys2Proof.Machine
end

