-- ==== Sys2Proof/Machine/Board.lean ====
section
/-!
DEFINITION. The board's interfaces (spec/23): the I3C target (R495) and the scan port (R496).
-/
namespace Sys2Proof.Machine

/-! ### I3C (R495) -/

/-- Offsets whose registers an I3C read returns: hub 0x500 to 0x71F and the DK_ range. -/
def i3cServed (o : Nat) : Bool :=
  match blkOf o with
  | (.hub, r) => decide (0x500 ≤ r ∧ r < 0x720)
  | (.dk, _) => true
  | _ => false

/-- What an I3C read returns: the register at the offset that was set, or zero. HB_MMERR is never set. -/
def i3cValue (d : Dev) : Word :=
  let o := d.board.i3cOff
  if o % 8 = 0 ∧ i3cServed o then
    match regMapOf (blkOf o).1 (blkOf o).2 with
    | some m => m.readVal (regView d (canonOff d o))
    | none => 0
  else 0

/-- I3C_SET_OFFSET: a private write of four bytes. -/
def i3cSet (off : Nat) (d : Dev) : Dev := { d with board := { d.board with i3cOff := off % 2 ^ 32 } }
/-- I3C_READ: a private read of eight bytes. -/
def i3cRead (d : Dev) : Dev := { d with board := { d.board with i3cOut := i3cValue d } }
/-- I3C_WRITE: a private write of twelve bytes acts at HB_PWRCMD only, as the board controller. -/
def i3cWrite (off : Nat) (v : Word) (d : Dev) : Dev :=
  if off % 2 ^ 32 = 0x508 then (mgmtWrite d .board 0x508 8 v).2 else d

/-! ### Scan port (R496) -/

/-- A scan instruction selected, with what it shifts out. EXTEST and HIGHZ darken every optical engine; when they are left the ports
probe again. -/
def scanSelect (ir : ScanIr) (out : Nat) (d : Dev) : Dev :=
  let was := scanDark d
  let d := { d with board := { d.board with ir := ir, tdo := out } }
  if scanDark d ∧ !was then
    (List.range 12).foldl (fun d p =>
      if portState d p = 6 then setLit d p false else updPort (darken d p 0) p (fun x => { x with probe := 0 })) d
  else if was ∧ !scanDark d ∧ d.booted then (List.range 12).foldl (fun d p => if portState d p = 0 then startProbe d p else d) d
  else d

/-- Values shifted into the boundary register. -/
def scanLoad (v : List Byte) (d : Dev) : Dev := { d with board := { d.board with boundary := ofBytes v } }

/-! ### The meanings -/

/-- I3C_SET_OFFSET. -/
def execI3cSetOffset (off : Nat) (s : State) : Out := s.upd (i3cSet off)
/-- I3C_READ. -/
def execI3cRead (s : State) : Out := s.upd i3cRead
/-- I3C_WRITE. -/
def execI3cWrite (off : Nat) (v : Word) (s : State) : Out := s.upd (i3cWrite off v)
/-- BYPASS: the one-bit bypass register, which captures 0. -/
def execBypass (s : State) : Out := s.upd (scanSelect .bypass 0)
/-- IDCODE. -/
def execIdcode (s : State) : Out := s.upd (scanSelect .idcode 0x1802_46B7)
/-- SAMPLE_PRELOAD: the signal lands sampled; the boundary register loaded. -/
def execSamplePreload (pins v : Bytes) (s : State) : Out := s.upd (fun d => scanLoad v (scanSelect .sample (ofBytes pins) d))
/-- EXTEST: the boundary register drives the output lands; the lands sampled; the next values loaded. -/
def execExtest (pins v : Bytes) (s : State) : Out := s.upd (fun d => scanLoad v (scanSelect .extest (ofBytes pins) d))
/-- CLAMP: the boundary register drives the output lands, through the bypass register. -/
def execClamp (s : State) : Out := s.upd (scanSelect .clamp 0)
/-- HIGHZ: the output lands are released. -/
def execHighz (s : State) : Out := s.upd (scanSelect .highz 0)

end Sys2Proof.Machine
end

