-- ==== Sys2Proof/Machine/VDecode.lean ====
section
/-!
DEFINITION. V and X syllables: their fields, which are legal, what each reads and writes (spec/08 R187 to R194, R201,
R202, spec/09 R215 to R218, spec/05 R116, R136, R507, spec/10 R238, R239, R253, R254, R256, spec/11 R272, spec/07
R164, R179).
-/
namespace Sys2Proof.Machine

/-! ### CL_VCFG -/

/-- SEW in bits. -/
def cfgSew (w : Word) : Nat := 8 <<< getF w CL_VCFG.SEW
/-- SPAN in registers. -/
def cfgSpan (w : Word) : Nat := 1 <<< getF w CL_VCFG.SPAN
/-- VL. -/
def cfgVl (w : Word) : Nat := getF w CL_VCFG.VL
/-- FMT. -/
def cfgFmt (w : Word) : Nat := getF w CL_VCFG.FMT

/-- Is a format code a floating-point one (R164)? -/
def isFloatCode (c : Nat) : Bool := decide (c ≤ 7)
/-- The width of a register element that holds a format: KV6, KV4 and INT4 sit in 8 bits (R172). -/
def elemWidth (c : Nat) : Nat := if c = 6 ∨ c = 7 ∨ c = 9 then 8 else codeWidth c
/-- Is a format one of binary64, binary32, binary16, KV16? -/
def isWideFloat (c : Nat) : Bool := decide (c ≤ 3)

/-! ### V fields -/

/-- OPX of form VR. -/
def vOPX (w : Syllable) : Nat := fld w 0 3
/-- M of form VR. -/
def vM (w : Syllable) : Bool := w.toNat.testBit 6
/-- MK of form VR. -/
def vMK (w : Syllable) : Nat := fld w 3 3
/-- Is it a .S form of form VR (majors 0x08 to 0x0C, 0x12, 0x13, 0x1A, 0x1B)? -/
def isS (w : Syllable) : Bool :=
  let m := majorOf w
  decide ((0x08 ≤ m ∧ m ≤ 0x0C) ∨ m = 0x12 ∨ m = 0x13 ∨ m = 0x1A ∨ m = 0x1B)
/-- The major of the vector form that a .S form repeats. -/
def baseMajor (w : Syllable) : Nat :=
  let m := majorOf w
  if 0x08 ≤ m ∧ m ≤ 0x0C then m - 8 else if m = 0x12 ∨ m = 0x13 then m - 2 else if m = 0x1A ∨ m = 0x1B then m - 2 else m
/-- DISP7 of forms VMU and VMX, signed. -/
def vDISP7 (w : Syllable) : Int := sgn 7 (fld w 5 7)
/-- Fields of a structure access: how many (R215). -/
def segN (w : Syllable) : Nat :=
  let m := majorOf w
  if 0x32 ≤ m ∧ m ≤ 0x34 then m - 0x30 else if 0x35 ≤ m ∧ m ≤ 0x37 then m - 0x33 else 1
/-- Registers of the base span of a gather or scatter (R217). -/
def baseSpan (vcfg : Word) : Nat := min 8 (cfgSpan vcfg * 64 / cfgSew vcfg)
/-- The span of a VCVT destination (R201). -/
def cvtSpan (vcfg : Word) (w : Syllable) : Nat := max 1 (cfgSpan vcfg * elemWidth (fld w 8 4) / cfgSew vcfg)

/-- A span of `n` registers from `r` is aligned and inside v0 to v31. -/
def spanOk (r n : Nat) : Bool := r % n == 0 && decide (r + n ≤ 32)
/-- Two spans overlap. -/
def spanMeet (a n b k : Nat) : Bool := decide (a < b + k) && decide (b < a + n)

/-! ### Legality -/

/-- The register operands of a form VR syllable with destination and sources of SPAN registers. -/
def vrOk (sp : Nat) (useA useB : Bool) (w : Syllable) : Bool :=
  spanOk (fRD w) sp && (!useA || spanOk (fRA w) sp) && (!useB || spanOk (fRB w) sp)

/-- May a floating-point vector instruction run under this CL_VCFG (R191)? -/
def vfOk (vcfg : Word) : Bool := isFloatCode (cfgFmt vcfg) && elemWidth (cfgFmt vcfg) == cfgSew vcfg

/-- Is a vector memory syllable legal (R215, R218)? -/
def vmemOk (vcfg : Word) (w : Syllable) : Bool :=
  let sp := cfgSpan vcfg
  let n := segN w
  let m := majorOf w
  fld w 0 1 == 0 &&
  (if m ≤ 0x37 then fRD w % sp == 0 && decide (n * sp ≤ 8) && decide (fRD w + n * sp ≤ 32)
   else
     let b := baseSpan vcfg
     spanOk (fRD w) sp && spanOk (fRA w) b && !(m == 0x38 && spanMeet (fRD w) sp (fRA w) b))

/-- The operation of a legal vector-mode V syllable (R194, R215). -/
def opVec (vcfg : Word) (w : Syllable) : Option Op :=
  let m := majorOf w
  let b := baseMajor w
  let x := vOPX w
  let sp := cfgSpan vcfg
  let sew := cfgSew vcfg
  let s := isS w
  let when_ (c : Bool) (o : Op) : Option Op := if c then some o else none
  if 0x30 ≤ m then
    if !vmemOk vcfg w then none
    else if m ≤ 0x31 then some .vld
    else if m ≤ 0x37 then some .vlseg
    else if m = 0x38 then some .vldx
    else if m = 0x39 then some .vstx
    else if m ≤ 0x3E then some .vstxr
    else none
  else if b = 0x00 then when_ (vrOk sp true (!s) w) .vadd
  else if b = 0x01 then
    (if x = 7 then when_ (vrOk sp (!s) false w && (s || fRB w == 0)) .vadd else when_ (vrOk sp true (!s) w) .vadd)
  else if b = 0x02 then when_ (decide (x ≤ 3) && vrOk sp true (!s) w) .vadd
  else if b = 0x03 then when_ (vrOk sp true (!s) w) .vsadd
  else if b = 0x04 then
    (if x = 0 then when_ (vrOk sp true (!s) w) .vsadd
     else if x ≤ 2 then
       when_ (decide (sew ≤ 32) && decide (sp ≤ 4) && spanOk (fRD w) sp && spanOk (fRA w) (2 * sp) &&
              (s || spanOk (fRB w) sp) && !spanMeet (fRD w) sp (fRA w) (2 * sp) &&
              (s || !spanMeet (fRD w) sp (fRB w) sp)) .vsadd
     else none)
  else if b = 0x10 then
    when_ (vfOk vcfg && (x != 3 || isWideFloat (cfgFmt vcfg)) && vrOk sp true (!s) w) .vfadd
  else if b = 0x11 then
    (if x ≤ 3 then when_ (vfOk vcfg && vrOk sp true (!s) w) .vfadd
     else if x ≤ 5 then when_ (vfOk vcfg && isWideFloat (cfgFmt vcfg) && fRB w == 0 && vrOk sp true false w) .vfadd
     else none)
  else if m = 0x14 then
    let dc := fld w 8 4
    let fmtOk : Bool := if isFloatCode (cfgFmt vcfg) then elemWidth (cfgFmt vcfg) == sew else sew != 16
    let dsp := cvtSpan vcfg w
    when_ (fmtOk && decide (dc ≤ 0xA) && decide (fld w 5 3 ≤ 5) && decide (dsp ≤ 8) && spanOk (fRD w) dsp &&
           spanOk (fRA w) sp && (dsp == sp || !spanMeet (fRD w) dsp (fRA w) sp)) .vcvt
  else if b = 0x18 then
    when_ (decide (x ≤ 5) && fld w 20 2 == 0 && spanOk (fRA w) sp && (s || spanOk (fRB w) sp)) .vcmp
  else if b = 0x19 then
    when_ (decide (x ≤ 3) && fld w 20 2 == 0 && vfOk vcfg && spanOk (fRA w) sp && (s || spanOk (fRB w) sp)) .vcmp
  else if m = 0x20 then
    when_ (decide (x ≤ 5) && fld w 20 2 == 0 && fld w 15 2 == 0 && fld w 10 2 == 0 && !vM w &&
           (decide (x ≤ 3) || fRB w == 0) && (decide (x ≤ 4) || fRA w == 0)) .vmand
  else if m = 0x21 then
    when_ (decide (x ≤ 3) && fld w 15 2 == 0 && fRB w == 0 && !vM w && (decide (x ≤ 1) || fld w 20 2 == 0)) .vmpop
  else if m = 0x24 then when_ (spanOk (fRA w) sp) .vredsum
  else if m = 0x25 then
    when_ (decide (x ≤ 3) && vfOk vcfg && spanOk (fRA w) sp) (if x = 1 then .vfredosum else .vredsum)
  else if m = 0x28 then
    (if x = 0 then when_ (vM w && vrOk sp true false w && !spanMeet (fRD w) sp (fRA w) sp) .vcompress
     else if x = 1 then when_ (vM w && vrOk sp true false w && !spanMeet (fRD w) sp (fRA w) sp) .vexpand
     else if x = 2 then
       when_ (vrOk sp true true w && !spanMeet (fRD w) sp (fRA w) sp && !spanMeet (fRD w) sp (fRB w) sp) .vperm
     else if x = 4 ∨ x = 5 then
       when_ (!vM w && fRB w == 0 && sew == 8 && (cfgFmt vcfg == 6 || cfgFmt vcfg == 7 || cfgFmt vcfg == 9) &&
              vrOk sp true false w) (if x = 4 then .vpack else .vunpack)
     else none)
  else if m = 0x2C then
    when_ (decide (32 ≤ sew) && fld w 0 4 == 0 && spanOk (fRD w) sp && spanOk (fRA w) sp) .vmatch
  else if m = 0x2D then
    when_ (decide (32 ≤ sew) && fld w 0 1 == 0 && vrOk sp true true w && !spanMeet (fRD w) sp (fRA w) sp &&
           !spanMeet (fRD w) sp (fRB w) sp) .vmerge
  else none

/-- The operation of a legal thread syllable (R116). -/
def opThread (w : Syllable) : Option Op :=
  let m := majorOf w
  let when_ (c : Bool) (o : Op) : Option Op := if c then some o else none
  let alu (o : Option Op) : Option Op := o.map (fun _ => Op.talu)
  if m = 0x00 ∨ m = 0x14 then alu (aluOp w)
  else if m ≤ 0x0A then alu (immOp (m - 1) w)
  else if m = 0x0B then some .talu
  else if m = 0x0C ∨ m = 0x0D ∨ m = 0x15 then when_ (decide (fOP w ≤ 3)) .talu
  else if m ≤ 0x13 then alu (floatOp (m - 0x0E) w)
  else if m = 0x16 ∨ m = 0x17 then alu (floatOp (m - 0x16) w)
  else if m ≤ 0x1E then some .tload
  else if m = 0x1F then when_ (decide (fSEL w ≤ 3)) .talu
  else if m ≤ 0x23 then some .tload
  else if m ≤ 0x2C then when_ (amoOk w) .tatomic
  else if m = 0x2D then when_ (fRB w == 0 && fld w 0 7 == 0) .talu
  else if m = 0x30 then when_ (decide (fld w 14 3 ≤ 5)) .tbc
  else if 0x31 ≤ m ∧ m ≤ 0x33 then some .tbc
  else if m = 0x34 then when_ (fld w 0 22 == 0) .texit
  else if m = 0x35 then when_ (fld w 0 22 == 0) .gyield
  else if m = 0x36 then when_ (decide (fOP w ≤ 2) && !fW w) .gvote
  else if m = 0x37 then when_ (fld w 0 7 == 0) .gshfl
  else if m = 0x38 then when_ (fld w 0 22 == 0) .gbar
  else none

/-- The operation of a legal V syllable, or none: thread syllables in group mode (R114). -/
def opV (gm : Bool) (vcfg : Word) (w : Syllable) : Option Op := if gm then opThread w else opVec vcfg w

/-! ### X syllables -/

/-- TD, bits [21:19]. -/
def xTD (w : Syllable) : Nat := fld w 19 3
/-- RP or RA, bits [18:14]. -/
def xRP (w : Syllable) : Nat := fld w 14 5
/-- RS, bits [13:9]. -/
def xRS (w : Syllable) : Nat := fld w 9 5
/-- FA of XOPA. -/
def xFA (w : Syllable) : Nat := fld w 3 6
/-- BX of XOPA. -/
def xBX (w : Syllable) : Nat := fld w 0 3

/-- Is the FA and BX of an XOPA accepted (R239)? -/
def xopaOk (w : Syllable) : Bool :=
  let fa := xFA w
  let c := fa % 16
  xRP w % 2 == 0 &&
  decide (fa ≤ 9 ∨ (0x14 ≤ fa ∧ fa ≤ 0x19) ∨ (0x34 ≤ fa ∧ fa ≤ 0x39)) &&
  decide (xBX w = 0 ∨ (xBX w = 1 ∧ (c = 4 ∨ c = 5)) ∨ (xBX w = 2 ∧ fa = 1))

/-- The operation of a legal X syllable, or none (R238, R239, R253, R254, R256, R272, R507). -/
def opX (gm : Bool) (w : Syllable) : Option Op :=
  let m := majorOf w
  let when_ (c : Bool) (o : Op) : Option Op := if c then some o else none
  if m = 0x00 then when_ (xopaOk w) .xopa
  else if m = 0x08 then when_ (decide (fld w 5 3 ≤ 6) && decide (fld w 0 3 ≤ 3)) .tld
  else if m = 0x09 then when_ (decide (fld w 5 3 ≤ 6) && decide (fld w 0 3 ≤ 3)) .tst
  else if m = 0x0A then when_ (decide (fld w 6 3 ≤ 3) && fld w 0 6 == 0) .tzero
  else if m = 0x0B then when_ (fld w 0 19 == 0) .trel
  else if m = 0x0C then when_ (fld w 0 9 == 0) .tacc
  else if m = 0x38 then when_ (gm && fld w 0 4 == 0) .gxld
  else if m = 0x39 then when_ (gm && fld w 0 4 == 0) .gxst
  else none

/-! ### What they read and write -/

/-- The scalar destination of a V syllable: its summary (R204), the result of GVOTE. -/
def vsdst (gm : Bool) (w : Syllable) : Option Nat :=
  let some? (n : Nat) : Option Nat := if n = 0 then none else some n
  if slotOf w ≠ 3 then none
  else
    let m := majorOf w
    if gm then (if m = 0x36 ∧ fOP w ≤ 2 then some? (fRD w) else none)
    else if m = 0x21 ∧ vOPX w ≤ 1 then some? (fRD w)
    else if m = 0x24 ∨ (m = 0x25 ∧ vOPX w ≤ 3) then some? (fRD w)
    else if m = 0x2C then some? (fRB w)
    else if m = 0x2D then some? (fld w 2 5)
    else none

/-- The bit of CL_FLAGS that a V syllable writes: fk of VMANY and VMALL, or VXSAT (bit 8) of the saturating operations
(R200, R214). -/
def vfdst (gm : Bool) (w : Syllable) : Option Nat :=
  if slotOf w ≠ 3 ∨ gm then none
  else if majorOf w = 0x21 ∧ 2 ≤ vOPX w then some (fld w 17 3)
  else if (baseMajor w = 0x03 ∧ (vOPX w ≤ 3 ∨ vOPX w = 6)) ∨ (baseMajor w = 0x04 ∧ 1 ≤ vOPX w) then some 8
  else none

/-- The scalar registers that a V or X syllable reads, in the order it names them (R374). -/
def vssrc (gm : Bool) (w : Syllable) : List Nat :=
  let m := majorOf w
  if slotOf w = 4 then
    (if m = 0x00 then [xRP w, xRP w + 1, xRS w]
     else if m = 0x08 ∨ m = 0x09 ∨ m = 0x0C then [xRP w, xRS w]
     else if m = 0x38 ∨ m = 0x39 then [fld w 5 5]
     else [])
  else if gm then
    (if 0x14 ≤ m ∧ m ≤ 0x17 then [fRB w]
     else if m = 0x2D then [fRA w]
     else if m = 0x36 ∨ m = 0x37 then [fRB w]
     else [])
  else if 0x30 ≤ m ∧ m ≤ 0x37 then [fRA w]
  else if isS w then [fRB w]
  else if m = 0x24 ∨ m = 0x25 then [fRB w]
  else []

end Sys2Proof.Machine
end

