-- ==== Sys2Proof/Machine/Fetch.lean ====
section
/-!
DEFINITION. Fetch and decode of bundles (spec/03 R52 to R58, R62, R63, R68 to R70, spec/13 R303, R304), the choice of a
group's next bundle (spec/05 R125 to R128), which contexts are ready (R57, R58, R78, R79, R82, R130, spec/12 R297).
-/
namespace Sys2Proof.Machine

/-! ### Fetch -/

/-- The way of the instruction cache that holds a line (R299: index [13:6], 4 ways). -/
def icFind (d : Dev) (l da : Nat) : Option Line :=
  let t := (getCl d l).ic
  let base := da / 64 % 256 * 4
  ((List.range 4).filterMap (fun w => Tab.find? t (base + w))).find? (fun x => x.ln == da / 64)

/-- Is the instruction cache looked up (R304, R305)? -/
def icOn (d : Dev) (l : Nat) : Bool :=
  rbit d (clOff l 0x700) CL_ICCTL.EN && !rbit d (clOff l 0x700) CL_ICCTL.BUSY

/-- The line of code at an address, from the line buffer or the instruction cache (R62). -/
def codeLine (d : Dev) (l da : Nat) : Option Line :=
  match (getCl d l).lbuf.find? (fun x => x.ln == da / 64) with
  | some x => some x
  | none => if icOn d l then icFind d l da else none

/-- What a fetch finds. -/
inductive Fetch where
  | words (ws : List Syllable)
  | line (da : Nat) (t : Target) (attr : Nat)
  | walk (va : Word)
  | trap (t : Trap)
  | miss (va : Word) (da : Nat)

/-- Words from `va` on, up to the first with STOP, at most `n` (R53, R55 order 1). -/
def fetchWords (d : Dev) (l : Nat) (md : Modes) : Nat → Word → List Syllable → Fetch
  | 0, _, acc => .words acc.reverse
  | n + 1, va, acc =>
    match access d l md va .fe with
    | .ok da t attr =>
      (match codeLine d l da with
       | some x =>
         let w : Syllable := BitVec.ofNat 32 (vbits x.data (8 * (da % 64)) 32)
         if stopBit w then .words (w :: acc).reverse else fetchWords d l md n (va + 4) (w :: acc)
       | none => .line da t attr)
    | .walk => .walk va
    | .trap t => .trap t
    | .miss da => .miss va da
    | .mere _ => .trap ⟨1, va⟩

/-- The line buffer takes the lines that hold [da, da + 4n): two lines, the newest kept (R62). -/
def bufferLines (d : Dev) (l : Nat) (das : List Nat) : Dev :=
  das.foldl (fun d da =>
    match (getCl d l).lbuf.find? (fun x => x.ln == da / 64), (if icOn d l then icFind d l da else none) with
    | some _, _ => d
    | none, some x => updCl d l (fun k => { k with lbuf := ((k.lbuf ++ [x]).reverse.take 2).reverse })
    | none, none => d) d

/-- A word of code as the home point (or this cluster's caches) now holds it: for finding a STOP ahead of fetch. -/
def peekWord (d : Dev) (l : Nat) (md : Modes) (va : Word) : Option Syllable :=
  match access d l md va .fe with
  | .ok da t _ =>
    (match codeLine d l da with
     | some x => some (BitVec.ofNat 32 (vbits x.data (8 * (da % 64)) 32))
     | none =>
       match t with
       | .stack k off => some (BitVec.ofNat 32 (homeRead d da k off 4).1)
       | _ => none)
  | _ => none

/-- The length in words of the bundle at an address, when its words can be read. -/
def peekLen (d : Dev) (l : Nat) (md : Modes) : Nat → Word → Nat → Option Nat
  | 0, _, _ => none
  | n + 1, va, k =>
    match peekWord d l md va with
    | some w => if stopBit w then some (k + 1) else peekLen d l md n (va + 4) (k + 1)
    | none => none

/-! ### Decode -/

/-- The operation of a legal syllable in its slot, or none (R55 order 5). -/
def sylOp (gm : Bool) (vcfg : Word) (w : Syllable) : Option Op :=
  match slotOf w with
  | 0 => opAB true w
  | 1 => opAB false w
  | 2 => opM w
  | 3 => opV gm vcfg w
  | 4 => opX gm w
  | _ => none

/-- The scalar destination of any syllable (R54). -/
def dstOf (gm : Bool) (w : Syllable) : Option Nat := if slotOf w ≤ 2 then sdst w else vsdst gm w

/-- Is it a collective (R136: GVOTE, GSHFL, GXLD, GXST, GBAR)? -/
def isCollective (o : Op) : Bool :=
  o == .gvote || o == .gshfl || o == .gxld || o == .gxst || o == .gbar

/-- Is a group-mode word a collective by its opcode, whatever its other fields (R136 is checked before R55 order 5)? -/
def isCollWord (w : Syllable) : Bool :=
  let m := majorOf w
  if slotOf w = 3 then (m == 0x36 && decide (fOP w ≤ 2)) || (m == 0x37 && fOP w == 0) || m == 0x38
  else slotOf w == 4 && (m == 0x38 || m == 0x39)

/-- Is it a thread control syllable (R118)? -/
def isTctl (o : Op) : Bool := o == .tbc || o == .texit

/-- The innermost active loop level (R69). -/
def innermost (d : Dev) (l c : Nat) : Option Nat :=
  let st := rget d (csOff l c 0)
  if isSet st CL_LSTAT.ACT1 then some 1 else if isSet st CL_LSTAT.ACT0 then some 0 else none

/-- CL_LENDi, CL_LSTARTi, CL_LCOUNTi offsets. -/
def lendOff (l c i : Nat) : Nat := csOff l c (if i = 0 then 0x10 else 0x28)
/-- CL_LSTARTi. -/
def lstartOff (l c i : Nat) : Nat := csOff l c (if i = 0 then 0x08 else 0x20)
/-- CL_LCOUNTi. -/
def lcountOff (l c i : Nat) : Nat := csOff l c (if i = 0 then 0x18 else 0x30)

/-- Is the bundle at an address the last bundle of the innermost active loop (R69, R70)? -/
def isLoopLast (d : Dev) (l c : Nat) (addr : Word) : Bool :=
  match innermost d l c with
  | some i => rget d (lendOff l c i) == addr
  | none => false

/-- A trap naming a syllable. -/
def sylTrap (cause : Nat) (w : Syllable) : Trap := ⟨cause, BitVec.ofNat 64 w.toNat⟩

/-- The first pair of neighbours whose slots do not ascend: the later one (R55 order 3). -/
def notAscending : List Syllable → Option Syllable
  | a :: b :: t => if slotOf b ≤ slotOf a then some b else notAscending (b :: t)
  | _ => none

/-- The first syllable whose scalar destination a later one repeats (R54). -/
def dupDest (gm : Bool) : List Syllable → Option Syllable
  | [] => none
  | a :: t =>
    match dstOf gm a with
    | some r => if t.any (fun b => dstOf gm b == some r) then some a else dupDest gm t
    | none => dupDest gm t

/-- The lowest-slot syllable of a list that satisfies `p`. -/
def firstBad (ws : List Syllable) (p : Syllable → Bool) : Option Syllable :=
  (List.range 8).findSome? (fun s => ws.find? (fun w => slotOf w == s && p w))

/-- The decode checks, orders 2 to 8 of R55 (with R65, R70, R118, R136, R355). -/
def decodeCheck (d : Dev) (l c : Nat) (md : Modes) (vcfg : Word) (addr : Word) (isDelay : Bool)
    (ws : List Syllable) : Option Trap :=
  let gm := md.gm
  let ops := ws.map (fun w => (w, sylOp gm vcfg w))
  let has (p : Op → Bool) : Option Syllable :=
    (ops.find? (fun e => match e.2 with | some o => p o | none => false)).map (·.1)
  let last := ws.getLast?
  let ctl : Option Syllable := match ws.find? isCtl with
    | some w => some w
    | none => if gm then has isTctl else none
  match firstBad ws (fun w => decide (5 ≤ slotOf w)) with
  | some w => some (sylTrap 2 w)
  | none =>
  match (match notAscending ws with
         | some w => some w
         | none => last.bind (fun w => if stopBit w then none else some w)) with
  | some w => some (sylTrap 2 w)
  | none =>
  match (match dupDest gm ws with
         | some w => some w
         | none => if gm ∧ 1 < ws.length ∧ ws.any isCollWord then ws.head? else none) with
  | some w => some (sylTrap 2 w)
  | none =>
  match firstBad ws (fun w => (sylOp gm vcfg w).isNone) with
  | some w => some (sylTrap 3 w)
  | none =>
  match (if isDelay then ctl
         else if (ws.any isCtl) ∧ gm ∧ (has isTctl).isSome then ctl else none) with
  | some w => some (sylTrap 2 w)
  | none =>
  match (if isLoopLast d l c addr ∧ (isDelay ∨ ctl.isSome) then
           some (match ctl with | some w => sylTrap 4 w | none => ⟨4, 0⟩)
         else if gm ∧ (innermost d l c).isSome then (has isTctl).map (sylTrap 4) else none) with
  | some t => some t
  | none =>
  (firstBad ws (fun w => decide (md.plev < sylLevel c w))).map (sylTrap 5)

/-! ### A group's next bundle -/

/-- The threads of a mask predicate. -/
def lanes (p : Nat → Bool) : Nat := maskOf 64 p

/-- Runnable threads (CL_TPC.STATE 0b00). -/
def runnable (d : Dev) (l c : Nat) : Nat := lanes (fun t => tstate d l c t == 0)

/-- The threads that a loop admits (R127). -/
def loopAdmits (d : Dev) (l c : Nat) : Nat :=
  if (innermost d l c).isSome then (gloopView d l c).toNat else ones 64

/-- The lowest program counter among the threads of a mask. -/
def lowestPc (d : Dev) (l c m : Nat) : Option Nat :=
  (List.range 64).foldl (fun a t =>
    if m.testBit t then
      (match a with | none => some (tpc d l c t) | some b => some (min b (tpc d l c t)))
    else a) none

/-- The yielded threads: a thread's yield ends when every thread it waits for has issued or left, or when no runnable
thread is unyielded (R128). -/
def yieldedMask (d : Dev) (l c : Nat) : Nat :=
  let x := getCtx d l c
  let run := runnable d l c
  let m := lanes (fun t => match Tab.find? x.yielded t with | some w => w &&& run != 0 | none => false)
  if run &&& m == run then 0 else m

/-- The group's next bundle address and active set (R126, R127, R142). -/
def groupSelect (d : Dev) (l c : Nat) : Option (Nat × Nat) :=
  let x := getCtx d l c
  let elig := runnable d l c &&& loopAdmits d l c
  let at_ (a : Nat) : Nat × Nat := (a, lanes (fun t => elig.testBit t && tpc d l c t == a))
  match x.delay with
  | some dl => some (x.pc.toNat, dl.act)
  | none =>
    let fromTrap : Option (Nat × Nat) := match x.gsel with
      | some g =>
        let m := lanes (fun t => g.testBit t && (runnable d l c).testBit t && tpc d l c t == x.pc.toNat)
        if m = 0 then none else some (x.pc.toNat, m)
      | none => none
    match fromTrap with
    | some p => some p
    | none =>
      let starved : Option Nat := (List.range 64).foldl (fun a t =>
        let n := Tab.get 0 x.starve t
        if elig.testBit t ∧ 3968 ≤ n then
          (match a with | none => some t | some b => if Tab.get 0 x.starve b < n then some t else a)
        else a) none
      match starved with
      | some t => some (at_ (tpc d l c t))
      | none =>
        let y := yieldedMask d l c
        match lowestPc d l c (lanes (fun t => elig.testBit t && !y.testBit t)) with
        | some a => some (at_ a)
        | none => (lowestPc d l c elig).map at_

/-- The next bundle of a context: its address, its active set, whether it is a delay bundle. -/
def nextBundle (d : Dev) (l c : Nat) : Option (Word × Nat × Bool) :=
  let x := getCtx d l c
  if x.cur.gm then (groupSelect d l c).map (fun p => (BitVec.ofNat 64 p.1, p.2, x.delay.isSome))
  else some (x.pc, 1, x.delay.isSome)

/-! ### Interrupts that can be taken (R372) -/

/-- The lowest interrupt that may be taken at a bundle boundary, and whether at Supervisor level (R359, R372). -/
def takeable (d : Dev) (l c : Nat) : Option (Nat × Bool) :=
  let x := getCtx d l c
  let pend := (ipendView d l c &&& rget d (dtOff l c 0x48)).toNat
  let st := rget d (dtOff l c 0)
  let sv := rget d (dtOff l c 0xC0)
  let low : Bool := getF st DT_STATUS.PLEV != 3
  let deleg (k : Nat) : Bool := (rget d (dtOff l c 0x30)).toNat.testBit (32 + k)
  let may (k : Nat) : Bool :=
    pend.testBit k &&
    (if deleg k then low && isSet sv SV_STATUS.IE && !isSet sv SV_STATUS.ENTRY
     else isSet st DT_STATUS.IE && !isSet st DT_STATUS.ENTRY)
  if isSet st DT_STATUS.DOUBLE ∨ x.shadow ≠ [] ∨ x.park.isSome ∨ x.stop then none
  else (findUpto 6 may).map (fun k => (k, deleg k))

/-! ### Readiness -/

/-- Is a register of a set marked pending (R79)? -/
def pendAny (m : Nat) (rs : List Nat) : Bool := rs.any (fun r => r != 0 && m.testBit r)

/-- May O issue these syllables for the context now (R58, R78, R79, R82, R101, R297)? -/
def resourcesOk (d : Dev) (l c : Nat) (gm : Bool) (vcfg : Word) (ws : List Syllable) : Bool :=
  let x := getCtx d l c
  let cl := getCl d l
  ws.all (fun w =>
    let srcs := if slotOf w ≤ 2 then ssrc w else vssrc gm w
    let dst := (dstOf gm w).toList
    let fl := (fsrc w).toList ++ (if slotOf w = 3 then (vfdst gm w).toList else [])
    !pendAny x.pendS (srcs ++ dst) && !(fl.any (fun f => x.pendF.testBit f)) &&
    (match sylOp gm vcfg w with
     | some .div => cl.divOwner.isNone
     | some .fdiv => slotOf w != 0 || cl.divOwner.isNone
     | some .copy =>
       decide ((cl.copies.filter (fun e => e.2.ctx == c)).length < 32) && decide (cl.copies.length < 128)
     | some .getc => selOff l c (fSEL w) != clOff l (0x400 + 8 * c) || x.pendF == 0
     | some .setc => selOff l c (fSEL w) != clOff l (0x400 + 8 * c) || x.pendF == 0
     | _ => true) &&
    (if slotOf w = 3 then decide (x.vq.length < 8) else true) &&
    (if slotOf w = 4 then decide (x.xq.length < 4) else true))

/-- Is an ordered thread atomic queued, which orders every later access of the context (R155)? -/
def orderedQueued (x : Ctx) : Bool :=
  x.vq.any (fun o => o.md.gm && decide (0x24 ≤ majorOf o.syl ∧ majorOf o.syl ≤ 0x2C) && fORD o.syl != 0)

/-- May the context issue at all: it runs, holds no bundle and no pending trap, and no interrupt must come first? -/
def mayIssue (d : Dev) (l c : Nat) : Bool :=
  let x := getCtx d l c
  running d l c && !x.stop && x.park.isNone && x.wb.isNone && x.dfault.isNone && x.swtrap.isNone &&
  x.ufault.isNone && x.dmc.isNone && x.dcf.isNone && (takeable d l c).isNone && !orderedQueued x

/-- The bundle that a context would issue now, when it is in D and ready (R57). -/
def readyBundle (d : Dev) (l c : Nat) : Option (Word × Nat × Bool × List Syllable) :=
  if mayIssue d l c then
    match nextBundle d l c with
    | some (a, act, ds) =>
      let x := getCtx d l c
      (match fetchWords d l x.cur 5 a [] with
       | .words ws =>
         let vcfg := rget d (csOff l c 0x70)
         (match decodeCheck d l c x.cur vcfg a ds ws with
          | some _ => some (a, act, ds, ws)
          | none => if resourcesOk d l c x.cur.gm vcfg ws then some (a, act, ds, ws) else none)
       | .trap _ => some (a, act, ds, [])
       | .miss _ _ => some (a, act, ds, [])
       | _ => none)
    | none => none
  else none

/-- The context that O issues next: one passed over 64 times, else the lowest CL_CSEQ (R130). -/
def chooseCtx (d : Dev) (l : Nat) : Option Nat :=
  let rd := filterUpto 8 (fun c => (readyBundle d l c).isSome)
  let old := rd.filter (fun c => decide (64 ≤ (getCtx d l c).wait64))
  let best (cs : List Nat) : Option Nat := cs.foldl (fun a c =>
    match a with
    | none => some c
    | some b => if (rget d (csOff l c 0x60)).toNat < (rget d (csOff l b 0x60)).toNat then some c else a) none
  match best old with
  | some c => some c
  | none => best rd

end Sys2Proof.Machine
end

