-- ==== Sys2Proof/Machine/Traps.lean ====
section
/-!
DEFINITION. Taking a trap or an interrupt, once for every cause (spec/16 R357 to R364, R369, R370, spec/03 R67, R72, R76,
R77, R80, R81, R505, spec/05 R141), the trap return beside it (R368, R142), and parking (spec/14 R331, R332).
-/
namespace Sys2Proof.Machine

/-- Does the operation at the head of a unit's queue run without a boundary where R80 could stop it (R211, R141)? -/
def noBoundary (o : Op) : Bool :=
  match o with
  | .vredsum | .vfredosum | .vmpop | .vcompress | .vexpand | .vperm | .vpack | .vunpack | .vmatch | .vmerge
  | .tbc | .texit | .gyield | .tzero | .trel => true
  | _ => false

/-- The operation of a queued syllable. -/
def qopOp (o : QOp) : Option Op := sylOp o.md.gm o.vcfg o.syl

/-- May the context's units stop now (R80, R211, R141, R508)? An operation without a boundary must finish first, an
unresolved thread branch must resolve, and element groups already issued must have arrived (R227, R230). -/
def unitsStop (d : Dev) (l c : Nat) : Bool :=
  let k := getCl d l
  let x := getCtx d l c
  let open_ (r : Option Nat) (q : List QOp) : Bool := match r, q with
    | some u, o :: _ => u == c && !o.fault && (match qopOp o with | some p => noBoundary p | none => false)
    | _, _ => false
  let stopped : Bool := match x.vq with | o :: _ => o.fault | [] => false
  let branch : Bool := match x.delay with | some dl => dl.unresolved && !stopped | none => false
  x.vp.waiting == [] && !open_ k.vrun x.vq && !open_ k.xrun x.xq && !branch

/-- Flags and saturation of the units' operations accrue into CL_FCSR and CL_FLAGS (R102, R199, R200). -/
def accrue (d : Dev) (l c : Nat) : Dev :=
  let x := getCtx d l c
  let f := x.vp.fl ||| x.xp.fl
  let d := rset d (csOff l c 0x40) (rget d (csOff l c 0x40) ||| BitVec.ofNat 64 (f % 32))
  let d := if x.vp.xsat then rsetB d (clOff l (0x400 + 8 * c)) CL_FLAGS.VXSAT true else d
  updCtx d l c (fun x => { x with vp := { x.vp with fl := 0, xsat := false }, xp := { x.xp with fl := 0 } })

/-- The resume point: the oldest bundle that has not retired, its active set, whether it is a delay bundle (R80, R67,
R72). In group mode with no runnable thread it is the collective of the lowest waiting lane, with no active thread
(R505). -/
def resumePoint (d : Dev) (l c : Nat) : Word × Nat × Bool :=
  let x := getCtx d l c
  match x.wb with
  | some w => (w.addr, w.act, w.isDelay)
  | none =>
    match nextBundle d l c with
    | some p => p
    | none =>
      match findUpto 64 (fun t => tstate d l c t == 1) with
      | some t => (BitVec.ofNat 64 (tpc d l c t), 0, false)
      | none => (x.pc, 0, false)

/-- The address of the bundle after the delay bundle that is due; where its words cannot be read, a value the spec does
not state. -/
def afterDelay (d : Dev) (l c : Nat) : Word :=
  let x := getCtx d l c
  match x.wb with
  | some w => w.addr + BitVec.ofNat 64 (4 * w.len)
  | none =>
    match peekLen d l x.cur 5 x.pc 0 with
    | some n => x.pc + BitVec.ofNat 64 (4 * n)
    | none => Config.freeWord d.freeCtr

/-- The address that follows the delay bundle for a thread (R64, R67), with the address after the delay bundle. -/
def followOf (dl : Delay) (aft : Word) (t : Nat) : Word := Tab.get (if dl.taken then dl.tgt else aft) dl.follow t

/-- The address that follows the delay bundle for a thread. While the branch waits behind an operation that faults, it has
no value that the spec states. -/
def delayFollow (d : Dev) (l c : Nat) (dl : Delay) (t : Nat) : Word :=
  if dl.unresolved then Config.freeWord (d.freeCtr + 1 + t) else followOf dl (afterDelay d l c) t

/-- The registers that entry at a level writes (R362, R360): SAVE, RESUME, TVAL, BTGT. -/
structure EntryRegs where
  save : Nat
  resume : Nat
  tval : Nat
  btgt : Nat

/-- Datum entry. -/
def regsDT : EntryRegs := ⟨0x08, 0x10, 0x18, 0x20⟩
/-- Supervisor entry. -/
def regsSV : EntryRegs := ⟨0xC8, 0xD0, 0xD8, 0xE0⟩
/-- Double fault entry. -/
def regsDD : EntryRegs := ⟨0x60, 0x68, 0x70, 0x90⟩

/-- The group state that entry saves (R141, R370): CL_GACT, CL_TPC, CL_TBT. -/
def saveGroup (d : Dev) (l c : Nat) : Dev :=
  let x := getCtx d l c
  let (addr, act, ds) := resumePoint d l c
  if !(modesNow d l c).gm then d
  else if !x.cur.gm then
    let live := glive d l c
    onLanes live (rset d (csOff l c 0x58) (BitVec.ofNat 64 live)) (fun d t => setTpc d l c t 0 addr.toNat)
  else
    let d := onLanes act (rset d (csOff l c 0x58) (BitVec.ofNat 64 act)) (fun d t => setPcT d l c t addr.toNat)
    match ds, x.delay with
    | true, some dl =>
      let f := delayFollow d l c dl
      onLanes act d (fun d t => rset d (tbtOff l c t) (setB (setF 0 CL_TBT.ADDR ((f t).toNat / 4)) CL_TBT.DS true))
    | _, _ => d

/-- What follows the delay bundle, for the trap registers (R67, R141): in group mode, for the lowest lane. -/
def entryBtgt (d : Dev) (l c : Nat) : Word :=
  let x := getCtx d l c
  let (_, act, ds) := resumePoint d l c
  match ds, x.delay with
  | true, some dl =>
    let aft := afterDelay d l c
    if x.cur.gm then (match lowBit 64 act with | some t => delayFollow d l c dl t | none => aft)
    else if dl.taken then dl.tgt else aft
  | _, _ => 0

/-- The trap registers of one entry written (R362). -/
def writeEntry (d : Dev) (l c : Nat) (r : EntryRegs) (t : Trap) (lost : Bool) : Dev :=
  let (addr, _, ds) := resumePoint d l c
  let sv : Word := setF (setF (setB (setB (setF (setB 0 DT_DSAVE.LOST lost) DT_SAVE.CAUSE (causeOf t)) DT_SAVE.DS ds)
    DT_SAVE.GM (rbit d (csOff l c 0x48) CL_GCTL.MODE)) DT_SAVE.PLEV (rgetF d (dtOff l c 0) DT_STATUS.PLEV))
    DT_SAVE.LACT (getF (rget d (csOff l c 0)) ⟨0, 2⟩)
  let b := entryBtgt d l c
  let d := rset d (dtOff l c r.resume) (BitVec.ofNat 64 (addr.toNat / 4 * 4))
  let d := rset d (dtOff l c r.save) (fixStored (dtOff l c r.save) 0 sv)
  let d := rset d (dtOff l c r.btgt) (BitVec.ofNat 64 (b.toNat / 4 * 4))
  rset d (dtOff l c r.tval) t.tval

/-- The record's entries: V before X, oldest first, FAULT only on the operation whose fault is reported (R374, R508). -/
def recordOf (x : Ctx) (isUnit : Bool) : List QOp :=
  (x.vq ++ x.xq).map (fun o => if isUnit then o else { o with fault := false })

/-- The units give up a context's operations. -/
def dropUnits (k : Cluster) (c : Nat) : Cluster :=
  { k with vrun := (if k.vrun = some c then none else k.vrun),
           xrun := (if k.xrun = some c then none else k.xrun),
           divOwner := (if k.divOwner = some c then none else k.divOwner),
           evq := k.evq.filter (· != c) }

/-- The context goes on at a handler: bundles discarded, modes as the registers now say, no shadow (R77). -/
def goHandler (d : Dev) (l c : Nat) (vec : Word) : Dev :=
  let d := accrue d l c
  let d := rsetF d (csOff l c 0) ⟨0, 2⟩ 0
  let d := rsetB d (csOff l c 0x48) CL_GCTL.MODE false
  let d := updCl d l (fun k => dropUnits k c)
  let md := modesNow d l c
  let d := { d with freeCtr := d.freeCtr + 65 }
  updCtx (rset d (csOff l c 0x78) 0) l c (fun x => { x with
    wb := none, dfault := none, swtrap := none, ufault := none, delay := none, shadow := [], cur := md, pc := vec,
    vq := [], xq := [], vp := Prog.empty, xp := Prog.empty, pendS := 0, pendF := 0, gsel := none })

/-- Is a trap taken at Supervisor level (R359)? -/
def toSupervisor (d : Dev) (l c cause : Nat) : Bool :=
  let bit := if cause < 0x80 then cause else 32 + (cause - 0x80)
  (rget d (dtOff l c 0x30)).toNat.testBit bit && rgetF d (dtOff l c 0) DT_STATUS.PLEV != 3 &&
    !rbit d (dtOff l c 0xC0) SV_STATUS.ENTRY

/-- The handler bookkeeping of R143: an entry that interrupts group mode opens it. -/
def openHandler (d : Dev) (l c lvl : Nat) : Dev :=
  if rbit d (csOff l c 0x48) CL_GCTL.MODE then
    updCtx d l c (fun x => { x with handler := if x.handler = 0 then lvl else x.handler })
  else d

/-- Taking a trap or interrupt (R359 to R364); CL_MCINFO shows a machine check. `isUnit`: the fault of a V or X operation (R81). In a pair a machine check is not
delivered: the twin falls out (spec/20 R441). -/
def takeTrap (d : Dev) (l c : Nat) (t : Trap) (isUnit : Bool) : Dev :=
  let st := rget d (dtOff l c 0)
  let cause := causeOf t
  let d := if cause = 9 then rset d (clOff l (0xD00 + 8 * c)) (BitVec.ofNat 64 (t.cause / 256)) else d
  let sup := toSupervisor d l c cause
  let x := getCtx d l c
  if cause = 9 ∧ paired d then lvCause d 0
  else if !sup ∧ cause < 0x80 ∧ isSet st DT_STATUS.DOUBLE then
    let d := reportThird d l c (rgetF d (dtOff l c 0x08) DT_SAVE.CAUSE) (rgetF d (dtOff l c 0x60) DT_SAVE.CAUSE) cause
    clusterReset d l
  else if !sup ∧ cause < 0x80 ∧ isSet st DT_STATUS.ENTRY then
    let vec := rget d (dtOff l c 0x28) + 0x100
    let lost : Bool := x.vq != [] || x.xq != []
    let d := saveGroup (writeEntry d l c regsDD t lost) l c
    let d := openHandler d l c 1
    let d := rset d (dtOff l c 0) (setF (setB (rget d (dtOff l c 0)) DT_STATUS.DOUBLE true) DT_STATUS.PLEV 3)
    goHandler d l c vec
  else
    let off := if cause < 0x80 then 0 else 0x40
    let rec_ := recordOf x isUnit
    if sup then
      let vec := rget d (dtOff l c 0xE8) + off
      let d := saveGroup (writeEntry d l c regsSV t false) l c
      let d := openHandler d l c 2
      let sv := setB (rget d (dtOff l c 0xC0)) SV_STATUS.ENTRY true
      let d := rset d (dtOff l c 0xC0) (if x.heldS ≠ [] then setB sv SV_STATUS.IFLOST true else sv)
      let d := rset d (dtOff l c 0) (setF (rget d (dtOff l c 0)) DT_STATUS.PLEV 1)
      updCtx (goHandler d l c vec) l c (fun x => { x with heldS := rec_ })
    else
      let vec := rget d (dtOff l c 0x28) + off
      let d := saveGroup (writeEntry d l c regsDT t false) l c
      let d := openHandler d l c 1
      let s2 := setF (setB (rget d (dtOff l c 0)) DT_STATUS.ENTRY true) DT_STATUS.PLEV 3
      let d := rset d (dtOff l c 0) (if x.heldD ≠ [] then setB s2 DT_STATUS.IFLOST true else s2)
      updCtx (goHandler d l c vec) l c (fun x => { x with heldD := rec_ })

/-! ### Return -/

/-- The scalar registers and flags that queued operations will write are marked pending (R79). -/
def pendMarks (q : List QOp) : Nat × Nat :=
  q.foldl (fun a o =>
    ((match vsdst o.md.gm o.syl with | some r => setBit a.1 r | none => a.1),
     (match vfdst o.md.gm o.syl with | some f => setBit a.2 f | none => a.2))) (0, 0)

/-- Writes to CL_TPC and CL_TBT made in a handler take effect at its end (R143). -/
def applyTpend (d : Dev) (l c : Nat) : Dev :=
  let d := (getCtx d l c).tpend.foldl (fun d e => rset d e.1 e.2) d
  updCtx d l c (fun x => { x with tpend := [] })

/-- The context resumes at an address, with its delay bundle due where DS says (R67, R142, R368). -/
def resumeAt (d : Dev) (l c : Nat) (addr btgt : Word) (ds : Bool) : Dev :=
  let md := modesNow d l c
  let act := (rget d (csOff l c 0x58)).toNat
  let gact := lanes (fun t => act.testBit t && tstate d l c t == 0 && tpc d l c t == addr.toNat)
  let follow : Tab Word := if md.gm then
      (List.range 64).foldl (fun f t =>
        if gact.testBit t ∧ rbit d (tbtOff l c t) CL_TBT.DS then
          Tab.insert f t (BitVec.ofNat 64 (rgetF d (tbtOff l c t) CL_TBT.ADDR * 4)) else f) []
    else []
  let dsHere : Bool := if md.gm then ds && gact != 0 else ds
  let d := if md.gm then onLanes gact d (fun d t => rsetB d (tbtOff l c t) CL_TBT.DS false) else d
  updCtx d l c (fun x => { x with
    pc := addr, cur := md, shadow := [], wb := none, dfault := none, swtrap := none, ufault := none,
    gsel := if md.gm ∧ gact ≠ 0 then some gact else none,
    delay := if dsHere then some ⟨!md.gm, btgt, gact, follow, x.vq.any (fun o => qopOp o == some .tbc)⟩ else none })

/-- The trap return (R368): from a double fault at Datum level with DOUBLE set, else at the level the context runs at,
reinstating the record of that slot. -/
def doTret (d : Dev) (l c lvl : Nat) : Dev :=
  let st := rget d (dtOff l c 0)
  if lvl = 3 ∧ isSet st DT_STATUS.DOUBLE then
    let sv := rget d (dtOff l c 0x60)
    let d := rset d (dtOff l c 0) (setF (setB st DT_STATUS.DOUBLE false) DT_STATUS.PLEV (getF sv DT_SAVE.PLEV))
    let d := rsetF d (csOff l c 0) ⟨0, 2⟩ (getF sv DT_SAVE.LACT)
    let d := rsetB d (csOff l c 0x48) CL_GCTL.MODE (isSet sv DT_SAVE.GM)
    resumeAt d l c (rget d (dtOff l c 0x68)) (rget d (dtOff l c 0x90)) (isSet sv DT_SAVE.DS)
  else
    let isD : Bool := lvl == 3
    let r := if isD then regsDT else regsSV
    let sv := rget d (dtOff l c r.save)
    let d := rset d (dtOff l c 0) (setF (rget d (dtOff l c 0)) DT_STATUS.PLEV (getF sv DT_SAVE.PLEV))
    let d := if isD then rsetB d (dtOff l c 0) DT_STATUS.ENTRY false
      else rsetB d (dtOff l c 0xC0) SV_STATUS.ENTRY false
    let d := rsetF d (csOff l c 0) ⟨0, 2⟩ (getF sv DT_SAVE.LACT)
    let d := rsetB d (csOff l c 0x48) CL_GCTL.MODE (isSet sv DT_SAVE.GM)
    let x := getCtx d l c
    let ends : Bool := x.handler == (if isD then 1 else 2) && isSet sv DT_SAVE.GM
    let d := if ends then updCtx (applyTpend d l c) l c (fun x => { x with handler := 0 }) else d
    let x := getCtx d l c
    let rec_ := (if isD then x.heldD else x.heldS).map (fun o => { o with fault := false })
    let (ps, pf) := pendMarks rec_
    let d := updCtx d l c (fun x => { x with
      vq := rec_.filter (fun o => !o.isX), xq := rec_.filter (fun o => o.isX),
      heldD := if isD then [] else x.heldD, heldS := if isD then x.heldS else [], pendS := ps, pendF := pf })
    let d := resumeAt d l c (rget d (dtOff l c r.resume)) (rget d (dtOff l c r.btgt)) (isSet sv DT_SAVE.DS)
    if isSet sv DT_SAVE.GM ∧ glive d l c = 0 then updCtx d l c (fun x => { x with stop := true }) else d

/-! ### Parking (R331) -/

/-- A context stops as for a trap and stays where it is: its unretired bundle goes, its operations keep their restart
points, no trap register is written (R331). Element groups already issued still arrive (R230). -/
def parkCtx (d : Dev) (l c : Nat) (p : Park) : Dev :=
  let (addr, act, _) := resumePoint d l c
  let gm := (getCtx d l c).cur.gm
  let d := accrue d l c
  let d := updCl d l (fun k => dropUnits k c)
  updCtx d l c (fun x => { x with
    wb := none, dfault := none, park := some p, pc := addr, gsel := if gm then some act else none,
    vp := { x.vp with yield := none, setup := false }, xp := { x.xp with setup := false } })

end Sys2Proof.Machine
end

