-- ==== Sys2Proof/Machine/Tiles.lean ====
section
/-!
DEFINITION. Tiles (spec/10 R249 to R255, R266): their state registers, declaring and releasing them, their elements.
-/
namespace Sys2Proof.Machine

/-- Offset of CL_TSTATE of a tile. -/
def tsOff (l t : Nat) : Nat := clOff l (0x480 + 8 * t)
/-- Is a tile in use? -/
def tInUse (d : Dev) (l t : Nat) : Bool := rbit d (tsOff l t) CL_TSTATE.INUSE
/-- Its owner. -/
def tOwner (d : Dev) (l t : Nat) : Nat := rgetF d (tsOff l t) CL_TSTATE.OWNER
/-- Its type: 0 binary32, 1 INT32, 2 binary64 pair, 3 complex pair, 4 partner of a pair. -/
def tType (d : Dev) (l t : Nat) : Nat := rgetF d (tsOff l t) CL_TSTATE.TYPE
/-- Its declared rows. -/
def tRows (d : Dev) (l t : Nat) : Nat := rgetF d (tsOff l t) CL_TSTATE.ROWSM1 + 1
/-- Its declared columns. -/
def tCols (d : Dev) (l t : Nat) : Nat := rgetF d (tsOff l t) CL_TSTATE.COLSM1 + 1
/-- Is a type one of a pair of tiles? -/
def isPair (ty : Nat) : Bool := ty == 2 || ty == 3
/-- Does the tile head a pair in use? -/
def headsPair (d : Dev) (l t : Nat) : Bool := tInUse d l t && isPair (tType d l t)
/-- Is the tile the partner of a pair in use? -/
def isPartner (d : Dev) (l t : Nat) : Bool := tInUse d l t && tType d l t == 4

/-- Every row of a tile zero. -/
def tZeroAll (d : Dev) (l t : Nat) : Dev :=
  updCl d l (fun k => { k with tiles := Tab.drop k.tiles (fun i => i / 64 == t),
                               badTile := Tab.drop k.badTile (fun i => i / 64 == t) })

/-- CL_TSTATE of a tile written. -/
def tSet (d : Dev) (l t ty owner rows cols : Nat) : Dev :=
  rset d (tsOff l t) (setF (setF (setF (setF (setB 0 CL_TSTATE.INUSE true) CL_TSTATE.OWNER owner) CL_TSTATE.TYPE ty)
    CL_TSTATE.ROWSM1 (rows - 1)) CL_TSTATE.COLSM1 (cols - 1))

/-- A tile released, and the partner of a pair it heads; the other fields keep their values (R254, R266). -/
def tRelease (d : Dev) (l t : Nat) : Dev :=
  let d := if headsPair d l t then rsetB d (tsOff l (t + 1)) CL_TSTATE.INUSE false else d
  rsetB d (tsOff l t) CL_TSTATE.INUSE false

/-- A tile declared, with its partner for a pair type: every element zero (R250). -/
def tDeclare (d : Dev) (l t ty owner rows cols : Nat) : Dev :=
  let d := tZeroAll (tSet (tRelease d l t) l t ty owner rows cols) l t
  if isPair ty then tZeroAll (tSet d l (t + 1) 4 owner rows cols) l (t + 1) else d

/-- A SETC to CL_TSTATE takes effect (R266). -/
def tstateWrite (d : Dev) (l o : Nat) (v : Word) : Dev :=
  let t := (o - tsOff l 0) / 8
  let v := fixStored o 0 v
  let ty0 := getF v CL_TSTATE.TYPE
  let ty := if 4 ≤ ty0 ∨ (t % 2 = 1 ∧ isPair ty0) then 0 else ty0
  let rows := getF v CL_TSTATE.ROWSM1 + 1
  let cols := getF v CL_TSTATE.COLSM1 + 1
  let ow := getF v CL_TSTATE.OWNER
  if !isSet v CL_TSTATE.INUSE then
    let d := tRelease d l t
    rset d (tsOff l t) (setB (setF v CL_TSTATE.TYPE ty) CL_TSTATE.INUSE false)
  else if !tInUse d l t then tDeclare d l t ty ow rows cols
  else
    let d := tSet d l t ty ow rows cols
    if isPair ty then tSet d l (t + 1) 4 ow rows cols else d

/-- A row of a tile. -/
def tRow (d : Dev) (l t r : Nat) : BitVec 512 := Tab.get 0 (getCl d l).tiles (64 * t + r)
/-- A row of a tile written. -/
def tPutRow (d : Dev) (l t r : Nat) (v : BitVec 512) : Dev :=
  updCl d l (fun k => { k with tiles := Tab.set 0 k.tiles (64 * t + r) v,
                               badTile := Tab.drop k.badTile (fun i => i == 64 * t + r) })

/-- Element (r, c) of a tile of a type as bits: a complex element has its imaginary part in the high half (R249). -/
def tGet (d : Dev) (l t ty r c : Nat) : Nat :=
  match ty with
  | 2 => if c < 8 then vbits (tRow d l t r) (64 * c) 64 else vbits (tRow d l (t + 1) r) (64 * (c - 8)) 64
  | 3 => vbits (tRow d l t r) (32 * c) 32 + vbits (tRow d l (t + 1) r) (32 * c) 32 <<< 32
  | _ => vbits (tRow d l t r) (32 * c) 32

/-- That element written. -/
def tPut (d : Dev) (l t ty r c v : Nat) : Dev :=
  match ty with
  | 2 => if c < 8 then tPutRow d l t r (vput (tRow d l t r) (64 * c) 64 v)
         else tPutRow d l (t + 1) r (vput (tRow d l (t + 1) r) (64 * (c - 8)) 64 v)
  | 3 =>
    let d := tPutRow d l t r (vput (tRow d l t r) (32 * c) 32 v)
    tPutRow d l (t + 1) r (vput (tRow d l (t + 1) r) (32 * c) 32 (v >>> 32))
  | _ => tPutRow d l t r (vput (tRow d l t r) (32 * c) 32 v)

/-- Is a row of a tile, or of its partner, uncorrectable? -/
def tBad (d : Dev) (l t ty r : Nat) : Bool :=
  let b (t : Nat) : Bool := (Tab.find? (getCl d l).badTile (64 * t + r)).isSome
  b t || (isPair ty && b (t + 1))

end Sys2Proof.Machine
end

