-- ==== Sys2Proof/Machine/Retire.lean ====
section
/-!
DEFINITION. Retirement, all or nothing (spec/03 R60): the effects of a bundle's A, B and M syllables, its V and X
operations entering their queues (R78), loop ends (R69), the mode shadow (R74, R75), a group's program counters.
-/
namespace Sys2Proof.Machine

/-! ### SETC (spec/04 R103, R104) -/

/-- A SETC to a register of the executing cluster, at retirement. -/
def setcApply (d : Dev) (l c o : Nat) (v : Word) : Dev :=
  let r := o - clOff l 0
  let all : Word := BitVec.ofNat 64 (ones 64)
  match clusterReg r with
  | none => mmErr d HB_MMERR.UNMAPPED (.cluster l) o
  | some m =>
    if r = 0x60 then startMask d l v.toNat
    else if r = 0x68 then stopMask d l v.toNat
    else if 0x480 ≤ r ∧ r < 0x4C0 then tstateWrite d l o v
    else if 0x2000 ≤ r ∧ r < 0x4000 then
      let k := (r % 0x1000) / 0x200
      let w := fixStored o (rget d o) (m.writeVal all v (rget d o))
      if !running d l k then rset d o w
      else if (getCtx d l k).handler ≠ 0 then updCtx d l k (fun x => { x with tpend := Tab.insert x.tpend o w })
      else d
    else if 0x1000 ≤ r ∧ r < 0x1400 then
      let k := (r - 0x1000) / 0x80
      let q := (r - 0x1000) % 0x80
      if q = 0x38 ∨ (q = 0x50 ∧ running d l k) ∨ (q < 0x38 ∧ k ≠ c) then d
      else regWrite d m o all v
    else regWrite d m o all v

/-- After a SETC: a context whose modes changed takes them in its shadow, which counts the SETC's own bundle when it retires and three more
(R74, R75); a change of CL_MEREBASE alone is in force at once for the other contexts (R283). -/
def shadowAfter (before : List Modes) (d : Dev) (l c : Nat) : Dev :=
  (List.range 8).foldl (fun d k =>
    let old := before.getD k Modes.empty
    let new := modesNow d l k
    if old = new then d
    else if k ≠ c ∧ { old with mbase := new.mbase } = new then
      updCtx d l k (fun x => { x with cur := { x.cur with mbase := new.mbase } })
    else updCtx d l k (fun x => { x with shadow := x.shadow ++ [(if k = c then 4 else 3, new)] })) d

/-- A SETC with the mode changes it makes. -/
def doSetc (d : Dev) (l c o : Nat) (v : Word) : Dev :=
  let before := (List.range 8).map (modesNow d l)
  shadowAfter before (setcApply d l c o v) l c

/-! ### Cache actions of fences (spec/06 R150, R159, spec/13 R308) -/

/-- The invalidation of an acquire at a scope: .B the L1; .D the L1, the clean sectors of the cluster cache and the side
buffer; .S also the peer and host lines of the quarter's cache. -/
def acquireAt (d : Dev) (l scope : Nat) : Dev :=
  if scope = 0 then d
  else
    let d := l1Clear d l
    if scope = 1 then d
    else
      let d := updCl d l (fun k => { k with
        cc := (k.cc.map (fun e => (e.1, slDropClean e.2))).filter (fun e => !slEmpty e.2), side := [] })
      let d := rsetF d (clOff l 0x708) CL_PFCTL.LINES 0
      if scope = 2 then d
      else
        let q := quarterOf d l
        updQ d q (fun u => { u with qc := u.qc.filter (fun e =>
          match resolveWin d (e.2.ln * 512) with
          | some (.peer _ _, _) => false
          | some (.host _, _) => false
          | _ => true) })

/-- The dirty sectors of a cluster are written to their home points (R150, a cleaning at device scope). -/
def cleanCluster (d : Dev) (l : Nat) : Dev :=
  (getCl d l).cc.foldl (fun d e =>
    let d := cleanLineNow d l e.2
    ccPut d l e.1 { e.2 with dirty := 0, full := (List.range 8).foldl (fun a s =>
      if bitsOf e.2.dirty.toNat (64 * s) 64 == ones 64 then setBit a s else a) e.2.full }) d

/-! ### Effects -/

/-- A store of a retired bundle enters the memory system (R60, R91). -/
def doStore (d : Dev) (l c : Nat) (mere : Bool) (a n v : Nat) : Dev :=
  if mere then mereWrite d l a n v
  else
    match resolveWin d a with
    | some (t, at_) =>
      match placeTract d a (quarterOf d l) true t with
      | .mgmt o => (mgmtWrite d (.cluster l) o n (BitVec.ofNat 64 v)).2
      | t => clusterStore d l c a t (attrQ at_) n (ones n) v (.scalar c)
    | none => d

/-- The free request entries of a cluster. -/
def freeEntries (d : Dev) (l : Nat) : Nat := 384 - (reqsOf d l).length

/-- A prefetch of the 512-byte line at a device address: hint 0 fills the side buffer, hint 1 the quarter cache (R306,
R309); it asks only for sectors not held. -/
def doPref (d : Dev) (l c hint da : Nat) : Dev :=
  if !rbit d (clOff l 0x708) CL_PFCTL.EN ∨ freeEntries d l < 64 then d
  else
    match resolveWin d da with
    | some (t0, at_) =>
      let held (s : Nat) : Bool :=
        let a := da / 512 * 512 + 64 * s
        (match sideFind d l a with | some x => x.full.testBit s | none => false) ||
        (match ccFind d l a with | some (_, x) => x.full.testBit s | none => false)
      match t0 with
      | .mgmt _ => d
      | _ =>
        (List.range 8).foldl (fun d s =>
          let a := da / 512 * 512 + 64 * s
          match resolveWin d a with
          | some (t, _) =>
            if (hint = 0 ∧ held s) ∨ (hint = 1 ∧ !attrQ at_) then d
            else newReq d { cl := l, ctx := c, src := .prefetch hint, kind := .read, da := a,
                            tgt := placeTract d a (quarterOf d l) false t, qcache := attrQ at_, len := 64, mask := 0,
                            data := 0, stage := .toQuarter, out := 0, status := 0, elem := 0 }
          | none => d) d
    | none => d

/-- A copy becomes outstanding at its bundle's retirement (R289, R297). -/
def addCopy (d : Dev) (l c : Nat) (w : List Word) (md : Modes) : Dev :=
  let xl := rget d (clOff l (0xC00 + 8 * c))
  let cp : Copy := { ctx := c, w := w, plev := md.plev, xen := isSet xl CL_XLAT.EN && md.plev != 3,
                     asid := getF xl CL_XLAT.ASID, active := false, row := 0, col := 0, park := none,
                     pass := 0, fail := none, done := false }
  refreshCpstat (updCl d l (fun k => { k with copies := Tab.insert k.copies (Tab.fresh k.copies) cp })) l c

/-- Where execution goes after a bundle. -/
structure Next where
  pc : Word
  delay : Option Delay
  tret : Bool
  swtrap : Option Word

/-- One effect at retirement (R60). -/
def applyEff (l c : Nat) (b : WB) (p : Dev × Next) (e : Eff) : Dev × Next :=
  let (d, nx) := p
  match e with
  | .sreg r v => (updCtx d l c (fun x => swrite x r v), nx)
  | .fflags f => (rset d (csOff l c 0x40) (rget d (csOff l c 0x40) ||| BitVec.ofNat 64 (f % 32)), nx)
  | .branch taken tgt => (d, { nx with delay := some ⟨taken, tgt, b.act, [], false⟩ })
  | .loopTake n fin =>
    let st := rget d (csOff l c 0)
    let i := if isSet st CL_LSTAT.ACT0 then 1 else 0
    let d := rset d (lstartOff l c i) nx.pc
    let d := rset d (lendOff l c i) fin
    let d := rset d (lcountOff l c i) n
    let d := rset d (csOff l c 0) (setB st (if i = 0 then CL_LSTAT.ACT0 else CL_LSTAT.ACT1) true)
    (if b.md.gm then updCtx d l c (fun x =>
        if i = 0 then { x with lset0 := b.act } else { x with lset1 := b.act &&& x.lset0 }) else d, nx)
  | .loopSkip next => (d, { nx with pc := next })
  | .lbrk =>
    (match innermost d l c with
     | some i => rset (rsetB d (csOff l c 0) (if i = 0 then CL_LSTAT.ACT0 else CL_LSTAT.ACT1) false) (lcountOff l c i) 0
     | none => d, nx)
  | .fencei => (updCl d l (fun k => { k with lbuf := [] }), nx)
  | .store mere a n v => (doStore d l c mere a n v, nx)
  | .setc o v => (doSetc d l c o v, nx)
  | .sevt bits desc => (sendEvents d bits desc, nx)
  | .evclr bits =>
    (rset d (clOff l 0x50) (rget d (clOff l 0x50) &&& ~~~ (BitVec.ofNat 64 bits)), nx)
  | .copy w => (addCopy d l c w b.md, nx)
  | .pref hint da => (doPref d l c hint da, nx)
  | .swtrap code => (d, { nx with swtrap := some (BitVec.ofNat 64 code) })
  | .tack =>
    (if b.md.plev = 3 then rsetB d (dtOff l c 0) DT_STATUS.ENTRY false
     else rsetB d (dtOff l c 0xC0) SV_STATUS.ENTRY false, nx)
  | .tret => (d, { nx with tret := true })
  | .vcfg v => (rset d (csOff l c 0x70) v, nx)
  | .ifload slot ops =>
    (updCtx d l c (fun x => if slot = 0 then { x with heldD := ops } else { x with heldS := ops }), nx)
  | .acquire scope => (acquireAt d l scope, nx)
  | .cmoAt _ => (d, nx)

/-- A bundle at the end address of the innermost level retires: the count falls; the level ends at zero, and then the
outer level acts if it shares the end address (R69). The next bundle, if a level loops back. -/
def loopEnd (d : Dev) (l c : Nat) (addr : Word) : Nat → Dev × Option Word
  | 0 => (d, none)
  | n + 1 =>
    match innermost d l c with
    | some i =>
      if rget d (lendOff l c i) = addr then
        let k := rget d (lcountOff l c i) - 1
        let d := rset d (lcountOff l c i) k
        if k ≠ 0 then (d, some (rget d (lstartOff l c i)))
        else
          let d := rsetB d (csOff l c 0) (if i = 0 then CL_LSTAT.ACT0 else CL_LSTAT.ACT1) false
          loopEnd d l c addr n
      else (d, none)
    | none => (d, none)

/-- The V or X operation of a bundle as it enters its queue, with operands captured before any write (R54, R78). -/
def queued (d : Dev) (l c : Nat) (b : WB) (w : Syllable) (isX : Bool) : QOp :=
  let x := getCtx d l c
  { isX := isX, addr := b.addr, syl := w, md := b.md, vcfg := rget d (csOff l c 0x70),
    ops := (vssrc b.md.gm w).map (sread x), act := b.act, pos := 0, fault := false }

/-- Is the X syllable of a group's bundle performed in this issue: is its issuing lane active (R135)? -/
def xIssued (b : WB) : Bool := !b.md.gm || !b.md.xnamed || b.act.testBit b.md.xlane

/-- A queued operation put at the end of its unit's queue, and what it will write marked pending (R79). -/
def enqueue (d : Dev) (l c : Nat) (o : QOp) : Dev :=
  let (ps, pf) := pendMarks [o]
  updCtx d l c (fun x => { x with
    vq := if o.isX then x.vq else x.vq ++ [o], xq := if o.isX then x.xq ++ [o] else x.xq,
    pendS := x.pendS ||| ps, pendF := x.pendF ||| pf })

/-- The mode shadow counts a bundle; a change whose three bundles have gone is in force (R74, R123). -/
def tickShadow (d : Dev) (l c : Nat) : Dev :=
  let x := getCtx d l c
  let sh := x.shadow.map (fun e => (e.1 - 1, e.2))
  let due := (sh.filter (fun e => e.1 == 0)).getLast?
  let d := updCtx d l c (fun x => { x with shadow := sh.filter (fun e => e.1 != 0) })
  match due with
  | none => d
  | some (_, md) =>
    let was := x.cur.gm
    let d := updCtx d l c (fun x => { x with cur := md })
    if md.gm ∧ !was then
      let live := glive d l c
      let pc := (getCtx d l c).pc
      let d := onLanes live d (fun d t => setTpc d l c t 0 pc.toNat)
      let d := updCtx d l c (fun x => { x with yielded := [], starve := [], gsel := none })
      if live = 0 then updCtx d l c (fun x => { x with stop := true }) else d
    else if !md.gm ∧ was ∧ glive d l c = 0 then updCtx d l c (fun x => { x with stop := true })
    else if !md.gm ∧ was then
      -- the single thread continues where the group's active set stood
      match lowestPc d l c (runnable d l c) with
      | some a => updCtx d l c (fun x => { x with pc := BitVec.ofNat 64 a, gsel := none })
      | none => d
    else d

/-- The context's program counters after a bundle: one counter in vector mode, those of the active set in group mode. -/
def advance (d : Dev) (l c : Nat) (b : WB) (next : Word) (dl : Option Delay) : Dev :=
  let x := getCtx d l c
  if b.md.gm then
    let d := match b.isDelay, x.delay with
      | true, some old => onLanes b.act d (fun d t => setPcT d l c t (followOf old next t).toNat)
      | _, _ => onLanes b.act d (fun d t => setPcT d l c t next.toNat)
    updCtx d l c (fun x => { x with delay := dl, pc := next, gsel := none })
  else
    let pc := match b.isDelay, x.delay with
      | true, some old => if old.taken then old.tgt else next
      | _, _ => next
    updCtx d l c (fun x => { x with delay := dl, pc := pc })

/-- Have the bundle's A, B and M syllables completed, and has the branch before a delay bundle resolved (R60, R120)? -/
def complete (d : Dev) (l c : Nat) : Bool :=
  let x := getCtx d l c
  let ok (s : Option Syl) : Bool := match s with | some y => y.st == .done | none => true
  match x.wb with
  | some b => ok b.a && ok b.b && ok b.m &&
      (!b.isDelay || (match x.delay with | some dl => !dl.unresolved | none => true))
  | none => false

/-- The thread branch of a bundle's V syllable, if it has one (R120). -/
def threadBranch (b : WB) : Bool :=
  b.md.gm && (match b.v with | some w => (match sylOp true 0 w with | some o => o == .tbc | none => false) | none => false)

/-- The V syllables that act at retirement and enter no queue: TEXIT and GYIELD (R122, R128), GVOTE, GSHFL and GBAR
(R137). -/
def isNoQ (b : WB) (w : Syllable) : Bool :=
  b.md.gm && (match sylOp true 0 w with
    | some o => o == .texit || o == .gyield || o == .gvote || o == .gshfl || o == .gbar
    | none => false)

/-- The bundle in W retires (R60). -/
def retireBundle (d : Dev) (l c : Nat) : Dev :=
  match (getCtx d l c).wb with
  | none => d
  | some b =>
    let ov := b.v.bind (fun w => if isNoQ b w then none else some (queued d l c b w false))
    let ox := b.x.bind (fun w => if xIssued b then some (queued d l c b w true) else none)
    let seq := b.addr + BitVec.ofNat 64 (4 * b.len)
    let (d, back) := loopEnd d l c b.addr 2
    let effs (s : Option Syl) : List Eff := match s with | some y => y.eff | none => []
    let start : Next := ⟨back.getD seq, none, false, none⟩
    let (d, nx) := (effs b.a ++ effs b.b ++ effs b.m).foldl (applyEff l c b) (d, start)
    let dl : Option Delay := match nx.delay with
      | some x => some x
      | none => if threadBranch b then some ⟨false, 0, b.act, [], true⟩ else none
    let d := advance d l c b nx.pc dl
    let d := updCtx d l c (fun x => { x with wb := none, swtrap := nx.swtrap })
    let d := updCl d l (fun k => { k with evq := k.evq.filter (· != c) })
    let d := if nx.tret then doTret d l c b.md.plev else tickShadow d l c
    let d := match ov with | some o => enqueue d l c o | none => d
    match ox with | some o => enqueue d l c o | none => d

/-- The bundle in W retires (R60). A collective's bundle does not retire this way (R137). -/
def retire (d : Dev) (l c : Nat) : Dev := settleReset d (retireBundle d l c) l

/-- The bundle retires where it may, else nothing changes. -/
def retireIf (d : Dev) (l c : Nat) : Dev := if complete d l c then retire d l c else d

/-- An A, B or M syllable of the bundle in W, by slot. -/
def getSyl (b : WB) (slot : Nat) : Option Syl := if slot = 0 then b.a else if slot = 1 then b.b else b.m

/-- That syllable replaced. -/
def putSyl (b : WB) (slot : Nat) (y : Syl) : WB :=
  if slot = 0 then { b with a := some y } else if slot = 1 then { b with b := some y } else { b with m := some y }

/-- The syllable in a slot set to a state with effects. -/
def setSyl (d : Dev) (l c slot : Nat) (st : SylSt) (eff : List Eff) : Dev :=
  updCtx d l c (fun x => match x.wb with
    | some b => (match getSyl b slot with
        | some y => { x with wb := some (putSyl b slot { y with st := st, eff := eff }) }
        | none => x)
    | none => x)

/-- The syllable in a slot when its operation is `op` and it is in state `st`. -/
def sylFor (d : Dev) (l c slot : Nat) (op : Op) (p : SylSt → Bool) : Option (WB × Syl) :=
  match (getCtx d l c).wb with
  | some b =>
    (match getSyl b slot with
     | some y => if p y.st ∧ sylOp b.md.gm (rget d (csOff l c 0x70)) y.word = some op then some (b, y) else none
     | none => none)
  | none => none

/-- A syllable faults. -/
def failSyl (d : Dev) (l c slot : Nat) (t : Trap) : Dev := setSyl d l c slot (.faulted t) []

/-- The fault of the bundle in W: that of the lowest faulting slot, once every lower slot has completed (R93). -/
def bundleFault (b : WB) : Option Trap :=
  let st (s : Option Syl) : SylSt := match s with | some y => y.st | none => .done
  match st b.a with
  | .faulted t => some t
  | .done =>
    (match st b.b with
     | .faulted t => some t
     | .done => (match st b.m with | .faulted t => some t | _ => none)
     | _ => none)
  | _ => none

end Sys2Proof.Machine
end

