-- ==== Sys2Proof/Machine/Records.lean ====
section
/-!
DEFINITION. TLBs (spec/14 R323, R324) and fault records (spec/14 R330, R331, R333): creating or joining one, parking an
item on it.
-/
namespace Sys2Proof.Machine

/-! ### TLBs -/

/-- An entry added to a TLB of `cap` entries: an entry for the same page goes, and a full TLB loses one that the
hardware chooses. -/
def tlbAdd (cap : Nat) (pick : Nat) (t : List Tlb) (e : Tlb) : List Tlb :=
  let t := t.filter (fun x => !(x.asid == e.asid && x.vpn == e.vpn && x.lg == e.lg))
  if t.length < cap then t ++ [e] else (t.eraseIdx (pick % cap)) ++ [e]

/-- An entry put into a cluster TLB of 64 entries. -/
def clusterTlb (d : Dev) (l : Nat) (e : Tlb) : Dev :=
  let (i, d) := d.choose 64
  updCl d l (fun k => { k with tlb := tlbAdd 64 i k.tlb e })

/-- An entry put into a quarter TLB of 4,096 entries. -/
def quarterTlb (d : Dev) (q : Nat) (e : Tlb) : Dev :=
  let (i, d) := d.choose 4096
  updQ d q (fun u => { u with tlb := tlbAdd 4096 i u.tlb e })

/-- The quarter TLB entry that allows an access. -/
def quarterHit (d : Dev) (q asid : Nat) (a : Word) (user : Bool) (k : AccKind) : Option Tlb :=
  (getQ d q).tlb.find? (fun e => tlbAllows e asid a user k)

/-- A write-class access to a replicated tract discards its replicas first (R335). -/
def dropReplicas (d : Dev) (k : AccKind) (r : AccRes) : Dev :=
  match k, r with
  | .wr, .ok da _ _ =>
    if (tractOf d da).repl = [] then d else updTract d (da / tractLen) (fun x => { x with repl := [] })
  | _, _ => d

/-- An access, with a cluster TLB miss that hits the quarter TLB filled on the way (R324). -/
def accessQ (d : Dev) (l : Nat) (md : Modes) (va : Word) (k : AccKind) : AccRes × Dev :=
  match access d l md va k with
  | .walk =>
    (match quarterHit d (quarterOf d l) md.asid va (md.plev == 0) k with
     | some e =>
       let d := clusterTlb d l e
       let r := access d l md va k
       (r, dropReplicas d k r)
     | none => (.walk, d))
  | r => (r, dropReplicas d k r)

/-! ### Fault records -/

/-- The lowest record index of a quarter that is free, of its 1,024. -/
def freeRec (u : Quarter) : Option Nat := findUpto 1024 (fun i => (Tab.find? u.recs i).isNone)

/-- The outstanding record of the same space, page and access class (R330). -/
def sameRec (u : Quarter) (asid : Nat) (va : Word) (acc : Nat) : Option (Nat × FRec) :=
  List.find? (fun e : Nat × FRec => e.2.asid == asid && e.2.va.toNat / 4096 == va.toNat / 4096 && e.2.access == acc) u.recs

/-- A fault joins an outstanding record or takes a free one; none when no record is free (R330). `first` names the item. -/
def joinRecord (d : Dev) (q : Nat) (va : Word) (kind acc level asid : Nat) (dev : Word) (first : Nat) :
    Option (Nat × Dev) :=
  let u := getQ d q
  match sameRec u asid va acc with
  | some (i, r) =>
    some (i, updQ d q (fun u => { u with recs := Tab.insert u.recs i { r with waiters := satAdd 0xFFFF r.waiters 1 } }))
  | none =>
    match freeRec u with
    | some i =>
      let r : FRec := { va := va, kind := kind, access := acc, level := level, asid := asid, waiters := 1, dev := dev,
                        first := first, sent := false }
      some (i, refreshOpen (updQ d q (fun u => { u with recs := Tab.insert u.recs i r })))
    | none => none

/-- The name of a context item in a record (R330, FIRST). -/
def firstCtx (l c : Nat) : Nat := l % 1024 + 1024 * (c % 8)
/-- The name of a copy item. -/
def firstCopy (l c : Nat) : Nat := l % 1024 + 1024 * (c % 8) + 8192

/-- A context's fault that the host must answer: it joins or creates a record and the context parks; with no record
free it parks and waits for one (R330, R331). A stopping context takes nothing (R122): its bundle goes, and a vector
operation that faults stops there with those behind it. -/
def faultCtx (d : Dev) (l c : Nat) (va : Word) (kind acc level asid : Nat) (dev : Word) (vec : Bool) : Dev :=
  let x := getCtx d l c
  if x.stop then
    let d := updCl d l (fun k => { k with vrun := if vec ∧ k.vrun = some c then none else k.vrun })
    updCtx d l c (fun x => { x with wb := if vec then x.wb else none, vq := if vec then [] else x.vq,
                                    vp := if vec then Prog.empty else x.vp })
  else
    let q := quarterOf d l
    let t : Trap := ⟨if acc = 2 then 1 else 7, va⟩
    let p (tag : Option Nat) : Park := ⟨tag, t, acc, kind, level, dev, vec⟩
    match joinRecord d q va kind acc level asid dev (firstCtx l c) with
    | some (i, d) => parkCtx d l c (p (some (q * 1024 + i)))
    | none => updQ (parkCtx d l c (p none)) q (fun u => { u with recWait := u.recWait ++ [.ctx l c] })

/-! ### The next bytes of a copy (spec/12 R285, R286) -/

/-- LEN. -/
def cpLen (cp : Copy) : Nat := getF (cp.w.getD 2 0) ⟨0, 32⟩
/-- ROWS, with 0 for one row. -/
def cpRows (cp : Copy) : Nat := max 1 (getF (cp.w.getD 2 0) ⟨32, 12⟩)
/-- CTR. -/
def cpCtr (cp : Copy) : Nat := getF (cp.w.getD 2 0) ⟨44, 4⟩
/-- KIND: 0 copy, 1 prefetch, 2 fill. -/
def cpKind (cp : Copy) : Nat := getF (cp.w.getD 2 0) ⟨48, 3⟩
/-- SRCM. -/
def cpSrcM (cp : Copy) : Bool := isSet (cp.w.getD 2 0) ⟨51, 1⟩
/-- DSTM. -/
def cpDstM (cp : Copy) : Bool := isSet (cp.w.getD 2 0) ⟨52, 1⟩
/-- CC. -/
def cpCC (cp : Copy) : Bool := isSet (cp.w.getD 2 0) ⟨53, 1⟩
/-- The signed source or destination stride (`i` 0 or 1). -/
def cpStride (cp : Copy) (i : Nat) : Int := sgn 32 (getF (cp.w.getD 3 0) ⟨32 * i, 32⟩)
/-- The source or destination address of row `r` (R286). -/
def cpAddr (cp : Copy) (i r : Nat) : Word := addDisp (cp.w.getD i 0) (r * cpStride cp i)

/-- The next bytes of a copy: within one sector of the source and one of the destination. -/
structure CUnit where
  src : Word
  dst : Word
  n : Nat

/-- The next bytes of a copy, none at its end. -/
def copyUnit (cp : Copy) : Option CUnit :=
  if cpLen cp = 0 ∨ cpRows cp ≤ cp.row then none
  else
    let s := cpAddr cp 0 cp.row + BitVec.ofNat 64 cp.col
    let t := cpAddr cp 1 cp.row + BitVec.ofNat 64 cp.col
    let n := cpLen cp - cp.col
    let n := if cpKind cp = 2 then n else min n (64 - s.toNat % 64)
    let n := if cpKind cp = 1 then n else min n (64 - t.toNat % 64)
    some ⟨s, t, n⟩

/-- A copy past `n` more bytes of its row. -/
def copySkip (cp : Copy) (n : Nat) : Copy :=
  if cp.col + n < cpLen cp then { cp with col := cp.col + n } else { cp with col := 0, row := cp.row + 1 }

/-- A copy's fault that the host must answer: the copy parks (R292); a prefetch skips the bytes (R288). -/
def faultCopy (d : Dev) (l id : Nat) (va : Word) (kind acc level asid : Nat) (dev : Word) : Dev :=
  match Tab.find? (getCl d l).copies id with
  | none => d
  | some cp =>
    let q := quarterOf d l
    let t : Trap := ⟨7, va⟩
    let park (d : Dev) (tag : Option Nat) : Dev :=
      setCopy d l id { cp with active := false, park := some ⟨tag, t, acc, kind, level, dev, false⟩ }
    if cpKind cp = 1 then (match copyUnit cp with | some u => setCopy d l id (copySkip cp u.n) | none => d)
    else match joinRecord d q va kind acc level asid dev (firstCopy l cp.ctx) with
    | some (i, d) => park d (some (q * 1024 + i))
    | none => updQ (park d none) q (fun u => { u with recWait := u.recWait ++ [.copy l id] })

end Sys2Proof.Machine
end

