-- ==== Sys2Proof/Machine/Pipeline.lean ====
section
/-!
DEFINITION. The pipeline's commands: issue (spec/03 R55, R57, R58, spec/05 R125, R126, R130, R132, R133), retirement (R60),
the instruction cache fill (R62, spec/13 R303), trap and interrupt entry (spec/16 R358, R372, R373, spec/03 R81, R505),
starting, stopping and ending contexts (spec/05 R121, R122).
-/
namespace Sys2Proof.Machine

/-! ### Events that a bundle waits for -/

/-- The bits that a waiting WEVT or WTAL consumes now, of those in `avail`; none while its condition does not hold
(R107, R108). -/
def eventReady (d : Dev) (l c avail : Nat) : Option Word :=
  let x := getCtx d l c
  let ev (r : Nat) : Word := rget d (clOff l 0x50) &&& sread x r &&& BitVec.ofNat 64 (avail % 2 ^ 32)
  match sylFor d l c 1 .wevt (· == .held) with
  | some (_, y) =>
    let m := (sread x (fRA y.word)).toNat % 2 ^ 32
    if ev (fRA y.word) ≠ 0 ∨ m = 0 then some (ev (fRA y.word)) else none
  | none =>
    match sylFor d l c 1 .wtal (· == .held) with
    | some (_, y) =>
      if ev (fRB y.word) ≠ 0 then some (ev (fRB y.word))
      else if (sread x (fRA y.word)).toNat ≤ (rget d (clOff l 0x40)).toNat then some 0 else none
    | none => none

/-- The destination of the syllable in slot B of the bundle in W. -/
def bDest (x : Ctx) : Nat := match x.wb with | some b => (match b.b with | some y => fRD y.word | none => 0) | none => 0

/-- One waiting context settled: its bundle retires with the bits it consumes, or, while the bundle's other syllables
are not done, it keeps the bits from those that waited later. -/
def settleOne (l : Nat) (p : Dev × Nat) (c : Nat) : Dev × Nat :=
  let (d, avail) := p
  match eventReady d l c avail with
  | some e =>
    let d2 := setSyl d l c 1 .done [.sreg (bDest (getCtx d l c)) e, .evclr e.toNat]
    if complete d2 l c then (retire d2 l c, avail - (avail &&& e.toNat))
    else (d, avail - (avail &&& e.toNat))
  | none => p

/-- The waiting contexts of a cluster settled in the order they began to wait (R107). -/
def settle (d : Dev) (l : Nat) : Dev :=
  ((getCl d l).evq.foldl (settleOne l) (d, ones 32)).1

/-! ### Issue -/

/-- The device addresses of `n` words of code from `va`. -/
def codeAddrs (d : Dev) (l : Nat) (md : Modes) (va : Word) (n : Nat) : List Nat :=
  (List.range n).filterMap (fun i =>
    match access d l md (va + BitVec.ofNat 64 (4 * i)) .fe with | .ok da _ _ => some da | _ => none)

/-- Starvation counts after a group issues for an active set (R125). -/
def starveAfter (d : Dev) (l c act : Nat) : Tab Nat :=
  let x := getCtx d l c
  let elig := runnable d l c &&& loopAdmits d l c
  (List.range 64).foldl (fun t i =>
    if act.testBit i then Tab.set 0 t i 0
    else if elig.testBit i then Tab.set 0 t i (Tab.get 0 t i + 1) else t) x.starve

/-- Yields after a group issues for an active set (R128). -/
def yieldAfter (d : Dev) (l c act : Nat) : Tab Nat :=
  let run := runnable d l c
  let left : Tab Nat := (getCtx d l c).yielded.filterMap (fun e =>
    let w := clrMask (e.2 &&& run) act
    if w = 0 then none else some (e.1, w))
  let m := lanes (fun t => (Tab.find? left t).isSome)
  if run &&& m == run then [] else left
where
  /-- The bits of the first mask that are not in the second. -/
  clrMask (a b : Nat) : Nat := a - (a &&& b)

/-- The syllable of a slot, waiting to execute. -/
def sylIn (ws : List Syllable) (s : Nat) : Option Syl :=
  (ws.find? (fun w => slotOf w == s)).map (fun w => ⟨w, .ready, []⟩)

/-- The bundle of a context leaves D: its first decode fault is raised, or it issues with the modes now in force (R55,
R57, R74). `cnt` contexts passed over are counted (R130). -/
def issueCtx (d : Dev) (l c : Nat) : Dev :=
  match readyBundle d l c with
  | none => d
  | some (a, act, ds, _) =>
    let x := getCtx d l c
    match fetchWords d l x.cur 5 a [] with
    | .trap t => updCtx d l c (fun x => { x with dfault := some t })
    | .miss va da => faultCtx d l c va 0x06 2 0xFF x.cur.asid (BitVec.ofNat 64 da) false
    | .words ws =>
      (match decodeCheck d l c x.cur (rget d (csOff l c 0x70)) a ds ws with
       | some t => updCtx d l c (fun x => { x with dfault := some t })
       | none =>
         let b : WB := { addr := a, len := ws.length, act := act, md := x.cur, isDelay := ds, a := sylIn ws 0,
                         b := sylIn ws 1, m := sylIn ws 2, v := ws.find? (fun w => slotOf w == 3),
                         x := ws.find? (fun w => slotOf w == 4) }
         let st := if x.cur.gm then starveAfter d l c act else x.starve
         let yl := if x.cur.gm then yieldAfter d l c act else x.yielded
         let d := bufferLines d l (codeAddrs d l x.cur a ws.length)
         let d := rset d (clOff l 0x48) (rget d (clOff l 0x48) + 1)
         updCtx d l c (fun x => { x with wb := some b, starve := st, yielded := yl, gsel := none }))
    | _ => d

/-- The contexts of `cs` issued; those ready and passed over count one more bundle (R130). -/
def issueAll (d : Dev) (l : Nat) (cs : List Nat) : Dev :=
  let others := filterUpto 8 (fun c => (readyBundle d l c).isSome && !cs.contains c)
  let d := cs.foldl (fun d c => updCtx (issueCtx d l c) l c (fun x => { x with wait64 := 0 })) d
  others.foldl (fun d c => updCtx d l c (fun x => { x with wait64 := x.wait64 + cs.length })) d

/-- BUNDLE_ISSUE: none while a re-plat quiesces (spec/02 R49). -/
def bundleIssue (l : Nat) (d : Dev) : Dev :=
  if d.replat.isSome then d
  else match chooseCtx d l with
    | some c => issueAll d l [c]
    | none => d

/-- May these contexts of a cluster be packed (R132)? -/
def packOk (d : Dev) (l : Nat) (cs : List Nat) : Bool :=
  let bun (c : Nat) := readyBundle d l c
  let one (c : Nat) : Option (Word × Nat × Nat × List Syllable × Modes × Word) :=
    match bun c with
    | some (a, act, ds, ws) =>
      let x := getCtx d l c
      let g := rget d (csOff l c 0x48)
      (match ws with
       | [w] =>
         if x.cur.gm ∧ isSet g CL_GCTL.PACK_EN ∧ !ds ∧ slotOf w = 3 ∧ (sylOp true 0 w).isSome ∧
            (majorOf w ≤ 0x1E ∨ (0x20 ≤ majorOf w ∧ majorOf w ≤ 0x23)) ∧ (innermost d l c).isNone ∧ x.shadow = []
         then some (a, act, getF g CL_GCTL.BLOCK, ws, x.cur, 0) else none
       | _ => none)
    | none => none
  match cs with
  | [] => false
  | c0 :: rest =>
    match one c0 with
    | none => false
    | some (a0, act0, blk0, _, md0, _) =>
      (rest.foldl (fun (p : Bool × Nat) c =>
        match one c with
        | some (a, act, blk, _, md, _) =>
          (p.1 && a == a0 && blk == blk0 && act &&& p.2 == 0 && md.plev == md0.plev && md.rm == md0.rm &&
            md.tnv == md0.tnv && md.tdz == md0.tdz, p.2 ||| act)
        | none => (false, p.2)) (true, act0)).1

/-- PACKED_ISSUE: several groups issue one bundle, in ascending CL_CSEQ, each as it would alone (R132, R133). -/
def packedIssue (l groups : Nat) (d : Dev) : Dev :=
  let cs := filterUpto 8 (fun c => groups.testBit c)
  let ord := cs.mergeSort (fun a b => decide ((rget d (csOff l a 0x60)).toNat ≤ (rget d (csOff l b 0x60)).toNat))
  match chooseCtx d l with
  | some c => if cs.contains c ∧ 2 ≤ cs.length ∧ packOk d l cs ∧ d.replat.isNone then issueAll d l ord else d
  | none => d

/-! ### Retirement -/

/-- Has the bundle in W a syllable with its own command of retirement: a collective, GYIELD or TEXIT? -/
def ownRetire (b : WB) : Bool :=
  (match b.v with | some w => isNoQ b w | none => false) ||
  (b.md.gm && (match b.x with
    | some w => (match sylOp true 0 w with | some o => isCollective o | none => false)
    | none => false))

/-- BUNDLE_RETIRE. -/
def bundleRetire (l c : Nat) (d : Dev) : Dev :=
  match (getCtx d l c).wb with
  | some b => if ownRetire b then d else settle (retireIf d l c) l
  | none => d

/-! ### Instruction fetch beyond the buffers -/

/-- The code address a context needs next: that of its next bundle, or, for a CALL or a LOOP of count zero in W, that
of the bundle whose length it must know (R56, R68). -/
def wantCode (d : Dev) (l c : Nat) : Option (Word × Modes) :=
  let x := getCtx d l c
  match x.wb with
  | none => if running d l c ∧ x.park.isNone ∧ !x.stop then (nextBundle d l c).map (fun p => (p.1, x.cur)) else none
  | some b =>
    match b.b with
    | some y =>
      let aft := b.addr + BitVec.ofNat 64 (4 * b.len)
      if y.st ≠ .ready then none
      else if majorOf y.word = 0x31 ∨ majorOf y.word = 0x34 then some (aft, b.md)
      else if majorOf y.word = 0x35 ∧ sread x (fRD y.word) = 0 then
        some (aft + BitVec.ofNat 64 (4 * fld y.word 0 17), b.md)
      else none
    | none => none

/-- A line of code put in the line buffer and, when it is in use, in the instruction cache (R62, R303, R304). -/
def fillCode (d : Dev) (l da v : Nat) : Dev :=
  let x : Line := ⟨da / 64, BitVec.ofNat 512 v⟩
  let d := updCl d l (fun k => { k with
    lbuf := (((k.lbuf.filter (fun y => y.ln != x.ln)) ++ [x]).reverse.take 2).reverse })
  if icOn d l then
    let base := da / 64 % 256 * 4
    let t := (getCl d l).ic
    let (w, d) := match (List.range 4).find? (fun w => (Tab.find? t (base + w)).isNone) with
      | some w => (w, d)
      | none => d.choose 4
    updCl d l (fun k => { k with ic := Tab.insert k.ic (base + w) x })
  else d

/-- The bytes of a line that the cluster's own cluster cache holds dirty, over the fetched ones (R303). -/
def dirtyOver (d : Dev) (l da v : Nat) : Nat :=
  match ccFind d l da with
  | some (_, x) =>
    let s := da / 64 % 8
    mergeBytes 64 (bitsOf x.dirty.toNat (64 * s) 64) v (slRead x (64 * s) 64)
  | none => v

/-- INSTRUCTION_CACHE_MISS_FILL: the line that a context's fetch misses arrives (R62). A line of a stack comes from its
home point; one of a peer or the host is first asked for by a message. -/
def icacheFill (l c : Nat) (d : Dev) : Dev :=
  match wantCode d l c with
  | none => d
  | some (va, md) =>
    match fetchWords d l md 5 va [] with
    | .line da t attr =>
      let la := da / 64 * 64
      (match t with
       | .stack k off =>
         let (v, bad) := homeRead d la k (off / 64 * 64) 64
         let d := homeNote d la k off 1
         if bad then updCtx d l c (fun x => { x with dfault := some (mcheck 1 (BitVec.ofNat 64 la)) })
         else fillCode d l la (dirtyOver d l la v)
       | .mgmt _ => updCtx d l c (fun x => { x with dfault := some ⟨1, va⟩ })
       | .peer p off =>
         icacheRemote d l c la (.peer p (off / 64 * 64)) attr
       | .host off => icacheRemote d l c la (.host (off / 64 * 64)) attr)
    | _ => d
where
  /-- A line beyond the device: the request made, or its answer taken. -/
  icacheRemote (d : Dev) (l c la : Nat) (t : Target) (attr : Nat) : Dev :=
    match (reqsOf d l).find? (fun e => e.2.src == .fetch c && e.2.da == la) with
    | some (id, r) =>
      if r.stage ≠ .done then d
      else if r.status ≠ 0 then
        updCtx (dropReq d id) l c (fun x => { x with dfault := some (statusTrap r (BitVec.ofNat 64 la)) })
      else fillCode (dropReq d id) l la (dirtyOver d l la r.out)
    | none =>
      if entryFree d l (.fetch c) then
        newReq d { cl := l, ctx := c, src := .fetch c, kind := .read, da := la, tgt := t, qcache := attrQ attr, len := 64,
                   mask := 0, data := 0, stage := .toQuarter, out := 0, status := 0, elem := 0 }
      else d

/-! ### Trap and interrupt entry -/

/-- May the bundle in W be discarded now? Not while a load, an atomic, a walk or a wait that R373 does not abandon is
under way, nor after its atomic has been performed (R503). -/
def discardable (d : Dev) (l c : Nat) (b : WB) : Bool :=
  let fixed (s : Option Syl) : Bool := match s with
    | some y => (match y.st with | .walking _ _ => true | .req _ => true | .fixed => true | _ => false)
    | none => false
  let sent : Bool := match b.m with
    | some y => y.st == .done && sylOp b.md.gm (rget d (csOff l c 0x70)) y.word == some .amo
    | none => false
  !(fixed b.a || fixed b.b || fixed b.m) && !sent

/-- Is the context at a bundle boundary, or in a wait that a trap or interrupt may abandon (R373, R505)? -/
def atBoundary (d : Dev) (l c : Nat) : Bool :=
  match (getCtx d l c).wb with | some b => discardable d l c b | none => true

/-- The trap that the context takes at its boundary, in the order of R358, and whether a unit raised it; interrupts
excepted. -/
def dueTrap (d : Dev) (l c : Nat) : Option (Trap × Bool) :=
  let x := getCtx d l c
  match x.swtrap with
  | some code => some (⟨0x12, code⟩, false)
  | none =>
  match x.ufault with
  | some t => some (t, true)
  | none =>
  match x.dmc with
  | some t => some (t, false)
  | none =>
  match x.dcf with
  | some a => some (⟨0x11, a⟩, false)
  | none =>
  if (takeable d l c).isSome then none
  else match x.dfault with
    | some t => some (t, false)
    | none => (x.wb.bind bundleFault).map (fun t => (t, false))

/-- The deferred error that is taken is no longer pending (R358 item 3). -/
def clearDeferred (d : Dev) (l c : Nat) (t : Trap) : Dev :=
  updCtx d l c (fun x =>
    if x.swtrap.isSome ∨ x.ufault.isSome then x
    else if x.dmc.isSome ∧ causeOf t = 9 then { x with dmc := none }
    else if causeOf t = 0x11 then { x with dcf := none } else x)

/-- TRAP_ENTRY. -/
def trapEntry (l c : Nat) (d : Dev) : Dev :=
  let x := getCtx d l c
  if !running d l c ∨ x.stop ∨ x.park.isSome ∨ !unitsStop d l c ∨ !atBoundary d l c then d
  else match dueTrap d l c with
    | some (t, u) => settle (takeTrap (clearDeferred d l c t) l c t u) l
    | none => d

/-- INTERRUPT_ENTRY. -/
def interruptEntry (l c : Nat) (d : Dev) : Dev :=
  let x := getCtx d l c
  if !running d l c ∨ x.stop ∨ x.park.isSome ∨ !unitsStop d l c ∨ !atBoundary d l c ∨ x.swtrap.isSome ∨
     x.ufault.isSome ∨ x.dmc.isSome ∨ x.dcf.isSome then d
  else match takeable d l c with
    | some (k, _) =>
      settle (takeTrap d l c ⟨0x80 + k, ipendView d l c &&& rget d (dtOff l c 0x48)⟩ false) l
    | none => d

/-! ### Starting, stopping, ending -/

/-- CONTEXT_START: a write of ones to CL_CTXRUN (R121). -/
def contextStart (ag : Agent) (l mask : Nat) (d : Dev) : Dev :=
  (mgmtWrite d ag (clOff l 0x60) 8 (BitVec.ofNat 64 (mask % 256))).2

/-- CONTEXT_STOP: a write of ones to CL_CTXSTOP (R122). -/
def contextStop (ag : Agent) (l mask : Nat) (d : Dev) : Dev :=
  settle (mgmtWrite d ag (clOff l 0x68) 8 (BitVec.ofNat 64 (mask % 256))).2 l

/-- CONTEXT_END: the units of a stopped or ended context are idle, so its run bit clears (R122). -/
def contextEnd (l c : Nat) (d : Dev) : Dev :=
  let x := getCtx d l c
  if !running d l c ∨ !x.stop ∨ !atBoundary d l c ∨ x.vq ≠ [] ∨ x.xq ≠ [] ∨
     (getCl d l).summ.any (fun s => s.ctx == c) then d
  else settle (endContext (discardBundle d l c) l c) l

/-! ### The meanings -/

/-- BUNDLE_ISSUE. -/
def execBundleIssue (cl : Nat) (s : State) : Out := s.upd (bundleIssue cl)
/-- PACKED_ISSUE. -/
def execPackedIssue (cl groups : Nat) (s : State) : Out := s.upd (packedIssue cl groups)
/-- BUNDLE_RETIRE. -/
def execBundleRetire (cl ctx : Nat) (s : State) : Out := s.upd (bundleRetire cl ctx)
/-- INSTRUCTION_CACHE_MISS_FILL. -/
def execInstructionCacheMissFill (cl ctx : Nat) (s : State) : Out := s.upd (icacheFill cl ctx)
/-- TRAP_ENTRY. -/
def execTrapEntry (cl ctx : Nat) (s : State) : Out := s.upd (trapEntry cl ctx)
/-- INTERRUPT_ENTRY. -/
def execInterruptEntry (cl ctx : Nat) (s : State) : Out := s.upd (interruptEntry cl ctx)
/-- CONTEXT_START. -/
def execContextStart (ag : Agent) (cl mask : Nat) (s : State) : Out := s.upd (contextStart ag cl mask)
/-- CONTEXT_STOP. -/
def execContextStop (ag : Agent) (cl mask : Nat) (s : State) : Out := s.upd (contextStop ag cl mask)
/-- CONTEXT_END. -/
def execContextEnd (cl ctx : Nat) (s : State) : Out := s.upd (contextEnd cl ctx)

end Sys2Proof.Machine
end

