-- ==== Sys2Proof/Machine/Scalar.lean ====
section
/-!
DEFINITION. The scalar commands: each executes one syllable of the bundle in W, whose effects wait for retirement
(spec/04 R87 to R109, spec/03 R56, R61, R64, R68, R71, R82, R503, spec/08 R189, spec/16 R366 to R368, R374).
-/
namespace Sys2Proof.Machine

/-- A syllable waiting to execute. -/
def isReady (s : SylSt) : Bool := s == .ready

/-- The device after `k` on a syllable of the bundle in W that is of operation `op` and in a state that `p` accepts;
otherwise unchanged. -/
def onSyl (l c slot : Nat) (op : Op) (p : SylSt → Bool) (k : WB → Syl → Ctx → Dev) (d : Dev) : Dev :=
  match sylFor d l c slot op p with
  | some (b, y) => k b y (getCtx d l c)
  | none => d

/-- A syllable completes with one result for its register RD. -/
def doneReg (d : Dev) (l c slot : Nat) (w : Syllable) (v : Word) : Dev := setSyl d l c slot .done [.sreg (fRD w) v]

/-! ### Integer -/

/-- The result of an ALU syllable (R86, R87). -/
def aluResult (x : Ctx) (w : Syllable) : Word :=
  let mj := majorOf w
  if mj = 0x00 then (aluCompute (fOP w) (fW w) (sread x (fRA w)) (sread x (fRB w))).1
  else if mj ≤ 0x0A then (aluCompute (immAlu (mj - 1)) false (sread x (fRA w)) (BitVec.ofInt 64 (fIMM12 w))).1
  else if mj = 0x0C then sext64 17 (fld w 0 17)
  else sread x (fRD w) <<< 16 ||| BitVec.ofNat 64 (fld w 0 16)

/-- ALU. -/
def aluSyl (l c slot : Nat) (d : Dev) : Dev :=
  onSyl l c slot .alu isReady (fun _ y x => doneReg d l c slot y.word (aluResult x y.word)) d

/-- The result of ADDS, SUBS or MULS and whether the exact result does not fit (R88). -/
def checkedResult (x : Ctx) (w : Syllable) : Word × Bool :=
  if majorOf w = 0x20 then mulCompute 3 (fW w) (sread x (fRA w)) (sread x (fRB w))
  else aluCompute (fOP w) (fW w) (sread x (fRA w)) (sread x (fRB w))

/-- ADDS, SUBS, MULS (R88). -/
def addsSyl (l c slot : Nat) (d : Dev) : Dev :=
  onSyl l c slot .adds isReady (fun b y x =>
    let r := checkedResult x y.word
    if r.2 ∧ b.md.iov then failSyl d l c slot ⟨0x0B, 0⟩ else doneReg d l c slot y.word r.1) d

/-- MUL, MULH, MULHU (R89). -/
def mulSyl (l c : Nat) (d : Dev) : Dev :=
  onSyl l c 0 .mul isReady (fun _ y x =>
    doneReg d l c 0 y.word (mulCompute (fOP y.word) (fW y.word) (sread x (fRA y.word)) (sread x (fRB y.word))).1) d

/-- A syllable takes the cluster's divider when it is free (R82, R101). -/
def takeDivider (l c : Nat) (op : Op) (d : Dev) : Dev :=
  onSyl l c 0 op isReady (fun _ _ _ =>
    if (getCl d l).divOwner.isNone then setSyl (updCl d l (fun k => { k with divOwner := some c })) l c 0 .divide []
    else d) d

/-- A floating-point result: an enabled invalid or divide-by-zero traps, else the result and the flags wait for
retirement (R100). -/
def finishFloat (d : Dev) (l c : Nat) (md : Modes) (w : Syllable) (r : Word × Nat) : Dev :=
  let nv : Bool := r.2 &&& flNV != 0
  let dz : Bool := r.2 &&& flDZ != 0
  if (nv && md.tnv) || (dz && md.tdz) then
    failSyl d l c 0 ⟨0x0C, BitVec.ofNat 64 ((if nv then 0x1_0000 else 0) + (if dz then 0x2_0000 else 0))⟩
  else setSyl d l c 0 .done [.sreg (fRD w) r.1, .fflags r.2]

/-- The result of a scalar floating-point syllable (R96 to R99). -/
def floatResult (md : Modes) (x : Ctx) (w : Syllable) : Word × Nat :=
  fCompute (majorOf w - 0x24) md w (sread x (fRA w)) (sread x (fRB w)) (sread x (fRD w))

/-- A floating-point syllable that needs no divider. -/
def floatSyl (l c : Nat) (op : Op) (d : Dev) : Dev :=
  onSyl l c 0 op isReady (fun b y x => finishFloat d l c b.md y.word (floatResult b.md x y.word)) d

/-- The divider finishes an integer divide (R90). -/
def finishDivide (d : Dev) (l c : Nat) (b : WB) (y : Syl) (x : Ctx) : Dev :=
  let (v, dz, ov) := divCompute (fOP y.word) (fW y.word) (sread x (fRA y.word)) (sread x (fRB y.word))
  if dz ∧ b.md.idz then failSyl d l c 0 ⟨0x0A, 0⟩
  else if ov ∧ b.md.iov then failSyl d l c 0 ⟨0x0B, 0⟩
  else doneReg d l c 0 y.word v

/-- DIVIDE_COMPLETE: the divider is free, and the divide has its result (R82, R90, R101). -/
def divideComplete (l : Nat) (d : Dev) : Dev :=
  match (getCl d l).divOwner with
  | none => d
  | some c =>
    let d0 := updCl d l (fun k => { k with divOwner := none })
    match sylFor d l c 0 .div (· == .divide) with
    | some (b, y) => finishDivide d0 l c b y (getCtx d l c)
    | none => onSyl l c 0 .fdiv (· == .divide) (fun b y x => finishFloat d0 l c b.md y.word (floatResult b.md x y.word)) d0

/-! ### Memory -/

/-- The address of a form-M access (R91). -/
def memAddr (x : Ctx) (w : Syllable) : Word := addDisp (sread x (fRA w)) (fIMM12 w)

/-- A read of a 64-byte sector asked for on behalf of context `c`'s M syllable, which waits for it. -/
def askSector (d : Dev) (l c da : Nat) (t : Target) (attr : Nat) : Dev :=
  if entryFree d l (.scalar c) then
    let id := Tab.fresh d.reqs
    let base : Target := match t with
      | .stack k o => .stack k (o / 64 * 64) | .peer p o => .peer p (o / 64 * 64) | .host o => .host (o / 64 * 64)
      | .mgmt o => .mgmt o
    let d := newReq d { cl := l, ctx := c, src := .scalar c, kind := .read, da := da / 64 * 64, tgt := base,
                        qcache := attrQ attr, len := 64, mask := 0, data := 0, stage := .toQuarter, out := 0, status := 0,
                        elem := da }
    setSyl d l c 2 (.req id) []
  else d

/-- LOAD (R91, R92). -/
def loadSyl (l c : Nat) (d : Dev) : Dev :=
  onSyl l c 2 .load isReady (fun b y x =>
    let a := memAddr x y.word
    let (n, sx) := memSize (majorOf y.word)
    if a.toNat % n ≠ 0 then failSyl d l c 2 ⟨6, a⟩
    else
      let r := accessQ d l b.md a .rd
      let d := r.2
      match r.1 with
      | .trap t => failSyl d l c 2 t
      | .walk => setSyl d l c 2 (.walking a 0) []
      | .miss da => faultCtx d l c a 0x06 0 0xFF b.md.asid (BitVec.ofNat 64 da) false
      | .mere o =>
        if mereBad d l o n then failSyl d l c 2 (mcheck 2 (BitVec.ofNat 64 o))
        else doneReg d l c 2 y.word (loadExt n sx (mereRead d l o n))
      | .ok da t attr =>
        match t with
        | .mgmt o =>
          if n < 4 then failSyl d l c 2 ⟨8, a⟩
          else (match mgmtRead d (.cluster l) o n with
            | (some v, d) => doneReg d l c 2 y.word (loadExt n sx v.toNat)
            | (none, d) => failSyl d l c 2 ⟨8, a⟩)
        | _ =>
          match clusterRead d l da n true with
          | (some (v, bad), d) =>
            if bad then failSyl d l c 2 (mcheck 2 a) else doneReg d l c 2 y.word (loadExt n sx v)
          | (none, d) => askSector d l c da t attr) d

/-- The answered read request of an M syllable: its sector goes into the cluster's caches, and the request ends. -/
def takeSector (d : Dev) (l id : Nat) (r : Req) : Dev := clusterFill (dropReq d id) l r.da r.out true false

/-- SCALAR_LOAD_RETURN: the data of a load, or of an IFLOAD, arrives (R61). -/
def scalarLoadReturn (l c : Nat) (d : Dev) : Dev :=
  match (getCtx d l c).wb.bind (·.m) with
  | none => d
  | some y =>
    match y.st with
    | .req id =>
      (match Tab.find? d.reqs id with
       | none => d
       | some r =>
         if r.stage ≠ .done ∨ r.kind ≠ .read then d
         else
           let a := memAddr (getCtx d l c) y.word
           if r.status ≠ 0 then failSyl (dropReq d id) l c 2 (statusTrap r a)
           else if majorOf y.word ≤ 0x06 then
             let (n, sx) := memSize (majorOf y.word)
             let d := takeSector d l id r
             match clusterRead d l r.elem n true with
             | (some (v, _), d) => doneReg d l c 2 y.word (loadExt n sx v)
             | (none, d) => doneReg d l c 2 y.word (loadExt n sx (bitsOf r.out (8 * (r.elem % 64)) (8 * n)))
           else setSyl (takeSector d l id r) l c 2 .ready y.eff)
    | _ => d

/-- STORE (R91, R92): the store itself waits for retirement (R60). -/
def storeSyl (l c : Nat) (d : Dev) : Dev :=
  onSyl l c 2 .store isReady (fun b y x =>
    let a := memAddr x y.word
    let n := (memSize (majorOf y.word)).1
    let v := (sread x (fRD y.word)).toNat % 2 ^ (8 * n)
    if a.toNat % n ≠ 0 then failSyl d l c 2 ⟨6, a⟩
    else
      let r := accessQ d l b.md a .wr
      let d := r.2
      match r.1 with
      | .trap t => failSyl d l c 2 t
      | .walk => setSyl d l c 2 (.walking a 1) []
      | .miss da => faultCtx d l c a 0x06 1 0xFF b.md.asid (BitVec.ofNat 64 da) false
      | .mere o => setSyl d l c 2 .done [.store true o n v]
      | .ok da t _ =>
        match t with
        | .mgmt _ => if n < 4 then failSyl d l c 2 ⟨8, a⟩ else setSyl d l c 2 .done [.store false da n v]
        | _ => setSyl d l c 2 .done [.store false da n v]) d

/-! ### Control registers and events -/

/-- GETC (R103). A SEL that names no register reads as zero and is recorded in HB_MMERR at retirement. -/
def getcSyl (l c : Nat) (d : Dev) : Dev :=
  onSyl l c 1 .getc isReady (fun _ y _ =>
    let o := selOff l c (fSEL y.word)
    match clusterReg (o - clOff l 0) with
    | some m => doneReg d l c 1 y.word (m.readVal (regView d (canonOff d o)))
    | none => setSyl d l c 1 .done [.sreg (fRD y.word) 0, .setc o 0]) d

/-- The threads of the active set that miss from the group at a SETC that ends group mode (R123). -/
def splitAtEnd (d : Dev) (l c : Nat) (b : WB) (o : Nat) (v : Word) : Nat :=
  if b.md.gm ∧ o = csOff l c 0x48 ∧ rbit d o CL_GCTL.MODE ∧ !isSet v CL_GCTL.MODE then
    glive d l c - (glive d l c &&& b.act) else 0

/-- SETC (R103, R104): a change of CL_MERE.WAYS waits for CL_MERE_RESIZE (R282), a write of CL_TSTATE for
CL_TSTATE_WRITE, a write of CL_ICCTL for ICACHE_INVALL or ICACHE_ENABLE_WRITE (R305). -/
def setcSyl (l c : Nat) (d : Dev) : Dev :=
  onSyl l c 1 .setc isReady (fun b y x =>
    let o := selOff l c (fSEL y.word)
    let r := o - clOff l 0
    let v := sread x (fRD y.word)
    let split := splitAtEnd d l c b o v
    if split ≠ 0 then failSyl d l c 1 ⟨0x0D, BitVec.ofNat 64 split⟩
    else if r = 0x500 then
      (if getF (fixStored o 0 v) CL_MERE.WAYS = mereWays d l then setSyl d l c 1 .done []
       else setSyl d l c 1 .held [])
    else if (0x480 ≤ r ∧ r < 0x4C0) ∨ r = 0x700 then setSyl d l c 1 .fixed []
    else setSyl d l c 1 .done [.setc o v]) d

/-- SEVT (R105): it leaves at retirement. -/
def sevtSyl (l c : Nat) (d : Dev) : Dev :=
  onSyl l c 1 .sevt isReady (fun _ y x =>
    setSyl d l c 1 .done [.sevt ((sread x (fRA y.word)).toNat % 2 ^ 32) (sread x (fRB y.word))]) d

/-- A context starts to wait for events, after those that wait already (R107), and the cluster's waits are settled. -/
def waitEvent (l c : Nat) (op : Op) (d : Dev) : Dev :=
  onSyl l c 1 op (fun s => isReady s || s == .held) (fun _ _ _ =>
    let d := setSyl d l c 1 .held []
    let d := updCl d l (fun k => { k with evq := if k.evq.contains c then k.evq else k.evq ++ [c] })
    settle d l) d

/-- The tally of a cluster has reached a target. -/
def tallyAtLeast (d : Dev) (l : Nat) (v : Word) : Dev :=
  if (rget d (clOff l 0x40)).toNat < v.toNat then rset d (clOff l 0x40) v else d

/-- WTAL_TALLY_REACHED (R108). -/
def wtalReached (l c : Nat) (d : Dev) : Dev :=
  onSyl l c 1 .wtal (· == .held) (fun _ y x => settle (tallyAtLeast d l (sread x (fRA y.word))) l) d

/-- EVENT_DELIVERY: the `i`-th event on its way is ORed into CL_EVENT, and waits are settled (R106, R107). A cluster
whose domain is off keeps it until it wakes. -/
def eventDelivery (i : Nat) (d : Dev) : Dev :=
  match d.events[i]? with
  | none => d
  | some (l, bits) =>
    let d := { d with events := d.events.eraseIdx i }
    if (getCl d l).dormant ∨ (getQ d (quarterOf d l)).held then updCl d l (fun k => { k with heldEv := k.heldEv ||| bits })
    else settle (rset d (clOff l 0x50) (rget d (clOff l 0x50) ||| BitVec.ofNat 64 bits)) l

/-- TALLY_COMPARE_MATCH: CL_TALLY reaches DT_TCMP.VALUE while EN is set, and the interrupt becomes pending (R371). -/
def tallyCompareMatch (l c : Nat) (d : Dev) : Dev :=
  let t := rget d (dtOff l c 0x58)
  if isSet t DT_TCMP.EN then settle (tallyAtLeast d l (BitVec.ofNat 64 (getF t DT_TCMP.VALUE))) l else d

/-! ### Branches and loops -/

/-- The bundle address plus four times a signed displacement (R56). -/
def brTarget (a : Word) (disp : Int) : Word := addDisp a (4 * disp)

/-- A branch with the write of lk that a call makes: the address of the bundle after the delay bundle, whose length
must be known; where the delay bundle cannot be read, a value the spec does not state. -/
def branchSyl (d : Dev) (l c : Nat) (b : WB) (isCall : Bool) (taken : Bool) (tgt : Word) : Dev :=
  if !isCall then setSyl d l c 1 .done [.branch taken tgt]
  else
    let aft := b.addr + BitVec.ofNat 64 (4 * b.len)
    match fetchWords d l b.md 5 aft [] with
    | .line _ _ _ => d
    | .walk _ => d
    | .words ws =>
      if (ws.getLast?.map stopBit).getD false then
        setSyl d l c 1 .done [.branch taken tgt, .sreg 31 (aft + BitVec.ofNat 64 (4 * ws.length))]
      else (let (v, d) := d.free; setSyl d l c 1 .done [.branch taken tgt, .sreg 31 v])
    | _ => let (v, d) := d.free; setSyl d l c 1 .done [.branch taken tgt, .sreg 31 v]

/-- BR and CALL (R56). -/
def brSyl (l c : Nat) (d : Dev) : Dev :=
  onSyl l c 1 .br isReady (fun b y _ =>
    branchSyl d l c b (majorOf y.word == 0x31) true (brTarget b.addr (sgn 22 (fld y.word 0 22)))) d

/-- JR and CALLR (R56). -/
def jrSyl (l c : Nat) (d : Dev) : Dev :=
  onSyl l c 1 .jr isReady (fun b y x =>
    let a := brTarget (sread x (fRD y.word)) (sgn 17 (fld y.word 0 17))
    branchSyl d l c b (majorOf y.word == 0x34) true (BitVec.ofNat 64 (a.toNat / 4 * 4))) d

/-- Does the condition of a BC hold (R56)? -/
def bcTaken (d : Dev) (l c : Nat) (x : Ctx) (w : Syllable) : Bool :=
  let cond := fld w 14 3
  let flag : Bool := (rget d (clOff l (0x400 + 8 * c))).toNat.testBit (fld w 17 3)
  if cond = 6 then flag else if cond = 7 then !flag else condHolds cond (sread x (fRD w))

/-- BC (R64). -/
def bcSyl (l c : Nat) (d : Dev) : Dev :=
  onSyl l c 1 .bc isReady (fun b y x =>
    setSyl d l c 1 .done [.branch (bcTaken d l c x y.word) (brTarget b.addr (sgn 14 (fld y.word 0 14)))]) d

/-- LOOP (R68). -/
def loopSyl (l c : Nat) (d : Dev) : Dev :=
  onSyl l c 1 .loop isReady (fun b y x =>
    let n := sread x (fRD y.word)
    let fin := b.addr + BitVec.ofNat 64 (4 * b.len + 4 * fld y.word 0 17)
    let st := rget d (csOff l c 0)
    if n = 0 then
      match fetchWords d l b.md 5 fin [] with
      | .line _ _ _ => d
      | .walk _ => d
      | .trap t => failSyl d l c 1 t
      | .miss va da => faultCtx d l c va 0x06 2 0xFF b.md.asid (BitVec.ofNat 64 da) false
      | .words ws =>
        if (ws.getLast?.map stopBit).getD false then
          setSyl d l c 1 .done [.loopSkip (fin + BitVec.ofNat 64 (4 * ws.length))]
        else failSyl d l c 1 (sylTrap 2 y.word)
    else if isSet st CL_LSTAT.ACT1 then failSyl d l c 1 (sylTrap 4 y.word)
    else if isSet st CL_LSTAT.ACT0 ∧ (rget d (lendOff l c 0)).toNat < fin.toNat then failSyl d l c 1 (sylTrap 4 y.word)
    else setSyl d l c 1 .done [.loopTake n fin]) d

/-- A B syllable that completes at once with one effect. -/
def oneEff (l c : Nat) (op : Op) (e : Syl → Eff) (d : Dev) : Dev :=
  onSyl l c 1 op isReady (fun _ y _ => setSyl d l c 1 .done [e y]) d

/-- The CL_VCFG that VSETVL leaves (R189). -/
def vsetvlCfg (a : Word) (w : Syllable) : Word :=
  let c0 := setF (setF (setF (setF (setF 0 CL_VCFG.SEW (fld w 0 2)) CL_VCFG.SPAN (fld w 2 2)) CL_VCFG.FMT (fld w 4 4))
    CL_VCFG.FXRM (fld w 8 2)) CL_VCFG.SAT (fld w 10 1)
  setF c0 CL_VCFG.VL (min a.toNat (vlMax c0))

/-- VSETVL (R189). -/
def vsetvlSyl (l c : Nat) (d : Dev) : Dev :=
  onSyl l c 1 .vsetvl isReady (fun _ y x =>
    let cfg := vsetvlCfg (sread x (fRA y.word)) y.word
    setSyl d l c 1 .done [.vcfg cfg, .sreg (fRD y.word) (BitVec.ofNat 64 (getF cfg CL_VCFG.VL))]) d

/-! ### Trap syllables -/

/-- Have all V and X operations of the context completed? -/
def unitsIdle (d : Dev) (l c : Nat) : Bool :=
  let x := getCtx d l c
  x.vq.isEmpty && x.xq.isEmpty && !((getCl d l).summ.any (fun s => s.ctx == c))

/-- TRET (R368): it waits until every V and X operation has completed, but for the return from a double fault. -/
def tretSyl (l c : Nat) (d : Dev) : Dev :=
  onSyl l c 1 .tret isReady (fun b _ _ =>
    if unitsIdle d l c ∨ (b.md.plev = 3 ∧ rbit d (dtOff l c 0) DT_STATUS.DOUBLE) then
      setSyl d l c 1 .done [.tret] else d) d

/-! ### Records in memory (R374) -/

/-- One entry of a record as 64 bytes. -/
def entryBytes (o : QOp) : List Byte :=
  let flags := (if o.isX then 1 else 0) + (if o.fault then 2 else 0) + (if o.md.gm then 4 else 0)
  let b (x : Bool) (i : Nat) : Nat := if x then 2 ^ i else 0
  let modes := o.md.rm % 8 + b o.md.tnv 3 + b o.md.tdz 4 + b o.md.idz 5 + b o.md.iov 6 + b o.md.xen 7 + o.md.asid % 16 * 256
  let op (i : Nat) : Nat := (o.ops.getD i 0).toNat
  toBytes 8 o.addr.toNat ++ toBytes 4 o.syl.toNat ++ toBytes 1 flags ++ toBytes 1 o.md.plev ++ toBytes 2 0 ++
    toBytes 4 (o.pos % 2 ^ 24) ++ toBytes 4 modes ++ toBytes 8 o.vcfg.toNat ++
    toBytes 8 (op 0) ++ toBytes 8 (op 1) ++ toBytes 8 (op 2) ++ toBytes 8 (if o.md.gm then o.act else op 3)

/-- A record as 64-byte units: the header, then the entries. -/
def recordUnits (ops : List QOp) : List (List Byte) :=
  let n (p : Bool) : Nat := (ops.filter (fun o => o.isX == p)).length
  (toBytes 2 (n false) ++ toBytes 2 (n true) ++ toBytes 60 0) :: ops.map entryBytes

/-- What the fold over the units of an IFSAVE or IFLOAD has found. -/
inductive Units where
  | go (d : Dev) (effs : List Eff) (got : List (List Byte))
  | stop (d : Dev)

/-- One unit of an IFSAVE: its store, or the first fault (R92, R374). -/
def saveUnit (l c : Nat) (b : WB) (base : Word) (u : Units) (e : Nat × List Byte) : Units :=
  match u with
  | .stop d => .stop d
  | .go d effs got =>
    let a := base + BitVec.ofNat 64 (64 * e.1)
    let r := accessQ d l b.md a .wr
    let d := r.2
    match r.1 with
    | .trap t => .stop (failSyl d l c 2 t)
    | .walk => .stop (setSyl d l c 2 (.walking a 1) [])
    | .miss da => .stop (faultCtx d l c a 0x06 1 0xFF b.md.asid (BitVec.ofNat 64 da) false)
    | .mere o => .go d (effs ++ [.store true o 64 (ofBytes e.2)]) got
    | .ok da t _ =>
      match t with
      | .mgmt _ => .stop (failSyl d l c 2 ⟨8, a⟩)
      | _ => .go d (effs ++ [.store false da 64 (ofBytes e.2)]) got

/-- IFSAVE (R374). -/
def ifsaveSyl (l c : Nat) (d : Dev) : Dev :=
  onSyl l c 2 .ifsave isReady (fun b y x =>
    let a := memAddr x y.word
    if a.toNat % 64 ≠ 0 then failSyl d l c 2 ⟨6, a⟩
    else
      let us := recordUnits (if fRD y.word % 2 = 0 then x.heldD else x.heldS)
      match ((List.range us.length).zip us).foldl (saveUnit l c b a) (.go d [] []) with
      | .stop d => d
      | .go d effs _ => setSyl d l c 2 .done effs) d

/-- One unit of an IFLOAD read, or the first fault, walk or request it needs. -/
def loadUnit (l c : Nat) (b : WB) (base : Word) (u : Units) (i : Nat) : Units :=
  match u with
  | .stop d => .stop d
  | .go d effs got =>
    let a := base + BitVec.ofNat 64 (64 * i)
    let r := accessQ d l b.md a .rd
    let d := r.2
    match r.1 with
    | .trap t => .stop (failSyl d l c 2 t)
    | .walk => .stop (setSyl d l c 2 (.walking a 0) [])
    | .miss da => .stop (faultCtx d l c a 0x06 0 0xFF b.md.asid (BitVec.ofNat 64 da) false)
    | .mere o =>
      if mereBad d l o 64 then .stop (failSyl d l c 2 (mcheck 2 (BitVec.ofNat 64 o)))
      else .go d effs (got ++ [toBytes 64 (mereRead d l o 64)])
    | .ok da t attr =>
      match t with
      | .mgmt _ => .stop (failSyl d l c 2 ⟨8, a⟩)
      | _ =>
        match clusterRead d l da 64 true with
        | (some (v, bad), d) => if bad then .stop (failSyl d l c 2 (mcheck 2 a)) else .go d effs (got ++ [toBytes 64 v])
        | (none, d) => .stop (askSector d l c da t attr)

/-- The first byte offset among [lo, lo + n) of a byte string that is not zero. -/
def firstNonzero (bs : List Byte) (lo n : Nat) : Option Nat :=
  ((List.range n).find? (fun i => bs.getD (lo + i) 0 != 0)).map (lo + ·)

/-- The least of the offsets found. -/
def leastOf (os : List (Option Nat)) : Option Nat :=
  os.foldl (fun a o => match a, o with
    | none, o => o | a, none => a | some x, some y => some (min x y)) none

/-- A number at a place of a byte string. -/
def numAt (bs : List Byte) (lo n : Nat) : Nat := ofBytes ((bs.drop lo).take n)

/-- The operation an entry spells, under the modes of the loading bundle for what the entry does not hold. -/
def entryOp (md : Modes) (bs : List Byte) : QOp :=
  let flags := numAt bs 0x0C 1
  let m := numAt bs 0x14 4
  let gm := flags.testBit 2
  let w3 := numAt bs 0x38 8
  { isX := flags.testBit 0, addr := BitVec.ofNat 64 (numAt bs 0 8), syl := BitVec.ofNat 32 (numAt bs 8 4),
    md := { md with plev := numAt bs 0x0D 1 % 4, gm := gm, rm := m % 8, tnv := m.testBit 3, tdz := m.testBit 4,
                    idz := m.testBit 5, iov := m.testBit 6, xen := m.testBit 7, asid := bitsOf m 8 4 },
    vcfg := BitVec.ofNat 64 (numAt bs 0x18 8),
    ops := [BitVec.ofNat 64 (numAt bs 0x20 8), BitVec.ofNat 64 (numAt bs 0x28 8), BitVec.ofNat 64 (numAt bs 0x30 8)] ++
      (if gm then [] else [BitVec.ofNat 64 w3]),
    act := if gm then w3 else 1, pos := numAt bs 0x10 3, fault := flags.testBit 1 }

/-- The first bad byte of entry `e` of a record with `vc` V entries, as an offset in the entry (R374). -/
def badEntry (md : Modes) (vc e : Nat) (bs : List Byte) : Option Nat :=
  let o := entryOp md bs
  let wantX : Bool := decide (vc ≤ e)
  let slot := if o.isX then 4 else 3
  let unitBad : Option Nat := if o.isX != wantX then some 0x0C else none
  let slotBad : Option Nat := if slotOf o.syl ≠ slot then some 0x08 else none
  let decBad : Option Nat := if (sylOp o.md.gm o.vcfg o.syl).isNone then some 0x08 else none
  let flagBad : Option Nat := if bitsOf (numAt bs 0x0C 1) 3 5 ≠ 0 then some 0x0C else none
  let modeBad : Option Nat := if bitsOf (numAt bs 0x14 4) 12 4 ≠ 0 then some 0x15 else firstNonzero bs 0x16 2
  leastOf [slotBad, decBad, unitBad, flagBad, firstNonzero bs 0x0E 2, firstNonzero bs 0x13 1, modeBad]

/-- The first bad byte of a record (R374). -/
def badRecord (md : Modes) (us : List (List Byte)) : Option Nat :=
  let h := us.headD []
  let vc := numAt h 0 2
  let xc := numAt h 2 2
  let head := leastOf [if 8 < vc then some 0 else none, if 4 < xc then some 2 else none, firstNonzero h 4 60]
  match head with
  | some o => some o
  | none =>
    (List.range (us.length - 1)).findSome? (fun e =>
      (badEntry md vc e (us.getD (e + 1) [])).map (fun o => 0x40 + 0x40 * e + o))

/-- IFLOAD (R374): it reads unit by unit, asking for what the cluster does not hold, and checks the whole record. -/
def ifloadSyl (l c : Nat) (d : Dev) : Dev :=
  onSyl l c 2 .ifload isReady (fun b y x =>
    let a := memAddr x y.word
    let bad (d : Dev) (o : Nat) : Dev := failSyl d l c 2 ⟨3, BitVec.ofNat 64 o⟩
    if a.toNat % 64 ≠ 0 then failSyl d l c 2 ⟨6, a⟩
    else match loadUnit l c b a (.go d [] []) 0 with
      | .stop d => d
      | .go d _ hs =>
        match badRecord b.md hs with
        | some o => bad d o
        | none =>
          let h := hs.headD []
          let n := numAt h 0 2 + numAt h 2 2
          match ((List.range n).map (· + 1)).foldl (loadUnit l c b a) (.go d [] hs) with
          | .stop d => d
          | .go d _ us =>
            match badRecord b.md us with
            | some o => bad d o
            | none => setSyl d l c 2 .done [.ifload (fRD y.word % 2) ((us.drop 1).map (entryOp b.md))]) d

/-! ### The meanings -/

/-- ALU. -/
def execAlu (cl ctx slot : Nat) (s : State) : Out := s.upd (aluSyl cl ctx slot)
/-- ADDS. -/
def execAdds (cl ctx slot : Nat) (s : State) : Out := s.upd (addsSyl cl ctx slot)
/-- MUL. -/
def execMul (cl ctx : Nat) (s : State) : Out := s.upd (mulSyl cl ctx)
/-- DIV. -/
def execDiv (cl ctx : Nat) (s : State) : Out := s.upd (takeDivider cl ctx .div)
/-- DIVIDE_COMPLETE. -/
def execDivideComplete (cl : Nat) (s : State) : Out := s.upd (divideComplete cl)
/-- FADD. -/
def execFadd (cl ctx : Nat) (s : State) : Out := s.upd (floatSyl cl ctx .fadd)
/-- FDIV. -/
def execFdiv (cl ctx : Nat) (s : State) : Out := s.upd (takeDivider cl ctx .fdiv)
/-- FMINIMUM. -/
def execFminimum (cl ctx : Nat) (s : State) : Out := s.upd (floatSyl cl ctx .fminimum)
/-- FCMP. -/
def execFcmp (cl ctx : Nat) (s : State) : Out := s.upd (floatSyl cl ctx .fcmp)
/-- FCLASS. -/
def execFclass (cl ctx : Nat) (s : State) : Out := s.upd (floatSyl cl ctx .fclass)
/-- FCVT. -/
def execFcvt (cl ctx : Nat) (s : State) : Out := s.upd (floatSyl cl ctx .fcvt)
/-- LOAD. -/
def execLoad (cl ctx : Nat) (s : State) : Out := s.upd (loadSyl cl ctx)
/-- SCALAR_LOAD_RETURN. -/
def execScalarLoadReturn (cl ctx : Nat) (s : State) : Out := s.upd (scalarLoadReturn cl ctx)
/-- STORE. -/
def execStore (cl ctx : Nat) (s : State) : Out := s.upd (storeSyl cl ctx)
/-- GETC. -/
def execGetc (cl ctx : Nat) (s : State) : Out := s.upd (getcSyl cl ctx)
/-- SETC. -/
def execSetc (cl ctx : Nat) (s : State) : Out := s.upd (setcSyl cl ctx)
/-- SEVT. -/
def execSevt (cl ctx : Nat) (s : State) : Out := s.upd (sevtSyl cl ctx)
/-- EVENT_DELIVERY. -/
def execEventDelivery (i : Nat) (s : State) : Out := s.upd (eventDelivery i)
/-- WEVT. -/
def execWevt (cl ctx : Nat) (s : State) : Out := s.upd (waitEvent cl ctx .wevt)
/-- WTAL. -/
def execWtal (cl ctx : Nat) (s : State) : Out := s.upd (waitEvent cl ctx .wtal)
/-- WTAL_TALLY_REACHED. -/
def execWtalTallyReached (cl ctx : Nat) (s : State) : Out := s.upd (wtalReached cl ctx)
/-- BR. -/
def execBr (cl ctx : Nat) (s : State) : Out := s.upd (brSyl cl ctx)
/-- BC. -/
def execBc (cl ctx : Nat) (s : State) : Out := s.upd (bcSyl cl ctx)
/-- JR. -/
def execJr (cl ctx : Nat) (s : State) : Out := s.upd (jrSyl cl ctx)
/-- LOOP. -/
def execLoop (cl ctx : Nat) (s : State) : Out := s.upd (loopSyl cl ctx)
/-- LBRK. -/
def execLbrk (cl ctx : Nat) (s : State) : Out := s.upd (oneEff cl ctx .lbrk (fun _ => .lbrk))
/-- FENCE_I. -/
def execFenceI (cl ctx : Nat) (s : State) : Out := s.upd (oneEff cl ctx .fenceI (fun _ => .fencei))
/-- VSETVL. -/
def execVsetvl (cl ctx : Nat) (s : State) : Out := s.upd (vsetvlSyl cl ctx)
/-- TRAP. -/
def execTrap (cl ctx : Nat) (s : State) : Out := s.upd (oneEff cl ctx .trap (fun y => .swtrap (fld y.word 0 22)))
/-- TACK. -/
def execTack (cl ctx : Nat) (s : State) : Out := s.upd (oneEff cl ctx .tack (fun _ => .tack))
/-- TRET. -/
def execTret (cl ctx : Nat) (s : State) : Out := s.upd (tretSyl cl ctx)
/-- IFSAVE. -/
def execIfsave (cl ctx : Nat) (s : State) : Out := s.upd (ifsaveSyl cl ctx)
/-- IFLOAD. -/
def execIfload (cl ctx : Nat) (s : State) : Out := s.upd (ifloadSyl cl ctx)
/-- TALLY_COMPARE_MATCH. -/
def execTallyCompareMatch (cl ctx : Nat) (s : State) : Out := s.upd (tallyCompareMatch cl ctx)

end Sys2Proof.Machine
end

