-- ==== Sys2Proof/Machine/Vector.lean ====
section
/-!
DEFINITION. The vector unit (spec/08): which operation starts (R197), element groups of the element-wise operations (R192 to
R201), the whole operations (R202 to R208), scalar summaries (R204), completion and stops (R209 to R213). A command names
how many element groups enter the datapath.
-/
namespace Sys2Proof.Machine

/-! ### Elements -/

/-- Element `i` of width `w` in the span that starts at register `r` (R187). -/
def elemGet (x : Ctx) (r w i : Nat) : Nat := vbits (vread x (r + i * w / 4096)) (i * w % 4096) w

/-- That element replaced. -/
def elemPut (x : Ctx) (r w i v : Nat) : Ctx :=
  let k := r + i * w / 4096
  vwrite x k (vput (vread x k) (i * w % 4096) w v)

/-- The bit string of a span of `n` registers (R187). -/
def spanNat (x : Ctx) (r n : Nat) : Nat :=
  (List.range n).foldl (fun a k => a + (vread x (r + k)).toNat <<< (4096 * k)) 0

/-- A span written as a bit string. -/
def spanPut (x : Ctx) (r n v : Nat) : Ctx :=
  (List.range n).foldl (fun x k => vwrite x (r + k) (BitVec.ofNat 4096 (v >>> (4096 * k)))) x

/-- Bit `i` of a mask register. -/
def maskBit (x : Ctx) (m i : Nat) : Bool := (mread x m).toNat.testBit i
/-- That bit written. -/
def maskPut (x : Ctx) (m i : Nat) (b : Bool) : Ctx := mwrite x m (vput (mread x m) i 1 (if b then 1 else 0))

/-- The masking of a V syllable: M and MK. -/
def maskOfSyl (w : Syllable) : Option Nat :=
  if majorOf w = 0x14 then (if w.toNat.testBit 3 then some (fld w 0 3) else none)
  else if vM w then some (vMK w) else none

/-- Is element `i` active, the start element apart (R192)? -/
def unmasked (x : Ctx) (w : Syllable) (i : Nat) : Bool :=
  match maskOfSyl w with | some m => maskBit x m i | none => true

/-! ### The unit and its head operation -/

/-- The context that holds the vector unit and its head operation. -/
def vHead (d : Dev) (l : Nat) : Option (Nat × Ctx × QOp) :=
  match (getCl d l).vrun with
  | some c => (match (getCtx d l c).vq with | o :: _ => some (c, getCtx d l c, o) | [] => none)
  | none => none

/-- The head operation of a vector queue replaced. -/
def setVHead (d : Dev) (l c : Nat) (o : QOp) : Dev :=
  updCtx d l c (fun x => { x with vq := o :: x.vq.drop 1 })

/-- The scalar registers and flags that are pending: of queued operations and of summaries on their way (R79). -/
def refreshPend (d : Dev) (l c : Nat) : Dev :=
  let x := getCtx d l c
  let a := pendMarks (x.vq ++ x.xq)
  let b := ((getCl d l).summ.filter (fun s => s.ctx == c)).foldl
    (fun (p : Nat × Nat) s => if s.toFlag then (p.1, setBit p.2 s.idx) else (setBit p.1 s.idx, p.2)) a
  updCtx d l c (fun x => { x with pendS := b.1, pendF := b.2 })

/-- A fault of a V or X operation (R81, R210): the unit stops it there, and the trap waits for the boundary; of a stopping
context (R122) the operation and those behind it go. -/
def unitFault (d : Dev) (l c : Nat) (isX : Bool) (t : Trap) : Dev :=
  let d := accrue d l c
  let d := updCl d l (fun k => if isX then { k with xrun := (if k.xrun = some c then none else k.xrun) }
                               else { k with vrun := (if k.vrun = some c then none else k.vrun) })
  let x := getCtx d l c
  if x.stop then
    refreshPend (updCtx d l c (fun x => if isX then { x with xq := [], xp := Prog.empty }
                                        else { x with vq := [], vp := Prog.empty })) l c
  else if x.ufault.isSome then d
  else
    let mark (q : List QOp) : List QOp := match q with | o :: t => { o with fault := true } :: t | [] => []
    updCtx d l c (fun x => if isX then { x with xq := mark x.xq, ufault := some t, xp := Prog.empty }
                           else { x with vq := mark x.vq, ufault := some t, vp := Prog.empty })

/-- May the vector unit start the head operation of a context? -/
def vStartable (d : Dev) (l c : Nat) : Bool :=
  let x := getCtx d l c
  running d l c && x.park.isNone && x.ufault.isNone && x.vp.yield != some .walking &&
  (match x.vq with | o :: _ => !o.fault | [] => false)

/-- The context whose head operation a free unit starts: one passed over 64 times, else the lowest CL_CSEQ (R197, R241). -/
def unitPick (d : Dev) (l : Nat) (ok : Nat → Bool) (wait : Tab Nat) : Option Nat :=
  let cs := filterUpto 8 ok
  let best (cs : List Nat) : Option Nat := cs.foldl (fun a c => match a with
    | none => some c
    | some b => if (rget d (csOff l c 0x60)).toNat < (rget d (csOff l b 0x60)).toNat then some c else a) none
  match best (cs.filter (fun c => decide (64 ≤ Tab.get 0 wait c))) with
  | some c => some c
  | none => best cs

/-- The counts of operations passed over, after the unit starts one of context `c`. -/
def unitWaits (ok : Nat → Bool) (wait : Tab Nat) (c : Nat) : Tab Nat :=
  (List.range 8).foldl (fun t k => if k = c then Tab.set 0 t k 0
    else if ok k then Tab.set 0 t k (Tab.get 0 t k + 1) else Tab.set 0 t k 0) wait

/-- VECTOR_OP_START (R197). -/
def vectorOpStart (l : Nat) (d : Dev) : Dev :=
  if (getCl d l).vrun.isSome then d
  else match unitPick d l (vStartable d l) (getCl d l).vwait with
    | some c =>
      if (getCtx d l c).vp.yield.isSome then d
      else updCl d l (fun k => { k with vrun := some c, vwait := unitWaits (vStartable d l) k.vwait c })
    | none => d

/-! ### Element-wise operations -/

/-- What one element gives: its value, flags, saturation, and a trap cause with bits of its value. -/
structure ERes where
  val : Nat
  fl : Nat
  sat : Bool
  trap : Option (Nat × Nat)

/-- A plain value. -/
def ERes.of (v : Nat) : ERes := ⟨v, 0, false, none⟩

/-- A floating-point value with its flags, and the trap that CL_FCSR enables (R100, R199). -/
def ERes.float (md : Modes) (r : Nat × Nat) : ERes :=
  let nv : Bool := r.2 &&& flNV != 0
  let dz : Bool := r.2 &&& flDZ != 0
  let bits := (if nv then 0x1_0000 else 0) + (if dz then 0x2_0000 else 0)
  ⟨r.1, r.2, false, if (nv && md.tnv) || (dz && md.tdz) then some (0x0C, bits) else none⟩

/-- Clamp into the signed or unsigned range of `w` bits, and whether it did. -/
def clampTo (w : Nat) (signed : Bool) (v : Int) : Nat × Bool :=
  let hi : Int := if signed then 2 ^ (w - 1) - 1 else 2 ^ w - 1
  let lo : Int := if signed then -(2 ^ (w - 1)) else 0
  if hi < v then (wrap w hi, true) else if v < lo then (wrap w lo, true) else (wrap w v, false)

/-- The rounding of a fixed-point result that discards `k` bits (R200). -/
def fxRound (fx k : Nat) (signed : Bool) (v : Int) : Int :=
  if k = 0 then v
  else
    let q := v / 2 ^ k
    let rem := v % 2 ^ k
    let half : Bool := decide (2 ^ (k - 1) ≤ rem)
    let below : Bool := rem % 2 ^ (k - 1) != 0
    let odd : Bool := q % 2 != 0
    let s : Bool := signed && decide (v < 0)
    let r : Bool := match fx with
      | 0 => half && (below || odd)
      | 1 => half && (below || !s)
      | 2 => s && rem != 0
      | _ => false
    q + (if r then 1 else 0)

/-- Integer division at width `w`: result, zero divisor, signed overflow (R90, R198). -/
def divN (w op a b : Nat) : Nat × Bool × Bool :=
  let sa := sgn w a
  let sb := sgn w b
  let isRem : Bool := decide (2 ≤ op)
  if b % 2 ^ w = 0 then ((if isRem then a % 2 ^ w else ones w), true, false)
  else if op % 2 = 1 then ((if isRem then a % 2 ^ w % (b % 2 ^ w) else a % 2 ^ w / (b % 2 ^ w)), false, false)
  else if sa = -(2 ^ (w - 1)) ∧ sb = -1 then ((if isRem then 0 else a % 2 ^ w), false, true)
  else ((if isRem then wrap w (sa.tmod sb) else wrap w (sa.tdiv sb)), false, false)

/-- Majors 0x00 to 0x02: integer arithmetic at width `w` (R198). -/
def vIntElem (md : Modes) (major opx w a b : Nat) : ERes :=
  let sa := sgn w a
  let sb := sgn w b
  let sh := b % w
  if major = 0 then
    ERes.of (match opx with
      | 0 => wrap w (sa + sb)
      | 1 => wrap w (sa - sb)
      | 2 => a &&& b
      | 3 => a ||| b
      | 4 => a ^^^ b
      | 5 => (a <<< sh) % 2 ^ w
      | 6 => a >>> sh
      | _ => wrap w (sa / 2 ^ sh))
  else if major = 1 then
    ERes.of (match opx with
      | 0 => wrap w (min sa sb)
      | 1 => wrap w (max sa sb)
      | 2 => min a b
      | 3 => max a b
      | 4 => wrap w (sa * sb)
      | 5 => wrap w (sa * sb / 2 ^ w)
      | 6 => a * b / 2 ^ w
      | _ => a)
  else
    let (v, dz, ov) := divN w opx a b
    ⟨v, 0, false, if dz ∧ md.idz then some (0x0A, 0) else if ov ∧ md.iov then some (0x0B, 0) else none⟩

/-- Majors 0x03 and 0x04: fixed-point arithmetic; `a2` is the element of 2·SEW bits that VNCLIP reads (R200). -/
def vFixElem (fx major opx w a b a2 : Nat) : ERes :=
  let sa := sgn w a
  let sb := sgn w b
  let ua : Int := (a : Nat)
  let ub : Int := (b : Nat)
  let sat (signed : Bool) (v : Int) : ERes := let (r, s) := clampTo w signed v; ⟨r, 0, s, none⟩
  if major = 3 then
    match opx with
    | 0 => sat true (sa + sb)
    | 1 => sat false (ua + ub)
    | 2 => sat true (sa - sb)
    | 3 => sat false (ua - ub)
    | 4 => ERes.of (wrap w (fxRound fx 1 true (sa + sb)))
    | 5 => ERes.of (wrap w (fxRound fx 1 false (ua + ub)))
    | 6 => sat true (fxRound fx (w - 1) true (sa * sb))
    | _ => ERes.of (wrap w (fxRound fx (b % w) true sa))
  else
    match opx with
    | 0 => ERes.of (wrap w (fxRound fx (b % w) false ua))
    | 1 => sat true (fxRound fx (b % (2 * w)) true (sgn (2 * w) a2))
    | _ => sat false (fxRound fx (b % (2 * w)) false ((a2 % 2 ^ (2 * w) : Nat) : Int))

/-- The place of CL_VCFG.SAT. -/
def cfgSat (w : Word) : Bool := isSet w CL_VCFG.SAT
/-- CL_VCFG.FXRM. -/
def cfgFx (w : Word) : Nat := getF w CL_VCFG.FXRM

/-- Majors 0x10 and 0x11: floating arithmetic in the format in force (R199). `dOld` is the destination element. -/
def vFloatElem (md : Modes) (vcfg : Word) (major opx a b dOld : Nat) : ERes :=
  let code := cfgFmt vcfg
  let x := decodeCode code a
  let y := decodeCode code b
  let z := decodeCode code dOld
  let out (rm : Nat) (r : FV × Nat) : ERes :=
    let (v, fl) := packCode code rm 0 (cfgSat vcfg) r.1
    ERes.float md (v, fl ||| r.2)
  if major = 0x10 then
    match opx with
    | 0 => out md.rm (addV md.rm x y)
    | 1 => out md.rm (addV md.rm x y.neg)
    | 2 => out md.rm (mulV x y)
    | 3 => out md.rm (divV x y)
    | k => out 1 (minmaxOp (k - 4) x y)
  else
    match opx with
    | 4 => out md.rm (sqrtV x)
    | 5 => ERes.of ((fmtOfCode code).elim 0 (fun f => classF f a))
    | k =>
      let x := if k = 2 ∨ k = 3 then x.neg else x
      let z := if k = 1 ∨ k = 2 then z.neg else z
      out md.rm (fmaV md.rm x y z)

/-- An element of a format written to its register element: KV values zero-extended, INT4 sign-extended (R172). -/
def widen (code v : Nat) : Nat := if code = 9 then wrap 8 (sgn 4 v) else v

/-- VCVT of one element (R201). -/
def vCvtElem (md : Modes) (vcfg : Word) (w : Syllable) (a : Nat) : ERes :=
  let src : FV := if isFloatCode (cfgFmt vcfg) then decodeCode (cfgFmt vcfg) a else ofIntV (sgn (cfgSew vcfg) a)
  let dc := fld w 8 4
  let rm := if fld w 5 3 = 0 then md.rm else fld w 5 3
  let (v, fl) := packCode dc rm 0 (w.toNat.testBit 4) src
  ERes.float md (widen dc v, fl)

/-- The compares (R194): the bit and the flags. -/
def vCmpElem (md : Modes) (vcfg : Word) (major opx w a b : Nat) : ERes :=
  let of (c : Bool) : ERes := ERes.of (if c then 1 else 0)
  if major = 0x18 then
    match opx with
    | 0 => of (a == b)
    | 1 => of (a != b)
    | 2 => of (decide (sgn w a < sgn w b))
    | 3 => of (decide (a < b))
    | 4 => of (decide (sgn w a ≤ sgn w b))
    | _ => of (decide (a ≤ b))
  else
    let (r, fl) := cmpOp opx (decodeCode (cfgFmt vcfg) a) (decodeCode (cfgFmt vcfg) b)
    ERes.float md (if r then 1 else 0, fl)

/-- One element of an element-wise operation, computed. -/
def vElem (o : QOp) (x : Ctx) (i : Nat) : ERes :=
  let w := o.syl
  let sew := cfgSew o.vcfg
  let b := baseMajor w
  let va := elemGet x (fRA w) sew i
  let vb := if isS w then (o.ops.getD 0 0).toNat % 2 ^ sew else elemGet x (fRB w) sew i
  let opx := vOPX w
  if b ≤ 0x02 then
    (if b = 1 ∧ opx = 7 then ERes.of (if isS w then vb else va) else vIntElem o.md b opx sew va vb)
  else if b ≤ 0x04 then
    vFixElem (cfgFx o.vcfg) b opx sew va vb (if b = 4 ∧ opx ≠ 0 then elemGet x (fRA w) (2 * sew) i else 0)
  else if b = 0x10 ∨ b = 0x11 then vFloatElem o.md o.vcfg b opx va vb (elemGet x (fRD w) sew i)
  else if b = 0x14 then vCvtElem o.md o.vcfg w va
  else vCmpElem o.md o.vcfg b opx sew va vb

/-- The width of the elements an element-wise operation writes; a compare writes mask bits. -/
def vDestW (o : QOp) : Nat := if majorOf o.syl = 0x14 then elemWidth (fld o.syl 8 4) else cfgSew o.vcfg

/-- Is the destination a mask register? -/
def vDestMask (o : QOp) : Bool := baseMajor o.syl == 0x18 || baseMajor o.syl == 0x19

/-- Elements in an element group, counted on the wider side (R195). -/
def groupElems (o : QOp) : Nat :=
  let sew := cfgSew o.vcfg
  let wide := if baseMajor o.syl = 4 ∧ vOPX o.syl ≠ 0 then 2 * sew else max sew (vDestW o)
  512 / wide

/-- What the elements of a command have given so far. -/
structure EAcc where
  x : Ctx
  fl : Nat
  sat : Bool
  stop : Option (Nat × Trap)

/-- One element entered: an inactive one does nothing; a trap stops the operation at it (R193, R210). -/
def vEnter (o : QOp) (a : EAcc) (i : Nat) : EAcc :=
  if a.stop.isSome ∨ !unmasked a.x o.syl i then a
  else
    let r := vElem o a.x i
    match r.trap with
    | some (cause, bits) => { a with stop := some (i, ⟨cause, BitVec.ofNat 64 (i + bits)⟩) }
    | none =>
      let x := if vDestMask o then maskPut a.x (fld o.syl 17 3) i (r.val == 1)
        else elemPut a.x (fRD o.syl) (vDestW o) i r.val
      { a with x := x, fl := a.fl ||| r.fl, sat := a.sat || r.sat }

/-- The elements from `lo` to `hi - 1`. -/
def upTo (lo hi : Nat) : List Nat := (List.range (hi - lo)).map (lo + ·)

/-- `n` more element groups of an element-wise operation of a kind enter the datapath (R195, R209, R210). -/
def vGroups (l n : Nat) (op : Op) (d : Dev) : Dev :=
  match vHead d l with
  | some (c, x, o) =>
    if qopOp o ≠ some op then d
    else
      let e := groupElems o
      let hi := min (cfgVl o.vcfg) ((o.pos / e + n) * e)
      let a := (upTo o.pos hi).foldl (vEnter o) ⟨x, 0, false, none⟩
      let x2 : Ctx := { a.x with vp := { a.x.vp with fl := a.x.vp.fl ||| a.fl, xsat := a.x.vp.xsat || a.sat } }
      (match a.stop with
       | some (i, t) =>
         rset (unitFault (setVHead (setCtx d l c x2) l c { o with pos := i }) l c false t) (csOff l c 0x78) (BitVec.ofNat 64 i)
       | none => setVHead (setCtx d l c x2) l c { o with pos := max o.pos hi })
  | none => d

/-! ### Whole operations -/

/-- A whole operation of a kind is performed in one action: `k` changes the context, and may give a summary. -/
def vWhole (l : Nat) (op : Op) (k : Ctx → QOp → Ctx × Option (Bool × Nat × Word)) (d : Dev) : Dev :=
  match vHead d l with
  | some (c, x, o) =>
    if qopOp o ≠ some op ∨ x.vp.fin then d
    else
      let (x2, sm) := k x o
      let d := setCtx d l c { x2 with vp := { x2.vp with fin := true } }
      (match sm with
       | some (toFlag, idx, v) =>
         if !toFlag ∧ idx = 0 then d
         else updCl d l (fun u => { u with summ := u.summ ++ [⟨c, toFlag, idx, v⟩] })
       | none => d)
  | none => d

/-- VMAND to VMSET (R194). -/
def vMaskOp (x : Ctx) (o : QOp) : Ctx × Option (Bool × Nat × Word) :=
  let w := o.syl
  let x2 := (upTo o.pos (cfgVl o.vcfg)).foldl (fun y i =>
    let a := maskBit y (fld w 12 3) i
    let b := maskBit y (fld w 7 3) i
    maskPut y (fld w 17 3) i (match vOPX w with
      | 0 => a && b
      | 1 => a || b
      | 2 => a != b
      | 3 => a && !b
      | 4 => !a
      | _ => true)) x
  (x2, none)

/-- Width of a packed element of the format in force (R202). -/
def packW (vcfg : Word) : Nat := if cfgFmt vcfg = 6 then 6 else 4

/-- VPACK (R202). -/
def vPackOp (x : Ctx) (o : QOp) : Ctx × Option (Bool × Nat × Word) :=
  let w := packW o.vcfg
  let n := cfgVl o.vcfg
  let sp := cfgSpan o.vcfg
  let str := (List.range n).foldl (fun a i => a + (elemGet x (fRA o.syl) 8 i % 2 ^ w) <<< (w * i)) 0
  let old := spanNat x (fRD o.syl) sp
  (spanPut x (fRD o.syl) sp (str + (old >>> (w * n)) <<< (w * n)), none)

/-- VUNPACK (R202). -/
def vUnpackOp (x : Ctx) (o : QOp) : Ctx × Option (Bool × Nat × Word) :=
  let w := packW o.vcfg
  let str := spanNat x (fRA o.syl) (cfgSpan o.vcfg)
  ((List.range (cfgVl o.vcfg)).foldl (fun y i =>
    elemPut y (fRD o.syl) 8 i (widen (cfgFmt o.vcfg) (bitsOf str (w * i) w))) x, none)

/-- VMPOP, VMFIRST, VMANY, VMALL (R205, R213). -/
def vSummaryOp (x : Ctx) (o : QOp) : Ctx × Option (Bool × Nat × Word) :=
  let w := o.syl
  let vl := cfgVl o.vcfg
  let m := (mread x (fld w 12 3)).toNat
  let n := popc vl m
  let r : Bool × Nat × Word := match vOPX w with
    | 0 => (false, fRD w, BitVec.ofNat 64 n)
    | 1 => (false, fRD w, match lowBit vl m with | some i => BitVec.ofNat 64 i | none => BitVec.ofNat 64 (ones 64))
    | 2 => (true, fld w 17 3, if n ≠ 0 then 1 else 0)
    | _ => (true, fld w 17 3, if n = vl then 1 else 0)
  (x, some r)

/-- One pairing round over the slots of a group (R203). -/
def pairUp {α : Type} (f : α → α → α) : List (Option α) → List (Option α)
  | a :: b :: t =>
    (match a, b with
     | some p, some q => some (f p q)
     | some p, none => some p
     | none, some q => some q
     | none, none => none) :: pairUp f t
  | l => l

/-- The tree over the slots of a group: `k` rounds for 2^k slots (R203). -/
def treeUp {α : Type} (f : α → α → α) : Nat → List (Option α) → Option α
  | 0, l => l.headD none
  | k + 1, l => treeUp f k (pairUp f l)

/-- A reduction over groups of 2^k elements in the order of R203. -/
def reduceBy {α : Type} (f : α → α → α) (k groups : Nat) (elem : Nat → Option α) (init : α) : α :=
  (List.range groups).foldl (fun acc j =>
    match treeUp f k ((List.range (2 ^ k)).map (fun i => elem (2 ^ k * j + i))) with
    | some v => f acc v
    | none => acc) init

/-- log2 of the elements in a group. -/
def groupLog (sew : Nat) : Nat := if sew = 8 then 6 else if sew = 16 then 5 else if sew = 32 then 4 else 3

/-- The active elements of a reduction. -/
def redElem (x : Ctx) (o : QOp) (i : Nat) : Option Nat :=
  if i < cfgVl o.vcfg ∧ unmasked x o.syl i then some (elemGet x (fRA o.syl) (cfgSew o.vcfg) i) else none

/-- The integer reductions (R203). -/
def vIntRed (x : Ctx) (o : QOp) : Word :=
  let sew := cfgSew o.vcfg
  let opx := vOPX o.syl
  let ext (v : Nat) : Nat := if opx ≤ 2 then wrap 64 (sgn sew v) else v
  let f (a b : Nat) : Nat := match opx with
    | 0 => (a + b) % 2 ^ 64
    | 1 => wrap 64 (min (sgn 64 a) (sgn 64 b))
    | 2 => wrap 64 (max (sgn 64 a) (sgn 64 b))
    | 3 => min a b
    | 4 => max a b
    | 5 => a &&& b
    | 6 => a ||| b
    | _ => a ^^^ b
  let g := ceilDiv (cfgVl o.vcfg * sew) 512
  BitVec.ofNat 64 (reduceBy f (groupLog sew) g (fun i => (redElem x o i).map ext) (o.ops.getD 0 0).toNat)

/-- The format in which a floating reduction computes (R203). -/
def redFmt (code : Nat) : FFmt := if code = 0 then fmt64 else fmt32

/-- One combining step of a floating reduction on values with their flags. -/
def redStep (md : Modes) (f : FFmt) (opx : Nat) (a b : FV × Nat) : FV × Nat :=
  let (v, fl) := match opx with
    | 2 => minmaxOp 0 a.1 b.1
    | 3 => minmaxOp 1 a.1 b.1
    | _ => addV md.rm a.1 b.1
  let (r, fl2) := packF f md.rm 0 false v
  (decodeF f r, a.2 ||| b.2 ||| fl ||| fl2)

/-- The floating reductions, ordered and in the tree order (R203): the result and the flags. -/
def vFloatRed (x : Ctx) (o : QOp) : Nat × Nat :=
  let sew := cfgSew o.vcfg
  let code := cfgFmt o.vcfg
  let f := redFmt code
  let init0 := (o.ops.getD 0 0).toNat % 2 ^ f.width
  let elem (i : Nat) : Option (FV × Nat) := (redElem x o i).map (fun v => (decodeCode code v, 0))
  let any : Bool := (List.range (cfgVl o.vcfg)).any (fun i => (redElem x o i).isSome)
  if !any then (init0, 0)
  else
    let r : FV × Nat := if vOPX o.syl = 1 then
        (List.range (cfgVl o.vcfg)).foldl (fun a i =>
          match elem i with | some v => redStep o.md f 0 a v | none => a) (decodeF f init0, 0)
      else reduceBy (redStep o.md f (vOPX o.syl)) (groupLog sew) (ceilDiv (cfgVl o.vcfg * sew) 512) elem (decodeF f init0, 0)
    let (b, _) := packF f o.md.rm 0 false r.1
    (b, r.2)

/-- A reduction of a kind performed (R203, R211): a floating one that signals an enabled trap stops with its start
element 0 and changes nothing. -/
def vReduce (l : Nat) (op : Op) (d : Dev) : Dev :=
  match vHead d l with
  | some (c, x, o) =>
    if qopOp o ≠ some op ∨ x.vp.fin then d
    else if majorOf o.syl = 0x24 then vWhole l op (fun x o => (x, some (false, fRD o.syl, vIntRed x o))) d
    else
      let r := vFloatRed x o
      let e := ERes.float o.md r
      (match e.trap with
       | some (cause, bits) =>
         unitFault (setVHead d l c { o with pos := 0 }) l c false ⟨cause, BitVec.ofNat 64 bits⟩
       | none =>
         vWhole l op (fun x o => ({ x with vp := { x.vp with fl := x.vp.fl ||| r.2 } },
           some (false, fRD o.syl, BitVec.ofNat 64 r.1))) d)
  | none => d

/-- VCOMPRESS (R206). -/
def vCompressOp (x : Ctx) (o : QOp) : Ctx × Option (Bool × Nat × Word) :=
  let w := o.syl
  let sew := cfgSew o.vcfg
  (((List.range (cfgVl o.vcfg)).foldl (fun (p : Ctx × Nat) i =>
    if maskBit x (vMK w) i then (elemPut p.1 (fRD w) sew p.2 (elemGet x (fRA w) sew i), p.2 + 1) else p) (x, 0)).1, none)

/-- VEXPAND (R206). -/
def vExpandOp (x : Ctx) (o : QOp) : Ctx × Option (Bool × Nat × Word) :=
  let w := o.syl
  let sew := cfgSew o.vcfg
  (((List.range (cfgVl o.vcfg)).foldl (fun (p : Ctx × Nat) i =>
    if maskBit x (vMK w) i then (elemPut p.1 (fRD w) sew i (elemGet x (fRA w) sew p.2), p.2 + 1) else p) (x, 0)).1, none)

/-- VPERM (R206). -/
def vPermOp (x : Ctx) (o : QOp) : Ctx × Option (Bool × Nat × Word) :=
  let w := o.syl
  let sew := cfgSew o.vcfg
  let vl := cfgVl o.vcfg
  ((upTo o.pos vl).foldl (fun y i =>
    if unmasked x w i then
      let j := elemGet x (fRB w) sew i
      elemPut y (fRD w) sew i (if vl ≤ j then 0 else elemGet x (fRA w) sew j)
    else y) x, none)

/-- VMATCH (R207). -/
def vMatchOp (x : Ctx) (o : QOp) : Ctx × Option (Bool × Nat × Word) :=
  let w := o.syl
  let sew := cfgSew o.vcfg
  let vl := cfgVl o.vcfg
  let as := (List.range vl).map (elemGet x (fld w 17 5) sew)
  let bs := (List.range vl).map (elemGet x (fld w 12 5) sew)
  if vl = 0 then (x, some (false, fld w 7 5, 0))
  else
    let hit (i : Nat) : Bool := bs.contains (as.getD i 0)
    let x2 := (List.range vl).foldl (fun y i => maskPut y (fld w 4 3) i (hit i)) x
    let lastB := bs.getD (vl - 1) 0
    let lastA := as.getD (vl - 1) 0
    let a := (as.filter (fun v => decide (v ≤ lastB))).length
    let b := (bs.filter (fun v => decide (v ≤ lastA))).length
    let n := (filterUpto vl hit).length
    (x2, some (false, fld w 7 5, BitVec.ofNat 64 (a + b <<< 16 + n <<< 32)))

/-- The merge of R208, at most `n` elements: what is written, how many of each list are consumed. -/
def mergeRun (u : Bool) : Nat → List Nat → List Nat → List Nat × Nat × Nat
  | 0, _, _ => ([], 0, 0)
  | _ + 1, [], [] => ([], 0, 0)
  | n + 1, a :: as, [] => let r := mergeRun u n as []; (a :: r.1, r.2.1 + 1, r.2.2)
  | n + 1, [], b :: bs => let r := mergeRun u n [] bs; (b :: r.1, r.2.1, r.2.2 + 1)
  | n + 1, a :: as, b :: bs =>
    if u ∧ a = b then let r := mergeRun u n as bs; (a :: r.1, r.2.1 + 1, r.2.2 + 1)
    else if a ≤ b then let r := mergeRun u n as (b :: bs); (a :: r.1, r.2.1 + 1, r.2.2)
    else let r := mergeRun u n (a :: as) bs; (b :: r.1, r.2.1, r.2.2 + 1)

/-- VMERGE (R208). -/
def vMergeOp (x : Ctx) (o : QOp) : Ctx × Option (Bool × Nat × Word) :=
  let w := o.syl
  let sew := cfgSew o.vcfg
  let vl := cfgVl o.vcfg
  let as := (List.range vl).map (elemGet x (fRA w) sew)
  let bs := (List.range vl).map (elemGet x (fRB w) sew)
  let (out, na, nb) := mergeRun (w.toNat.testBit 1) vl as bs
  let x2 := ((List.range out.length).zip out).foldl (fun y e => elemPut y (fRD w) sew e.1 e.2) x
  (x2, some (false, fld w 2 5, BitVec.ofNat 64 (na + nb <<< 16 + out.length <<< 32)))

/-! ### Completion and summaries -/

/-- How many elements, lanes or steps the head operation has in all. -/
def vTotal (o : QOp) : Nat := if o.md.gm then 64 else cfgVl o.vcfg

/-- Is the operation performed in one action of its own, even with VL = 0 (R213)? -/
def isWhole (o : QOp) : Bool :=
  match qopOp o with
  | some k => [Op.vmand, .vpack, .vunpack, .vmpop, .vredsum, .vfredosum, .vcompress, .vexpand, .vperm, .vmatch, .vmerge, .tbc].contains k
  | none => false

/-- VECTOR_OP_COMPLETE: the operation leaves its queue, its flags and saturation accrue, CL_VSE is 0 (R102, R199, R200,
R212); a thread atomic with ACQ acts as the acquire after it (R155). -/
def vectorOpComplete (l : Nat) (d : Dev) : Dev :=
  match vHead d l with
  | some (c, x, o) =>
    if (x.vp.fin || (!isWhole o && decide (vTotal o ≤ o.pos))) ∧ x.vp.waiting = [] ∧ x.vp.fault.isNone ∧ !o.fault then
      let d := accrue d l c
      let d := if qopOp o = some .tatomic ∧ (fORD o.syl).testBit 0 then acquireAt d l (fSCOPE o.syl) else d
      let d := updCtx d l c (fun x => { x with vq := x.vq.drop 1, vp := Prog.empty })
      let d := updCl d l (fun k => { k with vrun := none })
      refreshPend (rset d (csOff l c 0x78) 0) l c
    else d
  | none => d

/-- SUMMARY_ARRIVAL: the oldest summary reaches its context's register or flag, no longer pending (R79, R204). -/
def summaryArrival (l : Nat) (d : Dev) : Dev :=
  match (getCl d l).summ with
  | s :: rest =>
    let d := updCl d l (fun k => { k with summ := rest })
    let d := if s.toFlag then
        rset d (clOff l (0x400 + 8 * s.ctx)) (setB (rget d (clOff l (0x400 + 8 * s.ctx))) ⟨s.idx, 1⟩ (s.val != 0))
      else updCtx d l s.ctx (fun x => swrite x s.idx s.val)
    refreshPend d l s.ctx
  | [] => d

/-! ### The meanings -/

/-- VECTOR_OP_START. -/
def execVectorOpStart (cl : Nat) (s : State) : Out := s.upd (vectorOpStart cl)
/-- VADD. -/
def execVadd (cl n : Nat) (s : State) : Out := s.upd (vGroups cl n .vadd)
/-- VFADD. -/
def execVfadd (cl n : Nat) (s : State) : Out := s.upd (vGroups cl n .vfadd)
/-- VSADD. -/
def execVsadd (cl n : Nat) (s : State) : Out := s.upd (vGroups cl n .vsadd)
/-- VCMP. -/
def execVcmp (cl n : Nat) (s : State) : Out := s.upd (vGroups cl n .vcmp)
/-- VCVT. -/
def execVcvt (cl n : Nat) (s : State) : Out := s.upd (vGroups cl n .vcvt)
/-- VMAND. -/
def execVmand (cl : Nat) (s : State) : Out := s.upd (vWhole cl .vmand vMaskOp)
/-- VPACK. -/
def execVpack (cl : Nat) (s : State) : Out := s.upd (vWhole cl .vpack vPackOp)
/-- VUNPACK. -/
def execVunpack (cl : Nat) (s : State) : Out := s.upd (vWhole cl .vunpack vUnpackOp)
/-- VMPOP. -/
def execVmpop (cl : Nat) (s : State) : Out := s.upd (vWhole cl .vmpop vSummaryOp)
/-- VREDSUM. -/
def execVredsum (cl : Nat) (s : State) : Out := s.upd (vReduce cl .vredsum)
/-- VFREDOSUM. -/
def execVfredosum (cl : Nat) (s : State) : Out := s.upd (vReduce cl .vfredosum)
/-- SUMMARY_ARRIVAL. -/
def execSummaryArrival (cl : Nat) (s : State) : Out := s.upd (summaryArrival cl)
/-- VCOMPRESS. -/
def execVcompress (cl : Nat) (s : State) : Out := s.upd (vWhole cl .vcompress vCompressOp)
/-- VEXPAND. -/
def execVexpand (cl : Nat) (s : State) : Out := s.upd (vWhole cl .vexpand vExpandOp)
/-- VPERM. -/
def execVperm (cl : Nat) (s : State) : Out := s.upd (vWhole cl .vperm vPermOp)
/-- VMATCH. -/
def execVmatch (cl : Nat) (s : State) : Out := s.upd (vWhole cl .vmatch vMatchOp)
/-- VMERGE. -/
def execVmerge (cl : Nat) (s : State) : Out := s.upd (vWhole cl .vmerge vMergeOp)
/-- VECTOR_OP_COMPLETE. -/
def execVectorOpComplete (cl : Nat) (s : State) : Out := s.upd (vectorOpComplete cl)

end Sys2Proof.Machine
end

