-- ==== Sys2Proof/Machine/VMem.lean ====
section
/-!
DEFINITION. Memory accesses of the vector unit (spec/09 R215 to R230) and of thread syllables, which share its rules (R231,
R232, spec/05 R117): addresses, faults in order, element groups sent and arriving.
-/
namespace Sys2Proof.Machine

/-- What an element or lane access does: `red` and `atomic` carry the operation by its place in R94. -/
inductive MKind where
  | load | store
  | red (op : Nat)
  | atomic (op : Nat)
  deriving DecidableEq, Repr

/-- The kind of a V memory syllable (R117, R215). -/
def memKind (o : QOp) : MKind :=
  let m := majorOf o.syl
  if o.md.gm then
    if m ≤ 0x1E then .load else if m ≤ 0x23 then .store else .atomic (m - 0x24)
  else if m = 0x30 ∨ (0x32 ≤ m ∧ m ≤ 0x34) ∨ m = 0x38 then .load
  else if m ≤ 0x39 then .store
  else .red ([2, 5, 6, 7, 8].getD (m - 0x3A) 2)

/-- Bytes of one element (R216), or of one lane's access (R91, R94). -/
def memW (o : QOp) : Nat :=
  let m := majorOf o.syl
  if !o.md.gm then cfgSew o.vcfg / 8
  else if m ≤ 0x1E then (memSize (m - 0x18)).1
  else if m ≤ 0x23 then (memSize (m - 0x18)).1
  else 2 ^ fFMT o.syl

/-- Fields of one element. -/
def memFields (o : QOp) : Nat := if o.md.gm then 1 else segN o.syl
/-- Elements in an element group, lanes in a lane group (R119, R195). -/
def memE (o : QOp) : Nat := if o.md.gm then 8 else 512 / cfgSew o.vcfg
/-- Elements or lanes in all. -/
def memTotal (o : QOp) : Nat := vTotal o

/-- Is an element or lane active, the start apart (R192, R231)? -/
def memActive (x : Ctx) (o : QOp) (i : Nat) : Bool :=
  if o.md.gm then o.act.testBit i
  else if o.syl.toNat.testBit 4 then maskBit x (fld o.syl 1 3) i else true

/-- The address of field `f` of element `i` (R216, R217), or of lane `i` (R117). -/
def memElemAddr (x : Ctx) (o : QOp) (i f : Nat) : Word :=
  let m := majorOf o.syl
  if o.md.gm then
    let a := xread x (fRA o.syl) i
    if m ≤ 0x23 then addDisp a (fIMM12 o.syl) else a
  else
    let w := memW o
    if m ≤ 0x37 then
      addDisp (o.ops.getD 0 0) (64 * vDISP7 o.syl) + BitVec.ofNat 64 (w * (memFields o * i + f))
    else addDisp (BitVec.ofNat 64 (elemGet x (fRA o.syl) 64 i)) ((w : Int) * vDISP7 o.syl)

/-- The data that field `f` of element `i` stores. -/
def memData (x : Ctx) (o : QOp) (i f : Nat) : Nat :=
  if o.md.gm then
    (let m := majorOf o.syl
     (xread x (if m ≤ 0x23 then fRD o.syl else fRB o.syl) i).toNat % 2 ^ (8 * memW o))
  else elemGet x (fRD o.syl + f * cfgSpan o.vcfg) (cfgSew o.vcfg) i

/-- A loaded value written to field `f` of element `i`, or to the x-register of lane `i`. -/
def memPut (x : Ctx) (o : QOp) (i f v : Nat) : Ctx :=
  if o.md.gm then
    (match memKind o with
     | .atomic op => xwrite x (fRD o.syl) i (amoOld op (8 * memW o) v)
     | _ => xwrite x (fRD o.syl) i (loadExt (memW o) (memSize (majorOf o.syl - 0x18)).2 v))
  else elemPut x (fRD o.syl + f * cfgSpan o.vcfg) (cfgSew o.vcfg) i v

/-- Why an element is not performed. -/
inductive MStop where
  | trap (t : Trap)
  | walk (va : Word)
  | miss (va : Word) (da : Nat)

/-- The fault of one field and its order in R221, R92. -/
def fieldStop (o : QOp) (va : Word) (r : AccRes) : Option (Nat × MStop) :=
  let w := memW o
  let k := memKind o
  if va.toNat % w ≠ 0 then some (1, .trap ⟨6, va⟩)
  else match r with
    | .walk => some (2, .walk va)
    | .miss da => some (2, .miss va da)
    | .trap t => some (if causeOf t = 7 then 2 else 3, .trap t)
    | .mere _ => none
    | .ok _ (.mgmt _) _ =>
      if !o.md.gm ∨ w < 4 then some (4, .trap ⟨8, va⟩)
      else (match k with | .atomic _ => some (5, .trap ⟨8, va⟩) | _ => none)
    | .ok _ (.host _) _ =>
      (match k with
       | .red _ => some (4, .trap ⟨8, va⟩)
       | .atomic _ => some (5, .trap ⟨8, va⟩)
       | _ => none)
    | .ok _ _ _ => none

/-- The accesses of one element, field by field, with what becomes of each address. -/
def elemAccess (d : Dev) (l : Nat) (x : Ctx) (o : QOp) (i : Nat) : List (Word × AccRes) × Dev :=
  let k : AccKind := match memKind o with | .load => .rd | _ => .wr
  (List.range (memFields o)).foldl (fun (p : List (Word × AccRes) × Dev) f =>
    let va := memElemAddr x o i f
    let r := accessQ p.2 l o.md va k
    (p.1 ++ [(va, r.1)], r.2)) ([], d)

/-- The first fault of an element: by order, then by field (R221). -/
def elemStop (o : QOp) (rs : List (Word × AccRes)) : Option MStop :=
  (rs.foldl (fun (a : Option (Nat × MStop)) e =>
    match a, fieldStop o e.1 e.2 with
    | none, s => s
    | some p, some q => if q.1 < p.1 then some q else some p
    | a, none => a) none).map (·.2)

/-- The key of field `f` of element `i` among values and needs. -/
def elemKey (i f : Nat) : Nat := 8 * i + f
/-- The mark of an uncorrectable value among the values of an operation. -/
def badMark : Nat := 2 ^ 64
/-- The mark of a management read that failed (R25). -/
def mgmtMark : Nat := 2 ^ 65

/-- What a field has read. -/
def gotField (d : Dev) (l c i f v : Nat) : Dev :=
  let _ := i
  updCtx d l c (fun x => { x with vp := { x.vp with got := Tab.insert x.vp.got (elemKey i f) v } })

/-- A field's data must come from outside the cluster: its sector is asked for once for each element group (R226). -/
def needField (d : Dev) (l c i f g da : Nat) (t : Target) (attr : Nat) : Dev :=
  let d := updCtx d l c (fun x => { x with vp := { x.vp with need := Tab.insert x.vp.need (elemKey i f) da } })
  if (reqsOf d l).any (fun e => e.2.src == .vector c && e.2.kind == .read && e.2.elem == g && e.2.da == da / 64 * 64) then d
  else
    let base : Target := match t with
      | .stack k o => .stack k (o / 64 * 64) | .peer p o => .peer p (o / 64 * 64) | .host o => .host (o / 64 * 64)
      | .mgmt o => .mgmt o
    newReq d { cl := l, ctx := c, src := .vector c, kind := .read, da := da / 64 * 64, tgt := base, qcache := attrQ attr,
               len := 64, mask := 0, data := 0, stage := .toQuarter, out := 0, status := 0, elem := g }

/-- One field of a load (R219, R226). -/
def loadField (d : Dev) (l c g i f w : Nat) (r : AccRes) : Dev :=
  match r with
  | .mere o => gotField d l c i f (mereRead d l o w + (if mereBad d l o w then badMark else 0))
  | .ok da t attr =>
    (match t with
     | .mgmt o =>
       (match mgmtRead d (.cluster l) o w with
        | (some v, d) => gotField d l c i f v.toNat
        | (none, d) => gotField d l c i f mgmtMark)
     | _ =>
       match clusterRead d l da w false with
       | (some (v, bad), d) => gotField d l c i f (v + (if bad then badMark else 0))
       | (none, d) => needField d l c i f g da t attr)
  | _ => d

/-- One field of a store (R219, R149). -/
def storeField (d : Dev) (l c w v : Nat) (r : AccRes) : Dev :=
  match r with
  | .mere o => mereWrite d l o w v
  | .ok da t attr =>
    (match t with
     | .mgmt o => (mgmtWrite d (.cluster l) o w (BitVec.ofNat 64 v)).2
     | _ => clusterStore d l c da t (attrQ attr) w (ones w) v (.vector c))
  | _ => d

/-- One element of a scatter-with-reduction (R157, R219, R224). -/
def redField (d : Dev) (l c op w v : Nat) (va : Word) (r : AccRes) : Dev :=
  match r with
  | .mere o =>
    if mereBad d l o w then deferMC d l c va 2
    else (match amoNew op (8 * w) (mereRead d l o w) v 0 with | some n => mereWrite d l o w n | none => d)
  | .ok da t attr =>
    newReq (flushSector d l da true)
      { cl := l, ctx := c, src := .vector c, kind := .red op w, da := da, tgt := t, qcache := attrQ attr, len := w,
        mask := ones w, data := v, stage := .toStack, out := 0, status := 0, elem := va.toNat }
  | _ => d

/-- The atomic of one lane (R117, R156, R232). -/
def atomicLane (d : Dev) (l c op w i : Nat) (o : QOp) (va : Word) (r : AccRes) : Dev :=
  let x := getCtx d l c
  let v := memData x o i 0
  let cmp := (xread x (fRD o.syl) i).toNat % 2 ^ (8 * w)
  match r with
  | .mere off =>
    if mereBad d l off w then deferMC d l c va 2
    else
      let old := mereRead d l off w
      let d := updCtx d l c (fun x => memPut x o i 0 old)
      (match amoNew op (8 * w) old v cmp with | some n => mereWrite d l off w n | none => d)
  | .ok da t attr =>
    newReq (flushSector d l da true)
      { cl := l, ctx := c, src := .vector c, kind := .atomic op w cmp, da := da, tgt := t, qcache := attrQ attr, len := w,
        mask := ones w, data := v, stage := .toStack, out := 0, status := 0, elem := i }
  | _ => d

/-- An element that faults nowhere is performed or its requests are sent. -/
def doElem (d : Dev) (l c : Nat) (o : QOp) (i : Nat) (rs : List (Word × AccRes)) : Dev :=
  let w := memW o
  let k := memKind o
  let data := (List.range (memFields o)).map (memData (getCtx d l c) o i)
  ((List.range rs.length).zip rs).foldl (fun d e =>
    match k with
    | .load => loadField d l c (i / memE o) i e.1 w e.2.2
    | .store => storeField d l c w (data.getD e.1 0) e.2.2
    | .red op => redField d l c op w (data.getD e.1 0) e.2.1 e.2.2
    | .atomic op => atomicLane d l c op w i o e.2.1 e.2.2) d

/-- Entries that the vector path of a cluster may still take (R229, R298). -/
def vecRoom (d : Dev) (l : Nat) : Nat :=
  let rs := reqsOf d l
  let vec := (rs.filter (fun e => match e.2.src with | .vector _ => true | _ => false)).length
  let cop := (rs.filter (fun e => match e.2.src with | .copy _ => true | _ => false)).length
  min (256 - vec) (min (352 - vec - cop) (384 - rs.length))

/-- How far the elements of a command have come. -/
structure MRun where
  d : Dev
  at_ : Option Nat
  why : Option MStop
  groups : List Nat

/-- One element entered: performed, or the operation stops or stalls at it. -/
def memEnter (l c : Nat) (o : QOp) (m : MRun) (i : Nat) : MRun :=
  if m.at_.isSome ∨ !memActive (getCtx m.d l c) o i then m
  else if vecRoom m.d l < memFields o then { m with at_ := some i }
  else
    let (rs, d) := elemAccess m.d l (getCtx m.d l c) o i
    match elemStop o rs with
    | some s => { m with d := d, at_ := some i, why := some s }
    | none =>
      let g := i / memE o
      { m with d := doElem d l c o i rs, groups := if m.groups.contains g then m.groups else m.groups ++ [g] }

/-- Do the groups of an operation arrive later with data or old values? -/
def memArrives (o : QOp) : Bool := match memKind o with | .load => true | .atomic _ => true | _ => false

/-- Insert into an ascending list without repeats. -/
def insertAsc (n : Nat) : List Nat → List Nat
  | [] => [n]
  | a :: t => if n < a then n :: a :: t else if n = a then a :: t else a :: insertAsc n t

/-- `n` more element or lane groups of the running memory operation of a kind are sent (R222, R226, R228). -/
def memRun (l n : Nat) (op : Op) (d : Dev) : Dev :=
  match vHead d l with
  | some (c, x, o) =>
    if qopOp o ≠ some op ∨ x.vp.fault.isSome then d
    else
      let e := memE o
      let hi := min (memTotal o) ((o.pos / e + n) * e)
      let m := (upTo o.pos hi).foldl (memEnter l c o) ⟨d, none, none, []⟩
      let pos := m.at_.getD (max o.pos hi)
      let d := setVHead m.d l c { o with pos := pos }
      let d := if memArrives o then
          updCtx d l c (fun x => { x with vp := { x.vp with waiting := m.groups.foldl (fun w g => insertAsc g w) x.vp.waiting } })
        else d
      (match m.why with
       | none => d
       | some (.walk va) =>
         let d := updCl d l (fun k => { k with vrun := none })
         updCtx d l c (fun x => { x with vp := { x.vp with yield := some .walking, va := va,
                                                           acc := if memKind o = .load then 0 else 1 } })
       | some (.miss va da) =>
         faultCtx d l c va 0x06 (if memKind o = .load then 0 else 1) 0xFF o.md.asid (BitVec.ofNat 64 da) true
       | some (.trap t) =>
         if (getCtx d l c).vp.waiting = [] then
           rset (unitFault d l c false t) (csOff l c 0x78) (BitVec.ofNat 64 pos)
         else updCtx d l c (fun x => { x with vp := { x.vp with fault := some (pos, t) } }))
  | none => d

/-- The same, where a store of it may reset the cluster or the device. -/
def memGroups (l n : Nat) (op : Op) (d : Dev) : Dev := settleReset d (memRun l n op d) l

/-- The read requests of a context's vector path are given up: one on its way beyond the device answers nobody. -/
def orphanReqs (d : Dev) (l c : Nat) : Dev :=
  { d with reqs := d.reqs.filterMap (fun e =>
      if e.2.cl == l && e.2.src == .vector c && e.2.kind == .read then
        (if e.2.stage == .remote then some (e.1, { e.2 with src := .clean }) else none)
      else some e) }

/-- What one element of an arriving group gives: its fields' values, or its fault (R222, R223). -/
def arriveElem (d : Dev) (l c : Nat) (o : QOp) (rs : List Req) (i : Nat) : Except Trap (List (Nat × Nat)) :=
  let x := getCtx d l c
  let w := memW o
  (List.range (memFields o)).foldl (fun (a : Except Trap (List (Nat × Nat))) f =>
    match a with
    | .error t => .error t
    | .ok vs =>
      let va := memElemAddr x o i f
      match Tab.find? x.vp.got (elemKey i f), Tab.find? x.vp.need (elemKey i f) with
      | some v, _ =>
        if v.testBit 65 then .error ⟨8, va⟩
        else if v.testBit 64 then
          .error (mcheck 2 (match mereOff o.md va with | some off => BitVec.ofNat 64 off | none => va))
        else .ok (vs ++ [(f, v)])
      | none, some da =>
        (match rs.find? (fun r => r.da == da / 64 * 64) with
         | some r =>
           if r.status ≠ 0 then .error (statusTrap r va)
           else match (clusterRead d l da w false).1 with
             | some (v, _) => .ok (vs ++ [(f, v)])
             | none => .ok (vs ++ [(f, bitsOf r.out (8 * (da % 64)) (8 * w))])
         | none => .ok vs)
      | none, none => .ok vs) (.ok [])

/-- The elements of an arriving group written in ascending order up to the first that faults. -/
def arriveElems (d : Dev) (l c : Nat) (o : QOp) (rs : List Req) (is : List Nat) : Dev × Option (Nat × Trap) :=
  is.foldl (fun (p : Dev × Option (Nat × Trap)) i =>
    match p.2 with
    | some _ => p
    | none =>
      match arriveElem p.1 l c o rs i with
      | .error t => (p.1, some (i, t))
      | .ok vs => (updCtx p.1 l c (fun x => vs.foldl (fun x e => memPut x o i e.1 e.2) x), none)) (d, none)

/-- The old values of a lane group's atomics (R232): an uncorrectable target is a machine check at the next boundary. -/
def arriveAtomics (d : Dev) (l c : Nat) (o : QOp) (rs : List (Nat × Req)) : Dev × Option (Nat × Trap) :=
  rs.foldl (fun (p : Dev × Option (Nat × Trap)) e =>
    let d := dropReq p.1 e.1
    let va := memElemAddr (getCtx d l c) o e.2.elem 0
    if e.2.status = 0 then (updCtx d l c (fun x => memPut x o e.2.elem 0 e.2.out), p.2)
    else if e.2.status % 16 = 3 then (deferMC d l c va (reqKind e.2 e.2.status), p.2)
    else (d, match p.2 with | some f => some f | none => some (e.2.elem, statusTrap e.2 va))) (d, none)

/-- The operation stops at an element for a fault that an arrival brought or that waited for the arrivals. -/
def memStopAt (d : Dev) (l c i : Nat) (t : Trap) : Dev :=
  let d := orphanReqs d l c
  let d := updCtx d l c (fun x => { x with vq := (match x.vq with | o :: q => { o with pos := i } :: q | [] => []),
                                           vp := { x.vp with waiting := [], got := [], need := [], fault := none } })
  rset (unitFault d l c false t) (csOff l c 0x78) (BitVec.ofNat 64 i)

/-- LOAD_GROUP_ARRIVAL: the lowest waiting group of a context's load has all its data: it is written (R227), or stops at
the first element whose data is uncorrectable (R223). -/
def loadGroupArrival (l c g : Nat) (d : Dev) : Dev :=
  let x := getCtx d l c
  match x.vq, x.vp.waiting with
  | o :: _, g0 :: more =>
    let mine : List (Nat × Req) := (reqsOf d l).filter (fun e => e.2.src == .vector c &&
      (match e.2.kind with | .read => e.2.elem == g | .atomic _ _ _ => e.2.elem / 8 == g | _ => false))
    if g ≠ g0 ∨ mine.any (fun e => e.2.stage != .done) then d
    else
      let reads := mine.filter (fun e => e.2.kind == .read)
      let atoms := mine.filter (fun e => e.2.kind != .read)
      let d := reads.foldl (fun d e =>
        let d := dropReq d e.1
        if e.2.status = 0 then clusterFill d l e.2.da e.2.out false false else d) d
      let e := memE o
      let (d, f1) := arriveElems d l c o (reads.map (·.2)) (upTo (g * e) (g * e + e))
      let (d, f2) := arriveAtomics d l c o atoms
      let inG (k : Nat) : Bool := k / 8 / e == g
      let d := updCtx d l c (fun x => { x with vp := { x.vp with waiting := more, got := x.vp.got.filter (fun p => !inG p.1),
                                                                 need := x.vp.need.filter (fun p => !inG p.1) } })
      (match (match f1 with | some p => some p | none => f2) with
       | some (i, t) => memStopAt d l c i t
       | none =>
         match more, x.vp.fault with
         | [], some (i, t) => memStopAt d l c i t
         | _, _ => d)
  | _, _ => d

/-- VECTOR_WALK_RESUME: the unit goes on with an operation whose walk has ended (R228): at its first element not entered, or
with its translation fault (R222). -/
def vectorWalkResume (l : Nat) (d : Dev) : Dev :=
  if (getCl d l).vrun.isSome then d
  else match unitPick d l (vStartable d l) (getCl d l).vwait with
    | none => d
    | some c =>
      let x := getCtx d l c
      let go (d : Dev) : Dev :=
        updCtx (updCl d l (fun k => { k with vrun := some c, vwait := unitWaits (vStartable d l) k.vwait c })) l c
          (fun x => { x with vp := { x.vp with yield := none } })
      match x.vp.yield with
      | some .ready => go d
      | some (.fault kind level dev) =>
        let asid := match x.vq with | o :: _ => o.md.asid | [] => 0
        faultCtx (go d) l c x.vp.va kind x.vp.acc level asid dev true
      | _ => d

/-! ### The meanings -/

/-- VLD. -/
def execVld (cl n : Nat) (s : State) : Out := s.upd (memGroups cl n .vld)
/-- VLSEG. -/
def execVlseg (cl n : Nat) (s : State) : Out := s.upd (memGroups cl n .vlseg)
/-- VLDX. -/
def execVldx (cl n : Nat) (s : State) : Out := s.upd (memGroups cl n .vldx)
/-- VSTX. -/
def execVstx (cl n : Nat) (s : State) : Out := s.upd (memGroups cl n .vstx)
/-- VSTXR. -/
def execVstxr (cl n : Nat) (s : State) : Out := s.upd (memGroups cl n .vstxr)
/-- LOAD_GROUP_ARRIVAL. -/
def execLoadGroupArrival (cl ctx g : Nat) (s : State) : Out := s.upd (loadGroupArrival cl ctx g)
/-- VECTOR_WALK_RESUME. -/
def execVectorWalkResume (cl : Nat) (s : State) : Out := s.upd (vectorWalkResume cl)

end Sys2Proof.Machine
end

