-- ==== Sys2Proof/Machine/Matrix.lean ====
section
/-!
DEFINITION. The matrix engine (spec/10, spec/11): which X operation starts and its setup checks (R242, R246, R262, R273), the
steps of XOPA (R235 to R240, R247, R248, R268 to R270), TZERO, TREL, TLD, TST, TACC (R253 to R261, R272), GXLD and GXST
(spec/05 R137, R139), completion (R244), the resize of the Mere (spec/12 R282) and the SETC to CL_TSTATE (R266).
-/
namespace Sys2Proof.Machine

/-! ### Formats and shapes -/

/-- Elements in a 4-byte slot: products per cell per step (R233). -/
def stepP (code : Nat) : Nat :=
  if code ≤ 1 then 1 else if code ≤ 3 then 2 else if code = 7 ∨ code = 9 then 8 else 4

/-- The CODE of A. -/
def xCodeA (w : Syllable) : Nat := xFA w % 16
/-- The CODE of B: A's, or the other of KV8W and KV8E (R238). -/
def xCodeB (w : Syllable) : Nat := if xBX w = 1 then 9 - xCodeA w else xCodeA w
/-- Block-scaled operands? -/
def xBlk (w : Syllable) : Bool := (xFA w).testBit 4
/-- Elements in a block. -/
def xBlkLen (w : Syllable) : Nat := if (xFA w).testBit 5 then 32 else 16
/-- The tile type of an XOPA (R239). -/
def xopaType (w : Syllable) : Nat :=
  if xBX w = 2 then 3 else if xCodeA w = 0 then 2 else if (xCodeA w = 8 ∨ xCodeA w = 9) ∧ !xBlk w then 1 else 0
/-- Steps in a step group: the passes of one k (R247, R248). -/
def xPasses (ty : Nat) : Nat := if ty = 2 then 8 else if ty = 3 then 4 else 1
/-- K. -/
def xK (o : QOp) : Nat := getF (o.ops.getD 2 0) ⟨0, 32⟩
/-- M. -/
def xM (o : QOp) : Nat := getF (o.ops.getD 2 0) ⟨32, 6⟩ + 1
/-- N. -/
def xN (o : QOp) : Nat := getF (o.ops.getD 2 0) ⟨38, 4⟩ + 1
/-- Step images: step groups of the operation. -/
def xGroups (o : QOp) : Nat := if isPair (xopaType o.syl) then xK o else ceilDiv (xK o) (stepP (xCodeA o.syl))

/-- Image rows, image elements in a row, FMT, QFMT, QEN of a TLD, TST or TACC (R256). -/
def iR (o : QOp) : Nat := getF (o.ops.getD 1 0) ⟨20, 6⟩ + 1
/-- Elements in an image row. -/
def iC (o : QOp) : Nat := getF (o.ops.getD 1 0) ⟨26, 6⟩ + 1
/-- STRIDE. -/
def iStride (o : QOp) : Nat := getF (o.ops.getD 1 0) ⟨0, 20⟩
/-- FMT. -/
def iFmt (o : QOp) : Nat := getF (o.ops.getD 1 0) ⟨32, 8⟩
/-- QFMT. -/
def iQfmt (o : QOp) : Nat := getF (o.ops.getD 1 0) ⟨40, 8⟩
/-- QEN. -/
def iQen (o : QOp) : Bool := (o.ops.getD 1 0).toNat.testBit 48
/-- DATA. -/
def iData (o : QOp) : Nat := getF (o.ops.getD 0 0) ⟨0, 20⟩
/-- SCALE. -/
def iScale (o : QOp) : Nat := getF (o.ops.getD 0 0) ⟨32, 20⟩
/-- T. -/
def iT (w : Syllable) : Bool := majorOf w != 0x0C && w.toNat.testBit 8
/-- CS. -/
def iCS (w : Syllable) : Bool := majorOf w != 0x0C && w.toNat.testBit 3

/-- Is a descriptor block-scaled? -/
def fBlk (f : Nat) : Bool := f.testBit 4
/-- The block length of a descriptor. -/
def fLen (f : Nat) : Nat := if f.testBit 5 then 32 else 16

/-- Steps or rows that an X operation has in all; the others act whole (R263). -/
def xTotal (o : QOp) : Nat :=
  match opX o.md.gm o.syl with
  | some .xopa => xGroups o * xPasses (xopaType o.syl)
  | some .tld => iR o
  | some .tst => iR o
  | some .tacc => iR o
  | _ => 1

/-- Are the Mere accesses of a queued X operation complete (R151)? -/
def xAccessDone (o : QOp) : Bool := decide (xTotal o ≤ o.pos)

/-- The tile type an operation takes: its own field, or that of the tile for TACC. -/
def xType (d : Dev) (l : Nat) (o : QOp) : Nat :=
  match opX o.md.gm o.syl with
  | some .xopa => xopaType o.syl
  | some .tzero => fld o.syl 6 3
  | some .tld => fld o.syl 0 3
  | some .tst => fld o.syl 0 3
  | some .gxld => if o.syl.toNat.testBit 4 then 1 else 0
  | some .gxst => if o.syl.toNat.testBit 4 then 1 else 0
  | _ => tType d l (xTD o.syl)

/-- The element format of a tile type (R260). -/
def elemFmt (ty : Nat) : Nat := if ty = 1 then 0xA else if ty = 2 then 0 else 1
/-- Bits of a tile element. -/
def elemBits (ty : Nat) : Nat := if isPair ty then 64 else 32
/-- Bits of an image element: a complex pair is 64 bits (R257). -/
def imgBits (ty f : Nat) : Nat := if ty = 3 then 64 else codeWidth (f % 16)
/-- Bytes of an image row. -/
def rowBytes (ty : Nat) (o : QOp) : Nat := ceilDiv (iC o * imgBits ty (iFmt o)) 8
/-- The tile shape of an image: rows, columns (R257). -/
def imgShape (o : QOp) : Nat × Nat := if iT o.syl then (iC o, iR o) else (iR o, iC o)

/-! ### Setup checks -/

/-- A tile fault (R243). -/
def tileTrap (cause reason t owner : Nat) : Trap :=
  ⟨cause, BitVec.ofNat 64 (reason + t <<< 8 + (if reason = 1 then owner <<< 11 else 0))⟩

/-- Order 1: the first tile that the operation names and another context owns (R242, R251). -/
def ownerFault (d : Dev) (l c : Nat) (o : QOp) : Option Trap :=
  let t := xTD o.syl
  let names := [t] ++ (if (isPair (xType d l o) ∧ t % 2 = 0) ∨ headsPair d l t then [t + 1] else []) ++
    (if isPartner d l t then [t - 1] else [])
  if o.md.plev = 3 then none
  else (names.find? (fun k => tInUse d l k && tOwner d l k != c)).map (fun k => tileTrap 0x0E 1 k (tOwner d l k))

/-- A shape fault, by its condition. -/
def shapeIf (c : Bool) (reason t : Nat) : Option Trap := if c then some (tileTrap 0x0F reason t 0) else none

/-- Is a combination of TLD or TST accepted (R258, R259)? -/
def comboOk (isTst : Bool) (ty : Nat) (o : QOp) : Bool :=
  let f := iFmt o
  let q := iQfmt o
  let cs := iCS o.syl
  descOk f && (match ty with
    | 1 => f == 8 || f == 9 || f == 0xA
    | 3 => f == 1
    | _ => true) &&
  (if isTst then !iQen o && (fBlk f == cs)
   else
     (!iQen o || (descOk q && ty == 0)) && (!fBlk f || !cs) && (!cs || (iQen o && fBlk q)) &&
       (!(iQen o && fBlk q) || cs))

/-- The block length that an image row must be a multiple of, if any. -/
def blockOf (isTst : Bool) (o : QOp) : Option Nat :=
  let _ := isTst
  if fBlk (iFmt o) then some (fLen (iFmt o))
  else if iCS o.syl ∧ iQen o ∧ fBlk (iQfmt o) then some (fLen (iQfmt o)) else none

/-- The descriptor whose scales stand at SCALE, if any. -/
def scaleFmt (o : QOp) : Option Nat :=
  if fBlk (iFmt o) then some (iFmt o) else if iCS o.syl ∧ fBlk (iQfmt o) then some (iQfmt o) else none

/-- Orders 2 and 3: shape and format (R242, R253, R254, R262, R273, R139). -/
def shapeFault (d : Dev) (l : Nat) (o : QOp) : Option Trap :=
  let t := xTD o.syl
  let ty := xType d l o
  let use := tInUse d l t
  let s := fun (c : Bool) r => shapeIf c r t
  let newPair : Bool := isPair ty && (!use || !isPair (tType d l t)) && tInUse d l (t + 1)
  match opX o.md.gm o.syl with
  | some .xopa =>
    (s (isPair ty && t % 2 == 1) 3) <|> (s (isPartner d l t) 3) <|> (s (use && tType d l t != ty) 2) <|>
    (s (use && (decide (tRows d l t < xM o) || decide (tCols d l t < xN o))) 5) <|> (s (!use && newPair) 4) <|>
    (s (xK o != 0 && xBlk o.syl && xK o % xBlkLen o.syl != 0) 7)
  | some .tzero => (s (isPair ty && t % 2 == 1) 3) <|> (s (isPartner d l t) 3) <|> (s newPair 4)
  | some .trel => s (isPartner d l t) 3
  | some .tld =>
    let (r, c) := imgShape o
    (s (isPair ty && t % 2 == 1) 3) <|> (s (isPartner d l t) 3) <|> (s (use && tType d l t != ty) 2) <|>
    (s (decide (64 < r) || decide (16 < c)) 6) <|>
    (s (use && (decide (tRows d l t < r) || decide (tCols d l t < c))) 5) <|> (s (!use && newPair) 4) <|>
    (s (match blockOf false o with | some b => iC o % b != 0 | none => false) 7) <|> (s (!comboOk false ty o) 9)
  | some .tst =>
    let (r, c) := imgShape o
    (s (isPair ty && t % 2 == 1) 3) <|> (s (isPartner d l t) 3) <|> (s (!use) 0x0A) <|> (s (tType d l t != ty) 2) <|>
    (s (decide (64 < r) || decide (16 < c)) 6) <|> (s (decide (tRows d l t < r) || decide (tCols d l t < c)) 5) <|>
    (s (match blockOf true o with | some b => iC o % b != 0 | none => false) 7) <|> (s (!comboOk true ty o) 9)
  | some .tacc =>
    let (r, c) := imgShape o
    (s (isPartner d l t) 3) <|> (s (!use) 0x0A) <|> (s (decide (64 < r) || decide (16 < c)) 6) <|>
    (s (decide (tRows d l t < r) || decide (tCols d l t < c)) 5) <|> (s (iFmt o != elemFmt ty) 9)
  | some .gxld =>
    let col := fld o.syl 15 4
    s (use && (tType d l t != ty || decide (tCols d l t ≤ col) ||
      (List.range 64).any (fun i => o.act.testBit i && decide (tRows d l t ≤ i)))) 8
  | some .gxst =>
    let col := fld o.syl 15 4
    (s (!use) 0x0A) <|> (s (tType d l t != ty || decide (tCols d l t ≤ col) ||
      (List.range 64).any (fun i => o.act.testBit i && decide (tRows d l t ≤ i))) 8)
  | _ => none

/-- The first byte of a range of Mere offsets that is misaligned or past the last byte. -/
def rangeBad (lim align off n : Nat) : Option Nat :=
  if off % align ≠ 0 then some off else if n = 0 then none else if lim ≤ off then some off
  else if lim < off + n then some lim else none

/-- The ranges of Mere bytes that an X operation names: alignment, offset, length, in order (R242, R262). -/
def xRanges (ty : Nat) (o : QOp) : List (Nat × Nat × Nat) :=
  match opX o.md.gm o.syl with
  | some .xopa =>
    let a := o.ops.getD 0 0
    let b := o.ops.getD 1 0
    let g := xGroups o
    let wide := isPair ty
    let blocks := xK o / xBlkLen o.syl
    [(64, getF a ⟨0, 20⟩, g * (if wide then 512 else 256)), (64, getF b ⟨0, 20⟩, g * (if wide then 128 else 64))] ++
    (if xBlk o.syl then [(16, getF a ⟨32, 20⟩, 64 * blocks), (16, getF b ⟨32, 20⟩, 16 * blocks)] else [])
  | some .tld => rows
  | some .tst => rows
  | some .tacc => rows
  | _ => []
where
  /-- The ranges of an image: each row, then its scales. -/
  rows : List (Nat × Nat × Nat) :=
    ((List.range (iR o)).map (fun i =>
      [(4, iData o + i * iStride o, rowBytes ty o)] ++
      (match (if majorOf o.syl = 0x0C then none else scaleFmt o) with
       | some f => [(1, iScale o + i * (iC o / fLen f), iC o / fLen f)]
       | none => []))).flatten

/-- Order 4: Mere range (R242, R262). Of several offending bytes the lowest offset is reported, as R287 has it for the
same cause. DEDUCED (notes/assumptions/22.md). -/
def mereFault (d : Dev) (l : Nat) (o : QOp) : Option Trap :=
  if opX o.md.gm o.syl = some .xopa ∧ xK o = 0 then none
  else
    let bad := (xRanges (xType d l o) o).filterMap (fun r => rangeBad (mereWays d l * 0x1_0000) r.1 r.2.1 r.2.2)
    bad.min?.map (fun off => ⟨0x10, BitVec.ofNat 64 off⟩)

/-- The first fault of the setup checks. -/
def setupFault (d : Dev) (l c : Nat) (o : QOp) : Option Trap :=
  ownerFault d l c o <|> shapeFault d l o <|> mereFault d l o

/-- What a passed setup declares (R240, R250, R139). -/
def setupDeclare (d : Dev) (l c : Nat) (o : QOp) : Dev :=
  let t := xTD o.syl
  let ty := xType d l o
  if tInUse d l t then d
  else match opX o.md.gm o.syl with
    | some .xopa => if xK o = 0 then d else tDeclare d l t ty c (xM o) (xN o)
    | some .tld => tDeclare d l t ty c (imgShape o).1 (imgShape o).2
    | some .gxld => tDeclare d l t ty c 64 16
    | _ => d

/-! ### The engine and its head operation -/

/-- The context that holds the engine input and its head operation. -/
def xHead (d : Dev) (l : Nat) : Option (Nat × Ctx × QOp) :=
  match (getCl d l).xrun with
  | some c => (match (getCtx d l c).xq with | o :: _ => some (c, getCtx d l c, o) | [] => none)
  | none => none

/-- The head operation of an X queue replaced. -/
def setXHead (d : Dev) (l c : Nat) (o : QOp) : Dev := updCtx d l c (fun x => { x with xq := o :: x.xq.drop 1 })

/-- May the engine start the head X operation of a context? -/
def xStartable (d : Dev) (l c : Nat) : Bool :=
  let x := getCtx d l c
  running d l c && x.park.isNone && x.ufault.isNone && (match x.xq with | o :: _ => !o.fault | [] => false)

/-- GXLD and GXST at setup (R139): tile column and x-registers of the masked lanes. -/
def groupTile (d : Dev) (l c : Nat) (o : QOp) (isLoad : Bool) : Dev :=
  let t := xTD o.syl
  let col := fld o.syl 15 4
  let rx := fld o.syl 10 5
  let int := o.syl.toNat.testBit 4
  onLanes o.act d (fun d i =>
    if isLoad then tPut d l t 0 i col ((xread (getCtx d l c) rx i).toNat % 2 ^ 32)
    else
      let v := tGet d l t 0 i col
      updCtx d l c (fun x => xwrite x rx i (if int then sext64 32 v else BitVec.ofNat 64 v)))

/-- MATRIX_OP_START: the free engine input starts the head X operation of a context (R246), after its setup checks; GXLD and
GXST act whole. -/
def matrixOpStart (l : Nat) (d : Dev) : Dev :=
  if (getCl d l).xrun.isSome then d
  else match unitPick d l (xStartable d l) (getCl d l).xwait with
    | none => d
    | some c =>
      let d := updCl d l (fun k => { k with xrun := some c, xwait := unitWaits (xStartable d l) k.xwait c })
      match (getCtx d l c).xq with
      | o :: _ =>
        (match setupFault d l c o with
         | some t => unitFault d l c true t
         | none =>
           let d := setupDeclare d l c o
           let d := updCtx d l c (fun x => { x with xp := { x.xp with setup := true } })
           let fin (d : Dev) : Dev := updCtx d l c (fun x => { x with xp := { x.xp with fin := true } })
           match opX o.md.gm o.syl with
           | some .gxld => fin (groupTile d l c o true)
           | some .gxst => fin (groupTile d l c o false)
           | _ => d)
      | [] => d

/-! ### XOPA -/

/-- Flags that a NaN operand element raises, and its value: a block scale of 0xFF is a quiet NaN (R174). -/
def scaledElem (code scale : Nat) (v : Nat) : FV :=
  if scale = 0xFF then .nan false else scaleV ((scale : Int) - 127) (decodeCode code v)

/-- The value of element `k` of an operand strip: `slot` bytes wide 4, `img` bytes between images, `base` the slot's place. -/
def stripElem (d : Dev) (l code base img k : Nat) : Nat :=
  let p := stepP code
  let w := codeWidth code
  bitsOf (mereRead d l (base + img * (k / p)) 4) (w * (k % p)) w

/-- The exact sum of a list of products with their flags (R177, R269). -/
def exactSum : List (FV × Nat) → FV × Nat
  | [] => (.fin false 0 0, 0)
  | p :: ps => ps.foldl (fun a q => let (v, fl) := addV 1 a.1 q.1; (v, a.2 ||| q.2 ||| fl)) p

/-- One addition into an accumulator of a floating tile: one rounding, to nearest even (R240, R268). -/
def addOnce (f : FFmt) (acc : Nat) (s : FV × Nat) : Nat × Nat :=
  let (v, fl) := addV 1 (decodeF f acc) s.1
  let (b, fl2) := packF f 1 0 false v
  (b, s.2 ||| fl ||| fl2)

/-- The new value of accumulator (m, n) after step group `g`, and its flags (R268 to R270). -/
def xopaCell (d : Dev) (l : Nat) (o : QOp) (ty g m n acc : Nat) : Nat × Nat :=
  let w := o.syl
  let a := o.ops.getD 0 0
  let b := o.ops.getD 1 0
  let ao := getF a ⟨0, 20⟩
  let bo := getF b ⟨0, 20⟩
  if ty = 2 then
    addOnce fmt64 acc (mulV (decodeF fmt64 (mereRead d l (ao + 512 * g + 8 * m) 8))
      (decodeF fmt64 (mereRead d l (bo + 128 * g + 8 * n) 8)))
  else if ty = 3 then
    let x := mereRead d l (ao + 512 * g + 8 * m) 8
    let y := mereRead d l (bo + 128 * g + 8 * n) 8
    let ar := decodeF fmt32 (x % 2 ^ 32)
    let ai := decodeF fmt32 (x >>> 32)
    let br := decodeF fmt32 (y % 2 ^ 32)
    let bi := decodeF fmt32 (y >>> 32)
    let re := addOnce fmt32 (acc % 2 ^ 32) (exactSum [mulV ar br, mulV ai.neg bi])
    let im := addOnce fmt32 (acc >>> 32) (exactSum [mulV ar bi, mulV ai br])
    (re.1 + im.1 <<< 32, re.2 ||| im.2)
  else
    let ca := xCodeA w
    let cb := xCodeB w
    let p := stepP ca
    let ks := (List.range p).map (fun i => p * g + i) |>.filter (fun k => decide (k < xK o))
    let va (k : Nat) : Nat := stripElem d l ca (ao + 4 * m) 256 k
    let vb (k : Nat) : Nat := stripElem d l cb (bo + 4 * n) 64 k
    if ty = 1 then
      let s := ks.foldl (fun s k => s + sgn (codeWidth ca) (va k) * sgn (codeWidth cb) (vb k)) (sgn 32 acc)
      (wrap 32 s, 0)
    else
      let sc (base n i k : Nat) : Nat := if xBlk w then mereRead d l (base + n * (k / xBlkLen w) + i) 1 else 127
      let prod (k : Nat) : FV × Nat :=
        mulV (scaledElem ca (sc (getF a ⟨32, 20⟩) 64 m k) (va k)) (scaledElem cb (sc (getF b ⟨32, 20⟩) 16 n k) (vb k))
      addOnce fmt32 acc (exactSum (ks.map prod))

/-- The first uncorrectable Mere byte that step group `g` reads (R265). -/
def xopaBad (d : Dev) (l : Nat) (o : QOp) (ty g : Nat) : Option Nat :=
  let a := o.ops.getD 0 0
  let b := o.ops.getD 1 0
  let wide := isPair ty
  let (ia, ib, s) := if wide then (512, 128, 8) else (256, 64, 4)
  let k := g * stepP (xCodeA o.syl)
  let rs : List (Nat × Nat) := [(getF a ⟨0, 20⟩ + ia * g, s * xM o), (getF b ⟨0, 20⟩ + ib * g, s * xN o)] ++
    (if xBlk o.syl then [(getF a ⟨32, 20⟩ + 64 * (k / xBlkLen o.syl), xM o), (getF b ⟨32, 20⟩ + 16 * (k / xBlkLen o.syl), xN o)] else [])
  rs.findSome? (fun r => badIn d l r.1 r.2)
where
  /-- The first uncorrectable byte of a range. -/
  badIn (d : Dev) (l off n : Nat) : Option Nat :=
    (List.find? (fun e => decide (off ≤ e.1) && decide (e.1 < off + n)) (getCl d l).badMere).map (·.1)

/-- One step group of an XOPA (R240). -/
def xopaGroup (d : Dev) (l c : Nat) (o : QOp) (g : Nat) : Dev :=
  let t := xTD o.syl
  let ty := xopaType o.syl
  let r : Dev × Nat := (List.range (xM o)).foldl (fun p m =>
    (List.range (xN o)).foldl (fun (p : Dev × Nat) n =>
      let (v, fl) := xopaCell d l o ty g m n (tGet d l t ty m n)
      (tPut p.1 l t ty m n v, p.2 ||| fl)) p) (d, 0)
  updCtx r.1 l c (fun x => { x with xp := { x.xp with fl := x.xp.fl ||| r.2 } })

/-- How an X operation goes on: steps or rows done, until one meets an uncorrectable error. -/
structure XRun where
  d : Dev
  pos : Nat
  err : Option Trap

/-- `n` more units of work of the running X operation of a kind: `size` positions each; `bad` finds an uncorrectable error
before a unit, which then stops there as a machine check (R263, R265). -/
def xUnits (l n : Nat) (op : Op) (size : QOp → Nat) (bad : Dev → Nat → QOp → Nat → Option Word)
    (unit : Dev → Nat → Nat → QOp → Nat → Dev) (d : Dev) : Dev :=
  match xHead d l with
  | some (c, x, o) =>
    if qopOp o ≠ some op ∨ !x.xp.setup then d
    else
      let sz := size o
      let r := (List.range n).foldl (fun (r : XRun) _ =>
        if r.err.isSome ∨ xTotal o ≤ r.pos then r
        else match bad r.d l o (r.pos / sz) with
          | some v => { r with err := some (mcheck 2 v) }
          | none => { r with d := unit r.d l c o (r.pos / sz), pos := (r.pos / sz + 1) * sz }) ⟨d, o.pos, none⟩
      let d := setXHead r.d l c { o with pos := r.pos }
      (match r.err with
       | some t => rset (unitFault d l c true t) (clOff l (0x440 + 8 * c)) (BitVec.ofNat 64 r.pos)
       | none => d)
  | none => d

/-- The error of an XOPA's step group: in the Mere, or in the tile rows it accumulates into (R265). -/
def xopaErr (d : Dev) (l : Nat) (o : QOp) (g : Nat) : Option Word :=
  match xopaBad d l o (xopaType o.syl) g with
  | some off => some (BitVec.ofNat 64 off)
  | none =>
    if (List.range (xM o)).any (tBad d l (xTD o.syl) (xopaType o.syl)) then some (tileTrap 9 0 (xTD o.syl) 0).tval else none

/-- XOPA. -/
def xopaRun (l n : Nat) (d : Dev) : Dev := xUnits l n .xopa (fun o => xPasses (xopaType o.syl)) xopaErr xopaGroup d

/-! ### TZERO, TREL -/

/-- A whole X operation of a kind. -/
def xWhole (l : Nat) (op : Op) (k : Dev → Nat → QOp → Dev) (d : Dev) : Dev :=
  match xHead d l with
  | some (c, x, o) =>
    if qopOp o ≠ some op ∨ !x.xp.setup ∨ x.xp.fin then d
    else updCtx (k d c o) l c (fun x => { x with xp := { x.xp with fin := true } })
  | none => d

/-- TZERO (R253). -/
def tzeroRun (l : Nat) (d : Dev) : Dev :=
  xWhole l .tzero (fun d c o => tDeclare d l (xTD o.syl) (fld o.syl 6 3) c (fld o.syl 13 6 + 1) (fld o.syl 9 4 + 1)) d

/-- TREL (R254). -/
def trelRun (l : Nat) (d : Dev) : Dev := xWhole l .trel (fun d _ o => tRelease d l (xTD o.syl)) d

/-! ### Images -/

/-- One draw of the stochastic-rounding generator of a cluster (R184, R185). -/
def srNext (d : Dev) (l : Nat) : Nat × Dev :=
  let v := srStep (rget d (clOff l 0x70))
  (srDraw v, rset d (clOff l 0x70) v)

/-- `n` draws where the rounding is stochastic, else none taken. -/
def srDraws (d : Dev) (l : Nat) (sto : Bool) (n : Nat) : List Nat × Dev :=
  if sto then (List.range n).foldl (fun p _ => let (r, d) := srNext p.2 l; (p.1 ++ [r], d)) ([], d)
  else (List.replicate n 0, d)

/-- The rounding mode of a TLD or TST (R179): 6 is stochastic. -/
def iRnd (o : QOp) : Nat := if fld o.syl 5 3 = 0 then o.md.rm else fld o.syl 5 3
/-- SAT of a TLD or TST. -/
def iSat (w : Syllable) : Bool := w.toNat.testBit 4

/-- The place of image row `i`. -/
def rowOff (o : QOp) (i : Nat) : Nat := iData o + i * iStride o

/-- The elements of image row `i` as bits. -/
def imgElems (d : Dev) (l ty : Nat) (o : QOp) (i : Nat) : List Nat :=
  let s := mereRead d l (rowOff o i) (rowBytes ty o)
  let w := imgBits ty (iFmt o)
  (List.range (iC o)).map (fun e => bitsOf s (w * e) w)

/-- The scale of element `e` of image row `i` under a descriptor; 127 for a plain one. -/
def imgScale (d : Dev) (l f : Nat) (o : QOp) (i e : Nat) : Nat :=
  if fBlk f then mereRead d l (iScale o + i * (iC o / fLen f) + e / fLen f) 1 else 127

/-- The tile element of image element (i, e). -/
def tilePos (o : QOp) (i e : Nat) : Nat × Nat := if iT o.syl then (e, i) else (i, e)

/-- Blocks of a list. -/
def chunks {α : Type} (n : Nat) : Nat → List α → List (List α)
  | 0, _ => []
  | k + 1, l => l.take n :: chunks n k (l.drop n)

/-- Values converted with computed scales, block by block (R183): scales, element bits, flags. -/
def blockRow (f rm : Nat) (sat : Bool) (draws : List Nat) (xs : List FV) : List Nat × List Nat × Nat :=
  let b := fLen f
  let n := xs.length / b
  ((chunks b n xs).zip (chunks b n draws)).foldl (fun (a : List Nat × List Nat × Nat) p =>
    let (s, es, fl) := blockConvert (f % 16) rm sat p.2 p.1
    (a.1 ++ [s], a.2.1 ++ es, a.2.2 ||| fl)) ([], [], 0)

/-- Scales written for image row `i` under a descriptor (R257). -/
def putScales (d : Dev) (l f : Nat) (o : QOp) (i : Nat) (ss : List Nat) : Dev :=
  ((List.range ss.length).zip ss).foldl (fun d e => mereWrite d l (iScale o + i * (iC o / fLen f) + e.1) 1 e.2) d

/-- What TLD makes of the elements of one image row: tile element bits, scales to write, flags (R258, R260). -/
def tldRow (d : Dev) (l ty : Nat) (o : QOp) (i : Nat) : List Nat × List Nat × Nat × Dev :=
  let f := iFmt o
  let rm := iRnd o
  let es := imgElems d l ty o i
  let (draws, d) := srDraws d l (rm == 6) es.length
  if f = elemFmt ty ∧ !iQen o then (es, [], 0, d)
  else
    let vals : List FV := ((List.range es.length).zip es).map (fun e =>
      if fBlk f then scaledElem (f % 16) (imgScale d l f o i e.1) e.2 else decodeCode (f % 16) e.2)
    let pack (code r : Nat) (v : FV) (draw : Nat) (sat : Bool) : Nat × Nat := packCode code r draw sat v
    if !iQen o then
      let rs := (vals.zip draws).map (fun p => pack (elemFmt ty) rm p.1 p.2 (iSat o.syl))
      (rs.map (·.1), [], rs.foldl (fun a p => a ||| p.2) 0, d)
    else
      let q := iQfmt o
      let pre := vals.map (fun v => pack 1 (if rm = 6 then 1 else rm) v 0 false)
      let fl0 := pre.foldl (fun a p => a ||| p.2) 0
      let mids := pre.map (fun p => decodeF fmt32 p.1)
      let back (bits : List Nat) (scale : Nat → Nat) : List Nat :=
        ((List.range bits.length).zip bits).map (fun e => (packF fmt32 1 0 false (scaledElem (q % 16) (scale e.1) e.2)).1)
      if fBlk q then
        let (ss, bits, fl) := blockRow q rm (iSat o.syl) draws mids
        (back bits (fun e => ss.getD (e / fLen q) 127), ss, fl0 ||| fl, d)
      else
        let rs := (mids.zip draws).map (fun p => pack (q % 16) rm p.1 p.2 (iSat o.syl))
        (back (rs.map (·.1)) (fun _ => 127), [], fl0 ||| rs.foldl (fun a p => a ||| p.2) 0, d)

/-- One image row of a TLD. -/
def tldUnit (d : Dev) (l c : Nat) (o : QOp) (i : Nat) : Dev :=
  let ty := fld o.syl 0 3
  let (vs, ss, fl, d) := tldRow d l ty o i
  let d := ((List.range vs.length).zip vs).foldl (fun d e =>
    let (r, k) := tilePos o i e.1
    tPut d l (xTD o.syl) ty r k e.2) d
  let d := if ss = [] then d else putScales d l (iQfmt o) o i ss
  updCtx d l c (fun x => { x with xp := { x.xp with fl := x.xp.fl ||| fl } })

/-- The first uncorrectable byte of an image row or of its scales. -/
def imgErr (d : Dev) (l ty : Nat) (o : QOp) (i : Nat) : Option Word :=
  (xopaBad.badIn d l (rowOff o i) (rowBytes ty o) <|>
    (if fBlk (iFmt o) then xopaBad.badIn d l (iScale o + i * (iC o / fLen (iFmt o))) (iC o / fLen (iFmt o)) else none)).map
    (BitVec.ofNat 64)

/-- TLD. -/
def tldRun (l n : Nat) (d : Dev) : Dev :=
  xUnits l n .tld (fun _ => 1) (fun d l o i => imgErr d l (fld o.syl 0 3) o i) tldUnit d

/-- The bit string of packed elements. -/
def packBits (w : Nat) (es : List Nat) : Nat :=
  ((List.range es.length).zip es).foldl (fun a e => a + (e.2 % 2 ^ w) <<< (w * e.1)) 0

/-- One image row of a TST (R259, R260). -/
def tstUnit (d : Dev) (l c : Nat) (o : QOp) (i : Nat) : Dev :=
  let ty := fld o.syl 0 3
  let f := iFmt o
  let rm := iRnd o
  let es := (List.range (iC o)).map (fun e => let (r, k) := tilePos o i e; tGet d l (xTD o.syl) ty r k)
  let (draws, d) := srDraws d l (rm == 6) es.length
  let r : List Nat × List Nat × Nat :=
    if f = elemFmt ty then (es, [], 0)
    else
      let vals := es.map (decodeCode (elemFmt ty))
      if fBlk f then
        let (ss, bits, fl) := blockRow f rm (iSat o.syl) draws vals
        (bits, ss, fl)
      else
        let rs := (vals.zip draws).map (fun p => packCode (f % 16) rm p.2 (iSat o.syl) p.1)
        (rs.map (·.1), [], rs.foldl (fun a p => a ||| p.2) 0)
  let d := mereWrite d l (rowOff o i) (rowBytes ty o) (packBits (imgBits ty f) r.1)
  let d := if r.2.1 = [] then d else putScales d l f o i r.2.1
  updCtx d l c (fun x => { x with xp := { x.xp with fl := x.xp.fl ||| r.2.2 } })

/-- The error of the tile elements that image row `i` of a TST reads. -/
def tstErr (d : Dev) (l : Nat) (o : QOp) (i : Nat) : Option Word :=
  if (List.range (iC o)).any (fun e => tBad d l (xTD o.syl) (fld o.syl 0 3) (tilePos o i e).1) then
    some (tileTrap 9 0 (xTD o.syl) 0).tval else none

/-- TST. -/
def tstRun (l n : Nat) (d : Dev) : Dev := xUnits l n .tst (fun _ => 1) tstErr tstUnit d

/-- One image row of a TACC (R272). -/
def taccUnit (d : Dev) (l c : Nat) (o : QOp) (i : Nat) : Dev :=
  let t := xTD o.syl
  let ty := tType d l t
  let es := imgElems d l ty o i
  let r : Dev × Nat := ((List.range es.length).zip es).foldl (fun p e =>
    let acc := tGet p.1 l t ty i e.1
    let (v, fl) : Nat × Nat := match ty with
      | 1 => ((acc + e.2) % 2 ^ 32, 0)
      | 2 => addOnce fmt64 acc (decodeF fmt64 e.2, 0)
      | 3 =>
        let a := addOnce fmt32 (acc % 2 ^ 32) (decodeF fmt32 (e.2 % 2 ^ 32), 0)
        let b := addOnce fmt32 (acc >>> 32) (decodeF fmt32 (e.2 >>> 32), 0)
        (a.1 + b.1 <<< 32, a.2 ||| b.2)
      | _ => addOnce fmt32 acc (decodeF fmt32 e.2, 0)
    (tPut p.1 l t ty i e.1 v, p.2 ||| fl)) (d, 0)
  updCtx r.1 l c (fun x => { x with xp := { x.xp with fl := x.xp.fl ||| r.2 } })

/-- The error of image row `i` of a TACC: in the Mere, or in the tile row it adds to. -/
def taccErr (d : Dev) (l : Nat) (o : QOp) (i : Nat) : Option Word :=
  let ty := tType d l (xTD o.syl)
  imgErr d l ty o i <|> (if tBad d l (xTD o.syl) ty i then some (tileTrap 9 0 (xTD o.syl) 0).tval else none)

/-- TACC. -/
def taccRun (l n : Nat) (d : Dev) : Dev := xUnits l n .tacc (fun _ => 1) taccErr taccUnit d

/-! ### Completion -/

/-- MATRIX_OP_COMPLETE: the operation leaves its queue, its flags accrue, CL_TSR is 0 (R102, R264). -/
def matrixOpComplete (l : Nat) (d : Dev) : Dev :=
  match xHead d l with
  | some (c, x, o) =>
    let whole : Bool := match opX o.md.gm o.syl with
      | some .tzero => true | some .trel => true | some .gxld => true | some .gxst => true | _ => false
    if x.xp.setup ∧ !o.fault ∧ (if whole then x.xp.fin else decide (xTotal o ≤ o.pos)) then
      let d := accrue d l c
      let d := updCtx d l c (fun x => { x with xq := x.xq.drop 1, xp := Prog.empty })
      let d := updCl d l (fun k => { k with xrun := none })
      refreshPend (rset d (clOff l (0x440 + 8 * c)) 0) l c
    else d
  | none => d

/-! ### SETC to CL_TSTATE and CL_MERE -/

/-- Does any queued X operation of the cluster name tile `t` or its pair's other tile? -/
def tileNamed (d : Dev) (l t : Nat) : Bool :=
  (List.range 8).any (fun c => (getCtx d l c).xq.any (fun o =>
    xTD o.syl == t || ((headsPair d l (t / 2 * 2) || isPair (xType d l o)) && xTD o.syl / 2 == t / 2)))

/-- CL_TSTATE_WRITE (R266): no queued X operation names the tile, so the waiting SETC takes effect and retires. -/
def clTstateWrite (l c : Nat) (d : Dev) : Dev :=
  onSyl l c 1 .setc (· == .fixed) (fun _ y x =>
    let o := selOff l c (fSEL y.word)
    let r := o - clOff l 0
    if 0x480 ≤ r ∧ r < 0x4C0 ∧ !tileNamed d l ((r - 0x480) / 8) then
      settle (retireIf (setSyl d l c 1 .done [.setc o (sread x (fRD y.word))]) l c) l
    else d) d

/-- May the Mere be resized now: no other context runs, no copy is outstanding, no V or X operation is queued (R282)? -/
def mereQuiet (d : Dev) (l c : Nat) : Bool :=
  let k := getCl d l
  (List.range 8).all (fun e => e == c || !running d l e) && k.copies.isEmpty &&
  (List.range 8).all (fun e => (getCtx d l e).vq.isEmpty && (getCtx d l e).xq.isEmpty)

/-- Ways change role (R282): a way that becomes Mere is cleaned, invalidated and reads as zero; one that becomes cache
joins empty. -/
def resizeMere (d : Dev) (l w : Nat) : Dev :=
  let old := mereWays d l
  let d := (getCl d l).cc.foldl (fun d e => if e.1 % 16 < w then cleanLineNow d l e.2 else d) d
  let d := updCl d l (fun k => { k with
    cc := k.cc.filter (fun e => decide (w ≤ e.1 % 16)), side := [],
    mere := Tab.drop k.mere (fun o => decide (min old w * 0x1_0000 ≤ o)),
    badMere := Tab.drop k.badMere (fun o => decide (min old w * 0x1_0000 ≤ o)) })
  rsetF (rsetF d (clOff l 0x500) CL_MERE.WAYS w) (clOff l 0x708) CL_PFCTL.LINES 0

/-- CL_MERE_RESIZE (R282): its conditions hold together, so the ways change role and the SETC retires. -/
def clMereResize (l c : Nat) (d : Dev) : Dev :=
  onSyl l c 1 .setc (· == .held) (fun _ y x =>
    let o := selOff l c (fSEL y.word)
    if o = clOff l 0x500 ∧ mereQuiet d l c then
      let w := getF (fixStored o 0 (sread x (fRD y.word))) CL_MERE.WAYS
      settle (retireIf (setSyl (resizeMere d l w) l c 1 .done []) l c) l
    else d) d

/-! ### The meanings -/

/-- MATRIX_OP_START. -/
def execMatrixOpStart (cl : Nat) (s : State) : Out := s.upd (matrixOpStart cl)
/-- XOPA. -/
def execXopa (cl n : Nat) (s : State) : Out := s.upd (xopaRun cl n)
/-- TZERO. -/
def execTzero (cl : Nat) (s : State) : Out := s.upd (tzeroRun cl)
/-- TREL. -/
def execTrel (cl : Nat) (s : State) : Out := s.upd (trelRun cl)
/-- TLD. -/
def execTld (cl n : Nat) (s : State) : Out := s.upd (tldRun cl n)
/-- TST. -/
def execTst (cl n : Nat) (s : State) : Out := s.upd (tstRun cl n)
/-- TACC. -/
def execTacc (cl n : Nat) (s : State) : Out := s.upd (taccRun cl n)
/-- MATRIX_OP_COMPLETE. -/
def execMatrixOpComplete (cl : Nat) (s : State) : Out := s.upd (matrixOpComplete cl)
/-- CL_TSTATE_WRITE. -/
def execClTstateWrite (cl ctx : Nat) (s : State) : Out := s.upd (clTstateWrite cl ctx)
/-- CL_MERE_RESIZE. -/
def execClMereResize (cl ctx : Nat) (s : State) : Out := s.upd (clMereResize cl ctx)

end Sys2Proof.Machine
end

