-- ==== Sys2Proof/Machine/Fences.lean ====
section
/-!
DEFINITION. Fences (spec/06 R150 to R153) and scalar atomics (spec/04 R94, R95, spec/06 R155, R156, spec/03 R503).
-/
namespace Sys2Proof.Machine

/-- Does a queued V operation access memory? -/
def isVMem (o : QOp) : Bool :=
  match qopOp o with
  | some p => p == .vld || p == .vlseg || p == .vldx || p == .vstx || p == .vstxr || p == .tload || p == .tatomic
  | none => false

/-- Have the earlier loads and atomics of the context their values, and the vector path's stores left, on the paths that a
scope covers (R146, R150, R151)? -/
def loadsDone (d : Dev) (l c scope : Nat) : Bool :=
  let x := getCtx d l c
  x.vq.all (fun o => !isVMem o) && x.vp.waiting == [] && (scope == 0 || x.xq.all xAccessDone) &&
  !(reqsOf d l).any (fun e => e.2.ctx == c && (match e.2.kind with | .atomic _ _ _ => true | _ => false))

/-- Are the earlier stores, atomics and scatters of the context performed at a scope (R150)? A scatter is performed at its
atomic unit; at device scope every write on its way to a stack has been acknowledged, at system scope every write. The other contexts'
writes count too, since the context may have read them in the cluster's caches (R153); a copy's do not (R151). -/
def storesDone (d : Dev) (l c scope : Nat) : Bool :=
  !(reqsOf d l).any (fun e =>
    let r := e.2
    let mine : Bool := match r.src with
      | .copy _ => false
      | .clean => true
      | _ => r.ctx == c || (r.kind == .write && decide (2 ≤ scope))
    let isRed : Bool := match r.kind with | .red _ _ => true | _ => false
    let toStack_ : Bool := match r.tgt with | .stack _ _ => true | _ => false
    r.kind != .read &&
    ((isRed && r.ctx == c) || (mine && toStack_ && (decide (2 ≤ scope) || !hasCC d l)) || (mine && scope == 3)))

/-- May a fence of an ORD and a scope complete? -/
def fenceReady (d : Dev) (l c ord scope : Nat) : Bool :=
  loadsDone d l c scope && (!ord.testBit 1 || storesDone d l c scope)

/-- The cleaning of a release (R150). -/
def releaseClean (d : Dev) (l ord scope : Nat) : Dev := if ord.testBit 1 ∧ 2 ≤ scope then cleanCluster d l else d

/-- The store error that a release of system scope reports (R391). -/
def releaseErr (d : Dev) (l c ord scope : Nat) : Option Word :=
  if ord.testBit 1 ∧ scope = 3 then (getCtx d l c).storeErr else none

/-- A syllable fails with the store error of its context, which is then reported. -/
def failStoreErr (d : Dev) (l c : Nat) (a : Word) : Dev :=
  failSyl (updCtx d l c (fun x => { x with storeErr := none })) l c 2 ⟨8, a⟩

/-- FENCE: the bundle waits in W (R150). -/
def fenceSyl (l c : Nat) (d : Dev) : Dev := onSyl l c 2 .fence isReady (fun _ _ _ => setSyl d l c 2 .held []) d

/-! ### Atomics -/

/-- Have the other syllables of the bundle completed (R503)? -/
def othersDone (b : WB) : Bool :=
  let ok (s : Option Syl) : Bool := match s with | some y => y.st == .done | none => true
  ok b.a && ok b.b

/-- What an atomic's syllable does when its old value is known: s[RD], and the acquire of its ORD (R94, R155). -/
def amoEffs (w : Syllable) (old : Nat) : List Eff :=
  [.sreg (fRD w) (amoOld (majorOf w - 0x10) (8 * 2 ^ fFMT w) old)] ++ (if (fORD w).testBit 0 then [.acquire (fSCOPE w)] else [])

/-- AMO (R92, R94, R95, R155, R156, R503). -/
def amoSyl (l c : Nat) (d : Dev) : Dev :=
  onSyl l c 2 .amo (fun s => isReady s || s == .held) (fun b y x =>
    let a := sread x (fRA y.word)
    let n := 2 ^ fFMT y.word
    let bits := 8 * n
    let op := majorOf y.word - 0x10
    let v := (sread x (fRB y.word)).toNat % 2 ^ bits
    let cmp := (sread x (fRD y.word)).toNat % 2 ^ bits
    if a.toNat % n ≠ 0 then failSyl d l c 2 ⟨6, a⟩
    else
      let r := accessQ d l b.md a .wr
      let d := r.2
      let go (k : Dev → Dev) : Dev :=
        if !othersDone b then d
        else if (fORD y.word).testBit 1 ∧ !fenceReady d l c 2 (fSCOPE y.word) then setSyl d l c 2 .held []
        else match releaseErr d l c (fORD y.word) (fSCOPE y.word) with
          | some e => failStoreErr d l c e
          | none => k (releaseClean d l (fORD y.word) (fSCOPE y.word))
      let atUnit (da : Nat) (t : Target) (attr : Nat) (d : Dev) : Dev :=
        if entryFree d l (.scalar c) then
          let d := flushSector d l da true
          let id := Tab.fresh d.reqs
          let d := newReq d { cl := l, ctx := c, src := .scalar c, kind := .atomic op n cmp, da := da, tgt := t,
                              qcache := attrQ attr, len := n, mask := ones n, data := v, stage := .toStack, out := 0,
                              status := 0, elem := da }
          setSyl d l c 2 (.req id) []
        else d
      match r.1 with
      | .trap t => failSyl d l c 2 t
      | .walk => setSyl d l c 2 (.walking a 1) []
      | .miss da => faultCtx d l c a 0x06 1 0xFF b.md.asid (BitVec.ofNat 64 da) false
      | .mere o => go (fun d =>
          if mereBad d l o n then failSyl d l c 2 (mcheck 2 (BitVec.ofNat 64 o))
          else
            let old := mereRead d l o n
            let d := match amoNew op bits old v cmp with | some w => mereWrite d l o n w | none => d
            setSyl d l c 2 .done (amoEffs y.word old))
      | .ok da t attr =>
        match t with
        | .mgmt _ => failSyl d l c 2 ⟨8, a⟩
        | .host _ => failSyl d l c 2 ⟨8, a⟩
        | _ => go (atUnit da t attr)) d

/-- ATOMIC_OLD_VALUE_RETURN: the old value returns, and the bundle retires (R503). -/
def atomicReturn (l c : Nat) (d : Dev) : Dev :=
  match (getCtx d l c).wb.bind (·.m) with
  | none => d
  | some y =>
    match y.st with
    | .req id =>
      (match Tab.find? d.reqs id with
       | none => d
       | some r =>
         let isAtomic : Bool := match r.kind with | .atomic _ _ _ => true | _ => false
         if r.stage ≠ .done ∨ !isAtomic then d
         else
           let a := sread (getCtx d l c) (fRA y.word)
           let d := dropReq d id
           if r.status ≠ 0 then failSyl d l c 2 (statusTrap r a)
           else settle (retireIf (setSyl d l c 2 .done (amoEffs y.word r.out)) l c) l)
    | _ => d

/-- FENCE_COMPLETE: the condition of a fence, or of an atomic's release, holds: the cache action, then the fence retires or
the atomic goes on (R150, R155). -/
def fenceComplete (l c : Nat) (d : Dev) : Dev :=
  match sylFor d l c 2 .fence (· == .held) with
  | some (_, y) =>
    let ord := fORD y.word
    let sc := fSCOPE y.word
    if !fenceReady d l c ord sc then d
    else match releaseErr d l c ord sc with
      | some e => failStoreErr d l c e
      | none =>
        let d := releaseClean d l ord sc
        settle (retireIf (setSyl d l c 2 .done (if ord.testBit 0 then [.acquire sc] else [])) l c) l
  | none => onSyl l c 2 .amo (· == .held) (fun _ _ _ => amoSyl l c d) d

/-! ### The meanings -/

/-- FENCE. -/
def execFence (cl ctx : Nat) (s : State) : Out := s.upd (fenceSyl cl ctx)
/-- FENCE_COMPLETE. -/
def execFenceComplete (cl ctx : Nat) (s : State) : Out := s.upd (fenceComplete cl ctx)
/-- AMO. -/
def execAmo (cl ctx : Nat) (s : State) : Out := s.upd (amoSyl cl ctx)
/-- ATOMIC_OLD_VALUE_RETURN. -/
def execAtomicOldValueReturn (cl ctx : Nat) (s : State) : Out := s.upd (atomicReturn cl ctx)

end Sys2Proof.Machine
end

