-- ==== Sys2Proof/Machine/Thread.lean ====
section
/-!
DEFINITION. Thread syllables of group mode (spec/05 R113 to R120): arithmetic per lane (R116), loads, stores and atomics
(R117, R155, R231, R232), thread branches and their resolution (R118, R120).
-/
namespace Sys2Proof.Machine

/-! ### Arithmetic -/

/-- The result of an integer operation whose checked form may overflow (R88, R116). -/
def ERes.checked (md : Modes) (r : Word × Bool) : ERes :=
  ⟨r.1.toNat, 0, false, if r.2 && md.iov then some (0x0B, 0) else none⟩

/-- The result of an integer divide: its traps are raised in the vector unit (R90, R116). -/
def ERes.divide (md : Modes) (r : Word × Bool × Bool) : ERes :=
  ⟨r.1.toNat, 0, false, if r.2.1 && md.idz then some (0x0A, 0) else if r.2.2 && md.iov then some (0x0B, 0) else none⟩

/-- The result of a scalar floating-point operation of a thread (R100, R116). -/
def ERes.thread (md : Modes) (r : Word × Nat) : ERes := ERes.float md (r.1.toNat, r.2)

/-- What TGET reads (R116). -/
def tgetValue (d : Dev) (l c t sel : Nat) : Nat :=
  match sel with
  | 0 => t
  | 1 => c
  | 2 => rgetF d (csOff l c 0x48) CL_GCTL.BLOCK
  | _ => l

/-- The result of a thread syllable of the integer, move and floating-point kinds for thread `t` (R116). -/
def threadValue (d : Dev) (l c : Nat) (o : QOp) (x : Ctx) (t : Nat) : ERes :=
  let w := o.syl
  let m := majorOf w
  let a := xread x (fRA w) t
  let b := if 0x14 ≤ m ∧ m ≤ 0x17 then o.ops.getD 0 0 else xread x (fRB w) t
  if m = 0x00 ∨ m = 0x14 then ERes.checked o.md (aluCompute (fOP w) (fW w) a b)
  else if m ≤ 0x0A then ERes.of (aluCompute (immAlu (m - 1)) false a (BitVec.ofInt 64 (fIMM12 w))).1.toNat
  else if m = 0x0B then ERes.of (sext64 17 (fld w 0 17)).toNat
  else if m = 0x0C ∨ m = 0x15 then ERes.checked o.md (mulCompute (fOP w) (fW w) a b)
  else if m = 0x0D then ERes.divide o.md (divCompute (fOP w) (fW w) a b)
  else if m ≤ 0x13 then ERes.thread o.md (fCompute (m - 0x0E) o.md w a b (xread x (fRD w) t))
  else if m = 0x16 ∨ m = 0x17 then ERes.thread o.md (fCompute (m - 0x16) o.md w a b (xread x (fRD w) t))
  else if m = 0x1F then ERes.of (tgetValue d l c t (fSEL w))
  else ERes.of (o.ops.getD 0 0).toNat

/-- One lane of a thread syllable entered: written, or the operation stops at it; DT_TVAL is the lane, with the bits of
R100. -/
def threadLane (d : Dev) (l c : Nat) (o : QOp) (a : EAcc) (t : Nat) : EAcc :=
  if a.stop.isSome ∨ !o.act.testBit t then a
  else
    let r := threadValue d l c o a.x t
    match r.trap with
    | some (cause, bits) => { a with stop := some (t, ⟨cause, BitVec.ofNat 64 (t + bits)⟩) }
    | none => { a with x := xwrite a.x (fRD o.syl) t (BitVec.ofNat 64 r.val), fl := a.fl ||| r.fl }

/-- THREAD_ALU: `n` more lane groups of the running thread syllable enter the datapath (R116, R119). -/
def threadGroups (l n : Nat) (d : Dev) : Dev :=
  match vHead d l with
  | some (c, x, o) =>
    if qopOp o ≠ some .talu then d
    else
      let hi := min 64 ((o.pos / 8 + n) * 8)
      let a := (upTo o.pos hi).foldl (threadLane d l c o) ⟨x, 0, false, none⟩
      let x2 : Ctx := { a.x with vp := { a.x.vp with fl := a.x.vp.fl ||| a.fl } }
      (match a.stop with
       | some (i, t) =>
         rset (unitFault (setVHead (setCtx d l c x2) l c { o with pos := i }) l c false t) (csOff l c 0x78) (BitVec.ofNat 64 i)
       | none => setVHead (setCtx d l c x2) l c { o with pos := max o.pos hi })
  | none => d

/-! ### Atomics -/

/-- Are the accesses before a thread atomic that releases performed at its scope (R155, R150)? The atomic heads the vector
queue, and the context issues nothing behind an ordered atomic. -/
def releaseReady (d : Dev) (l c scope : Nat) : Bool :=
  let x := getCtx d l c
  x.vp.waiting == [] && (scope == 0 || x.xq.all xAccessDone) && storesDone d l c scope &&
  !(reqsOf d l).any (fun e => e.2.ctx == c && (match e.2.kind with | .atomic _ _ _ => true | _ => false))

/-- THREAD_ATOMIC: `n` more lane groups send their atomics, in ascending lane order (R117, R156, R232); an atomic with REL
starts when the accesses before it are performed at its scope (R155). -/
def threadAtomics (l n : Nat) (d : Dev) : Dev :=
  match vHead d l with
  | some (c, _, o) =>
    let rel : Bool := (fORD o.syl).testBit 1
    if qopOp o ≠ some .tatomic then d
    else if rel ∧ o.pos = 0 then
      (if !releaseReady d l c (fSCOPE o.syl) then d
       else match releaseErr d l c (fORD o.syl) (fSCOPE o.syl) with
         | some e => unitFault (updCtx d l c (fun x => { x with storeErr := none })) l c false ⟨8, e⟩
         | none => memGroups l n .tatomic (releaseClean d l (fORD o.syl) (fSCOPE o.syl)))
    else memGroups l n .tatomic d
  | none => d

/-! ### Thread branches -/

/-- Where a thread goes after the delay bundle, when not to the bundle that follows it (R116, R64). -/
def threadTarget (o : QOp) (x : Ctx) (t : Nat) : Option Word :=
  let w := o.syl
  let m := majorOf w
  let r := xread x (fRD w) t
  let jr : Word := BitVec.ofNat 64 ((brTarget r (sgn 17 (fld w 0 17))).toNat / 4 * 4)
  if m = 0x30 then
    (if condHolds (fld w 14 3) r then some (brTarget o.addr (sgn 14 (fld w 0 14))) else none)
  else if m = 0x32 then some (brTarget o.addr (sgn 22 (fld w 0 22)))
  else some jr

/-- The branch of the threads of the active set: each one's following address (R118, R120), and x31 for the calls. -/
def threadBranchAll (o : QOp) (aft : Word) (x : Ctx) : Ctx × Tab Word :=
  let call : Bool := decide (0x32 ≤ majorOf o.syl)
  (List.range 64).foldl (fun (p : Ctx × Tab Word) t =>
    if o.act.testBit t then
      (if call then xwrite p.1 31 t aft else p.1,
       match threadTarget o x t with | some a => Tab.insert p.2 t a | none => p.2)
    else p) (x, [])

/-- TBC, TJR, TCALL, TCALLR: the unit finds every thread's following address (R118, R120); where the delay bundle cannot be
read, the address after it is a value the spec does not state. -/
def threadBranchOp (l : Nat) (d : Dev) : Dev :=
  match vHead d l with
  | some (c, x, o) =>
    if qopOp o ≠ some .tbc ∨ x.vp.fin then d
    else
      let aft := afterDelay d l c
      let (x2, f) := threadBranchAll o aft x
      let dl : Option Delay := x2.delay.map (fun dl => { dl with follow := f })
      let d := setCtx d l c { x2 with delay := dl, vp := { x2.vp with fin := true } }
      { d with freeCtr := d.freeCtr + 1 }
  | none => d

/-- Is a thread branch still queued? -/
def branchQueued (x : Ctx) : Bool := x.vq.any (fun o => qopOp o == some .tbc)

/-- THREAD_BRANCH_RESOLVE: the vector unit completes the thread branch, and the bundle after its delay bundle is known
(R120). -/
def threadResolve (l c : Nat) (d : Dev) : Dev :=
  let x := getCtx d l c
  let head : Bool := match vHead d l with
    | some (k, _, o) => k == c && qopOp o == some .tbc && x.vp.fin
    | none => false
  let d := if head then vectorOpComplete l d else d
  match (getCtx d l c).delay with
  | some dl =>
    if dl.unresolved ∧ !branchQueued (getCtx d l c) then
      updCtx d l c (fun x => { x with delay := some { dl with unresolved := false } })
    else d
  | none => d

/-! ### The meanings -/

/-- THREAD_ALU. -/
def execThreadAlu (cl n : Nat) (s : State) : Out := s.upd (threadGroups cl n)
/-- THREAD_LOAD. -/
def execThreadLoad (cl n : Nat) (s : State) : Out := s.upd (memGroups cl n .tload)
/-- THREAD_ATOMIC. -/
def execThreadAtomic (cl n : Nat) (s : State) : Out := s.upd (threadAtomics cl n)
/-- TBC. -/
def execTbc (cl : Nat) (s : State) : Out := s.upd (threadBranchOp cl)
/-- THREAD_BRANCH_RESOLVE. -/
def execThreadBranchResolve (cl ctx : Nat) (s : State) : Out := s.upd (threadResolve cl ctx)

end Sys2Proof.Machine
end

