-- ==== Sys2Proof/Machine/Groups.lean ====
section
/-!
DEFINITION. Groups of threads (spec/05): yields (R128), exits (R122), collectives and their split checks (R136 to R139), the
block barrier (R140).
-/
namespace Sys2Proof.Machine

/-! ### Yields -/

/-- The threads of an active set become yielded: each until every thread that is runnable and unyielded now has issued or
has left (R128). -/
def yieldThreads (d : Dev) (l c act : Nat) : Dev :=
  let run := runnable d l c
  let x := getCtx d l c
  let y := lanes (fun t => act.testBit t || (Tab.find? x.yielded t).isSome)
  let un := lanes (fun t => run.testBit t && !y.testBit t)
  updCtx d l c (fun x => { x with
    yielded := if un = 0 then [] else (List.range 64).foldl (fun m t =>
      if act.testBit t ∧ run.testBit t then Tab.insert m t un else m) x.yielded })

/-- The operation of the V or X syllable of the bundle in W that has its own retirement. -/
def ownOp (b : WB) : Option (Op × Syllable) :=
  match b.v.bind (fun w => if isNoQ b w then (sylOp true 0 w).map (fun o => (o, w)) else none) with
  | some p => some p
  | none => b.x.bind (fun w => (sylOp true 0 w).bind (fun o => if b.md.gm ∧ isCollective o then some (o, w) else none))

/-- The bundle in W whose own operation is `op`, its faults not yet found. -/
def ownBundle (d : Dev) (l c : Nat) (op : Op) : Option (WB × Syllable) :=
  let x := getCtx d l c
  match x.wb with
  | some b => (match ownOp b with
      | some (o, w) => if o = op ∧ x.dfault.isNone ∧ complete d l c then some (b, w) else none
      | none => none)
  | none => none

/-- GYIELD: its bundle retires, and its threads are yielded (R128). -/
def gyield (l c : Nat) (d : Dev) : Dev :=
  match ownBundle d l c .gyield with
  | some (b, _) => settle (yieldThreads (retire d l c) l c b.act) l
  | none => d

/-! ### Split collectives -/

/-- The threads of a context that wait at an address. -/
def waitingAt (d : Dev) (l c : Nat) (a : Word) : Nat :=
  lanes (fun t => tstate d l c t == 1 && tpc d l c t == a.toNat)

/-- Every thread that waits at a collective returns to runnable there (R138); one that waited in a delay bundle keeps its
following address in CL_TBT. -/
def releaseColl (d : Dev) (l c : Nat) (a : Word) : Dev :=
  let x := getCtx d l c
  let f : Tab Word := match x.colls.find? (fun k => k.addr == a) with | some k => k.follow | none => []
  let d := onLanes (waitingAt d l c a) d (fun d t =>
    let d := setSt d l c t 0
    match Tab.find? f t with
    | some w => rset d (tbtOff l c t) (setB (setF 0 CL_TBT.ADDR (w.toNat / 4)) CL_TBT.DS true)
    | none => d)
  updCtx d l c (fun x => { x with colls := x.colls.filter (fun k => k.addr != a) })

/-- The threads of a mask that break a collective at an address: exited, waiting elsewhere, or outside the loop set
(R138). -/
def splitters (d : Dev) (l c m : Nat) (a : Word) : Nat :=
  lanes (fun t => m.testBit t &&
    (tstate d l c t == 3 || (tstate d l c t == 1 && tpc d l c t != a.toNat) ||
     ((innermost d l c).isSome && (glive d l c).testBit t && !(gloopView d l c).toNat.testBit t)))

/-- The participation mask of a pending collective. -/
def collMask (d : Dev) (l c : Nat) (k : Coll) : Nat := k.mask.getD (glive d l c)

/-- A masked thread of another pending collective has changed state: the first such collective that is now split raises
its fault, with its waiting threads runnable again at its bundle (R138). -/
def checkColls (d : Dev) (l c : Nat) : Dev :=
  match (getCtx d l c).colls.find? (fun k => splitters d l c (collMask d l c k) k.addr != 0) with
  | none => d
  | some k =>
    let off := splitters d l c (collMask d l c k) k.addr
    let set := waitingAt d l c k.addr
    let d := releaseColl d l c k.addr
    updCtx d l c (fun x => { x with pc := k.addr, gsel := some set, dfault := some ⟨0x0D, BitVec.ofNat 64 off⟩ })

/-! ### Exits -/

/-- TEXIT: its bundle retires and its threads exit for good; the last live thread's exit ends the context (R122, R125). -/
def texit (l c : Nat) (d : Dev) : Dev :=
  match ownBundle d l c .texit with
  | some (b, _) =>
    let d := retire d l c
    let d := onLanes b.act d (fun d t => setSt d l c t 3)
    let live := maskOf 64 (fun t => (glive d l c).testBit t && !b.act.testBit t)
    let d := rset d (csOff l c 0x50) (BitVec.ofNat 64 live)
    let d := if live = 0 then updCtx d l c (fun x => { x with stop := true, colls := [] }) else checkColls d l c
    settle d l
  | none => d

/-! ### Collectives -/

/-- Where a thread goes on after a collective's bundle: the next bundle, or what its branch's delay gives. -/
def collFollow (x : Ctx) (b : WB) (t : Nat) : Word :=
  let seq := b.addr + BitVec.ofNat 64 (4 * b.len)
  match b.isDelay, x.delay with
  | true, some dl => followOf dl seq t
  | _, _ => seq

/-- W is free after an issue of a collective. -/
def freeW (d : Dev) (l c : Nat) : Dev := tickShadow (updCtx d l c (fun x => { x with wb := none, delay := none })) l c

/-- The threads of a mask retire the collective's bundle (R137). -/
def retireThreads (d : Dev) (l c : Nat) (b : WB) (m : Nat) : Dev :=
  let x := getCtx d l c
  onLanes m d (fun d t => setTpc d l c t 0 (collFollow x b t).toNat)

/-- A loop level that ends at the collective's bundle (R69): the threads continue at its start where it loops back. -/
def collLoop (d : Dev) (l c : Nat) (b : WB) (m : Nat) : Dev :=
  let (d, back) := loopEnd d l c b.addr 2
  match back with | some a => onLanes m d (fun d t => setPcT d l c t a.toNat) | none => d

/-- A split-collective fault of the bundle in W (R138): its waiting threads are runnable again. -/
def splitFault (d : Dev) (l c : Nat) (b : WB) (tval : Nat) : Dev :=
  updCtx (releaseColl d l c b.addr) l c (fun x => { x with dfault := some ⟨0x0D, BitVec.ofNat 64 tval⟩ })

/-- The masked threads of the active set arrive: they wait at the bundle, the others retire it (R137). -/
def arrive (d : Dev) (l c : Nat) (b : WB) (m : Nat) (mask : Option Nat) : Dev :=
  let x := getCtx d l c
  let here := lanes (fun t => b.act.testBit t && m.testBit t)
  let old : Coll := (x.colls.find? (fun k => k.addr == b.addr)).getD ⟨b.addr, mask, []⟩
  let f : Tab Word := (List.range 64).foldl (fun f t =>
    if here.testBit t ∧ b.isDelay then Tab.insert f t (collFollow x b t) else f) old.follow
  let d := retireThreads d l c b (lanes (fun t => b.act.testBit t && !m.testBit t))
  let d := onLanes here d (fun d t => setTpc d l c t 1 b.addr.toNat)
  if here = 0 then d
  else updCtx d l c (fun x => { x with colls := (x.colls.filter (fun k => k.addr != b.addr)) ++ [{ old with follow := f }] })

/-- The collective at an address is over: its threads are runnable where they go on, their starvation counts at zero
(R125, R137). -/
def finishColl (d : Dev) (l c m : Nat) (a seq : Word) : Dev :=
  let x := getCtx d l c
  let f : Tab Word := match x.colls.find? (fun k => k.addr == a) with | some k => k.follow | none => []
  let d := onLanes m d (fun d t => setTpc d l c t 0 (Tab.get seq f t).toNat)
  updCtx d l c (fun x => { x with
    colls := x.colls.filter (fun k => k.addr != a),
    starve := (List.range 64).foldl (fun s t => if m.testBit t then Tab.set 0 s t 0 else s) x.starve })

/-- The participation mask of an issue of a collective: a uniform register, read afresh (R138). -/
def issueMask (x : Ctx) (op : Op) (w : Syllable) : Nat :=
  (sread x (if op = .gxld ∨ op = .gxst then fld w 5 5 else fRB w)).toNat

/-- What GVOTE writes (R139). -/
def voteValue (x : Ctx) (w : Syllable) (m : Nat) : Word :=
  let nz := lanes (fun t => m.testBit t && xread x (fRA w) t != 0)
  match fOP w with
  | 0 => if nz != 0 then 1 else 0
  | 1 => if nz = m then 1 else 0
  | _ => BitVec.ofNat 64 nz

/-- GSHFL (R139). -/
def shuffle (x : Ctx) (w : Syllable) (m : Nat) : Ctx :=
  (List.range 64).foldl (fun y t =>
    if m.testBit t then
      (let src := (xread x (fRD w) t).toNat % 64
       xwrite y (fRD w) t (if m.testBit src then xread x (fRA w) src else 0))
    else y) x

/-- A collective performed once, for its mask (R137, R139). -/
def perform (d : Dev) (l c : Nat) (op : Op) (b : WB) (w : Syllable) (m : Nat) : Dev :=
  match op with
  | .gvote => updCtx d l c (fun x => swrite x (fRD w) (voteValue x w m))
  | .gshfl => updCtx d l c (fun x => shuffle x w m)
  | _ => enqueue d l c { queued d l c b w true with act := m }

/-- Did an earlier issue of the same pending collective read another mask (R138)? -/
def maskDiffers (x : Ctx) (a : Word) (m : Nat) : Bool :=
  x.colls.any (fun k => k.addr == a && k.mask != some m)

/-- GVOTE, GSHFL, GXLD, GXST: the issue of the collective in W (R137 to R139). GVOTE and GSHFL read x-registers, so they
wait for the context's V operations (R79). -/
def collective (op : Op) (l c : Nat) (d : Dev) : Dev :=
  match ownBundle d l c op with
  | none => d
  | some (b, w) =>
    let x := getCtx d l c
    let m := issueMask x op w
    if (op = .gvote ∨ op = .gshfl) ∧ (x.vq ≠ [] ∨ x.ufault.isSome) then d
    else if m = 0 then
      let d := if op = .gvote then updCtx d l c (fun x => swrite x (fRD w) 0) else d
      settle (freeW (collLoop (retireThreads d l c b b.act) l c b b.act) l c) l
    else
      let off := splitters d l c m b.addr
      if off ≠ 0 then splitFault d l c b off
      else if maskDiffers x b.addr m then splitFault d l c b m
      else
        let d := arrive d l c b m (some m)
        if waitingAt d l c b.addr &&& m = m then
          let d := perform d l c op b w m
          let d := finishColl d l c m b.addr (b.addr + BitVec.ofNat 64 (4 * b.len))
          settle (freeW (collLoop d l c b m) l c) l
        else
          settle (checkColls (freeW d l c) l c) l

/-! ### The block barrier -/

/-- The address of the GBAR at which every live thread of a context waits (R140). -/
def gbarAt (d : Dev) (l c : Nat) : Option Word :=
  match (getCtx d l c).colls.find? (fun k => k.mask.isNone) with
  | some k => if waitingAt d l c k.addr &&& glive d l c = glive d l c then some k.addr else none
  | none => none

/-- The contexts of a block that a barrier waits for: running, in group mode or in a handler that interrupted it, with a
live thread (R140). -/
def gbarParts (d : Dev) (l blk : Nat) : List Nat :=
  filterUpto 8 (fun c => running d l c && ((getCtx d l c).cur.gm || (getCtx d l c).handler != 0) && glive d l c != 0 &&
    rgetF d (csOff l c 0x48) CL_GCTL.BLOCK == blk)

/-- The barrier of a block completes when every context of it has arrived and has performed its earlier accesses at block
scope: the effect of a full fence at that scope for each, and every thread goes on (R140, R150). -/
def gbarTry (d : Dev) (l blk : Nat) : Dev :=
  let ps := gbarParts d l blk
  if ps ≠ [] ∧ ps.all (fun c => (gbarAt d l c).isSome && fenceReady d l c 3 1) then
    let d := acquireAt d l 1
    ps.foldl (fun d c => match gbarAt d l c with
      | some a => finishColl d l c (glive d l c) a (a + 4)
      | none => d) d
  else d

/-- A loop level that ends at a barrier's bundle (R69): where it loops back, its threads go on at its start. -/
def gbarLoop (d : Dev) (l c : Nat) (b : WB) (m : Nat) : Dev :=
  let (d, back) := loopEnd d l c b.addr 2
  match back with
  | none => d
  | some a =>
    let f : Tab Word := (List.range 64).foldl (fun f t => if m.testBit t then Tab.insert f t a else f) []
    updCtx d l c (fun x => { x with colls := x.colls.map (fun k => if k.addr = b.addr then { k with follow := f } else k) })

/-- GBAR: the barrier in W is reached by its active set (R137, R140); with nothing in W, the barrier of the context's block
completes where it may. -/
def gbar (l c : Nat) (d : Dev) : Dev :=
  let blk := rgetF d (csOff l c 0x48) CL_GCTL.BLOCK
  match ownBundle d l c .gbar with
  | none => settle (gbarTry d l blk) l
  | some (b, _) =>
    let m := glive d l c
    let off := splitters d l c m b.addr
    if off ≠ 0 then splitFault d l c b off
    else
      let d := arrive d l c b m none
      let d := if waitingAt d l c b.addr &&& m = m then gbarLoop d l c b m else d
      settle (gbarTry (checkColls (freeW d l c) l c) l blk) l

/-! ### The meanings -/

/-- TEXIT. -/
def execTexit (cl ctx : Nat) (s : State) : Out := s.upd (texit cl ctx)
/-- GYIELD. -/
def execGyield (cl ctx : Nat) (s : State) : Out := s.upd (gyield cl ctx)
/-- GVOTE. -/
def execGvote (cl ctx : Nat) (s : State) : Out := s.upd (collective .gvote cl ctx)
/-- GSHFL. -/
def execGshfl (cl ctx : Nat) (s : State) : Out := s.upd (collective .gshfl cl ctx)
/-- GBAR. -/
def execGbar (cl ctx : Nat) (s : State) : Out := s.upd (gbar cl ctx)
/-- GXLD. -/
def execGxld (cl ctx : Nat) (s : State) : Out := s.upd (collective .gxld cl ctx)
/-- GXST. -/
def execGxst (cl ctx : Nat) (s : State) : Out := s.upd (collective .gxst cl ctx)

end Sys2Proof.Machine
end

