-- ==== Sys2Proof/Machine/Copies.lean ====
section
/-!
DEFINITION. The copy engine (spec/12 R285 to R298): the checks of COPY, the sectors of a copy one after another (R290 leaves
the order open), its end, its failure, the waits of WARR; the prefetch side buffer's fill (spec/13 R306).
-/
namespace Sys2Proof.Machine

/-! ### The checks of COPY -/

/-- Is a descriptor illegal (R287)? -/
def descBad (w : List Word) : Bool :=
  let w2 := w.getD 2 0
  let kind := getF w2 ⟨48, 3⟩
  let high (i : Nat) : Bool := getF (w.getD i 0) ⟨20, 44⟩ != 0
  getF w2 ⟨54, 10⟩ != 0 || decide (3 ≤ kind) || (kind == 1 && isSet w2 ⟨51, 1⟩) ||
  (kind == 0 && isSet w2 ⟨51, 1⟩ && high 0) || (kind != 1 && isSet w2 ⟨52, 1⟩ && high 1)

/-- The lowest byte of a row at Mere offset `o` that is out of range (R287). -/
def rowBad (lim len : Nat) (o : Int) : Option Int :=
  if o < 0 then some o else if (lim : Int) < o + len then some (max o lim) else none

/-- The lowest out-of-range Mere offset on one side of a copy (R286, R287). -/
def sideBad (cp : Copy) (lim i : Nat) : Option Int :=
  List.foldl (fun (a : Option Int) (r : Nat) =>
    match a, rowBad lim (cpLen cp) ((getF (cp.w.getD i 0) ⟨0, 20⟩ : Int) + r * cpStride cp i) with
    | none, x => x
    | a, none => a
    | some a, some b => some (min a b)) none (List.range (cpRows cp))

/-- The lowest out-of-range Mere offset of a copy (R287); an empty copy names none (R288). -/
def mereBadOff (d : Dev) (l : Nat) (cp : Copy) : Option Int :=
  let lim := mereWays d l * 0x1_0000
  if cpLen cp = 0 then none
  else
    let s := if cpKind cp = 0 ∧ cpSrcM cp then sideBad cp lim 0 else none
    let t := if cpKind cp ≠ 1 ∧ cpDstM cp then sideBad cp lim 1 else none
    match s, t with
    | some a, some b => some (min a b)
    | some a, none => some a
    | none, b => b

/-- A copy that does not yet stand in the table, for its checks. -/
def copyOf (c : Nat) (w : List Word) : Copy :=
  { ctx := c, w := w, plev := 3, xen := false, asid := 0, active := false, row := 0, col := 0, park := none, pass := 0,
    fail := none, done := false }

/-- COPY (R285, R287): the copy itself waits for retirement. -/
def copySyl (l c : Nat) (d : Dev) : Dev :=
  onSyl l c 2 .copy isReady (fun _ y x =>
    let w := (List.range 4).map (fun i => sread x (fRA y.word + i))
    if fRA y.word % 4 ≠ 0 ∨ descBad w then failSyl d l c 2 (sylTrap 3 y.word)
    else match mereBadOff d l (copyOf c w) with
      | some o => failSyl d l c 2 ⟨0x10, BitVec.ofInt 64 o⟩
      | none => setSyl d l c 2 .done [.copy w]) d

/-! ### The side buffer -/

/-- Prefetched sector `s` of a line arrives in the side buffer: a new line takes an entry, the line filled longest ago
gives way when all 32 are in use (R306). A sector that is held already is not filled again. -/
def sideFill (d : Dev) (l da v : Nat) (bad : Bool) : Dev :=
  let s := da / 64 % 8
  let d := match sideFind d l da with
    | some x =>
      let x2 := slFill x s v bad
      updCl d l (fun k => { k with side := k.side.map (fun y => if y.ln = x.ln then x2 else y) })
    | none =>
      updCl d l (fun k =>
        let old := if k.side.length < 32 then k.side else k.side.drop 1
        { k with side := old ++ [slFill (slNew (da / 512)) s v bad] })
  rsetF d (clOff l 0x708) CL_PFCTL.LINES (getCl d l).side.length

/-- Does the side buffer or the cluster cache hold the sector of an address? -/
def sectorHeld (d : Dev) (l da : Nat) : Bool :=
  (match sideFind d l da with | some x => x.full.testBit (da / 64 % 8) | none => false) ||
  (match ccFind d l da with | some (_, x) => x.full.testBit (da / 64 % 8) | none => false)

/-! ### Bytes that source and destination share -/

/-- Does the source of a copy hold the byte at an address that its destination names (R290)? -/
def inSource (cp : Copy) (a : Word) : Bool :=
  cpKind cp == 0 && cpSrcM cp == cpDstM cp &&
  (List.range (cpRows cp)).any (fun r => decide ((a - cpAddr cp 0 r).toNat < cpLen cp))

/-- Do source and destination of a copy overlap (R290)? -/
def overlaps (cp : Copy) : Bool :=
  cpKind cp == 0 && cpSrcM cp == cpDstM cp &&
  (List.range (cpRows cp)).any (fun r => (List.range (cpRows cp)).any (fun k =>
    decide ((cpAddr cp 1 r - cpAddr cp 0 k).toNat < cpLen cp) || decide ((cpAddr cp 0 k - cpAddr cp 1 r).toNat < cpLen cp)))

/-- The next bytes of a copy, cut where bytes that source and destination share begin or end. -/
def copyNext (cp : Copy) : Option CUnit :=
  (copyUnit cp).map (fun u =>
    let b := inSource cp u.dst
    match findUpto u.n (fun i => inSource cp (u.dst + BitVec.ofNat 64 i) != b) with
    | some n => { u with n := n }
    | none => u)

/-- The bytes of a unit that a pass writes: those not shared first, so that each holds the source's value as it was, then
the shared ones, which hold undefined values (R290). -/
def unitMask (cp : Copy) (u : CUnit) : Nat :=
  maskOf u.n (fun i => inSource cp (u.dst + BitVec.ofNat 64 i) == (cp.pass == 1))

/-! ### One unit -/

/-- The modes of a copy's accesses (R291, R292): the aperture does not apply. -/
def copyMd (cp : Copy) : Modes := { Modes.empty with plev := cp.plev, xen := cp.xen, asid := cp.asid }

/-- A copy fails with a cause and an address (R293). -/
def copyStop (d : Dev) (l id : Nat) (cp : Copy) (cause : Nat) (a : Word) : Dev :=
  setCopy d l id { cp with fail := some (cause, a) }

/-- What an access of a copy is stopped by; none where it goes on. -/
def copyBlocked (d : Dev) (l id : Nat) (cp : Copy) (k : AccKind) (a : Word) (r : AccRes) : Option Dev :=
  match r with
  | .walk => some d
  | .miss da => some (faultCopy d l id a 0x06 k.code 0xFF cp.asid (BitVec.ofNat 64 da))
  | .trap t => some (copyStop d l id cp (if causeOf t = 7 then 2 else 1) a)
  | .mere _ => some (copyStop d l id cp 1 a)
  | .ok _ (.mgmt _) _ => some (copyStop d l id cp 1 a)
  | .ok _ _ _ => none

/-- The request of a copy for a sector or for bytes of one. -/
def copyReq (id l : Nat) (cp : Copy) (kind : ReqKind) (da : Nat) (t : Target) (attr n m v : Nat) : Req :=
  { cl := l, ctx := cp.ctx, src := .copy id, kind := kind, da := da, tgt := t, qcache := attrQ attr, len := n, mask := m,
    data := v, stage := .toQuarter, out := 0, status := 0, elem := 0 }

/-- The target of the 64-byte sector that holds a target. -/
def sectorTarget : Target → Target
  | .stack k o => .stack k (o / 64 * 64)
  | .peer p o => .peer p (o / 64 * 64)
  | .host o => .host (o / 64 * 64)
  | .mgmt o => .mgmt o

/-- The masked bytes of a Mere range written. -/
def mereWriteMask (d : Dev) (l off n m v : Nat) : Dev :=
  if m = ones n then mereWrite d l off n v
  else (List.range n).foldl (fun d i => if m.testBit i then mereWrite d l (off + i) 1 (bitsOf v (8 * i) 8) else d) d

/-- The data of a unit is written: into the Mere, into the cluster cache with CC, or by a request (R286, R291). -/
def copyWrite (d : Dev) (l id : Nat) (cp : Copy) (u : CUnit) (v : Nat) : Dev :=
  let m := unitMask cp u
  let past (d : Dev) : Dev := setCopy d l id (copySkip cp u.n)
  if m = 0 then past d
  else if cpDstM cp then past (mereWriteMask d l u.dst.toNat u.n m v)
  else
    let r := accessQ d l (copyMd cp) u.dst .wr
    let d := r.2
    match copyBlocked d l id cp .wr u.dst r.1 with
    | some d => d
    | none =>
      match r.1 with
      | .ok da t attr =>
        let isStack : Bool := match t with | .stack _ _ => true | _ => false
        if isStack ∧ cpCC cp ∧ hasCC d l then
          let d := promote d l da
          (match ccFind d l da with
           | some (key, x) => past (ccPut d l key (slWrite x (da % 512) u.n m v true))
           | none =>
             let (key, d) := ccAlloc d l da
             past (ccPut d l key (slWrite (slNew (da / 512)) (da % 512) u.n m v true)))
        else if !entryFree d l (.copy id) then d
        else newReq (if isStack then flushSector d l da false else d) (copyReq id l cp .write da t attr u.n m v)
      | _ => d

/-- The bytes that a fill writes: the pattern from byte `col mod 8` on (R288). -/
def fillBytes (cp : Copy) (n : Nat) : Nat :=
  ofBytes ((List.range n).map (fun i => byteOf (cp.w.getD 0 0).toNat ((cp.col + i) % 8)))

/-- The first uncorrectable byte of a Mere range. -/
def firstBadMere (d : Dev) (l off n : Nat) : Nat :=
  match findUpto n (fun i => mereBad d l (off + i) 1) with | some i => off + i | none => off

/-- The source of a unit is read, from what the cluster holds or by a request for its sector (R291). -/
def copyRead (d : Dev) (l id : Nat) (cp : Copy) (u : CUnit) : Dev :=
  if cp.pass = 1 then
    copyWrite { d with freeCtr := d.freeCtr + 1 } l id cp u (vbits (Config.freeVec d.freeCtr) 0 (8 * u.n))
  else if cpKind cp = 2 then copyWrite d l id cp u (fillBytes cp u.n)
  else if cpSrcM cp then
    let o := u.src.toNat
    if mereBad d l o u.n then copyStop d l id cp 3 (BitVec.ofNat 64 (firstBadMere d l o u.n))
    else copyWrite d l id cp u (mereRead d l o u.n)
  else
    let r := accessQ d l (copyMd cp) u.src .rd
    let d := r.2
    match copyBlocked d l id cp .rd u.src r.1 with
    | some d => d
    | none =>
      match r.1 with
      | .ok da t attr =>
        (match clusterRead d l da u.n false with
         | (some (v, bad), d) => if bad then copyStop d l id cp 3 u.src else copyWrite d l id cp u v
         | (none, d) =>
           if entryFree d l (.copy id) then
             newReq d (copyReq id l cp .read (da / 64 * 64) (sectorTarget t) attr 64 0 0)
           else d)
      | _ => d

/-- A prefetch copy asks for the next sector that the cluster does not hold; one that would fault is skipped (R288, R306). -/
def copyPrefetch (d : Dev) (l id : Nat) (cp : Copy) (u : CUnit) : Dev :=
  let past (d : Dev) : Dev := setCopy d l id (copySkip cp u.n)
  if !rbit d (clOff l 0x708) CL_PFCTL.EN then setCopy d l id { cp with done := true }
  else
    let r := accessQ d l (copyMd cp) u.src .rd
    let d := r.2
    match r.1 with
    | .walk => d
    | .ok _ (.mgmt _) _ => past d
    | .ok da t attr =>
      if sectorHeld d l da then past d
      else if entryFree d l (.copy id) then newReq d (copyReq id l cp .read (da / 64 * 64) (sectorTarget t) attr 64 0 0)
      else d
    | _ => past d

/-- The next unit of an active copy begins; at the end of its rows the copy is finished, or its shared bytes follow. -/
def copyBegin (d : Dev) (l id : Nat) : Dev :=
  match Tab.find? (getCl d l).copies id with
  | none => d
  | some cp =>
    if !cp.active ∨ cp.park.isSome ∨ cp.fail.isSome ∨ cp.done then d
    else match copyNext cp with
      | none =>
        if cp.pass = 0 ∧ cpLen cp ≠ 0 ∧ overlaps cp then setCopy d l id { cp with pass := 1, row := 0, col := 0 }
        else setCopy d l id { cp with done := true }
      | some u =>
        if cpKind cp = 1 then copyPrefetch d l id cp u
        else if unitMask cp u = 0 then setCopy d l id (copySkip cp u.n)
        else if cpDstM cp then copyRead d l id cp u
        else
          let r := accessQ d l (copyMd cp) u.dst .wr
          match copyBlocked r.2 l id cp .wr u.dst r.1 with
          | some d => d
          | none => copyRead r.2 l id cp u

/-- Some active copies and how many. -/
def activeCopies (k : Cluster) : Nat := (k.copies.filter (fun e => e.2.active)).length

/-- COPY_START: the oldest copy that waits becomes one of the eight worked on (R289). -/
def copyStart (l : Nat) (d : Dev) : Dev :=
  let k := getCl d l
  let waits (e : Nat × Copy) : Bool := !e.2.active && e.2.park.isNone && e.2.fail.isNone && !e.2.done
  match List.find? waits k.copies with
  | some (id, cp) =>
    if activeCopies k < 8 then copyBegin (setCopy d l id { cp with active := true }) l id else d
  | none => d

/-- The request of a copy that is out. -/
def copyOut (d : Dev) (l id : Nat) : Option (Nat × Req) := (reqsOf d l).find? (fun e => e.2.src == .copy id)

/-- COPY_SECTOR_RETURN: a sector's data arrives and goes to the destination, or a write is acknowledged; then the next unit
begins (R289, R291). -/
def copySectorReturn (l id : Nat) (d : Dev) : Dev :=
  match Tab.find? (getCl d l).copies id, copyOut d l id with
  | none, _ => d
  | some _, none => copyBegin d l id
  | some cp, some (rid, r) =>
    if r.stage ≠ .done then d
    else match copyNext cp with
      | none => dropReq d rid
      | some u =>
        let cause := if r.status % 16 = 3 then 3 else 1
        if r.kind = .read then
          if cpKind cp = 1 then
            let d := dropReq d rid
            let d := if r.status = 0 ∧ rbit d (clOff l 0x708) CL_PFCTL.EN then sideFill d l r.da r.out false else d
            copyBegin (setCopy d l id (copySkip cp u.n)) l id
          else if r.status ≠ 0 then copyStop (dropReq d rid) l id cp cause u.src
          else
            let d := clusterFill (dropReq d rid) l r.da r.out false false
            match clusterRead d l (r.da + u.src.toNat % 64) u.n false with
            | (some (v, bad), d) => if bad then copyStop d l id cp 3 u.src else copyWrite d l id cp u v
            | (none, d) => copyWrite d l id cp u (bitsOf r.out (8 * (u.src.toNat % 64)) (8 * u.n))
        else if r.status ≠ 0 then copyStop (dropReq d rid) l id cp cause u.dst
        else copyBegin (setCopy (dropReq d rid) l id (copySkip cp u.n)) l id

/-! ### The end of a copy -/

/-- Offset of arrival counter `n` of a context. -/
def arrOff (l c n : Nat) : Nat := clOff l (0x800 + 0x80 * c + 8 * n)

/-- Is the target of a waiting WARR reached (R296)? -/
def warrMet (d : Dev) (l c : Nat) (x : Ctx) (w : Syllable) : Bool :=
  decide ((sread x (fRA w)).toNat ≤ (rget d (arrOff l c (fld w 18 4))).toNat)

/-- A WARR that waits, or is to wait, retires where its counter has reached its target, with an acquire at block scope
(R296, R159). -/
def warrSettle (d : Dev) (l c : Nat) : Dev :=
  onSyl l c 2 .warr (· == .held) (fun _ y x =>
    if warrMet d l c x y.word then settle (retireIf (setSyl d l c 2 .done [.acquire 1]) l c) l else d) d

/-- WARR (R296). -/
def warrSyl (l c : Nat) (d : Dev) : Dev :=
  onSyl l c 2 .warr (fun s => isReady s || s == .held) (fun _ _ _ => warrSettle (setSyl d l c 2 .held []) l c) d

/-- A copy ends: it leaves the table and its counter rises by one (R289, R293, R295). -/
def endCopy (d : Dev) (l id : Nat) (cp : Copy) : Dev :=
  let d := updCl d l (fun k => { k with copies := Tab.erase k.copies id })
  let d := refreshCpstat d l cp.ctx
  let o := arrOff l cp.ctx (cpCtr cp)
  warrSettle (rset d o (rget d o + 1)) l cp.ctx

/-- COPY_FINISH (R289). -/
def copyFinish (l id : Nat) (d : Dev) : Dev :=
  match Tab.find? (getCl d l).copies id with
  | some cp => if cp.done ∧ cp.fail.isNone then endCopy d l id cp else d
  | none => d

/-- The capture of a failed copy (R293). -/
def captureCopy (d : Dev) (l : Nat) (cp : Copy) (cause : Nat) (a : Word) : Dev :=
  let eo := clOff l (0x640 + 8 * cp.ctx)
  let e := rget d eo
  if isSet e CL_CPERR.VALID then rset d eo (setB e CL_CPERR.OVERRUN true)
  else
    rset (rset d eo (setF (setF (setB e CL_CPERR.VALID true) CL_CPERR.CTR (cpCtr cp)) CL_CPERR.CAUSE cause))
      (clOff l (0x680 + 8 * cp.ctx)) a

/-- COPY_FAIL: the error is captured, a running context takes a copy fault at its next boundary with the address that CL_CPADDR holds,
and the counter rises (R293). -/
def copyFail (l id : Nat) (d : Dev) : Dev :=
  match Tab.find? (getCl d l).copies id with
  | some cp =>
    (match cp.fail with
     | some (cause, a) =>
       let d := captureCopy d l cp cause a
       let d := if running d l cp.ctx ∧ !(getCtx d l cp.ctx).stop then
           updCtx d l cp.ctx (fun x => { x with dcf := some (x.dcf.getD (rget d (clOff l (0x680 + 8 * cp.ctx)))) }) else d
       endCopy d l id cp
     | none => d)
  | none => d

/-! ### The meanings -/

/-- COPY. -/
def execCopy (cl ctx : Nat) (s : State) : Out := s.upd (copySyl cl ctx)
/-- COPY_START. -/
def execCopyStart (cl : Nat) (s : State) : Out := s.upd (copyStart cl)
/-- COPY_SECTOR_RETURN. -/
def execCopySectorReturn (cl id : Nat) (s : State) : Out := s.upd (copySectorReturn cl id)
/-- COPY_FINISH. -/
def execCopyFinish (cl id : Nat) (s : State) : Out := s.upd (copyFinish cl id)
/-- COPY_FAIL. -/
def execCopyFail (cl id : Nat) (s : State) : Out := s.upd (copyFail cl id)
/-- WARR. -/
def execWarr (cl ctx : Nat) (s : State) : Out := s.upd (warrSyl cl ctx)

end Sys2Proof.Machine
end

