-- ==== Sys2Proof/Machine/Caches.lean ====
section
/-!
DEFINITION. The caches' commands (spec/13): requests at the quarter cache (R302), prefetches (R306, R307, R309), maintenance by
range and by set and way (R310 to R314), the instruction cache's control (R304, R305), the power-down of quarter cache ways
(R315, R316).
-/
namespace Sys2Proof.Machine

/-! ### Requests at the quarter cache -/

/-- Does an older request of the same cluster that writes the same sector stand before a request? -/
def reqBlocked (d : Dev) (id : Nat) (r : Req) : Bool :=
  d.reqs.any (fun e => decide (e.1 < id) && e.2.cl == r.cl && e.2.da / 64 == r.da / 64 && e.2.kind != .read && e.2.stage != .done)

/-- A request passes on to the stack. -/
def goStack (d : Dev) (id : Nat) : Dev := updReq d id (fun r => { r with stage := .toStack })

/-- The quarter whose cache serves a request: that of the stack, or the requester's for peer and host lines (R300). -/
def reqQuarter (d : Dev) (r : Req) : Nat := match r.tgt with | .stack k _ => k / 6 | _ => quarterOf d r.cl

/-- QUARTER_CACHE_REQUEST: a request is looked up at its slice: a hit is served, a whole sector written on a miss is
allocated, anything else passes on (R300, R302). -/
def quarterRequest (id : Nat) (d : Dev) : Dev :=
  match Tab.find? d.reqs id with
  | none => d
  | some r =>
    let q := reqQuarter d r
    if r.stage ≠ .toQuarter ∨ reqBlocked d id r ∨ (getQ d q).held then d
    else
      let isStack : Bool := match r.tgt with | .stack _ _ => true | _ => false
      let hit : Option (Nat × Sline) := (qcFind d q r.da).bind (fun p =>
        if slHit p.2 (r.da / 64 % 8 * 64) 64 then some p else none)
      match r.kind with
      | .read =>
        (match hit with
         | some (_, l) =>
           finishReq d id (if l.bad.testBit (r.da / 64 % 8) then 0x13 else 0) (slRead l (r.da % 512) r.len)
         | none => if isStack then goStack d id else goOut d id)
      | .write =>
        (match hit, r.tgt with
         | some _, .stack k off => finishReq (homeWrite d r.da k off r.len r.mask r.data (r.status == 3)) id 0 0
         | none, .stack k off =>
           if r.status = 0 ∧ r.len = 64 ∧ r.mask = ones 64 ∧ qcTakes d q r.da then finishReq (homeWrite d r.da k off 64 (ones 64) r.data false) id 0 0
           else goStack d id
         | _, _ => goOut d id)
      | _ => if isStack then goStack d id else goOut d id

/-! ### Prefetches -/

/-- PREFETCH_FILL: the data of a PREF's sector arrives in the side buffer; an error is dropped (R306, R334). -/
def prefetchFill (id : Nat) (d : Dev) : Dev :=
  match Tab.find? d.reqs id with
  | some r =>
    if r.src = .prefetch 0 ∧ r.stage = .done then
      let d := dropReq d id
      if r.status = 0 ∧ !sectorHeld d r.cl r.da then sideFill d r.cl r.da r.out false else d
    else d
  | none => d

/-- SIDE_BUFFER_PROMOTE: the side buffer's line of an address moves into the cluster cache; without one it is discarded
(R307). -/
def sidePromote (l da : Nat) (d : Dev) : Dev :=
  match sideFind d l da with
  | some _ => if hasCC d l then promote d l da else sideDrop d l (da / 512)
  | none => d

/-- Is a walker of a quarter idle (R325)? -/
def walkerIdle (d : Dev) (q : Nat) : Bool := decide ((getQ d q).walks.length < 16)

/-- PREF: at its E beat the address is found; it never faults, and starts a walk only where a walker is idle and
CL_PFCTL.EN is 1 (R309, R334). -/
def prefSyl (l c : Nat) (d : Dev) : Dev :=
  onSyl l c 2 .pref isReady (fun b y x =>
    let a := memAddr x y.word
    let r := accessQ d l b.md a .rd
    let d := r.2
    let hint := fld y.word 17 1
    match r.1 with
    | .ok _ (.mgmt _) _ => setSyl d l c 2 .done []
    | .ok da _ _ => setSyl d l c 2 .done [.pref hint da]
    | .walk =>
      let q := quarterOf d l
      let d := setSyl d l c 2 .done []
      if rbit d (clOff l 0x708) CL_PFCTL.EN ∧ walkerIdle d q ∧ (getQ d q).missq = [] then
        updQ d q (fun u => { u with missq := u.missq ++
          [{ asid := b.md.asid, va := a, acc := 0, user := b.md.plev == 0, who := [⟨.quiet l c, a, 0, b.md.plev == 0⟩], got := [], bad := [] }] })
      else d
    | _ => setSyl d l c 2 .done []) d

/-! ### Maintenance -/

/-- A cluster cache line cleaned, discarded, or both (R310): the dirty bytes go to their home point. -/
def ccMaintain (d : Dev) (l op key : Nat) (x : Sline) : Dev :=
  let d := if op.testBit 0 then cleanLineNow d l x else d
  let kept : Sline := { x with dirty := 0, full := (List.range 8).foldl (fun a s =>
    if bitsOf x.dirty.toNat (64 * s) 64 == ones 64 then setBit a s else a) x.full }
  if op.testBit 1 then ccPut d l key (slNew x.ln) else ccPut d l key kept

/-- Does a line of `n` bytes overlap [lo, hi)? -/
def lineIn (n lo hi ln : Nat) : Bool := decide (ln * n < hi ∧ lo < (ln + 1) * n)

/-- Maintenance of a range of device addresses at a level (R310, R311): 0 the instruction cache, 1 the cluster, 2 the cluster
and the quarter cache of the home point. -/
def maintain (d : Dev) (l op level lo hi : Nat) : Dev :=
  if level = 0 then
    updCl d l (fun k => { k with ic := k.ic.filter (fun e => !lineIn 64 lo hi e.2.ln) })
  else
    let d := if op.testBit 1 then
        rsetF (updCl d l (fun k => { k with
          l1 := k.l1.filter (fun e => !lineIn 64 lo hi e.2.ln),
          side := k.side.filter (fun x => !lineIn 512 lo hi x.ln) })) (clOff l 0x708) CL_PFCTL.LINES
          ((getCl d l).side.filter (fun x => !lineIn 512 lo hi x.ln)).length
      else d
    let d := (getCl d l).cc.foldl (fun d e => if lineIn 512 lo hi e.2.ln then ccMaintain d l op e.1 e.2 else d) d
    if level = 1 then d
    else
      match resolveWin d lo with
      | some (t, _) =>
        let q := match placeTract d lo (quarterOf d l) true t with | .stack k _ => k / 6 | _ => quarterOf d l
        (getQ d q).qc.foldl (fun d e => if lineIn 512 lo hi e.2.ln then qcMaintain d q op e.1 e.2 else d) d
      | none => d

/-- The action of a CMO under the modes of its bundle: below Supervisor level an invalidate of the cluster or quarter level
also cleans (R311). -/
def cmoOp (md : Modes) (w : Syllable) : Nat :=
  let op := fld w 20 2
  if op = 2 ∧ fld w 18 2 ≠ 0 ∧ md.plev = 0 then 3 else op

/-- How far a CMO has come in its range. -/
def cmoPos (y : Syl) : Nat := match y.eff with | .cmoAt p :: _ => p | _ => 0

/-- CL_CMOSTAT.SKIP set (R311). -/
def cmoSkip (d : Dev) (l : Nat) : Dev := rsetB d (clOff l 0x710) CL_CMOSTAT.SKIP true

/-- A CMO over its range from byte `p` on, page by page, for at most `k` pages (R311): the position reached and whether a
walk is needed there. -/
def cmoPages (l : Nat) (md : Modes) (op level : Nat) (base : Word) (len : Nat) : Nat → Dev → Nat → Dev × Nat × Bool
  | 0, d, p => (d, p, false)
  | k + 1, d, p =>
    if len ≤ p then (d, p, false)
    else
      let a := base + BitVec.ofNat 64 p
      let n := min (len - p) (4096 - a.toNat % 4096)
      let go (d : Dev) : Dev × Nat × Bool := cmoPages l md op level base len k d (p + n)
      if (mereOff md a).isSome then go d
      else
        let r := accessQ d l md a .rd
        match r.1 with
        | .walk => (r.2, p, true)
        | .ok _ (.mgmt _) _ => go r.2
        | .ok da _ _ => go (maintain r.2 l op level da (da + n))
        | _ => go (cmoSkip r.2 l)

/-- CMO (R311): its pages, then the wait for its completion. -/
def cmoSyl (l c : Nat) (d : Dev) : Dev :=
  onSyl l c 2 .cmo isReady (fun b y x =>
    let base := sread x (fRA y.word)
    let len := (sread x (fRB y.word)).toNat
    let p := cmoPos y
    let r := cmoPages l b.md (cmoOp b.md y.word) (fld y.word 18 2) base len (ceilDiv (len - p) 4096 + 1) d p
    if r.2.2 then setSyl r.1 l c 2 (.walking (base + BitVec.ofNat 64 r.2.1) 0) [.cmoAt r.2.1] else setSyl r.1 l c 2 .held []) d

/-- CMOSW (R312): one set and way. -/
def cmoswSyl (l c : Nat) (d : Dev) : Dev :=
  onSyl l c 2 .cmosw isReady (fun _ y x =>
    let w := (sread x (fRA y.word)).toNat
    let op := fld y.word 20 2
    let set := w % 256
    let way := bitsOf w 16 4
    let held (d : Dev) : Dev := setSyl d l c 2 .held []
    match fld y.word 18 2 with
    | 0 => held (updCl d l (fun k => { k with ic := Tab.erase k.ic (set * 4 + way % 4) }))
    | 1 => held (if op.testBit 1 then updCl d l (fun k => { k with l1 := Tab.erase k.l1 (set % 128 * 4 + way % 4) }) else d)
    | 2 =>
      let key := set % 128 * 16 + way
      held (if way < mereWays d l then d
        else match Tab.find? (getCl d l).cc key with | some s => ccMaintain d l op key s | none => d)
    | _ =>
      let q := quarterOf d l
      let key := (bitsOf w 20 4 * 256 + set) * 16 + way
      held (match Tab.find? (getQ d q).qc key with | some s => qcMaintain d q op key s | none => d)) d

/-- MAINTENANCE_COMPLETE: the write-backs have been acknowledged, and the bundle retires (R313). -/
def maintenanceComplete (l c : Nat) (d : Dev) : Dev :=
  let busy : Bool := (reqsOf d l).any (fun e => e.2.src == .clean && e.2.kind != .read)
  let fin (d : Dev) : Dev := settle (retireIf (setSyl d l c 2 .done []) l c) l
  if busy then d
  else match sylFor d l c 2 .cmo (· == .held) with
    | some _ => fin d
    | none => onSyl l c 2 .cmosw (· == .held) (fun _ _ _ => fin d) d

/-! ### The instruction cache's control -/

/-- The write of CL_ICCTL that a context's bundle waits with: the offset and the value. -/
def icWrite (d : Dev) (l c : Nat) : Option (Nat × Word × Syl) :=
  match sylFor d l c 1 .setc (· == .fixed) with
  | some (_, y) =>
    let o := selOff l c (fSEL y.word)
    if o = clOff l 0x700 then some (o, sread (getCtx d l c) (fRD y.word), y) else none
  | none => none

/-- ICACHE_INVALL: the invalidation of every line begins (R305). -/
def icInvall (l c : Nat) (d : Dev) : Dev :=
  match icWrite d l c with
  | some (o, v, y) =>
    if isSet v CL_ICCTL.INVALL ∧ y.eff = [] then
      let d := rsetB (updCl d l (fun k => { k with ic := [] })) (clOff l 0x700) CL_ICCTL.BUSY true
      setSyl d l c 1 .fixed [.setc o v]
    else d
  | none => d

/-- ICACHE_INVALL_COMPLETE: BUSY clears, and the writing bundles go on to retire with the EN written (R305). -/
def icInvallComplete (l : Nat) (d : Dev) : Dev :=
  if !rbit d (clOff l 0x700) CL_ICCTL.BUSY then d
  else
    let d := rsetB (updCl d l (fun k => { k with ic := [] })) (clOff l 0x700) CL_ICCTL.BUSY false
    (List.range 8).foldl (fun d c =>
      match icWrite d l c with
      | some (_, _, y) => if y.eff = [] then d else settle (retireIf (setSyl d l c 1 .done y.eff) l c) l
      | none => d) d

/-- ICACHE_ENABLE_WRITE: EN alone is written, at the retirement of the bundle (R304, R305). -/
def icEnable (l c : Nat) (d : Dev) : Dev :=
  match icWrite d l c with
  | some (o, v, _) => if isSet v CL_ICCTL.INVALL then d else setSyl d l c 1 .done [.setc o v]
  | none => d

/-! ### The meanings -/

/-- PREF. -/
def execPref (cl ctx : Nat) (s : State) : Out := s.upd (prefSyl cl ctx)
/-- CMO. -/
def execCmo (cl ctx : Nat) (s : State) : Out := s.upd (cmoSyl cl ctx)
/-- CMOSW. -/
def execCmosw (cl ctx : Nat) (s : State) : Out := s.upd (cmoswSyl cl ctx)
/-- MAINTENANCE_COMPLETE. -/
def execMaintenanceComplete (cl ctx : Nat) (s : State) : Out := s.upd (maintenanceComplete cl ctx)
/-- ICACHE_INVALL. -/
def execIcacheInvall (cl ctx : Nat) (s : State) : Out := s.upd (icInvall cl ctx)
/-- ICACHE_INVALL_COMPLETE. -/
def execIcacheInvallComplete (cl : Nat) (s : State) : Out := s.upd (icInvallComplete cl)
/-- ICACHE_ENABLE_WRITE. -/
def execIcacheEnableWrite (cl ctx : Nat) (s : State) : Out := s.upd (icEnable cl ctx)
/-- PREFETCH_FILL. -/
def execPrefetchFill (id : Nat) (s : State) : Out := s.upd (prefetchFill id)
/-- SIDE_BUFFER_PROMOTE. -/
def execSideBufferPromote (cl da : Nat) (s : State) : Out := s.upd (sidePromote cl da)
/-- WAY_POWER_DOWN. -/
def execWayPowerDown (q w : Nat) (s : State) : Out := s.upd (wayDown q w)
/-- WAY_DRAIN_COMPLETE. -/
def execWayDrainComplete (q w : Nat) (s : State) : Out := s.upd (wayDrained q w)
/-- WAY_POWER_UP. -/
def execWayPowerUp (q w : Nat) (s : State) : Out := s.upd (wayUp q w)
/-- QUARTER_CACHE_REQUEST. -/
def execQuarterCacheRequest (id : Nat) (s : State) : Out := s.upd (quarterRequest id)

end Sys2Proof.Machine
end

