-- ==== Sys2Proof/Machine/MgmtCmds.lean ====
section
/-!
DEFINITION. The commands that are one write of a register (REGISTER_WRITE, and the commands of command registers), as an agent makes it.
-/
namespace Sys2Proof.Machine

/-- An 8-byte write of a command register by an agent. -/
def cmdWrite (ag : Agent) (o v : Nat) (d : Dev) : Dev := (mgmtWrite d ag o 8 (BitVec.ofNat 64 v)).2

/-- The value of a register whose fields hold the given numbers. -/
def regOf (fs : List (Fld × Nat)) : Nat := (fs.foldl (fun w e => setF w e.1 e.2) (0 : Word)).toNat

/-- The write of a register that has no command field, by its access codes (R6 to R8, R26); a register with one starts its command. -/
def registerWrite (ag : Agent) (off size : Nat) (v : Word) (d : Dev) : Dev := (mgmtWrite d ag off size v).2

/-- REGISTER_WRITE. -/
def execRegisterWrite (ag : Agent) (off size : Nat) (v : Word) (s : State) : Out := s.upd (registerWrite ag off size v)

/-! ### The plat (R49) -/

/-- VERIFY_STAGING_BUFFER: HB_PLATCMD OP 0b01. -/
def execVerifyStagingBuffer (ag : Agent) (s : State) : Out := s.upd (cmdWrite ag 0x300 (regOf [(HB_PLATCMD.OP, 1)]))
/-- REPLAT_FROM_BUFFER: HB_PLATCMD OP 0b10. -/
def execReplatFromBuffer (ag : Agent) (s : State) : Out := s.upd (cmdWrite ag 0x300 (regOf [(HB_PLATCMD.OP, 2)]))
/-- REPLAT_FROM_FLASH: HB_PLATCMD OP 0b11. -/
def execReplatFromFlash (ag : Agent) (slot : Nat) (s : State) : Out :=
  s.upd (cmdWrite ag 0x300 (regOf [(HB_PLATCMD.OP, 3), (HB_PLATCMD.SLOT, slot)]))

/-! ### Translation (R326, R327, R332) -/

/-- INV_ALL_SPACES: TR_INV OP 0b01. -/
def execInvAllSpaces (ag : Agent) (s : State) : Out := s.upd (cmdWrite ag (qOff 0 0x1100) (regOf [(TR_INV.OP, 1)]))
/-- INV_SPACE: TR_INV OP 0b10. -/
def execInvSpace (ag : Agent) (asid : Nat) (s : State) : Out :=
  s.upd (cmdWrite ag (qOff 0 0x1100) (regOf [(TR_INV.OP, 2), (TR_INV.ASID, asid)]))
/-- INV_RANGE: TR_INV OP 0b11, over TR_INVADDR and TR_INVLEN. -/
def execInvRange (ag : Agent) (asid : Nat) (s : State) : Out :=
  s.upd (cmdWrite ag (qOff 0 0x1100) (regOf [(TR_INV.OP, 3), (TR_INV.ASID, asid)]))

/-- WALKER_FORMAT_WRITE: a write of TR_WFD0 to TR_WFD2 or of a root. -/
def walkerFormatWrite (ag : Agent) (off size : Nat) (v : Word) (d : Dev) : Dev :=
  match blkOf off with
  | (.quarter _, r) => if 0x1000 ≤ r ∧ r < 0x10C0 then (mgmtWrite d ag off size v).2 else d
  | _ => d
/-- WALKER_FORMAT_WRITE. -/
def execWalkerFormatWrite (ag : Agent) (off size : Nat) (v : Word) (s : State) : Out := s.upd (walkerFormatWrite ag off size v)

/-- RESUME_RETRY: TR_RESUME ACTION 0b01. -/
def execResumeRetry (ag : Agent) (tag : Nat) (s : State) : Out :=
  s.upd (cmdWrite ag (qOff 0 0x1180) (regOf [(TR_RESUME.TAG, tag), (TR_RESUME.ACTION, 1)]))
/-- RESUME_UNRESOLVED: TR_RESUME ACTION 0b10. -/
def execResumeUnresolved (ag : Agent) (tag : Nat) (s : State) : Out :=
  s.upd (cmdWrite ag (qOff 0 0x1180) (regOf [(TR_RESUME.TAG, tag), (TR_RESUME.ACTION, 2)]))

/-! ### Stacks, tracts, reductions -/

/-- The write of MS_CTL that maps out a channel, SCRUB as it is. -/
def mapoutCmd (ag : Agent) (k ch : Nat) (d : Dev) : Dev :=
  cmdWrite ag (stkOff k 0x10) (regOf [(MS_CTL.CHAN, ch), (MS_CTL.MAPOUT, 1), (MS_CTL.SCRUB, rgetF d (stkOff k 0x10) MS_CTL.SCRUB)]) d
/-- MAPOUT. -/
def execMapout (ag : Agent) (k ch : Nat) (s : State) : Out := s.upd (mapoutCmd ag k ch)
/-- SU_TRACTCTL_GO. -/
def execSuTractctlGo (ag : Agent) (s : State) : Out := s.upd (cmdWrite ag (suOff 0x1020) (regOf [(SU_TRACTCTL.GO, 1)]))
/-- RD_START. -/
def execRdStart (ag : Agent) (r : Nat) (s : State) : Out := s.upd (cmdWrite ag (rdOff (r % 4) 0x38) (regOf [(RD_CTL.START, 1)]))
/-- RD_ABORT. -/
def execRdAbort (ag : Agent) (r : Nat) (s : State) : Out := s.upd (cmdWrite ag (rdOff (r % 4) 0x38) (regOf [(RD_CTL.ABORT, 1)]))
/-- RD_FILL. -/
def execRdFill (ag : Agent) (r : Nat) (v : Word) (s : State) : Out := s.upd (cmdWrite ag (rdOff (r % 4) 0x40) v.toNat)

/-! ### Sessions, the pair, resets -/

/-- HB_SESSCTL_CLOSE. -/
def execHbSessctlClose (ag : Agent) (s : State) : Out := s.upd (cmdWrite ag (landOff 8) (regOf [(HB_SESSCTL.CLOSE, 1)]))
/-- REJOIN. -/
def execRejoin (ag : Agent) (s : State) : Out := s.upd (cmdWrite ag (suOff 0x1108) (regOf [(SU_LVCTL.REJOIN, 1)]))
/-- The write of SU_LVDIGCTL that starts a digest, TAG as it is. -/
def digestGoCmd (ag : Agent) (d : Dev) : Dev :=
  cmdWrite ag (suOff 0x1120) (regOf [(SU_LVDIGCTL.GO, 1), (SU_LVDIGCTL.TAG, rgetF d (suOff 0x1120) SU_LVDIGCTL.TAG)]) d
/-- DIGEST_GO. -/
def execDigestGo (ag : Agent) (s : State) : Out := s.upd (digestGoCmd ag)
/-- DEVICE_RESET: HB_RSTCMD OP 0b001. -/
def execDeviceReset (ag : Agent) (s : State) : Out := s.upd (cmdWrite ag 0x600 (regOf [(HB_RSTCMD.OP, 1)]))
/-- QUARTER_RESET: HB_RSTCMD OP 0b010. -/
def execQuarterReset (ag : Agent) (q : Nat) (s : State) : Out :=
  s.upd (cmdWrite ag 0x600 (regOf [(HB_RSTCMD.OP, 2), (HB_RSTCMD.QUARTER, q)]))
/-- CLUSTER_RESET: HB_RSTCMD OP 0b011. -/
def execClusterReset (ag : Agent) (cl : Nat) (s : State) : Out :=
  s.upd (cmdWrite ag 0x600 (regOf [(HB_RSTCMD.OP, 3), (HB_RSTCMD.CLUSTER, cl)]))

end Sys2Proof.Machine
end

