-- ==== Sys2Proof/Machine/Landing.lean ====
section
/-!
DEFINITION. Host messages (spec/18): sessions (R405 to R407), reads and writes (R403), attestation (R410), answers to this device's own accesses
to host memory (R404), and what waits for a ledger record (spec/21 R461).
-/
namespace Sys2Proof.Machine

/-! ### Messages -/

/-- An answer to a host message. -/
def hostReply (d : Dev) (m : Msg) (op : Nat) (data : List Byte) : Dev :=
  if silent d then d else send d (mkMsg d 3 op m.src m.tag 0 data)
/-- HSTAT. -/
def hstat (d : Dev) (m : Msg) (st : Nat) : Dev := hostReply d m 0x23 (toBytes 1 st)
/-- SRESULT of one byte. -/
def sresult (d : Dev) (m : Msg) (st : Nat) : Dev := hostReply d m 0x21 (toBytes 1 st)

/-- Is a message of the host channel one that R402 lists, downward, with a length it allows? -/
def hostLenOk (m : Msg) : Bool :=
  let n := m.data.length
  match m.op with
  | 0x01 => n == 33 | 0x02 => n == 48 | 0x03 => n == 0 | 0x04 => n == 8
  | 0x05 => decide (1 ≤ n ∧ n ≤ 2048) | 0x06 => n == 0 | 0x07 => n == 8 | 0x08 => n == 8 | 0x09 => n == 33
  | 0x0A => decide (1 ≤ n ∧ n ≤ 2048) | 0x0B => n == 9 | 0x0C => n == 0
  | _ => false

/-- What the host may do before the device is claimed (R402). -/
def claimOk (m : Msg) : Bool :=
  let a := m.addr
  (m.op == 7 && (a == 0x400 || decide (0x1000 ≤ a ∧ a < 0x1400))) ||
  (m.op == 6 && (a == 0x408 || a == dkOff 0 || a == dkOff 8 || a == dkOff 0x10 || decide (dkOff 0x800 ≤ a ∧ a < dkOff 0x9B0)))

/-- Does the device serve a downward message now (R402)? -/
def hostServed (d : Dev) (m : Msg) : Bool :=
  sessOpen d || m.op == 1 || m.op == 2 || m.op == 9 || (d.dyke.owner.isNone && claimOk m)

/-- Is a host's write still under way? What the host sends after it waits (R161). -/
def writesPending (d : Dev) : Bool := d.hjobs.any (fun j => !j.isRead && j.peer.isNone)

/-- The next host message of an opcode, acted on by `f`; outside a session it is answered with status 1 (R402). -/
def hostCmd (d : Dev) (op : Nat) (f : Msg → Dev → Dev) : Dev :=
  if writesPending d then d
  else match receive d (fun m => m.vc == 3 && m.op == op && hostLenOk m) with
  | (some m, d) => if hostServed d m then f m d else hstat d m 1
  | (none, d) => d

/-! ### Sessions -/

/-- The key that a KEYSEL selects. -/
def keyOf (d : Dev) (sel : Nat) : Option (List Byte) :=
  match sel with
  | 0 => d.dyke.owner
  | 1 => d.dyke.pass.map (·.1)
  | _ => none

/-- Is the device locked out, `since` seconds after the last mismatch (R406)? -/
def lockedOut (d : Dev) (since : Nat) : Bool :=
  decide (8 ≤ d.dyke.led.fails ∧ since < min 4096 (2 ^ (min 12 (d.dyke.led.fails - 8))))

/-- SOPEN taken (R405 steps 1 and 2). `twinSc` and `sameKey`: in a pair, the other twin's session counter and whether its key is the same
(R412). -/
def sopen (since twinSc : Nat) (sameKey : Bool) (m : Msg) (d : Dev) : Dev :=
  let sel := fieldAt m.data 32 1
  let o := landOff 0
  if lvState d = 1 then sresult d m 4
  else if lvState d = 5 then sresult d m 8
  else if sessOpen d ∨ rbit d o HB_SESSTAT.OPENING then sresult d m 4
  else if lockedOut d since then sresult d m 6
  else match keyOf d sel with
    | none => sresult d m 5
    | some key =>
      if paired d ∧ !sameKey then sresult d m 8
      else
        let sc := (if paired d then max d.dyke.led.sessCtr twinSc else d.dyke.led.sessCtr) + 1
        let d := updLed d (fun r => { r with sessCtr := sc })
        let d := rset d o (setF (setF (setB (rget d o) HB_SESSTAT.OPENING true) HB_SESSTAT.LANDID m.src) HB_SESSTAT.SC sc)
        let nd := toBytes 32 (Config.nonce sc).toNat
        ledgerAsk { d with sess := { stage := 1, nh := m.data.take 32, nd := nd, keysel := sel, key := key, tag := m.tag } } .challenge

/-- The input of a session's MAC (R405): its first byte, the nonces, the UID, the session counter. -/
def sessInput (d : Dev) (first : Nat) : List Byte := toBytes 1 first ++ d.sess.nh ++ d.sess.nd ++ sessUid d ++ scBytes d

/-- An opening ends without a session. -/
def openingEnds (d : Dev) : Dev :=
  { rsetB d (landOff 0) HB_SESSTAT.OPENING false with sess := Sess.none }

/-- SPROVE taken (R405 step 4, R406). -/
def sprove (m : Msg) (d : Dev) : Dev :=
  let o := landOff 0
  if d.sess.stage ≠ 2 then sresult d m 7
  else if m.data = Config.hmac384 d.sess.key (sessInput d 0x48) then
    let mac := Config.hmac384 d.sess.key (sessInput d 0x44)
    let d := showLedger (updLed d (fun r => { r with fails := 0 }))
    let d := rset d o (setF (setB (setB (rget d o) HB_SESSTAT.OPEN true) HB_SESSTAT.OPENING false) HB_SESSTAT.KEYSEL d.sess.keysel)
    hostReply { d with sess := { d.sess with stage := 0 } } m 0x21 (toBytes 1 0 ++ mac)
  else sresult (countFail (openingEnds d)) m 5

/-- SPROVE_TIMEOUT: 1 s since CHALLENGE by the Dykereeve's tally. -/
def sproveTimeout (d : Dev) : Dev := if d.sess.stage = 2 then openingEnds d else d

/-- RELAYDOWN: the landing port has reset; the session ends (R401, R407). -/
def relayDown (m : Msg) (d : Dev) : Dev :=
  if sessOpen d ∨ rbit d (landOff 0) HB_SESSTAT.OPENING then endSession d (some 2) else hstat d m 1

/-! ### Reads and writes of device addresses (R403) -/

/-- Does every sector of a range resolve for the hub? -/
def rangeOk (d : Dev) (a n : Nat) (write : Bool) : Bool := (sectorsOf a n).all (fun p => (hubTarget d p.1 write).isSome)

/-- The parts of a host's read: local bytes at once, anything else requested. The status of the first uncorrectable byte. -/
def hreadParts (d : Dev) (a n : Nat) : List HPart × Bool × Dev :=
  (sectorsOf a n).foldl (fun (acc : List HPart × Bool × Dev) p =>
    let d := acc.2.2
    match hubTarget d p.1 false with
    | some (.stack k o) =>
      let g := homeRead d p.1 k o p.2
      (acc.1 ++ [.bytes (toBytes p.2 g.1)], acc.2.1 || g.2, homeNote d p.1 k o 1)
    | some t =>
      let r := hubReq d t p.1 p.2 .read 0
      (acc.1 ++ [.req r.1 p.2], acc.2.1, r.2)
    | none => acc) ([], false, d)

/-- HREAD taken. -/
def hread (m : Msg) (d : Dev) : Dev :=
  let n := fieldAt m.data 0 2 % 4096
  if n = 0 ∨ 2048 < n then hstat d m 7
  else if recovery d then hstat d m 7
  else if !rangeOk d m.addr n false then hstat d m 2
  else
    let (ps, bad, d) := hreadParts d m.addr n
    if bad then
      hstat (ps.foldl (fun d p => match p with | .req id _ => updReq d id (fun r => { r with src := .clean }) | _ => d) d) m 3
    else hubSettle { d with hjobs := d.hjobs ++ [⟨m.tag, true, none, ps⟩] }

/-- The parts of a host's write. -/
def hwriteParts (d : Dev) (a : Nat) (bs : List Byte) : List HPart × Dev :=
  (sectorsOf a bs.length).foldl (fun (acc : List HPart × Dev) p =>
    let d := acc.2
    let v := (bs.drop (p.1 - a)).take p.2
    match hubTarget d p.1 true with
    | some (.stack _ _) => (acc.1, (hubWrite d p.1 v).2)
    | some t =>
      let r := hubReq d t p.1 p.2 .write (ofBytes v)
      (acc.1 ++ [.req r.1 p.2], r.2)
    | none => acc) ([], d)

/-- HWRITE taken. -/
def hwrite (m : Msg) (d : Dev) : Dev :=
  if recovery d then hstat d m 7
  else if !rangeOk d m.addr m.data.length true then hstat d m 2
  else
    let (ps, d) := hwriteParts d m.addr m.data
    hubSettle { d with hjobs := d.hjobs ++ [⟨m.tag, false, none, ps⟩] }

/-- HMREAD taken. -/
def hmread (m : Msg) (d : Dev) : Dev :=
  if m.addr % 8 ≠ 0 then hstat (mmErr d HB_MMERR.SIZE .host m.addr) m 7
  else match mgmtRead d .host m.addr 8 with
    | (some v, d) => hostReply d m 0x24 (toBytes 8 v.toNat)
    | (none, d) => hstat d m 7

/-- HMWRITE taken; a device that has reset itself answers nothing. -/
def hmwrite (m : Msg) (d : Dev) : Dev :=
  if m.addr % 8 ≠ 0 then hstat (mmErr d HB_MMERR.SIZE .host m.addr) m 7
  else
    let d := (mgmtWrite d .host m.addr 8 (BitVec.ofNat 64 (ofBytes m.data))).2
    if d.booted then hstat d m 0 else d

/-- DOORBELL taken (R408). -/
def doorbell (m : Msg) (d : Dev) : Dev :=
  let n := fieldAt m.data 0 1
  let i := fieldAt m.data 1 1
  if 16 ≤ n ∨ 1 < i ∨ recovery d then hstat d m 7 else ringPtr d n i (fieldAt m.data 4 4)

/-! ### Attestation (R410) -/

/-- ATTEST taken. -/
def attest (m : Msg) (d : Dev) : Dev :=
  let which := fieldAt m.data 32 1
  if d.attest.isSome then hstat d m 4
  else if recovery d ∨ 1 < which ∨ (which = 1 ∧ !paired d) then hstat d m 7
  else { d with attest := some (m.data.take 32, which, m.tag + 65536 * m.src) }

/-- The report's body. -/
def reportBody (d : Dev) (nonce : List Byte) : List Byte :=
  let bank := rgetF d 0x700 HB_BOOTSTAT.BANK
  let fw := fbytes d (bankAt bank) (fieldAt (fbytes d (bankAt bank + 0x0C) 4) 0 4)
  let st := rget d 0x310
  let fl (b : Bool) (n : Nat) : Nat := if b then n else 0
  toBytes 4 0x54414C4A ++ toBytes 2 1 ++
  toBytes 2 (fl d.plat.levee 1 + fl d.plat.allot 2 + fl (isSet st HB_PLATSTAT.PLATLESS) 4 + fl (isSet st HB_PLATSTAT.FALLBACK) 8) ++
  devUid ++ nonce ++ Config.sha384 fw ++ (if d.plat.loaded then d.plat.hash else Config.sha384 []) ++
  toBytes 8 (rget d 0x318).toNat ++ toBytes 8 d.dyke.led.platFloor ++ toBytes 8 d.dyke.led.sessCtr ++
  (if d.plat.twinUid = [] then toBytes 16 0 else d.plat.twinUid) ++
  toBytes 2 d.dyke.led.retired.length ++ toBytes 2 ((List.range 24).map (fun k => popc 16 (Tab.get 0 d.dyke.led.chanmap k))).sum ++
  toBytes 4 (rgetF d 0x700 HB_BOOTSTAT.VERSION) ++ toBytes 56 0

/-- ATTEST_REPORT_READY: the report goes in nine messages. -/
def reportReady (d : Dev) : Dev :=
  match d.attest with
  | none => d
  | some (nonce, which, dest) =>
    let body := reportBody d nonce
    let bs := if which = 0 then body ++ Config.identitySign body else Config.twinReport nonce
    let d := { d with attest := none }
    if silent d then d
    else (List.range 9).foldl (fun d i =>
      send d { mkMsg d 3 0x2A (dest / 65536) (dest % 65536) (2048 * i) ((bs.drop (2048 * i)).take (if i = 8 then 480 else 2048)) with cls := 0 }) d

/-! ### Answers to this device's accesses to host memory (R404) -/

/-- The outstanding request to host memory with a TAG. -/
def hostReqOf (d : Dev) (tag : Nat) : Option (Nat × Req) :=
  List.find? (fun e : Nat × Req => e.2.stage == .remote && e.2.tag == tag && (match e.2.tgt with | .host _ => true | _ => false)) d.reqs

/-- A response to an outbound request is mirrored to the twin under the request's key (R434). -/
def mirrorResponse (d : Dev) (m : Msg) (key : Nat) : Dev := if paired d && isFace d then mirror d m key else d

/-- HDATA and HRESP: the access with that TAG completes; one that nobody waits for is late. -/
def hostAnswer (op : Nat) (d : Dev) : Dev :=
  match receive d (fun m => m.vc == 3 && m.op == op && hostLenOk m) with
  | (some m, d) =>
    if !sessOpen d then hstat d m 1
    else match hostReqOf d m.tag with
      | some (id, r) =>
        if (op = 0x0A) = (r.kind = .read) ∧ (op ≠ 0x0A ∨ m.data.length = r.len) then
          finishReq (mirrorResponse d m r.key) id (answerOf m).1 (answerOf m).2
        else devCount d SL_DEVSTAT.BADMSG
      | none => devCount d SL_DEVSTAT.LATE
  | (none, d) => d

/-- The deadline of R390 passes for an access to host memory. -/
def hostDeadline (id : Nat) (d : Dev) : Dev :=
  match Tab.find? d.reqs id with
  | some r => (match r.stage, r.tgt with | .remote, .host _ => finishReq d id 4 0 | _, _ => d)
  | none => d

/-! ### What waits for a ledger record (R461) -/

/-- A ring's REPLAT command whose plat is in force gets its result. -/
def replatDone (d : Dev) : Dev :=
  { d with rings := d.rings.map (fun e => (e.1, { e.2 with cmds := e.2.cmds.map (fun c =>
      if c.began ∧ fieldAt c.bytes 0 1 = 6 ∧ c.res.isNone then { c with res := some (0, rgetF d 0x310 HB_PLATSTAT.RESULT) } else c) })) }

/-- What waited for a record goes on, or meets the record's failure. -/
def ledgerNext (ok : Bool) (d : Dev) (r : LReason) : Dev :=
  match r with
  | .challenge =>
    if d.sess.stage ≠ 1 then d
    else if !ok then openingEnds d
    else
      let data := d.sess.nd ++ sessUid d ++ scBytes d
      let d := { d with sess := { d.sess with stage := 2 } }
      sendUp d 0x20 d.sess.tag 0 data
  | .plat => replatDone (rsetB d 0x310 HB_PLATSTAT.BUSY false)
  | .lcmd => lcmdEnds d (if ok then 0 else 5)
  | _ => d

/-- LEDGER_WRITE_COMPLETE: the record has been read back; where it does not compare equal it is tried again in the next slot, up to three
times (R461). -/
def ledgerComplete (ok : Bool) (d : Dev) : Dev :=
  match d.dyke.writing with
  | none => d
  | some w =>
    if ok ∧ fbytes d (slotAt w.slot) w.bytes.length = w.bytes then w.reasons.foldl (ledgerNext true) (ledgerDone d)
    else if w.tries < 3 then ledgerRetry d w
    else
      let d := sendLog (rsetB (updDk d (fun k => { k with writing := none })) (dkOff 0) DK_STAT.LEDGERFAIL true) 0x13 0
      w.reasons.foldl (ledgerNext false) d

/-! ### The meanings -/

/-- SOPEN. -/
def execSopen (sinceFail twinSc : Nat) (sameKey : Bool) (s : State) : Out := s.upd (fun d => hostCmd d 1 (sopen sinceFail twinSc sameKey))
/-- LEDGER_WRITE_COMPLETE. -/
def execLedgerWriteComplete (ok : Bool) (s : State) : Out := s.upd (ledgerComplete ok)
/-- SPROVE. -/
def execSprove (s : State) : Out := s.upd (fun d => hostCmd d 2 sprove)
/-- SPROVE_TIMEOUT. -/
def execSproveTimeout (s : State) : Out := s.upd sproveTimeout
/-- SCLOSE. -/
def execSclose (s : State) : Out := s.upd (fun d => hostCmd d 3 (fun _ d => endSession d (some 0)))
/-- HREAD. -/
def execHread (s : State) : Out := s.upd (fun d => hostCmd d 4 hread)
/-- HWRITE. -/
def execHwrite (s : State) : Out := s.upd (fun d => hostCmd d 5 hwrite)
/-- HMREAD. -/
def execHmread (s : State) : Out := s.upd (fun d => hostCmd d 6 hmread)
/-- HMWRITE. -/
def execHmwrite (s : State) : Out := s.upd (fun d => hostCmd d 7 hmwrite)
/-- DOORBELL. -/
def execDoorbell (s : State) : Out := s.upd (fun d => hostCmd d 8 doorbell)
/-- ATTEST. -/
def execAttest (s : State) : Out := s.upd (fun d => hostCmd d 9 attest)
/-- ATTEST_REPORT_READY. -/
def execAttestReportReady (s : State) : Out := s.upd reportReady
/-- RELAYDOWN taken; it ends an opening as well as a session. -/
def relayDownTaken (d : Dev) : Dev :=
  match receive d (fun m => m.vc == 3 && m.op == 0x0C && hostLenOk m) with
  | (some m, d) => relayDown m d
  | (none, d) => d
/-- RELAYDOWN. -/
def execRelaydown (s : State) : Out := s.upd relayDownTaken

end Sys2Proof.Machine
end

