-- ==== Sys2Proof/Machine/Rings.lean ====
section
/-!
DEFINITION. Command rings (spec/18 R408, R409): fetching commands, the step of each, their completion events.
-/
namespace Sys2Proof.Machine

/-! ### Queues -/

/-- A slot number after another. -/
def slotNext (d : Dev) (n i v : Nat) : Nat := (v + 1) % max 1 (ringSlots d n i)
/-- A field of RING_PTR. -/
def rptr (d : Dev) (n : Nat) (f : Fld) : Nat := rgetF d (ringOff n 0x18) f
/-- Is a ring enabled and without error? -/
def ringRuns (d : Dev) (n : Nat) : Bool :=
  let w := rget d (ringOff n 0x10)
  decide (n < 16) && isSet w RING_CTL.EN && !isSet w RING_CTL.ERR && sessOpen d && d.booted && !recovery d && !rbit d lvOff SU_LVSTAT.REJOIN
/-- Is the completion queue full? -/
def cqFull (d : Dev) (n : Nat) : Bool := slotNext d n 1 (rptr d n RING_PTR.CQTAIL) == rptr d n RING_PTR.CQHEAD

/-! ### Fetching (R408) -/

/-- A command put in its ring; SQHEAD goes on. -/
def putCmd (d : Dev) (n : Nat) (bs : List Byte) : Dev :=
  let h := slotNext d n 0 (rptr d n RING_PTR.SQHEAD)
  let d := rsetF d (ringOff n 0x18) RING_PTR.SQHEAD h
  updRing d n (fun r => { r with
    next := r.next + 1, fetching := none
    cmds := r.cmds ++ [{ idx := r.next, bytes := bs, head := h, began := false, pos := 0, wait := none, chosen := 0, res := none,
                         drop := false }] })

/-- RING_COMMAND_FETCH: the slot at SQHEAD, from device memory at once, from host memory in two steps: the request, and its
answer. -/
def ringFetch (n : Nat) (d : Dev) : Dev :=
  if !ringRuns d n then d
  else
    let r := getRing d n
    match r.fetching with
    | some id =>
      (match Tab.find? d.reqs id with
       | some q =>
         if q.stage ≠ .done then d
         else
           let d := dropReq d id
           if q.status = 0 then putCmd d n (toBytes 64 q.out) else updRing d n (fun r => { r with fetching := none })
       | none => updRing d n (fun r => { r with fetching := none }))
    | none =>
      if rptr d n RING_PTR.SQHEAD = rptr d n RING_PTR.SQTAIL ∨ 8 ≤ r.cmds.length ∨ cqFull d n then d
      else
        let a := rgetF d (ringOff n 0) RING_BASE.ADDR * 64 + 64 * rptr d n RING_PTR.SQHEAD
        if rbit d (ringOff n 0x10) RING_CTL.SQLOC then
          (match hubRead d a 64 with
           | (some bs, d) => putCmd d n bs
           | (none, d) => d)
        else
          let q := hubReq d (.host a) a 64 .read 0
          updRing q.2 n (fun r => { r with fetching := some q.1 })

/-! ### Commands -/

/-- OP of a command. -/
def cOp (c : RCmd) : Nat := fieldAt c.bytes 0 1
/-- `k` bytes of ARGS at an offset. -/
def cArg (c : RCmd) (o k : Nat) : Nat := fieldAt c.bytes (8 + o) k

/-- Bytes of ARGS that a command uses. -/
def argUsed : Nat → List (Nat × Nat)
  | 0x01 => [(0, 4), (8, 24)]
  | 0x02 => [(0, 3)]
  | 0x03 => [(0, 12)]
  | 0x04 => [(0, 24)]
  | 0x05 => [(0, 32)]
  | 0x06 => [(0, 2)]
  | _ => []

/-- Is a command of an OP that R409 lists, its zero bytes zero? -/
def cmdOk (c : RCmd) : Bool :=
  let used := argUsed (cOp c)
  decide (cOp c ≤ 7) && decide (fieldAt c.bytes 1 1 < 8) && fieldAt c.bytes 2 2 == 0 &&
  (List.range 56).all (fun i => used.any (fun u => decide (u.1 ≤ i ∧ i < u.1 + u.2)) || cArg c i 1 == 0)

/-- The next command of a ring to start, where it may start now: every one before it has started, the completion queue is not full
(R409). -/
def nextCmd (d : Dev) (n : Nat) : Option RCmd :=
  if !ringRuns d n ∨ cqFull d n then none else (getRing d n).cmds.find? (fun c => !c.began)

/-- A command of a ring changed. -/
def setCmd (d : Dev) (n : Nat) (c : RCmd) : Dev :=
  updRing d n (fun r => { r with cmds := r.cmds.map (fun x => if x.idx = c.idx then c else x) })

/-- The next command of a ring starts, if it is a well-formed one of OP `op`. -/
def startCmd (d : Dev) (n op : Nat) (f : RCmd → Dev → Dev) : Dev :=
  match nextCmd d n with
  | some c => if cOp c = op ∧ cmdOk c then f { c with began := true } (setCmd d n { c with began := true }) else d
  | none => d

/-- A command's result. -/
def endCmd (d : Dev) (n : Nat) (c : RCmd) (st detail : Nat) : Dev := setCmd d n { c with res := some (st, detail) }

/-- The contexts of a mask that run. -/
def runMask (d : Dev) (l m : Nat) : Nat := maskOf 8 (fun c => m.testBit c && running d l c)

/-- START for a cluster: a Dormant one powers up (R475); each context in the mask that does not run takes its entry, mode, live mask and
argument, and starts. The status. -/
def startOn (d : Dev) (l m mode : Nat) (entry live arg : Word) : Nat × Dev :=
  let d := if (getCl d l).dormant then clusterWake l d else d
  let busy := runMask d l m
  let d := (List.range 8).foldl (fun d c =>
    if m.testBit c && !busy.testBit c then
      let d := rset d (csOff l c 0x68) entry
      let d := rset d (csOff l c 0x48) (setF (rget d (csOff l c 0x48)) CL_GCTL.MODE mode)
      let d := rset d (csOff l c 0x50) live
      updCtx d l c (fun x => swrite x 1 arg)
    else d) d
  (if busy = 0 then 0 else 4, startMask d l (maskOf 8 (fun c => m.testBit c && !busy.testBit c)))

/-- Events of a class counted for a unit now. -/
def classCount (d : Dev) (cls unit : Nat) : Nat := (Tab.get [] d.dyke.stamps (65536 * cls + unit)).length
/-- COUNT of a class. -/
def classThresh (d : Dev) (cls : Nat) : Nat := rgetF d (dkOff (0x40 + 8 * cls)) DK_THRESH.COUNT

/-- May unplaced work run on a cluster (R447)? -/
def allotOk (d : Dev) (m l : Nat) : Bool :=
  match siteOfCl d l with
  | some p =>
    runMask d l m == 0 && !d.dyke.lastF.any (fun k => k % 65536 == p && decide (k / 65536 < 2)) &&
    (List.range 2).all (fun cls => decide (2 * classCount d cls p ≤ classThresh d cls))
  | none => false

/-- The clusters that an unplaced START may go to: those of the parcel whose TTYPE 1 window holds the entry, or all (R447). -/
def allotFrom (d : Dev) (entry : Nat) : List Nat :=
  let all := Tab.keys d.plat.siteOf
  match winOf d entry with
  | some i =>
    let t := winWord d i 3
    if getF t TR_WIN_T.TTYPE = 1 then
      match d.plat.parcels.find? (fun p => p.id == getF t TR_WIN_T.TID) with
      | some p => all.filter (fun l => decide (p.first ≤ l ∧ l < p.first + p.clusters))
      | none => all
    else all
  | none => all

/-- The Surveyor's choice: the fewest running contexts, then the least power measured, then the lowest ID (R447). -/
def allotPick (d : Dev) (entry m : Nat) : Option Nat :=
  let rank (l : Nat) : Nat × Nat := (popc 8 (runMask d l 0xFF), Config.clusterPower d.freeCtr l)
  ((allotFrom d entry).filter (allotOk d m)).foldl (fun best l => match best with
    | none => some l
    | some b => if (rank l).1 < (rank b).1 ∨ ((rank l).1 = (rank b).1 ∧ (rank l).2 < (rank b).2) then some l else best) none

/-- A cluster choice sent to the twin as PLACE (R448). The spec gives the message no layout for it; this is the model's: ring and command
number in bytes 0 to 15, 0xFF in byte 16, the cluster in bytes 20 and 21. -/
def placeChoice (n idx l : Nat) : List Byte := toBytes 8 n ++ toBytes 8 idx ++ toBytes 4 0xFF ++ toBytes 2 l ++ toBytes 10 0

/-- The cluster an unplaced START goes to: in a pair the face's choice. -/
def choose (d : Dev) (n : Nat) (c : RCmd) : Option Nat × Dev :=
  if silent d then
    match d.mirrored.find? (fun e => e.2.vc == 4 && e.2.op == 7 && (e.2.data.take 17) == (placeChoice n c.idx 0).take 17) with
    | some e => (some (fieldAt e.2.data 20 2), { d with mirrored := d.mirrored.filter (· != e) })
    | none => (none, d)
  else match allotPick d (cArg c 8 8) (cArg c 2 1) with
    | some l =>
      let d := { d with freeCtr := d.freeCtr + 1 }
      (some l, if paired d then sendTwin d 7 0 (placeChoice n c.idx l) else d)
    | none => (none, d)

/-- A START performed on a cluster: complete when started, or under WAIT when the contexts it started have ended. -/
def startDone (d : Dev) (n : Nat) (c : RCmd) (l : Nat) : Dev :=
  let m := cArg c 2 1
  let (st, d) := startOn d l m (cArg c 3 1) (BitVec.ofNat 64 (cArg c 8 8)) (BitVec.ofNat 64 (cArg c 16 8)) (BitVec.ofNat 64 (cArg c 24 8))
  let detail := if cArg c 0 2 = 0xFFFF then l else 0
  if (fieldAt c.bytes 1 1).testBit 0 then setCmd d n { c with chosen := 65536 * (st + 1) + l, pos := detail }
  else endCmd d n c st detail

/-- START. -/
def ringStart (n : Nat) (d : Dev) : Dev :=
  match nextCmd d n with
  | none => d
  | some c =>
    let go (f : RCmd → Dev → Dev) : Dev := startCmd d n 1 f
    if cOp c ≠ 1 ∨ !cmdOk c then d
    else if 1 < cArg c 3 1 then go (fun c d => endCmd d n c 7 0)
    else if cArg c 0 2 = 0xFFFF then
      if !d.plat.allot then go (fun c d => endCmd d n c 7 0)
      else match choose d n c with
        | (some l, d) => startDone (setCmd d n { c with began := true }) n { c with began := true } l
        | (none, _) => d
    else if (siteOfCl d (cArg c 0 2)).isNone then go (fun c d => endCmd d n c 7 0)
    else go (fun c d => startDone d n c (cArg c 0 2))

/-- STOP (R122). -/
def ringStop (n : Nat) (d : Dev) : Dev :=
  startCmd d n 2 (fun c d =>
    let l := cArg c 0 2
    if (siteOfCl d l).isNone then endCmd d n c 7 0 else stopMask d l (cArg c 2 1))

/-- EVENT (R105). -/
def ringEvent (n : Nat) (d : Dev) : Dev :=
  startCmd d n 3 (fun c d => sendEvents d (cArg c 8 4) (BitVec.ofNat 64 (cArg c 0 8)))

/-- TRACT: given to the Surveyor, which runs one command at a time (R337). -/
def ringTract (n : Nat) (d : Dev) : Dev :=
  if d.tractCmd.isSome ∨ d.tractEnd.isSome then d
  else startCmd d n 5 (fun c d => tractGo d ((List.range 4).map (fun i => BitVec.ofNat 64 (cArg c (8 * i) 8))) (some n))

/-- REPLAT, as a write of HB_PLATCMD (R49). -/
def ringReplat (n : Nat) (d : Dev) : Dev :=
  startCmd d n 6 (fun c d =>
    if rbit d 0x310 HB_PLATSTAT.BUSY ∨ rbit d 0x718 HB_FWSTAT.BUSY then
      endCmd (platCmd d (cArg c 0 1) (cArg c 1 1)) n c 4 (rgetF d 0x310 HB_PLATSTAT.RESULT)
    else if 3 < cArg c 0 1 ∨ 1 < cArg c 1 1 then endCmd d n c 7 0
    else
      let d := platCmd d (cArg c 0 1) (cArg c 1 1)
      if d.replat.isSome then d else endCmd d n c 0 (rgetF d 0x310 HB_PLATSTAT.RESULT))

/-! ### MOVE: the hub mover -/

/-- Where one side of a MOVE stands: host memory, or a device address through the window map. -/
def moveAt (d : Dev) (host : Bool) (a : Nat) (write : Bool) : Option Target := if host then some (.host a) else hubTarget d a write

/-- The bytes of the next piece: within one sector on either side. -/
def movePiece (c : RCmd) : Nat :=
  let s := cArg c 0 8 + c.pos
  let t := cArg c 8 8 + c.pos
  min (min (64 - s % 64) (64 - t % 64)) (cArg c 16 8 - c.pos)

/-- A piece of a MOVE has been written. -/
def moveOn (d : Dev) (n : Nat) (c : RCmd) : Dev :=
  let c := { c with pos := c.pos + movePiece c, wait := none }
  if cArg c 16 8 ≤ c.pos then endCmd d n c 0 0 else setCmd d n c

/-- The piece's bytes written. -/
def movePut (d : Dev) (n : Nat) (c : RCmd) (bs : List Byte) : Dev :=
  let a := cArg c 8 8 + c.pos
  match moveAt d ((fieldAt c.bytes 1 1).testBit 2) a true with
  | some (.stack _ _) => moveOn (hubWrite d a bs).2 n c
  | some t =>
    let q := hubReq d t a bs.length .write (ofBytes bs)
    setCmd q.2 n { c with wait := some (q.1, false) }
  | none => endCmd d n c 2 0

/-- The piece's bytes read. -/
def moveGet (d : Dev) (n : Nat) (c : RCmd) : Dev :=
  let a := cArg c 0 8 + c.pos
  match moveAt d ((fieldAt c.bytes 1 1).testBit 1) a false with
  | some (.stack _ _) =>
    (match hubRead d a (movePiece c) with
     | (some bs, d) => movePut d n c bs
     | (none, d) => endCmd d n c 3 0)
  | some t =>
    let q := hubReq d t a (movePiece c) .read 0
    setCmd q.2 n { c with wait := some (q.1, true) }
  | none => endCmd d n c 2 0

/-- A MOVE in progress goes on by one piece. -/
def moveStep (d : Dev) (n : Nat) (c : RCmd) : Dev :=
  match c.wait with
  | none => moveGet d n c
  | some (id, rd) =>
    match Tab.find? d.reqs id with
    | some r =>
      if r.stage ≠ .done then d
      else
        let d := dropReq d id
        let c := { c with wait := none }
        if r.status ≠ 0 then endCmd d n c (if r.status % 16 = 3 then 3 else 2) 0
        else if rd then movePut d n c (toBytes (movePiece c) r.out) else moveOn d n c
    | none => endCmd d n { c with wait := none } 2 0

/-- MOVE: the next command starts, or the ring's oldest MOVE goes on. -/
def ringMove (n : Nat) (d : Dev) : Dev :=
  match (getRing d n).cmds.find? (fun c => c.began && cOp c == 4 && c.res.isNone) with
  | some c => moveStep d n c
  | none => startCmd d n 4 (fun c d => if cArg c 16 8 = 0 then endCmd d n c 0 0 else moveGet d n c)

/-! ### Completion (R409) -/

/-- The result of a command that has begun, where it is complete now. -/
def cmdResult (d : Dev) (n : Nat) (c : RCmd) : Option (Nat × Nat) :=
  match c.res with
  | some r => some r
  | none =>
    if !c.began then none
    else match cOp c with
      | 0x01 => if runMask d (c.chosen % 65536) (cArg c 2 1) = 0 then some (c.chosen / 65536 - 1, c.pos) else none
      | 0x02 => if runMask d (cArg c 0 2) (cArg c 2 1) = 0 then some (0, 0) else none
      | 0x03 =>
        let ls := descTargets d (BitVec.ofNat 64 (cArg c 0 8))
        if d.events.any (fun e => ls.contains e.1 && e.2 == cArg c 8 4) then none else some (0, 0)
      | 0x05 => (match d.tractEnd with | some (r, st, _) => if r = n then some (0, st) else none | none => none)
      | 0x07 => if ((getRing d n).cmds.head?.map (·.idx)) = some c.idx then some (0, 0) else none
      | _ => none

/-- A completion event of 32 bytes. -/
def eventBytes (d : Dev) (n : Nat) (c : RCmd) (r : Nat × Nat) : List Byte :=
  c.bytes.drop 4 |>.take 4 |> (· ++ toBytes 1 (cOp c) ++ toBytes 1 r.1 ++ toBytes 1 (((getRing d n).pass + 1) % 2) ++ toBytes 1 n ++
    toBytes 8 r.2 ++ toBytes 4 c.head ++ toBytes 12 0)

/-- An event has been performed: NOTIFY, and in a pair CONFIRM to the twin. -/
def eventDone (d : Dev) (n slot : Nat) : Dev :=
  let d := if paired d && isFace d then sendTwin d 5 0 (toBytes 4 n ++ toBytes 4 slot) else d
  if rbit d (ringOff n 0x10) RING_CTL.NOTIFY ∧ sessOpen d then
    sendUp d 0x25 0 0 (toBytes 4 n ++ toBytes 4 (rptr d n RING_PTR.CQTAIL))
  else d

/-- An event written at CQTAIL; the tail goes on, and the phase turns at the end of a pass. The silent twin keeps it until the face has
confirmed its own. -/
def postEvt (d : Dev) (n : Nat) (bs : List Byte) : Dev :=
  let slot := rptr d n RING_PTR.CQTAIL
  let tail := slotNext d n 1 slot
  let d := rsetF d (ringOff n 0x18) RING_PTR.CQTAIL tail
  let d := if tail = 0 then updRing d n (fun r => { r with pass := r.pass + 1 }) else d
  let loc := rbit d (ringOff n 0x10) RING_CTL.CQLOC
  if silent d then
    let d := updRing d n (fun r => { r with unconf := r.unconf ++ [(slot, bs)] })
    if loc then (queueWrite d n slot bs).2 else d
  else
    match queueWrite d n slot bs with
    | (none, d) => eventDone d n slot
    | (some id, d) => updRing d n (fun r => { r with posts := r.posts ++ [(id, slot, bs)] })

/-- A dropped event counted. -/
def dropEvt (d : Dev) : Dev := rincSat d (landOff 0) HB_SESSTAT.DROPPED

/-- Events on their way to host memory that have been performed, or must be written again; after a session they are dropped. -/
def postSettle (d : Dev) : Dev :=
  (List.range 16).foldl (fun d n =>
    (getRing d n).posts.foldl (fun d p =>
      match Tab.find? d.reqs p.1 with
      | some r =>
        if r.stage ≠ .done then d
        else
          let d := updRing (dropReq d p.1) n (fun x => { x with posts := x.posts.filter (· != p) })
          if r.status = 0 then eventDone d n p.2.1
          else if sessOpen d then
            match queueWrite d n p.2.1 p.2.2 with
            | (some id, d) => updRing d n (fun x => { x with posts := x.posts ++ [(id, p.2.1, p.2.2)] })
            | (none, d) => eventDone d n p.2.1
          else dropEvt d
      | none => updRing d n (fun x => { x with posts := x.posts.filter (· != p) })) d) d

/-- A command leaves its ring. -/
def leaveRing (d : Dev) (n : Nat) (c : RCmd) : Dev :=
  let d := updRing d n (fun r => { r with cmds := r.cmds.filter (fun x => x.idx != c.idx) })
  if cOp c = 5 then { d with tractEnd := match d.tractEnd with | some e => if e.1 = n then none else some e | none => none } else d

/-- COMMAND_COMPLETE: command `i` of a ring is complete: its event, unless the session it belongs to has ended. A full completion queue holds
it. -/
def commandComplete (n i : Nat) (d : Dev) : Dev :=
  let d := postSettle d
  match (getRing d n).cmds.find? (fun c => c.idx == i) with
  | none => d
  | some c =>
    let bad : Bool := !cmdOk c && (nextCmd d n).map (·.idx) == some i
    match (if bad then some (7, 0) else cmdResult d n c) with
    | none => d
    | some r =>
      if c.drop then dropEvt (leaveRing d n c)
      else if cqFull d n then d
      else
        let d := postEvt (leaveRing d n c) n (eventBytes d n c r)
        if cOp c = 6 ∧ c.chosen = 1 then endSession d (some 4) else d

/-! ### The meanings -/

/-- RING_COMMAND_FETCH. -/
def execRingCommandFetch (n : Nat) (s : State) : Out := s.upd (ringFetch n)
/-- NOP. -/
def execNop (n : Nat) (s : State) : Out := s.upd (fun d => startCmd d n 0 (fun c d => endCmd d n c 0 0))
/-- START. -/
def execStart (n : Nat) (s : State) : Out := s.upd (ringStart n)
/-- STOP. -/
def execStop (n : Nat) (s : State) : Out := s.upd (ringStop n)
/-- EVENT. -/
def execEvent (n : Nat) (s : State) : Out := s.upd (ringEvent n)
/-- MOVE. -/
def execMove (n : Nat) (s : State) : Out := s.upd (ringMove n)
/-- TRACT. -/
def execTract (n : Nat) (s : State) : Out := s.upd (ringTract n)
/-- REPLAT. -/
def execReplat (n : Nat) (s : State) : Out := s.upd (ringReplat n)
/-- RING_FENCE. -/
def execRingFence (n : Nat) (s : State) : Out := s.upd (fun d => startCmd d n 7 (fun _ d => d))
/-- COMMAND_COMPLETE. -/
def execCommandComplete (n i : Nat) (s : State) : Out := s.upd (commandComplete n i)
/-- HDATA. -/
def execHdata (s : State) : Out := s.upd (hostAnswer 0x0A)
/-- HRESP: an event that it performs is told. -/
def execHresp (s : State) : Out := s.upd (fun d => postSettle (hostAnswer 0x0B d))
/-- HOST_ACCESS_DEADLINE. -/
def execHostAccessDeadline (id : Nat) (s : State) : Out := s.upd (fun d => postSettle (hostDeadline id d))

end Sys2Proof.Machine
end

