-- ==== Sys2Proof/Machine/Peer.lean ====
section
/-!
DEFINITION. Messages of peers (spec/17 R382, R329, R390, R391): their requests performed here, the answers to this device's own, messages not
accepted, deadlines, the replay table (spec/20 R435).
-/
namespace Sys2Proof.Machine

/-! ### What a device accepts (R382) -/

/-- Has a message of the twin channel a length that its opcode allows (spec/20)? -/
def twinLenOk (m : Msg) : Bool :=
  let n := m.data.length
  match m.op with
  | 1 => n == 64 | 2 => n == 8 | 3 => n == 16 | 4 => decide (n ≤ 2048) | 5 => n == 8 | 6 => n == 16 | 7 => n == 32
  | 8 => decide (8 ≤ n ∧ n ≤ 2048) && n % 8 == 0 | 9 => n == 1 | 10 => decide (1 ≤ n ∧ n ≤ 2048)
  | _ => false

/-- Bytes that an SZ names. -/
def szLen (z : Nat) : Nat := 2 ^ z

/-- Is a message of the request channel accepted? -/
def reqOk (m : Msg) : Bool :=
  let n := m.data.length
  match m.op with
  | 1 => n == 8 && decide (1 ≤ fieldAt m.data 0 2 % 4096 ∧ fieldAt m.data 0 2 % 4096 ≤ 2048)
  | 2 => decide (1 ≤ n ∧ n ≤ 2048)
  | 3 => n == 24 && decide (fieldAt m.data 0 1 ≤ 8 ∧ fieldAt m.data 1 1 ≤ 3)
  | 4 => n == 16 && decide (fieldAt m.data 0 1 ≤ 4 ∧ fieldAt m.data 1 1 ≤ 3)
  | _ => false

/-- Is a message of the response channel accepted? -/
def rspOk (m : Msg) : Bool :=
  let n := m.data.length
  match m.op with
  | 1 => decide (1 ≤ n ∧ n ≤ 2048) | 2 => n == 0 | 3 => n == 8 | 4 => n == 8
  | _ => false

/-- Is a message of the management channel accepted? -/
def mgtOk (m : Msg) : Bool :=
  let n := m.data.length
  match m.op with
  | 1 => n == 0 | 2 => n == 8 | 3 => n == 8 || n == 0
  | _ => false

/-- Does this device accept a message that has come for it? -/
def accepts (d : Dev) (m : Msg) : Bool :=
  match m.vc with
  | 0 => reqOk m
  | 1 => rspOk m
  | 2 => rdAccepts d m
  | 3 => hostLenOk m || decide (0x20 ≤ m.op ∧ m.op ≤ 0x2C)
  | 4 => twinLenOk m
  | 5 => mgtOk m
  | _ => false

/-- A message discarded that is not accepted: counted, and a request is answered with ERROR 6. -/
def refuseMsg (d : Dev) (m : Msg) : Dev :=
  let d := devCount d SL_DEVSTAT.BADMSG
  if m.vc = 0 then errorTo d m 6 else d

/-- BAD_MESSAGE: a message not accepted is discarded: one for another device of a channel or a length that Brynip does not have, else
one for this device. -/
def badMessage (d : Dev) : Dev :=
  match takeFirst (fun e => !isMe d e.2.dst && !msgFits e.2) d.inbox with
  | some ((p, m), rest) => refuseMsg (if m.vc ≤ 5 then oweCredits { d with inbox := rest } p m else { d with inbox := rest }) m
  | none =>
    match receive d (fun m => !accepts d m) with
    | (some m, d) => refuseMsg d m
    | (none, d) => d

/-! ### Requests performed here -/

/-- Where a peer's access goes (R329): this device's own window map, with the access's permission; a window for Datum level only refuses
it, for the message carries no level. -/
def peerTarget (d : Dev) (a : Nat) (write : Bool) : Option Target :=
  match resolveWin d a with
  | some (_, at_) => if attrDatum at_ then none else hubTarget d a write
  | none => none

/-- The next request of an opcode; none is taken while a re-plat quiesces the device (R49). -/
def peerReq (d : Dev) (op : Nat) (f : Msg → Dev → Dev) : Dev :=
  if d.replat.isSome then d
  else match receive d (fun m => m.vc == 0 && m.op == op && reqOk m) with
    | (some m, d) => f m d
    | (none, d) => d

/-- Does every sector of a range resolve for a peer? -/
def peerRange (d : Dev) (a n : Nat) (write : Bool) : Bool := (sectorsOf a n).all (fun p => (peerTarget d p.1 write).isSome)

/-- READ taken. -/
def peerRead (m : Msg) (d : Dev) : Dev :=
  let n := fieldAt m.data 0 2 % 4096
  if !peerRange d m.addr n false then errorTo d m 1
  else
    let (ps, bad, d) := hreadParts d m.addr n
    if bad then
      errorTo (ps.foldl (fun d p => match p with | .req id _ => updReq d id (fun r => { r with src := .clean }) | _ => d) d) m 3
    else hubSettle { d with hjobs := d.hjobs ++ [⟨m.tag, true, some (m.src, 1), ps⟩] }

/-- WRITE taken: acknowledged once it has been performed at its home point (R161). -/
def peerWrite (m : Msg) (d : Dev) : Dev :=
  if !peerRange d m.addr m.data.length true then errorTo d m 1
  else
    let (ps, d) := hwriteParts d m.addr m.data
    hubSettle { d with hjobs := d.hjobs ++ [⟨m.tag, false, some (m.src, 2), ps⟩] }

/-! ### Atomics and the replay table (R435) -/

/-- A response kept in the replay table of 256 entries, oldest first out, where the request asks for it. -/
def recordReplay (d : Dev) (m : Msg) (op : Nat) (bs : List Byte) : Dev :=
  if fieldAt m.data 2 1 ≠ 1 then d
  else
    updLv d (fun v =>
      let keep := v.replay.filter (fun x => !(x.1 == m.src && x.2.1 == m.tag && x.2.2.1 == m.addr)) ++ [(m.src, m.tag, m.addr, op, bs)]
      { v with replay := keep.drop (keep.length - 256) })

/-- The response recorded for a repeated request. -/
def replayed (d : Dev) (m : Msg) : Option (Nat × List Byte) :=
  if fieldAt m.data 2 1 ≠ 1 then none
  else (d.lv.replay.find? (fun x => x.1 == m.src && x.2.1 == m.tag && x.2.2.1 == m.addr)).map (fun x => x.2.2.2)

/-- An atomic's response, recorded and sent. -/
def answerAtomic (d : Dev) (m : Msg) (op : Nat) (bs : List Byte) : Dev := reply (recordReplay d m op bs) m 1 op m.tag bs

/-- An ATOMIC or SCATRED performed: at the stack's unit, or by the peer that the address names; never on host memory or the management
window (R95). -/
def peerAtomic (op n v cmp rsp : Nat) (m : Msg) (d : Dev) : Dev :=
  if m.addr % n ≠ 0 then answerAtomic d m 4 (toBytes 8 1)
  else match peerTarget d m.addr true with
    | some (.stack k o) =>
      let d := if (tractOf d m.addr).repl = [] then d else updTract d (m.addr / tractLen) (fun x => { x with repl := [] })
      (match atomApply d m.addr k o n op v cmp with
       | (some old, d) => answerAtomic d m rsp (if rsp = 3 then toBytes 8 old else [])
       | (none, d) => answerAtomic d m 4 (toBytes 8 3))
    | some (.peer p o) =>
      let r := hubReq d (.peer p o) m.addr n (.atomic op n cmp) v
      hubSettle { r.2 with hjobs := r.2.hjobs ++ [⟨m.tag, false, some (m.src, rsp), [.req r.1 n]⟩] }
    | _ => answerAtomic d m 4 (toBytes 8 1)

/-- ATOMIC taken. `young`: an entry of the replay table that it matches is younger than 4 ms. -/
def peerAmo (young : Bool) (m : Msg) (d : Dev) : Dev :=
  match (if young then replayed d m else none) with
  | some (op, bs) => reply d m 1 op m.tag bs
  | none =>
    let n := szLen (fieldAt m.data 1 1)
    let op := fieldAt m.data 0 1
    let cmp := fieldAt m.data 16 8 % 2 ^ (8 * n)
    peerAtomic op n (fieldAt m.data 8 8) cmp 3 m d

/-- The operation that a SCATRED names. -/
def redOp (b : Nat) : Nat := [2, 5, 6, 7, 8].getD b 2

/-- SCATRED taken. -/
def peerRed (young : Bool) (m : Msg) (d : Dev) : Dev :=
  match (if young then replayed d m else none) with
  | some (op, bs) => reply d m 1 op m.tag bs
  | none =>
    let n := szLen (fieldAt m.data 1 1)
    let op := redOp (fieldAt m.data 0 1)
    peerAtomic op n (fieldAt m.data 8 8) 0 2 m d

/-! ### Answers to this device's requests -/

/-- The outstanding request that a peer's answer is of. -/
def peerReqOf (d : Dev) (m : Msg) : Option (Nat × Req) :=
  List.find? (fun e : Nat × Req => e.2.stage == .remote && e.2.tag == m.tag &&
    (match e.2.tgt with | .peer p _ => p == m.src | _ => false)) d.reqs

/-- Is an answer of the kind that its request expects? -/
def answerFits (m : Msg) (r : Req) : Bool :=
  match m.op with
  | 1 => r.kind == .read && m.data.length == r.len
  | 2 => (match r.kind with | .write => true | .red _ _ => true | _ => false)
  | 3 => (match r.kind with | .atomic _ _ _ => true | .swap _ _ => true | _ => false)
  | _ => true

/-- An answer taken: its request completes, in a pair after it has been mirrored (R434); one that nobody waits for is late (R390). -/
def peerAnswer (op : Nat) (d : Dev) : Dev :=
  match receive d (fun m => m.vc == 1 && m.op == op && rspOk m) with
  | (some m, d) =>
    (match peerReqOf d m with
     | some (id, r) =>
       if answerFits m r then finishReq (mirrorResponse d m r.key) id (answerOf m).1 (answerOf m).2
       else devCount d SL_DEVSTAT.BADMSG
     | none => devCount d SL_DEVSTAT.LATE)
  | (none, d) => d

/-- RESPONSE_DEADLINE: a request to a peer completes with status 4 (R390). -/
def responseDeadline (id : Nat) (d : Dev) : Dev :=
  match Tab.find? d.reqs id with
  | some r => (match r.stage, r.tgt with | .remote, .peer _ _ => finishReq d id 4 0 | _, _ => d)
  | none => d

/-! ### Management messages -/

/-- An answer to a management message: one of the twin's goes back by the port that it came by, for it may be a probe (R442). -/
def mdata (d : Dev) (p : Nat) (m : Msg) (tag : Nat) (bs : List Byte) : Dev :=
  if p < 12 ∧ m.src = d.plat.twinId then
    inject d (some p) { vc := 5, op := 3, src := d.plat.self, dst := m.src, tag := tag, hops := 0, cls := 0, addr := 0, data := bs }
  else reply d m 5 3 tag bs

/-- A TAG with an error status in [15:8]. -/
def errTag (m : Msg) (st : Nat) : Nat := m.tag % 256 + 256 * st

/-- MREAD taken. -/
def mreadTaken (d : Dev) : Dev :=
  match receiveAt d (fun m => m.vc == 5 && m.op == 1 && mgtOk m) with
  | (some (p, m), d) =>
    (match mgmtRead d (.peer m.src) m.addr 8 with
     | (some v, d) => mdata d p m m.tag (toBytes 8 v.toNat)
     | (none, d) => mdata d p m (errTag m 1) [])
  | (none, d) => d

/-- Is an offset DT_ISET of a cluster? -/
def isIset (o : Nat) : Bool :=
  match blkOf o with
  | (.cluster _, r) => decide (0x4000 ≤ r ∧ r < 0x4800) && (r - 0x4000) % 0x100 == 0x88
  | _ => false

/-- MWRITE taken: DT_ISET of a cluster, or nothing (R382). The spec does not state the bytes of the answer to one that is performed: they
are a free value. -/
def mwriteTaken (d : Dev) : Dev :=
  match receiveAt d (fun m => m.vc == 5 && m.op == 2 && mgtOk m) with
  | (some (p, m), d) =>
    if isIset m.addr then
      let d := (mgmtWrite d (.peer m.src) m.addr 8 (BitVec.ofNat 64 (ofBytes m.data))).2
      let (w, d) := d.free
      mdata d p m m.tag (toBytes 8 w.toNat)
    else mdata d p m (errTag m 1) []
  | (none, d) => d

/-- MDATA taken: the answer to the probe of the twin (R442), else late. -/
def mdataTaken (d : Dev) : Dev :=
  match receive d (fun m => m.vc == 5 && m.op == 3 && mgtOk m) with
  | (some m, d) =>
    if d.lv.probe = 1 ∧ m.src = d.plat.twinId then probeAnswer d (if m.data.length = 8 then some (ofBytes m.data) else none)
    else devCount d SL_DEVSTAT.LATE
  | (none, d) => d

/-! ### The meanings -/

/-- READ. -/
def execRead (s : State) : Out := s.upd (fun d => peerReq d 1 peerRead)
/-- WRITE. -/
def execWrite (s : State) : Out := s.upd (fun d => peerReq d 2 peerWrite)
/-- ATOMIC. -/
def execAtomic (young : Bool) (s : State) : Out := s.upd (fun d => peerReq d 3 (peerAmo young))
/-- SCATRED. -/
def execScatred (young : Bool) (s : State) : Out := s.upd (fun d => peerReq d 4 (peerRed young))
/-- DATA. -/
def execData (s : State) : Out := s.upd (peerAnswer 1)
/-- ACK. -/
def execAck (s : State) : Out := s.upd (fun d => postSettle (peerAnswer 2 d))
/-- OLD. -/
def execOld (s : State) : Out := s.upd (peerAnswer 3)
/-- ERROR. -/
def execError (s : State) : Out := s.upd (fun d => postSettle (peerAnswer 4 d))
/-- MREAD. -/
def execMread (s : State) : Out := s.upd mreadTaken
/-- MWRITE. -/
def execMwrite (s : State) : Out := s.upd mwriteTaken
/-- MDATA. -/
def execMdata (s : State) : Out := s.upd mdataTaken
/-- BAD_MESSAGE. -/
def execBadMessage (s : State) : Out := s.upd badMessage
/-- RESPONSE_DEADLINE. -/
def execResponseDeadline (id : Nat) (s : State) : Out := s.upd (responseDeadline id)

end Sys2Proof.Machine
end

