-- ==== Sys2Proof/Machine/Faults.lean ====
section
/-!
DEFINITION. Fault handling (spec/21 R450 to R458): residue mismatches, SRAM errors, the reports that reach the Surveyor, lasting faults.
-/
namespace Sys2Proof.Machine

/-! ### Residue checks (R450 to R452) -/

/-- Is a scalar operation residue-checked (R450): an addition, subtraction, product, quotient or floating sum or product? -/
def checkedSyl (op : Op) (w : Syllable) : Bool :=
  match op with
  | .alu => (majorOf w == 0 && decide (fOP w ≤ 1)) || majorOf w == 1
  | .adds => true | .mul => true | .div => true | .fadd => true | .fdiv => true
  | _ => false

/-- Is a vector operation or thread syllable residue-checked (R450)? -/
def checkedV (op : Op) (w : Syllable) : Bool :=
  match op with
  | .vadd => (baseMajor w == 0 && decide (vOPX w ≤ 1)) || (baseMajor w == 1 && decide (4 ≤ vOPX w ∧ vOPX w ≤ 6)) || baseMajor w == 2
  | .vsadd => baseMajor w == 3 && decide (vOPX w ≤ 6)
  | .vfadd => if baseMajor w = 0x10 then decide (vOPX w ≤ 3) else vOPX w != 5
  | .vredsum => true | .vfredosum => true
  | .talu =>
    let m := majorOf w
    ((m == 0x00 || m == 0x14) && decide (fOP w ≤ 1 ∨ fOP w = 0x11 ∨ fOP w = 0x12)) || m == 0x01 || m == 0x0C || m == 0x15 ||
      m == 0x0D || m == 0x0E || m == 0x0F || m == 0x16 || m == 0x17
  | _ => false

/-- A class 0 or 1 event of a cluster's site (R450). -/
def siteEvent (d : Dev) (l cls : Nat) : Dev := match siteOfCl d l with | some p => fevent d cls p | none => d

/-- The running vector operation stops at an element for a fault that the element's own computation does not give: the elements below
it are written (R81, R210). One that is not element-wise has written none. -/
def vStopAt (d : Dev) (l c : Nat) (x : Ctx) (o : QOp) (e : Nat) (t : Trap) : Dev :=
  let lane : Bool := qopOp o == some .talu
  let each : Bool := match qopOp o with
    | some .vadd => true | some .vfadd => true | some .vsadd => true | some .vcmp => true | some .vcvt => true | _ => lane
  let a : EAcc := if each then (upTo o.pos e).foldl (if lane then threadLane d l c o else vEnter o) ⟨x, 0, false, none⟩ else ⟨x, 0, false, none⟩
  let x2 : Ctx := { a.x with vp := { a.x.vp with fl := a.x.vp.fl ||| a.fl, xsat := a.x.vp.xsat || a.sat } }
  let (i, t) := a.stop.getD (if each then e else o.pos, t)
  rset (unitFault (setVHead (setCtx d l c x2) l c { o with pos := i }) l c false t) (csOff l c 0x78) (BitVec.ofNat 64 i)

/-- May the running vector operation of a context stop at an element now? -/
def vStops (x : Ctx) (o : QOp) (e : Nat) : Bool :=
  !x.vp.fin && x.vp.waiting == [] && x.vp.fault.isNone && !o.fault && decide (o.pos ≤ e ∧ e < vTotal o)

/-- RESIDUE_MISMATCH of a unit (1 scalar, 2 vector, 3 matrix) at a place: a slot, an element or lane, or a tile element as DT_TVAL gives it.
One event is reported for each mismatch; the second of the replay is a machine check (R451, R452). -/
def residueMismatch (l c unit place : Nat) (again : Bool) (d : Dev) : Dev :=
  let report (cls : Nat) (d : Dev) : Dev := let d := siteEvent d l cls; if again then siteEvent d l cls else d
  if unit = 1 then
    match (getCtx d l c).wb.bind (fun b => (getSyl b place).map (fun y => (b, y))) with
    | some (b, y) =>
      (match sylOp b.md.gm (rget d (csOff l c 0x70)) y.word with
       | some op =>
         if !checkedSyl op y.word ∨ (y.st ≠ .ready ∧ y.st ≠ .divide) then d
         else if !again then report 0 d
         else
           let d := if y.st = .divide then updCl d l (fun k => { k with divOwner := none }) else d
           settle (failSyl (report 0 d) l c place (mcheck 0x13 0)) l
       | none => d)
    | none => d
  else if unit = 2 then
    match vHead d l with
    | some (k, x, o) =>
      let ok : Bool := match qopOp o with | some op => checkedV op o.syl | none => false
      if k ≠ c ∨ !ok ∨ !vStops x o place then d
      else if !again then report 0 d
      else vStopAt (report 0 d) l c x o place (mcheck 0x23 (BitVec.ofNat 64 place))
    | none => d
  else if unit = 3 then
    match xHead d l with
    | some (k, x, o) =>
      let acc : Bool := qopOp o == some .tacc
      if k ≠ c ∨ !(acc || qopOp o == some .xopa) ∨ !x.xp.setup ∨ xTotal o ≤ o.pos ∨ o.fault then d
      else if !again then report 1 d
      else
        let d := if acc then taccRun l 1 (report 1 d) else xopaRun l 1 (report 1 d)
        (match xHead d l with
         | some (_, _, o2) =>
           let t := xTD o.syl
           let (w, d) := d.free
           let d := tPut d l t (xType d l o) (place % 64) (place / 64 % 16) (w.toNat % 2 ^ elemBits (xType d l o))
           rset (unitFault d l c true (mcheck (0x33 + 256 * t) (BitVec.ofNat 64 (place % 1024)))) (clOff l (0x440 + 8 * c))
             (BitVec.ofNat 64 o2.pos)
         | none => d)
    | none => d
  else d

/-! ### SRAM errors (R453, R454) -/

/-- The model's code of an array, by which its events are counted (R45). -/
def arrayCode : SramArray → Nat
  | .site p a => 16 * (p % 832) + a % 16
  | .way q w a => 0x8000 + 256 * (q % 4) + 16 * (w % 16) + a % 16
  | .hub a => 0xC000 + a % 0x4000

/-- A class 2 event of an array; a site whose domain is off reports none (R458). -/
def arrayEvent (d : Dev) (a : SramArray) : Dev :=
  match a with
  | .site p _ => if domOn d (p % 832) then fevent d 2 (arrayCode a) else d
  | _ => fevent d 2 (arrayCode a)

/-- The array of a cluster by kind. -/
def clArray (d : Dev) (l a : Nat) : SramArray := .site ((siteOfCl d l).getD 0) a

/-- The array that a place lies in. -/
def placeArray (d : Dev) : SramPlace → SramArray
  | .sreg l _ _ => clArray d l 0
  | .vreg l _ _ => clArray d l 1
  | .tile l _ _ => clArray d l 2
  | .mere l _ => clArray d l 3
  | .l1 l _ => clArray d l 4
  | .cc l _ _ => clArray d l 5
  | .side l _ _ => clArray d l 6
  | .ic l _ => clArray d l 7
  | .tlb l _ => clArray d l 8
  | .copy l _ => clArray d l 9
  | .qc q a _ => (match qcFind d q a with | some (key, _) => .way q (key % 16) 0 | none => .way q 0 0)
  | .qtlb q _ => .hub q
  | .walkCache q _ => .hub (4 + q)
  | .bucket _ => .hub 8
  | .msg _ => .hub 9
  | .hub => .hub 10

/-- A sector of a line with an uncorrectable error: a clean one met outside a load is discarded, any other keeps the error until a load
meets it or it is written back (R454). -/
def sectorHurt (x : Sline) (a : Nat) (load : Bool) : Sline :=
  let s := a / 64 % 8
  if !load && !slDirty x s then slDrop x s else { x with bad := setBit x.bad s }

/-- A message whose buffer lost it: a request of a peer or the host is answered with status 3, a response ends its request with status 3, any
other is gone (R391, R454). -/
def messageHurt (d : Dev) (p : Nat) (m : Msg) : Dev :=
  if m.vc = 0 then errorTo d m 3
  else if m.vc = 5 ∧ (m.op = 1 ∨ m.op = 2) ∧ isMe d m.dst then mdata d p m (errTag m 3) []
  else if m.vc = 1 ∧ isMe d m.dst then (match peerReqOf d m with | some (id, _) => finishReq d id 3 0 | none => d)
  else if m.vc = 3 ∧ m.op = 0x0A ∧ isMe d m.dst then
    (match List.find? (fun e : Nat × Req => e.2.stage == .remote && e.2.tag == m.tag && (match e.2.tgt with | .host _ => true | _ => false)) d.reqs with
     | some (id, _) => finishReq d id 3 0
     | none => d)
  else if m.vc = 3 ∧ (m.op = 4 ∨ m.op = 5 ∨ m.op = 6 ∨ m.op = 7) ∧ isMe d m.dst then hstat d m 3
  else d

/-- What an uncorrectable word does where it is met (R454). -/
def sramEffect (pl : SramPlace) (d : Dev) : Dev :=
  match pl with
  | .sreg l c slot =>
    let (w, d) := d.free
    settle (failSyl d l c slot (mcheck 2 w)) l
  | .vreg l c e =>
    (match vHead d l with
     | some (_, x, o) => let (w, d) := d.free; vStopAt d l c x o e (mcheck 2 w)
     | none => d)
  | .tile l t r => updCl d l (fun k => { k with badTile := Tab.insert k.badTile (64 * t + r) 1 })
  | .mere l off => updCl d l (fun k => { k with badMere := (List.range 8).foldl (fun b i => Tab.insert b (off / 8 * 8 + i) 1) k.badMere })
  | .l1 l c =>
    onSyl l c 2 .load isReady (fun b y x =>
      let a := memAddr x y.word
      match (accessQ d l b.md a .rd).1 with
      | .ok da _ _ => l1Drop (failSyl d l c 2 (mcheck 2 a)) l da
      | _ => d) d
  | .cc l a load => (match ccFind d l a with | some (key, x) => ccPut d l key (sectorHurt x a load) | none => d)
  | .side l a load => updCl d l (fun k => { k with side := k.side.map (fun x => if x.ln = a / 512 then sectorHurt x a load else x) })
  | .ic l ln => updCl d l (fun k => { k with ic := k.ic.filter (fun e => e.2.ln != ln), lbuf := k.lbuf.filter (fun e => e.ln != ln) })
  | .tlb l i => updCl d l (fun k => { k with tlb := k.tlb.eraseIdx i })
  | .qc q a load => (match qcFind d q a with | some (key, x) => qcPut d q key (sectorHurt x a load) | none => d)
  | .qtlb q i => updQ d q (fun u => { u with tlb := u.tlb.eraseIdx i })
  | .walkCache q i => updQ d q (fun u => { u with wcache := u.wcache.eraseIdx i })
  | .copy l id =>
    (match Tab.find? (getCl d l).copies id with
     | some cp => (match copyNext cp with | some u => copyStop d l id cp 3 u.src | none => d)
     | none => d)
  | .bucket r => accessError d r
  | .msg i =>
    (match d.inbox[i]? with
     | some (p, m) => messageHurt (oweCredits { d with inbox := d.inbox.eraseIdx i } p m) p m
     | none => d)
  | .hub => deviceReset (ledgerWrite (ledgerAsk (ledgerEvent d 2 0 0x3FF 0) .fault)) 4

/-- Can a word of a place be met now? -/
def sramMet (d : Dev) : SramPlace → Bool
  | .sreg l c slot => (match (getCtx d l c).wb.bind (fun b => getSyl b slot) with | some y => y.st == .ready | none => false)
  | .vreg l c e => (match vHead d l with | some (k, x, o) => k == c && vStops x o e | none => false)
  | .tile _ t r => decide (t < 8 ∧ r < 64)
  | .mere l off => decide (off < mereWays d l * 0x1_0000)
  | .l1 l c =>
    (match sylFor d l c 2 .load isReady with
     | some (b, y) => (match (accessQ d l b.md (memAddr (getCtx d l c) y.word) .rd).1 with | .ok da _ _ => (l1Find d l da).isSome | _ => false)
     | none => false)
  | .cc l a _ => (match ccFind d l a with | some (_, x) => x.full.testBit (a / 64 % 8) || slDirty x (a / 64 % 8) | none => false)
  | .side l a _ => (match sideFind d l a with | some x => x.full.testBit (a / 64 % 8) | none => false)
  | .ic l ln => (getCl d l).ic.any (fun e => e.2.ln == ln) || (getCl d l).lbuf.any (fun e => e.ln == ln)
  | .tlb l i => decide (i < (getCl d l).tlb.length)
  | .qc q a _ => (match qcFind d q a with | some (_, x) => x.full.testBit (a / 64 % 8) | none => false)
  | .qtlb q i => decide (i < (getQ d q).tlb.length)
  | .walkCache q i => decide (i < (getQ d q).wcache.length)
  | .copy l id => (match Tab.find? (getCl d l).copies id with | some cp => cp.active && !cp.done && cp.fail.isNone | none => false)
  | .bucket r => rdBusy d r
  | .msg i => decide (i < d.inbox.length)
  | .hub => d.booted

/-- SRAM_UNCORRECTABLE: one class 2 event for the array, and what the place makes of it (R454). -/
def sramUncorrectable (pl : SramPlace) (d : Dev) : Dev :=
  if sramMet d pl then sramEffect pl (arrayEvent d (placeArray d pl)) else d

/-! ### Reports (R455 to R458) -/

/-- The action on a lasting fault (R456). -/
def lastingAct (d : Dev) (cls unit : Nat) : Dev :=
  let site (d : Dev) (p : Nat) : Dev := lvCause (retireSite d p cls) 0
  if cls ≤ 1 then site d unit
  else if cls = 2 then
    if unit < 0x8000 then site d (unit / 16)
    else if unit < 0xC000 then
      let q := unit / 256 % 4
      let w := unit / 16 % 16
      let d := ledgerAsk (updLed d (fun r => { r with wayoff := Tab.set 0 r.wayoff q (setBit (Tab.get 0 r.wayoff q) w) })) .fault
      wayDown q w d
    else d
  else if cls = 3 then mapOut d (unit / 16) (unit % 16)
  else if portState d unit = 3 then linkReset unit d
  else updPort d unit (fun x => { x with lasting := true })

/-- A lasting fault declared (R456): the event log, LOG 0x0010, the action. -/
def declareLasting (d : Dev) (cls unit : Nat) : Dev :=
  let d := updDk d (fun k => { k with lastF := k.lastF ++ [65536 * cls + unit] })
  let n := unitNo cls unit
  let d := ledgerEvent d 1 cls n 0
  lastingAct (sendLog d 0x0010 (cls + 65536 * (n % 65536))) cls unit

/-- The stamps of a unit that lie within the window that ends at `now` (R455). -/
def windowOf (w now : Nat) (ss : List Nat) : List Nat := ss.filter (fun s => decide (now ≤ s + w * 2 ^ 20))

/-- The oldest report stamped and counted; a count that reaches its threshold declares the unit lasting, once a boot (R455, R458). -/
def faultReport (stamp : Nat) (d : Dev) : Dev :=
  match d.fevents with
  | [] => d
  | (cls, unit) :: rest =>
    let key := 65536 * cls + unit
    let th := rget d (dkOff (0x40 + 8 * cls))
    let ss := windowOf (getF th DK_THRESH.WINDOW) stamp (Tab.get [] d.dyke.stamps key ++ [stamp])
    let d := updDk { d with fevents := rest } (fun k => { k with
      stamps := Tab.set [] k.stamps key ss
      life := Tab.set 0 k.life key (satAdd (ones 32) (Tab.get 0 k.life key) 1)
      totPend := Tab.set 0 k.totPend cls (Tab.get 0 k.totPend cls + 1) })
    if getF th DK_THRESH.COUNT ≤ ss.length ∧ !d.dyke.lastF.contains key then declareLasting d cls unit else d

/-! ### The meanings -/

/-- RESIDUE_MISMATCH. -/
def execResidueMismatch (cl ctx unit place : Nat) (again : Bool) (s : State) : Out := s.upd (residueMismatch cl ctx unit place again)
/-- SRAM_SINGLE_BIT_CORRECT: the bit is corrected in what is delivered and in the array; one class 2 event (R453). -/
def execSramSingleBitCorrect (arr : SramArray) (s : State) : Out := s.upd (fun d => arrayEvent d arr)
/-- SRAM_UNCORRECTABLE. -/
def execSramUncorrectable (place : SramPlace) (s : State) : Out := s.upd (sramUncorrectable place)
/-- FAULT_EVENT_REPORT. -/
def execFaultEventReport (stamp : Nat) (s : State) : Out := s.upd (faultReport stamp)

end Sys2Proof.Machine
end

