-- ==== Sys2Proof/Machine/Translation.lean ====
section
/-!
DEFINITION. Translation (spec/14): misses and walkers (R320 to R325), fault records sent (R330), the end of an invalidation (R326).
-/
namespace Sys2Proof.Machine

/-! ### The walker format (R319) -/

/-- TR_WFD0. -/
def wfd0 (d : Dev) : Word := rget d (qOff 0 0x1000)
/-- LEVELS. -/
def wfLevels (d : Dev) : Nat := getF (wfd0 d) TR_WFD0.LEVELS
/-- Bytes of an entry. -/
def wfBytes (d : Dev) : Nat := if isSet (wfd0 d) TR_WFD0.ENTRY8 then 8 else 4
/-- IDXi. -/
def wfIdx (d : Dev) (i : Nat) : Nat := bitsOf (getF (wfd0 d) TR_WFD0.IDX) (4 * i) 4
/-- The lowest bit of level i's index. -/
def wfLo (d : Dev) (i : Nat) : Nat := (List.range i).foldl (fun n j => n + wfIdx d j) 12
/-- Flag field i of TR_WFD1: 0 PRESENT, 1 WRITABLE, 2 USER, 3 ACCESSED, 4 DIRTY, 5 NOEXEC, 6 LEAF, 7 LARGE. -/
def wfFlag (d : Dev) (i : Nat) : Nat := bitsOf (rget d (qOff 0 0x1008)).toNat (8 * i) 8
/-- PAOFF. -/
def wfPaoff (d : Dev) : Nat := (rget d (qOff 0 0x1010)).toNat

/-- Does flag i hold in an entry? `dflt` where the format has no such bit. -/
def flagIn (d : Dev) (i e : Nat) (dflt : Bool) : Bool :=
  let f := wfFlag d i
  if f.testBit 7 then dflt else e.testBit (f % 64) != f.testBit 6

/-- An entry with flag i marked as holding (R322: under INV by the opposite value). -/
def flagSet (d : Dev) (i e : Nat) : Nat :=
  let f := wfFlag d i
  if f.testBit 6 then clrBit e (f % 64) else setBit e (f % 64)

/-- Is every walk malformed under the format (R319)? -/
def wfBad (d : Dev) : Bool :=
  let n := wfLevels d
  let w := 8 * wfBytes d
  let lo := getF (wfd0 d) TR_WFD0.PA_LO
  let pw := getF (wfd0 d) TR_WFD0.PA_W
  !(3 ≤ n && n ≤ 5) ||
  (List.range 5).any (fun i => if i < n then wfIdx d i == 0 || decide (12 < wfIdx d i) else wfIdx d i != 0) ||
  decide (64 < wfLo d n) ||
  (List.range 8).any (fun i => !(wfFlag d i).testBit 7 && decide (w ≤ wfFlag d i % 64)) ||
  decide (w < lo + pw) || pw == 0 || decide (64 < getF (wfd0 d) TR_WFD0.PA_SH + pw)

/-- Is an address not canonical (R320)? -/
def nonCanon (d : Dev) (va : Word) : Bool :=
  let top := wfLo d (wfLevels d)
  let hi := va.toNat >>> top
  if 64 ≤ top then false
  else if isSet (wfd0 d) TR_WFD0.CANON then
    (if va.toNat.testBit (top - 1) then hi != ones (64 - top) else hi != 0)
  else hi != 0

/-! ### A table read -/

/-- What a table read finds: the entry; that it must wait; or a window miss or an uncorrectable error. -/
inductive TRead where
  | val (e : Nat) (d : Dev)
  | wait (d : Dev)
  | fail (d : Dev)

/-- A request of a walk beyond the device. -/
def walkReq (d : Dev) (q i : Nat) (w : Walk) (kind : ReqKind) (a n v : Nat) (t : Target) : Dev :=
  newReq d { cl := 1024 + q, ctx := i, src := .walk q i, kind := kind, da := a, tgt := t, qcache := false, len := n,
             mask := ones n, data := v, stage := .remote, out := 0, status := 0, elem := w.va.toNat }

/-- A table read at a device address (R320): the walk cache, then the table's home point, with no permission check. -/
def tableRead (d : Dev) (q i : Nat) (w : Walk) (a : Nat) : TRead :=
  let n := wfBytes d
  match (getQ d q).wcache.find? (fun e => e.1 == w.asid && e.2.1 == a) with
  | some e => .val e.2.2 d
  | none =>
    if w.bad.contains a then .fail d
    else match Tab.find? w.got a with
      | some e => .val e d
      | none =>
        match resolveWin d a with
        | none => .fail d
        | some (.mgmt o, _) =>
          (match mgmtRead d .surveyor o n with
           | (some v, d) => .val v.toNat d
           | (none, d) => .fail d)
        | some (t, _) =>
          match placeTract d a q false t with
          | .stack k off =>
            let bytes := (List.range n).map (fun j => BitVec.ofNat 8 (homeRead d (a + j) k (off + j) 1).1)
            let bad : Bool := (homeRead d a k off 1).2 || (homeRead d (a + n - 1) k (off + n - 1) 1).2
            let d := homeNote d a k off 1
            if bad then .fail d else .val (ofBytes bytes) d
          | t =>
            if d.reqs.any (fun e => e.2.src == .walk q i) then .wait d else .wait (walkReq d q i w .read a n 0 t)

/-! ### A walk -/

/-- How far a walk comes. -/
inductive WRes where
  | wait (d : Dev)
  | fault (d : Dev) (kind level : Nat)
  | leaf (d : Dev) (pa lo : Nat) (entry a level : Nat) (wr us ex : Bool)

/-- The levels of a walk from level k - 1 down, with the permissions combined so far (R320, R321). -/
def walkLevels (q i : Nat) (w : Walk) : Nat → Dev → Nat → Bool → Bool → Bool → WRes
  | 0, d, _, _, _, _ => .fault d 0x08 0
  | k + 1, d, table, wr, us, ex =>
    let lo := wfLo d k
    let a := (table + wfBytes d * bitsOf w.va.toNat lo (wfIdx d k)) % 2 ^ 64
    match tableRead d q i w a with
    | .wait d => .wait d
    | .fail d => .fault d 0x09 k
    | .val e d =>
      if !flagIn d 0 e true then .fault d 0x01 k
      else
        let wr := wr && flagIn d 1 e true
        let us := us && flagIn d 2 e true
        let ex := ex && !flagIn d 5 e false
        let fr := bitsOf e (getF (wfd0 d) TR_WFD0.PA_LO) (getF (wfd0 d) TR_WFD0.PA_W)
        let pa := (fr * 2 ^ getF (wfd0 d) TR_WFD0.PA_SH + wfPaoff d) % 2 ^ 64
        if k = 0 ∨ flagIn d 6 e false ∨ flagIn d 7 e false then
          if lo ≠ 12 ∧ lo ≠ 21 ∧ lo ≠ 30 then .fault d 0x08 k
          else if pa % 2 ^ lo ≠ 0 then .fault d 0x08 k
          else .leaf d pa lo e a k wr us ex
        else
          let wc := (getQ d q).wcache
          let wc := if wc.any (fun x => x.1 == w.asid && x.2.1 == a) then wc else ((w.asid, a, e) :: wc).take 256
          let d := updQ d q (fun u => { u with wcache := wc })
          walkLevels q i w k d pa wr us ex

/-- The walk of a virtual address (R320). -/
def walkGo (d : Dev) (q i : Nat) (w : Walk) : WRes :=
  let root := rget d (qOff 0 (0x1040 + 8 * w.asid))
  if wfBad d then .fault d 0x08 0xFF
  else if nonCanon d w.va then .fault d 0x07 0xFF
  else if !isSet root TR_ASROOT.VALID then .fault d 0x01 (wfLevels d - 1)
  else walkLevels q i w (wfLevels d) d ((getF root TR_ASROOT.ROOT * 4096 + wfPaoff d) % 2 ^ 64) true true true

/-- The entry's update in the leaf (R322): at a stack's atomic unit at once, or by a message; none: the walk restarts or waits. -/
def leafUpdate (d : Dev) (q i : Nat) (w : Walk) (a e e' : Nat) : Bool × Dev :=
  let n := wfBytes d
  match resolveWin d a with
  | some (.mgmt o, _) => (true, (mgmtWrite d .surveyor o n (BitVec.ofNat 64 e')).2)
  | some (t, _) =>
    (match placeTract d a q true t with
     | .stack k off =>
       (match atomApply d a k off n 1 e' e with
        | (some old, d) => (old == e, d)
        | (none, d) => (false, d))
     | t =>
       if d.reqs.any (fun x => x.2.src == .walk q i) then (false, d)
       else (false, walkReq d q i w (.swap n e) a n e' t))
  | none => (false, d)

/-! ### Its outcome, for those who wait -/

/-- A waiting miss is answered: its unit tries again (R325). -/
def waiterReady (d : Dev) (wt : Waiter) : Dev :=
  match wt.who with
  | .ctx l c =>
    (match (getCtx d l c).wb.bind (·.m) with
     | some y => (match y.st with
       | .walking va _ => if va = wt.va then setSyl d l c 2 .ready y.eff else d
       | _ => d)
     | none => d)
  | .vec l c =>
    let p := (getCtx d l c).vp
    if p.yield = some .walking ∧ p.va = wt.va then updCtx d l c (fun x => { x with vp := { x.vp with yield := some .ready } }) else d
  | _ => d

/-- Does a fetch of a context still want the line of an address that a walk answers? -/
def fetchWants (d : Dev) (l c : Nat) (va : Word) : Bool :=
  match wantCode d l c with
  | some (a, md) => (match fetchWords d l md 5 a [] with | .walk v => v == va | _ => false)
  | none => false

/-- The unit that a copy needs a walk for: its address and class. -/
def copyNeed (d : Dev) (l id : Nat) (cp : Copy) : Option (Word × Nat) :=
  if !cp.active ∨ cp.park.isSome ∨ cp.fail.isSome ∨ cp.done ∨ (copyOut d l id).isSome then none
  else match copyNext cp with
    | none => none
    | some u =>
      let need (a : Word) (k : AccKind) : Option (Word × Nat) :=
        match (accessQ d l (copyMd cp) a k).1 with | .walk => some (a, k.code) | _ => none
      if cpKind cp ≠ 1 ∧ !cpDstM cp ∧ (need u.dst .wr).isSome then need u.dst .wr
      else if cpKind cp = 2 ∨ cpSrcM cp ∨ cp.pass = 1 then none else need u.src .rd

/-- A waiting miss whose walk faulted (R330, R331): the item parks on a record; a CMO skips the page (R311); a prefetch is
dropped (R334). -/
def waiterFault (d : Dev) (asid kind level : Nat) (wt : Waiter) : Dev :=
  match wt.who with
  | .ctx l c =>
    (match (getCtx d l c).wb.bind (·.m) with
     | some y => (match y.st with
       | .walking va acc =>
         if va ≠ wt.va then d
         else if majorOf y.word = 0x24 then
           setSyl (cmoSkip d l) l c 2 .ready [.cmoAt (cmoPos y + (4096 - va.toNat % 4096))]
         else faultCtx d l c va kind acc level asid 0 false
       | _ => d)
     | none => d)
  | .fetch l c => if fetchWants d l c wt.va then faultCtx d l c wt.va kind 2 level asid 0 false else d
  | .vec l c =>
    let p := (getCtx d l c).vp
    if p.yield = some .walking ∧ p.va = wt.va then
      updCtx d l c (fun x => { x with vp := { x.vp with yield := some (.fault kind level 0) } }) else d
  | .copy l id =>
    (match Tab.find? (getCl d l).copies id with
     | some cp => if copyNeed d l id cp = some (wt.va, wt.acc) then faultCopy d l id wt.va kind wt.acc level asid 0 else d
     | none => d)
  | .quiet _ _ => d

/-- The cluster of a waiter. -/
def waiterCl (w : Waiter) : Nat :=
  match w.who with | .ctx l _ => l | .fetch l _ => l | .vec l _ => l | .copy l _ => l | .quiet l _ => l

/-- A walk is over: it is counted and its walker frees; writes of the format that waited may take effect (R325, R327). -/
def walkOver (d : Dev) (q i : Nat) : Dev :=
  let d := rinc d (qOff q 0x1200) TR_WALKSTAT.WALKS
  wfdSettle (refreshBusy (updQ d q (fun u => { u with walks := Tab.erase u.walks i })) q)

/-- A walk ended in a fault: those of its class fault; a permission fault leaves the others to try again (R321). -/
def walkFaulted (d : Dev) (q i : Nat) (w : Walk) (kind level : Nat) : Dev :=
  let d := walkOver d q i
  w.who.foldl (fun d wt =>
    if kind = 1 ∨ 7 ≤ kind ∨ (wt.acc = w.acc ∧ wt.user = w.user) then waiterFault d w.asid kind level wt
    else waiterReady d wt) d

/-- A walk ended in a translation: the TLBs take it, and its waiters try again (R323, R325). -/
def walkFilled (d : Dev) (q i : Nat) (w : Walk) (pa lo : Nat) (wr us ex dirty : Bool) : Dev :=
  let e : Tlb := { asid := w.asid, vpn := w.va.toNat >>> lo, frame := pa, lg := lo, wr := wr, us := us, ex := ex, dirty := dirty }
  let d := quarterTlb (walkOver d q i) q e
  w.who.foldl (fun d wt => waiterReady (clusterTlb d (waiterCl wt) e) wt) d

/-- The answers from beyond the device that have come for a walk; a compare that failed restarts it (R322). -/
def walkTake (d : Dev) (q i : Nat) (w : Walk) : Dev × Walk :=
  let rs := d.reqs.filter (fun e => e.2.src == .walk q i && e.2.stage == .done)
  rs.foldl (fun p e =>
    let d := dropReq p.1 e.1
    let w := p.2
    let w := if e.2.status ≠ 0 then { w with bad := w.bad ++ [e.2.da] }
      else match e.2.kind with
        | .swap n cmp =>
          if e.2.out % 2 ^ (8 * n) = cmp then { w with got := Tab.insert w.got e.2.da e.2.data } else { w with got := [], bad := [] }
        | _ => { w with got := Tab.insert w.got e.2.da e.2.out }
    (updQ d q (fun u => { u with walks := Tab.insert u.walks i w }), w)) (d, w)

/-- WALK_COMPLETE: the walk of walker `i` of a quarter runs to its end, or as far as the answers from beyond the device let it
(R320 to R323). -/
def walkComplete (q i : Nat) (d : Dev) : Dev :=
  match Tab.find? (getQ d q).walks i with
  | none => d
  | some w =>
    let p := walkTake d q i w
    let w := p.2
    match walkGo p.1 q i w with
    | .wait d => d
    | .fault d kind level => walkFaulted d q i w kind level
    | .leaf d pa lo e a level wr us ex =>
      if w.acc = 1 ∧ !wr then walkFaulted d q i w 0x02 level
      else if w.user ∧ !us then walkFaulted d q i w 0x03 level
      else if w.acc = 2 ∧ !ex then walkFaulted d q i w 0x04 level
      else
        let acc := flagIn d 3 e true
        let dirt := flagIn d 4 e true
        if acc ∧ (w.acc ≠ 1 ∨ dirt) then
          walkFilled d q i w pa lo wr us ex dirt
        else if isSet (wfd0 d) TR_WFD0.ADMODE then walkFaulted d q i w 0x05 level
        else
          let e1 := if acc then e else flagSet d 3 e
          let e2 := if w.acc = 1 ∧ !dirt then flagSet d 4 e1 else e1
          let r := leafUpdate d q i w a e e2
          if r.1 then walkFilled r.2 q i w pa lo wr us ex (flagIn d 4 e2 true) else r.2

/-! ### Misses and walkers (R325) -/

/-- The miss of an item: who waits, in which space. -/
def itemNeed (d : Dev) (l : Nat) (item : Item) : Option (Waiter × Nat) :=
  match item with
  | .scalar c =>
    (match (getCtx d l c).wb with
     | some b => (match b.m with
       | some y => (match y.st with
         | .walking va acc => some (⟨.ctx l c, va, acc, b.md.plev == 0⟩, b.md.asid)
         | _ => none)
       | none => none)
     | none => none)
  | .fetch c =>
    (match wantCode d l c with
     | some (a, md) => (match fetchWords d l md 5 a [] with
       | .walk va => some (⟨.fetch l c, va, 2, md.plev == 0⟩, md.asid)
       | _ => none)
     | none => none)
  | .vector c =>
    let x := getCtx d l c
    (match x.vp.yield, x.vq with
     | some .walking, o :: _ => some (⟨.vec l c, x.vp.va, x.vp.acc, o.md.plev == 0⟩, o.md.asid)
     | _, _ => none)
  | .copy id =>
    (match Tab.find? (getCl d l).copies id with
     | some cp => (copyNeed d l id cp).map (fun p => (⟨.copy l id, p.1, p.2, cp.plev == 0⟩, cp.asid))
     | none => none)

/-- Does an item's miss wait already? -/
def alreadyWaits (u : Quarter) (wt : Waiter) : Bool :=
  u.walks.any (fun e => e.2.who.contains wt) || u.missq.any (fun w => w.who.contains wt)

/-- The access class of a code. -/
def accOf (n : Nat) : AccKind := if n = 0 then .rd else if n = 1 then .wr else .fe

/-- TLB_MISS: an item's miss finds the quarter TLB filled meanwhile, joins a walk of the same page, or waits in the queue of 512;
it is held while the queue is full, or a write of the format waits (R324, R325, R327). -/
def tlbMiss (l : Nat) (item : Item) (d : Dev) : Dev :=
  match itemNeed d l item with
  | none => d
  | some (wt, asid) =>
    let q := quarterOf d l
    let u := getQ d q
    if alreadyWaits u wt ∨ d.wfdPend ≠ [] then d
    else match quarterHit d q asid wt.va wt.user (accOf wt.acc) with
      | some e => waiterReady (clusterTlb d l e) wt
      | none =>
        match List.find? (fun e : Nat × Walk => e.2.asid == asid && e.2.va.toNat / 4096 == wt.va.toNat / 4096) u.walks with
        | some (i, w) => updQ d q (fun u => { u with walks := Tab.insert u.walks i { w with who := w.who ++ [wt] } })
        | none =>
          if 512 ≤ u.missq.length then d
          else updQ d q (fun u => { u with missq := u.missq ++
            [{ asid := asid, va := wt.va, acc := wt.acc, user := wt.user, who := [wt], got := [], bad := [] }] })

/-- WALK_START: a free walker takes the oldest miss (R325). -/
def walkStart (q : Nat) (d : Dev) : Dev :=
  let u := getQ d q
  match u.missq, findUpto 16 (fun i => (Tab.find? u.walks i).isNone) with
  | w :: r, some i =>
    if d.wfdPend ≠ [] then d
    else refreshBusy (updQ d q (fun u => { u with missq := r, walks := Tab.insert u.walks i w })) q
  | _, _ => d

/-! ### Fault records (R330) -/

/-- The bytes of a fault record (R330). -/
def recBytes (tag : Nat) (r : FRec) : List Byte :=
  toBytes 8 r.va.toNat ++ toBytes 2 tag ++ toBytes 1 r.kind ++ toBytes 1 r.access ++ toBytes 1 r.level ++ toBytes 1 r.asid ++
    toBytes 2 (min r.waiters 0xFFFF) ++ toBytes 8 r.dev.toNat ++ toBytes 2 r.first ++ toBytes 6 0

/-- FAULT_RECORD_SEND: a record goes to the host once, while a session is open (R330); the twin that keeps silent gives it to the
face (R437). -/
def recordSend (q i : Nat) (d : Dev) : Dev :=
  match Tab.find? (getQ d q).recs i with
  | none => d
  | some r =>
    let mark (d : Dev) : Dev := updQ d q (fun u => { u with recs := Tab.insert u.recs i { r with sent := true } })
    if r.sent then d
    else if silent d then mark (mirror d (mkMsg d 3 0x26 (landId d) 0 0 (recBytes (1024 * q + i) r)) 0)
    else if !hostReachable d then d
    else mark (sendUp d 0x26 0 0 (recBytes (1024 * q + i) r))

/-- The park of an item that waits for a record, if it still waits. -/
def waitingPark (d : Dev) (w : WalkFor) : Option (Park × Nat × Nat) :=
  match w with
  | .ctx l c =>
    (match (getCtx d l c).park with
     | some p => if p.tag.isNone then some (p, (getCtx d l c).cur.asid, firstCtx l c) else none
     | none => none)
  | .copy l id =>
    (match Tab.find? (getCl d l).copies id with
     | some cp => (match cp.park with
       | some p => if p.tag.isNone then some (p, cp.asid, firstCopy l cp.ctx) else none
       | none => none)
     | none => none)
  | _ => none

/-- FAULT_RECORD_FREE_WAIT: the oldest item that waits for a record takes one that has become free (R330). -/
def recordFreeWait (q : Nat) (d : Dev) : Dev :=
  match (getQ d q).recWait with
  | [] => d
  | w :: r =>
    let d1 := updQ d q (fun u => { u with recWait := r })
    match waitingPark d w with
    | none => d1
    | some (p, asid, first) =>
      match joinRecord d1 q p.fault.tval p.kind p.access p.level asid p.dev first with
      | none => d
      | some (i, d) =>
        let p := { p with tag := some (1024 * q + i) }
        match w with
        | .ctx l c => updCtx d l c (fun x => { x with park := some p })
        | .copy l id =>
          (match Tab.find? (getCl d l).copies id with
           | some cp => setCopy d l id { cp with park := some p }
           | none => d)
        | _ => d

/-! ### The end of an invalidation (R326) -/

/-- Is an access on its way that an invalidation waits for: neither a prefetch nor a walk's? -/
def accessesOut (d : Dev) : Bool :=
  d.reqs.any (fun e => e.2.stage != .done && (match e.2.src with | .prefetch _ => false | .walk _ _ => false | _ => true))

/-- INVALIDATION_COMPLETE: no access made before is on its way, what clusters hold dirty goes to its home point, BUSY clears and
DONE advances. -/
def invalidationComplete (d : Dev) : Dev :=
  if !rbit d invStat TR_INVSTAT.BUSY then d
  else if accessesOut d then d
  else
    let d := (Tab.keys d.cl).foldl cleanCluster d
    invDone (rsetB d invStat TR_INVSTAT.BUSY false)

/-! ### The meanings -/

/-- TLB_MISS. -/
def execTlbMiss (cl : Nat) (item : Item) (s : State) : Out := s.upd (tlbMiss cl item)
/-- WALK_START. -/
def execWalkStart (q : Nat) (s : State) : Out := s.upd (walkStart q)
/-- WALK_COMPLETE. -/
def execWalkComplete (q i : Nat) (s : State) : Out := s.upd (walkComplete q i)
/-- FAULT_RECORD_SEND. -/
def execFaultRecordSend (q i : Nat) (s : State) : Out := s.upd (recordSend q i)
/-- FAULT_RECORD_FREE_WAIT. -/
def execFaultRecordFreeWait (q : Nat) (s : State) : Out := s.upd (recordFreeWait q)
/-- INVALIDATION_COMPLETE. -/
def execInvalidationComplete (s : State) : Out := s.upd invalidationComplete

end Sys2Proof.Machine
end

