-- ==== Sys2Proof/Machine/Twin.lean ====
section
/-!
DEFINITION. Messages of the twin (spec/20 R430 to R444) and Allotment mode (R445 to R448).
-/
namespace Sys2Proof.Machine

/-- The next message of the twin channel of an opcode. -/
def twinMsg (d : Dev) (op : Nat) (f : Msg → Dev → Dev) : Dev :=
  match receive d (fun m => m.vc == 4 && m.op == op && twinLenOk m && m.src == d.plat.twinId) with
  | (some m, d) => f m d
  | (none, d) => d

/-! ### Alive, or leaving (R441, R442) -/

/-- BEAT taken: the twin's state, and whether its plat is SHORT. A twin brought up to date by a rejoin pairs when the survivor has (R444). -/
def beatTaken (m : Msg) (d : Dev) : Dev :=
  updLv d (fun v => { v with farState := fieldAt m.data 4 1, farShort := (fieldAt m.data 5 1).testBit 0 })

/-- LEAVE taken: the other twin is alone (R442, R443). -/
def leaveTaken (_ : Msg) (d : Dev) : Dev :=
  let d := updLv d (fun v => { v with farState := 4 })
  if paired d then enterAlone d else d

/-! ### Mirrored messages (R433, R434, R437) -/

/-- The held request that a mirrored response completes. -/
def keyReq (d : Dev) (key : Nat) : Option Nat :=
  (List.find? (fun e : Nat × Req => e.2.stage == .remote && e.2.key == key) d.reqs).map (·.1)

/-- A fault record of the twin joins the face's own (R437). -/
def twinFault (d : Dev) (bs : List Byte) : Dev :=
  let q := fieldAt bs 8 2 / 1024 % 4
  let va : Word := BitVec.ofNat 64 (fieldAt bs 0 8)
  match joinRecord d q va (fieldAt bs 10 1) (fieldAt bs 11 1) (fieldAt bs 12 1) (fieldAt bs 13 1) (BitVec.ofNat 64 (fieldAt bs 16 8))
      (fieldAt bs 24 2) with
  | some (_, d) => d
  | none => d

/-- A mirrored message acted on: a response completes the request held under its key or is kept for it; any other goes in as if it had
come from outside. -/
def mirrorActs (d : Dev) (key : Nat) (m : Msg) : Dev :=
  if isResponse m then
    match keyReq d key with
    | some id => finishReq d id (answerOf m).1 (answerOf m).2
    | none => { d with mirrored := d.mirrored ++ [(key, m)] }
  else if m.vc = 3 ∧ m.op = 0x26 then twinFault d m.data
  else { d with inbox := d.inbox ++ [(100, m)] }

/-- MIRROR and its MIRRORD taken together; a response waits in its buffer while 4,096 are kept. -/
def mirrorTaken (d : Dev) : Dev :=
  let tw (op : Nat) (m : Msg) : Bool := m.vc == 4 && m.op == op && twinLenOk m && m.src == d.plat.twinId
  match receive d (tw 3) with
  | (some h, d1) =>
    (match receive d1 (tw 4) with
     | (some b, d2) =>
       let m := msgOf (ofBytes h.data) b.data
       if isResponse m ∧ (keyReq d2 h.addr).isNone ∧ 4096 ≤ d2.mirrored.length then d else mirrorActs d2 h.addr m
     | (none, _) => d)
  | (none, _) => d

/-- CONFIRM taken: the face has written the slot; events up to it need no rewriting (R413). -/
def confirmTaken (m : Msg) (d : Dev) : Dev :=
  let slot := fieldAt m.data 4 4
  updRing d (fieldAt m.data 0 1 % 16) (fun r =>
    if r.unconf.any (fun u => u.1 == slot) then { r with unconf := (r.unconf.dropWhile (fun u => u.1 != slot)).drop 1 } else r)

/-- DIGEST taken (R439). -/
def digestTaken (m : Msg) (d : Dev) : Dev :=
  digCompare (updLv d (fun v => { v with theirs := some (fieldAt m.data 0 8, fieldAt m.data 8 8) }))

/-- SEED taken: seeds for consecutive logical clusters (R436). -/
def seedTaken (m : Msg) (d : Dev) : Dev :=
  (List.range (m.data.length / 8)).foldl (fun d i =>
    rset d (clOff (m.addr + i) 0x70) (srValue (BitVec.ofNat 64 (fieldAt m.data (8 * i) 8)))) d

/-! ### Tract actions -/

/-- The bytes of `n` bytes of stack memory copied to another place. -/
def copyMem (d : Dev) (k1 o1 k2 o2 n : Nat) : Dev :=
  let a := memKey k1 o1
  let b := memKey k2 o2
  let src := d.mem.filter (fun e => decide (a ≤ e.1 ∧ e.1 < a + n))
  let bad := d.badMem.filter (fun e => decide (a ≤ 64 * e.1 ∧ 64 * e.1 < a + n))
  let z := zeroMem d k2 o2 n
  { z with mem := src.foldl (fun m e => Tab.set 0 m (e.1 - a + b) e.2) z.mem,
           badMem := bad.foldl (fun m e => Tab.insert m ((64 * e.1 - a + b) / 64) e.2) z.badMem }

/-- A tract gains a replica on a stack, where a frame is free there (R335). -/
def addReplica (d : Dev) (t k : Nat) : Option Dev :=
  (freeFrame d k).map (fun f =>
    let lo := t * tractLen
    let d := qcLeave d lo (lo + tractLen) true
    let ps := pieces d lo tractLen
    let d := ((List.range 512).zip ps).foldl (fun d p => copyMem d p.2.1 p.2.2 k (f + 4096 * p.1) 4096) d
    updTract d t (fun x => { x with repl := x.repl ++ [(k, f)] }))

/-- A tract loses its replica on a stack; lines that reads through it have filled go with it. -/
def dropReplica (d : Dev) (t k : Nat) : Dev :=
  updTract (qcLeave d (t * tractLen) ((t + 1) * tractLen) true) t (fun x => { x with repl := x.repl.filter (fun p => p.1 != k) })

/-- A tract action: 1 move, 0x81 replica gained, 0x82 replica lost; none where no frame is free. -/
def tractAct (d : Dev) (op t k : Nat) : Option Dev :=
  match op with
  | 1 => startMove d t k
  | 0x81 => addReplica d t k
  | 0x82 => some (dropReplica d t k)
  | _ => none

/-- A tract action as PLACE carries it: the tract command of R337, OP 0x81 and 0x82 being the model's own for replicas, for which the spec
gives no command. -/
def placeAct (op t k : Nat) : List Byte :=
  toBytes 8 (t * tractLen) ++ toBytes 8 tractLen ++ toBytes 1 op ++ toBytes 2 0 ++ toBytes 1 k ++ toBytes 12 0

/-- PLACE taken: the face's tract action, or its cluster choice, kept for the START it names (R448). -/
def placeTaken (m : Msg) (d : Dev) : Dev :=
  let op := fieldAt m.data 16 1
  if op = 0xFF then { d with mirrored := d.mirrored ++ [(2 ^ 60, m)] }
  else (tractAct d op (fieldAt m.data 0 8 / tractLen) (fieldAt m.data 19 1)).getD d

/-! ### Allotment (R445, R446) -/

/-- Free frames of a stack. -/
def freeCount (d : Dev) (k : Nat) : Nat :=
  (((List.range (stackLen d k / tractLen)).map (· * tractLen)).filter (frameFree d k)).length

/-- The stack of a list with the most free frames, the lowest of equals. -/
def mostFree (d : Dev) (ks : List Nat) : Option Nat :=
  ks.foldl (fun b k => match b with | none => some k | some j => if freeCount d j < freeCount d k then some k else b) none

/-- The stacks of a quarter that a tract may move to. -/
def quarterStacks (d : Dev) (t q : Nat) : List Nat := (filterUpto 24 (fun k => k / 6 == q)).filter (mayMove d t)

/-- Accesses of a tract sampled over the last two epochs, by quarter. -/
def recentAcc (d : Dev) (t : Nat) : List Nat :=
  let a := Tab.get [0, 0, 0, 0] d.lv.epochAcc t
  let b := Tab.get [0, 0, 0, 0] d.lv.epochOld t
  List.zipWith (· + ·) a b

/-- Progress of an epoch: the device, and how many actions are left of 64. -/
abbrev Epoch := Dev × Nat

/-- A tract action of the Surveyor: told to the twin first (R448), counted. `keep`: it must leave four free frames. -/
def epochAct (e : Epoch) (op t k : Nat) (keep : Bool) : Epoch :=
  let d := e.1
  if e.2 = 0 ∨ (keep ∧ op ≠ 0x82 ∧ freeCount d k ≤ 4) then e
  else match tractAct (if paired d then sendTwin d 7 0 (placeAct op t k) else d) op t k with
    | some d => (rinc d (suOff 0x1200) SU_ALLOTSTAT.MOVES, e.2 - 1)
    | none => e

/-- Does a stack need to be vacated (rule 1)? -/
def vacating (d : Dev) (k : Nat) : Bool :=
  rgetF d (stkOff k 0x18) MS_STAT.PENDING != 0 || (List.range 16).any (fun c => decide (classThresh d 3 < 2 * classCount d 3 (16 * k + c)))

/-- May rules 2 to 4 touch a tract (R446)? PEER forbids it, and a move within the last 8 epochs. -/
def settled (d : Dev) (t : Nat) : Bool :=
  let x := getTract d t
  !x.hints.testBit 2 && x.moving.isNone && !x.lost &&
  ((x.lastMove == 0 && x.frame.isNone) || decide (8 < (rgetF d (suOff 0x1200) SU_ALLOTSTAT.EPOCH + 65536 - x.lastMove) % 65536))

/-- Rule 1: vacate. -/
def ruleVacate (e : Epoch) (t : Nat) : Epoch :=
  let x := getTract e.1 t
  match x.frame with
  | some (k, _) =>
    if !vacating e.1 k ∨ x.moving.isSome ∨ x.hints.testBit 2 then e
    else
      let ks := (filterUpto 24 (fun j => j != k && mayMove e.1 t j && !vacating e.1 j)).filter (fun j => (freeFrame e.1 j).isSome)
      let c := e.1.choose ks.length
      (match ks[c.1]? with | some j => epochAct (c.2, e.2) 1 t j false | none => e)
  | none => e

/-- The stack on which a tract stands. -/
def standsOn (d : Dev) (t : Nat) : Option Nat := (placeNow d (t * tractLen)).map (·.1)

/-- Rule 2: preference. -/
def rulePref (e : Epoch) (t : Nat) : Epoch :=
  let d := e.1
  match (getTract d t).pref with
  | some p =>
    let ks := (if p / 256 = 0 then [p % 256] else boundStacks d (p % 256)).filter (mayMove d t)
    let on : Bool := match standsOn d t with | some k => ks.contains k | none => true
    if !settled d t ∨ on then e else (match mostFree d ks with | some k => epochAct e 1 t k true | none => e)
  | none => e

/-- Rule 3: locality. -/
def ruleLocal (e : Epoch) (t : Nat) : Epoch :=
  let d := e.1
  let a := recentAcc d t
  match findUpto 4 (fun q => decide (3 * a.sum ≤ 4 * a.getD q 0)), standsOn d t with
  | some q, some k =>
    if a.sum < 256 ∨ !settled d t ∨ k / 6 = q then e
    else (match mostFree d (quarterStacks d t q) with | some j => epochAct e 1 t j true | none => e)
  | _, _ => e

/-- Rule 4: replicas. -/
def ruleRepl (e : Epoch) (t : Nat) : Epoch :=
  (List.range 4).foldl (fun e q =>
    let d := e.1
    let x := getTract d t
    let a := recentAcc d t
    let here := x.repl.find? (fun p => p.1 / 6 == q)
    match here with
    | some (k, _) => if 32 * a.getD q 0 < a.sum then epochAct e 0x82 t k true else e
    | none =>
      if !x.hints.testBit 0 ∨ a.sum = 0 ∨ 8 * a.getD q 0 < a.sum ∨ !settled d t ∨ 3 ≤ x.repl.length ∨
          (standsOn d t).map (· / 6) = some q then e
      else (match mostFree d (quarterStacks d t q) with | some k => epochAct e 0x81 t k true | none => e)) e

/-- Every tract that a rule might touch, ascending: those with a placement of their own, and those accessed. -/
def epochTracts (d : Dev) : List Nat :=
  let ks := Tab.keys d.tracts ++ Tab.keys d.lv.epochAcc ++ Tab.keys d.lv.epochOld
  Tab.keys (ks.foldl (fun (t : Tab Bool) k => Tab.insert t k true) [])

/-- ALLOTMENT_EPOCH: the rules, one after another, at the end of an epoch; in a pair only the face's Surveyor decides (R445, R448). -/
def allotEpoch (d : Dev) : Dev :=
  if !d.plat.allot then d
  else
    let ts := (epochTracts d).filter (tractInWindows d)
    let e := if silent d then (d, 64) else
      [ruleVacate, rulePref, ruleLocal, ruleRepl].foldl (fun e rule => ts.foldl rule e) (d, 64)
    let d := e.1
    let d := ts.foldl (fun d t =>
      let a := Tab.get [0, 0, 0, 0] d.lv.epochAcc t
      let top := (List.range 4).foldl (fun b q => if a.getD b 0 < a.getD q 0 then q else b) 0
      updTract d t (fun x => { x with acc := a.sum, topq := top })) d
    let d := rinc d (suOff 0x1200) SU_ALLOTSTAT.EPOCH
    let d := rsetF d (suOff 0x1200) SU_ALLOTSTAT.REPL ((d.tracts.map (fun e => e.2.repl.length)).sum)
    updLv d (fun v => { v with epochOld := v.epochAcc, epochAcc := [] })

/-! ### Rejoin (R444) -/

/-- The registers that a rejoin carries: TR_, the landing and ring registers, RD_, and CL_SRSTATE. -/
def syncRegs (d : Dev) : List Nat :=
  ((List.range 64).map (fun i => qOff 0 (0x1000 + 8 * i))) ++ ((List.range 256).map (fun i => qOff 0 (0x2000 + 8 * i))) ++
  [landOff 0] ++ ((List.range 128).map (fun i => ringOff 0 (8 * i))) ++ ((List.range 128).map (fun i => rdOff 0 (8 * i))) ++
  (Tab.keys d.plat.siteOf).map (fun l => clOff l 0x70)

/-- Messages of 2,048 bytes that carry the stacks: those of stack `k` and below. -/
def syncChunks (d : Dev) (k : Nat) : Nat := ((List.range k).map (fun j => stackLen d j / 2048)).sum

/-- The placement of a tract as bytes. -/
def tractBytes (t : Nat) (x : Tract) : List Byte :=
  let opt (o : Option (Nat × Nat)) : List Byte := match o with | some (a, b) => toBytes 8 (a + 1) ++ toBytes 8 b | none => toBytes 16 0
  toBytes 8 t ++ opt x.frame ++ toBytes 8 x.hints ++ toBytes 8 (match x.pref with | some p => p + 1 | none => 0) ++
  toBytes 8 ((if x.lost then 1 else 0) + (if x.covered then 2 else 0)) ++ toBytes 8 x.lastMove ++ toBytes 8 x.repl.length ++
  (x.repl.map (fun p => opt (some p))).flatten

/-- The placement that bytes spell. -/
def tractOfBytes (b : List Byte) : Nat × Tract :=
  let opt (o : Nat) : Option (Nat × Nat) := let a := fieldAt b o 8; if a = 0 then none else some (a - 1, fieldAt b (o + 8) 8)
  (fieldAt b 0 8, { Tract.home with
    frame := opt 8, hints := fieldAt b 24 8, pref := (if fieldAt b 32 8 = 0 then none else some (fieldAt b 32 8 - 1)),
    lost := (fieldAt b 40 8).testBit 0, covered := (fieldAt b 40 8).testBit 1, lastMove := fieldAt b 48 8,
    repl := (List.range (fieldAt b 56 8)).filterMap (fun i => opt (64 + 16 * i)) })

/-- The `i`-th SYNC message of a rejoin: the stacks, the registers, the placement, the session's key and each ring's counts. Bytes of a stack
go under its place in the space of stack addresses; the rest under ADDR values of the model's own, for which the spec gives none: 2^56 and
a register's offset, 2^55 for the placement (with no bytes of a tract: none), 2^54 for the session's key, 2^53 and a ring's number. -/
def syncItem (d : Dev) (i : Nat) : Option (Nat × List Byte) :=
  let n0 := syncChunks d 24
  let rs := syncRegs d
  if i < n0 then
    match (List.range 24).find? (fun k => decide (i < syncChunks d (k + 1))) with
    | some k => let o := 2048 * (i - syncChunks d k); some (memKey k o, mbytes d k o 2048)
    | none => none
  else
    let i := i - n0
    if i < rs.length then let o := rs.getD i 0; some (2 ^ 56 + o, toBytes 8 (rget d o).toNat)
    else
      let i := i - rs.length
      if i = 0 then some (2 ^ 55, toBytes 1 0)
      else if i ≤ d.tracts.length then (d.tracts[i - 1]?).map (fun e => (2 ^ 55, tractBytes e.1 e.2))
      else
        let i := i - 1 - d.tracts.length
        if i = 0 then some (2 ^ 54, toBytes 32 (ofBytes d.sess.key))
        else if i ≤ 16 then some (2 ^ 53 + (i - 1), toBytes 8 (getRing d (i - 1)).next ++ toBytes 8 (getRing d (i - 1)).pass)
        else none

/-- SYNC sent: the survivor cleans what stands in its caches, and sends the next part. -/
def syncSend (d : Dev) : Dev :=
  let d := if d.lv.syncPos ≠ 0 then d else
    let d := (Tab.keys d.plat.siteOf).foldl (fun d l => cleanCluster d l) d
    (List.range 4).foldl (fun d q => (getQ d q).qc.foldl (fun d e => qcCleanLine d e.2) d) d
  match syncItem d d.lv.syncPos with
  | some (a, bs) => updLv (sendTwin d 10 a bs) (fun v => { v with syncPos := v.syncPos + 1 })
  | none => d

/-- Every copy of stack memory that a device's caches hold goes: the stacks are being written anew. -/
def forgetCaches (d : Dev) : Dev :=
  let d := (Tab.keys d.cl).foldl (fun d l =>
    rsetF (updCl d l (fun k => { k with cc := [], l1 := [], side := [], ic := [] })) (clOff l 0x708) CL_PFCTL.LINES 0) d
  (List.range 4).foldl (fun d q => updQ d q (fun u => { u with qc := [] })) d

/-- SYNC taken by the twin that rejoins: its stack bytes replace what the dies and the caches held. -/
def syncTaken (m : Msg) (d : Dev) : Dev :=
  let a := m.addr
  if lvState d ≠ 4 then d
  else if 2 ^ 56 ≤ a then rset d (a - 2 ^ 56) (BitVec.ofNat 64 (ofBytes m.data))
  else if a = 2 ^ 55 then
    if m.data.length < 64 then { d with tracts := [] }
    else let x := tractOfBytes m.data; { d with tracts := Tab.set Tract.home d.tracts x.1 x.2 }
  else if a = 2 ^ 54 then { d with sess := { d.sess with key := m.data } }
  else if 2 ^ 53 ≤ a then updRing d ((a - 2 ^ 53) % 16) (fun r => { r with next := fieldAt m.data 0 8, pass := fieldAt m.data 8 8 })
  else
    let k := a / 0x10_0000_0000
    let o := a % 0x10_0000_0000
    let n := m.data.length
    let d := forgetCaches d
    mwriteBytes { d with badMem := Tab.drop d.badMem (fun x => decide (memKey k o ≤ 64 * x ∧ 64 * x + 64 ≤ memKey k o + n)) } k o m.data

/-- SYNC: on the survivor of a rejoin the next part goes out, on its twin one is taken. -/
def sync (d : Dev) : Dev := if rbit d lvOff SU_LVSTAT.REJOIN ∧ lvState d = 3 then syncSend d else twinMsg d 10 syncTaken

/-- REJOIN_COMPLETE: all has been sent: the survivor pairs, tells its twin and the host; the twin pairs once it has heard (R444). -/
def rejoinComplete (d : Dev) : Dev :=
  if lvState d = 3 then
    if !rbit d lvOff SU_LVSTAT.REJOIN ∨ (syncItem d d.lv.syncPos).isSome ∨ d.lv.syncPos = 0 then d
    else sendLog (beatTimer (rsetB (setLv d 2) lvOff SU_LVSTAT.REJOIN false)) 3 0
  else if lvState d = 4 ∧ d.lv.farState = 2 then setFace (setLv d 2) false
  else d

/-! ### The meanings -/

/-- HELLO. -/
def execHello (s : State) : Out := s.upd (fun d => twinMsg d 1 (fun m d => helloTaken d m))
/-- BEAT. -/
def execBeat (s : State) : Out := s.upd (fun d => twinMsg d 2 beatTaken)
/-- MIRROR. -/
def execMirror (s : State) : Out := s.upd mirrorTaken
/-- CONFIRM. -/
def execConfirm (s : State) : Out := s.upd (fun d => twinMsg d 5 confirmTaken)
/-- DIGEST. -/
def execDigest (s : State) : Out := s.upd (fun d => twinMsg d 6 digestTaken)
/-- PLACE. -/
def execPlace (s : State) : Out := s.upd (fun d => twinMsg d 7 placeTaken)
/-- SEED. -/
def execSeed (s : State) : Out := s.upd (fun d => twinMsg d 8 seedTaken)
/-- LEAVE. -/
def execLeave (s : State) : Out := s.upd (fun d => twinMsg d 9 leaveTaken)
/-- SYNC. -/
def execSync (s : State) : Out := s.upd sync
/-- REJOIN_COMPLETE. -/
def execRejoinComplete (s : State) : Out := s.upd rejoinComplete
/-- ALLOTMENT_EPOCH. -/
def execAllotmentEpoch (s : State) : Out := s.upd allotEpoch

end Sys2Proof.Machine
end

