-- ==== Sys2Proof/Machine/Dispatch.lean ====
section
/-!
DEFINITION. What each command does: one arm for each constructor, one direct call of its meaning.
-/
namespace Sys2Proof.Machine

/-- The effect of a command on everything but the queue. -/
def exec (i : Instr) (s : State) : Host.Outcome State Fault Refusal :=
  match i with
  | .referenceClockLoss => Sys2Proof.Machine.execReferenceClockLoss s
  | .referenceClockRestored => Sys2Proof.Machine.execReferenceClockRestored s
  | .vcoreUndervoltage q mv => Sys2Proof.Machine.execVcoreUndervoltage q mv s
  | .vcoreRecovered q mv => Sys2Proof.Machine.execVcoreRecovered q mv s
  | .qtRateUpdate q rate mv tj => Sys2Proof.Machine.execQtRateUpdate q rate mv tj s
  | .registerWrite ag off size v => Sys2Proof.Machine.execRegisterWrite ag off size v s
  | .verifyStagingBuffer ag => Sys2Proof.Machine.execVerifyStagingBuffer ag s
  | .replatFromBuffer ag => Sys2Proof.Machine.execReplatFromBuffer ag s
  | .replatFromFlash ag slot => Sys2Proof.Machine.execReplatFromFlash ag slot s
  | .replatQuiesced => Sys2Proof.Machine.execReplatQuiesced s
  | .replatQuiesceTimeout => Sys2Proof.Machine.execReplatQuiesceTimeout s
  | .bundleIssue cl => Sys2Proof.Machine.execBundleIssue cl s
  | .packedIssue cl groups => Sys2Proof.Machine.execPackedIssue cl groups s
  | .bundleRetire cl ctx => Sys2Proof.Machine.execBundleRetire cl ctx s
  | .alu cl ctx slot => Sys2Proof.Machine.execAlu cl ctx slot s
  | .adds cl ctx slot => Sys2Proof.Machine.execAdds cl ctx slot s
  | .mul cl ctx => Sys2Proof.Machine.execMul cl ctx s
  | .div cl ctx => Sys2Proof.Machine.execDiv cl ctx s
  | .divideComplete cl => Sys2Proof.Machine.execDivideComplete cl s
  | .fadd cl ctx => Sys2Proof.Machine.execFadd cl ctx s
  | .fdiv cl ctx => Sys2Proof.Machine.execFdiv cl ctx s
  | .fminimum cl ctx => Sys2Proof.Machine.execFminimum cl ctx s
  | .fcmp cl ctx => Sys2Proof.Machine.execFcmp cl ctx s
  | .fclass cl ctx => Sys2Proof.Machine.execFclass cl ctx s
  | .fcvt cl ctx => Sys2Proof.Machine.execFcvt cl ctx s
  | .load cl ctx => Sys2Proof.Machine.execLoad cl ctx s
  | .scalarLoadReturn cl ctx => Sys2Proof.Machine.execScalarLoadReturn cl ctx s
  | .store cl ctx => Sys2Proof.Machine.execStore cl ctx s
  | .amo cl ctx => Sys2Proof.Machine.execAmo cl ctx s
  | .atomicOldValueReturn cl ctx => Sys2Proof.Machine.execAtomicOldValueReturn cl ctx s
  | .getc cl ctx => Sys2Proof.Machine.execGetc cl ctx s
  | .setc cl ctx => Sys2Proof.Machine.execSetc cl ctx s
  | .sevt cl ctx => Sys2Proof.Machine.execSevt cl ctx s
  | .eventDelivery e => Sys2Proof.Machine.execEventDelivery e s
  | .wevt cl ctx => Sys2Proof.Machine.execWevt cl ctx s
  | .wtal cl ctx => Sys2Proof.Machine.execWtal cl ctx s
  | .wtalTallyReached cl ctx => Sys2Proof.Machine.execWtalTallyReached cl ctx s
  | .br cl ctx => Sys2Proof.Machine.execBr cl ctx s
  | .bc cl ctx => Sys2Proof.Machine.execBc cl ctx s
  | .jr cl ctx => Sys2Proof.Machine.execJr cl ctx s
  | .loop cl ctx => Sys2Proof.Machine.execLoop cl ctx s
  | .lbrk cl ctx => Sys2Proof.Machine.execLbrk cl ctx s
  | .fenceI cl ctx => Sys2Proof.Machine.execFenceI cl ctx s
  | .instructionCacheMissFill cl ctx => Sys2Proof.Machine.execInstructionCacheMissFill cl ctx s
  | .vsetvl cl ctx => Sys2Proof.Machine.execVsetvl cl ctx s
  | .fence cl ctx => Sys2Proof.Machine.execFence cl ctx s
  | .fenceComplete cl ctx => Sys2Proof.Machine.execFenceComplete cl ctx s
  | .copy cl ctx => Sys2Proof.Machine.execCopy cl ctx s
  | .copyStart cl => Sys2Proof.Machine.execCopyStart cl s
  | .copyFinish cl id => Sys2Proof.Machine.execCopyFinish cl id s
  | .copyFail cl id => Sys2Proof.Machine.execCopyFail cl id s
  | .warr cl ctx => Sys2Proof.Machine.execWarr cl ctx s
  | .pref cl ctx => Sys2Proof.Machine.execPref cl ctx s
  | .cmo cl ctx => Sys2Proof.Machine.execCmo cl ctx s
  | .cmosw cl ctx => Sys2Proof.Machine.execCmosw cl ctx s
  | .maintenanceComplete cl ctx => Sys2Proof.Machine.execMaintenanceComplete cl ctx s
  | .threadAlu cl n => Sys2Proof.Machine.execThreadAlu cl n s
  | .threadLoad cl n => Sys2Proof.Machine.execThreadLoad cl n s
  | .threadAtomic cl n => Sys2Proof.Machine.execThreadAtomic cl n s
  | .tbc cl => Sys2Proof.Machine.execTbc cl s
  | .threadBranchResolve cl ctx => Sys2Proof.Machine.execThreadBranchResolve cl ctx s
  | .texit cl ctx => Sys2Proof.Machine.execTexit cl ctx s
  | .gyield cl ctx => Sys2Proof.Machine.execGyield cl ctx s
  | .gvote cl ctx => Sys2Proof.Machine.execGvote cl ctx s
  | .gshfl cl ctx => Sys2Proof.Machine.execGshfl cl ctx s
  | .gbar cl ctx => Sys2Proof.Machine.execGbar cl ctx s
  | .gxld cl ctx => Sys2Proof.Machine.execGxld cl ctx s
  | .gxst cl ctx => Sys2Proof.Machine.execGxst cl ctx s
  | .contextStart ag cl mask => Sys2Proof.Machine.execContextStart ag cl mask s
  | .contextStop ag cl mask => Sys2Proof.Machine.execContextStop ag cl mask s
  | .contextEnd cl ctx => Sys2Proof.Machine.execContextEnd cl ctx s
  | .vectorOpStart cl => Sys2Proof.Machine.execVectorOpStart cl s
  | .vadd cl n => Sys2Proof.Machine.execVadd cl n s
  | .vfadd cl n => Sys2Proof.Machine.execVfadd cl n s
  | .vsadd cl n => Sys2Proof.Machine.execVsadd cl n s
  | .vcmp cl n => Sys2Proof.Machine.execVcmp cl n s
  | .vmand cl => Sys2Proof.Machine.execVmand cl s
  | .vcvt cl n => Sys2Proof.Machine.execVcvt cl n s
  | .vpack cl => Sys2Proof.Machine.execVpack cl s
  | .vunpack cl => Sys2Proof.Machine.execVunpack cl s
  | .vmpop cl => Sys2Proof.Machine.execVmpop cl s
  | .vredsum cl => Sys2Proof.Machine.execVredsum cl s
  | .vfredosum cl => Sys2Proof.Machine.execVfredosum cl s
  | .summaryArrival cl => Sys2Proof.Machine.execSummaryArrival cl s
  | .vcompress cl => Sys2Proof.Machine.execVcompress cl s
  | .vexpand cl => Sys2Proof.Machine.execVexpand cl s
  | .vperm cl => Sys2Proof.Machine.execVperm cl s
  | .vmatch cl => Sys2Proof.Machine.execVmatch cl s
  | .vmerge cl => Sys2Proof.Machine.execVmerge cl s
  | .vld cl n => Sys2Proof.Machine.execVld cl n s
  | .vlseg cl n => Sys2Proof.Machine.execVlseg cl n s
  | .vldx cl n => Sys2Proof.Machine.execVldx cl n s
  | .vstx cl n => Sys2Proof.Machine.execVstx cl n s
  | .vstxr cl n => Sys2Proof.Machine.execVstxr cl n s
  | .loadGroupArrival cl ctx g => Sys2Proof.Machine.execLoadGroupArrival cl ctx g s
  | .vectorWalkResume cl => Sys2Proof.Machine.execVectorWalkResume cl s
  | .matrixOpStart cl => Sys2Proof.Machine.execMatrixOpStart cl s
  | .xopa cl n => Sys2Proof.Machine.execXopa cl n s
  | .tzero cl => Sys2Proof.Machine.execTzero cl s
  | .trel cl => Sys2Proof.Machine.execTrel cl s
  | .tld cl n => Sys2Proof.Machine.execTld cl n s
  | .tst cl n => Sys2Proof.Machine.execTst cl n s
  | .tacc cl n => Sys2Proof.Machine.execTacc cl n s
  | .residueMismatch cl ctx unit place again => Sys2Proof.Machine.execResidueMismatch cl ctx unit place again s
  | .sramSingleBitCorrect arr => Sys2Proof.Machine.execSramSingleBitCorrect arr s
  | .sramUncorrectable place => Sys2Proof.Machine.execSramUncorrectable place s
  | .trapEntry cl ctx => Sys2Proof.Machine.execTrapEntry cl ctx s
  | .interruptEntry cl ctx => Sys2Proof.Machine.execInterruptEntry cl ctx s
  | .trap cl ctx => Sys2Proof.Machine.execTrap cl ctx s
  | .tack cl ctx => Sys2Proof.Machine.execTack cl ctx s
  | .tret cl ctx => Sys2Proof.Machine.execTret cl ctx s
  | .ifsave cl ctx => Sys2Proof.Machine.execIfsave cl ctx s
  | .ifload cl ctx => Sys2Proof.Machine.execIfload cl ctx s
  | .tallyCompareMatch cl ctx => Sys2Proof.Machine.execTallyCompareMatch cl ctx s
  | .clMereResize cl ctx => Sys2Proof.Machine.execClMereResize cl ctx s
  | .clTstateWrite cl ctx => Sys2Proof.Machine.execClTstateWrite cl ctx s
  | .icacheInvall cl ctx => Sys2Proof.Machine.execIcacheInvall cl ctx s
  | .icacheEnableWrite cl ctx => Sys2Proof.Machine.execIcacheEnableWrite cl ctx s
  | .prefetchFill id => Sys2Proof.Machine.execPrefetchFill id s
  | .sideBufferPromote cl da => Sys2Proof.Machine.execSideBufferPromote cl da s
  | .wayPowerDown q w => Sys2Proof.Machine.execWayPowerDown q w s
  | .wayDrainComplete q w => Sys2Proof.Machine.execWayDrainComplete q w s
  | .wayPowerUp q w => Sys2Proof.Machine.execWayPowerUp q w s
  | .tlbMiss cl item => Sys2Proof.Machine.execTlbMiss cl item s
  | .walkStart q => Sys2Proof.Machine.execWalkStart q s
  | .walkComplete q w => Sys2Proof.Machine.execWalkComplete q w s
  | .faultRecordSend q w => Sys2Proof.Machine.execFaultRecordSend q w s
  | .faultRecordFreeWait q => Sys2Proof.Machine.execFaultRecordFreeWait q s
  | .invAllSpaces ag => Sys2Proof.Machine.execInvAllSpaces ag s
  | .invSpace ag asid => Sys2Proof.Machine.execInvSpace ag asid s
  | .invRange ag asid => Sys2Proof.Machine.execInvRange ag asid s
  | .invalidationComplete => Sys2Proof.Machine.execInvalidationComplete s
  | .walkerFormatWrite ag off size v => Sys2Proof.Machine.execWalkerFormatWrite ag off size v s
  | .resumeRetry ag tag => Sys2Proof.Machine.execResumeRetry ag tag s
  | .resumeUnresolved ag tag => Sys2Proof.Machine.execResumeUnresolved ag tag s
  | .migrate => Sys2Proof.Machine.execMigrate s
  | .advise => Sys2Proof.Machine.execAdvise s
  | .tractChunkMove tract => Sys2Proof.Machine.execTractChunkMove tract s
  | .allotmentEpoch => Sys2Proof.Machine.execAllotmentEpoch s
  | .stackRequestAdmit id => Sys2Proof.Machine.execStackRequestAdmit id s
  | .stackRequestComplete id => Sys2Proof.Machine.execStackRequestComplete id s
  | .atomicUnitApply id => Sys2Proof.Machine.execAtomicUnitApply id s
  | .mapout ag k ch => Sys2Proof.Machine.execMapout ag k ch s
  | .restripeChunk k => Sys2Proof.Machine.execRestripeChunk k s
  | .restripeComplete k => Sys2Proof.Machine.execRestripeComplete k s
  | .patrolScrub k => Sys2Proof.Machine.execPatrolScrub k s
  | .stackRefresh k => Sys2Proof.Machine.execStackRefresh k s
  | .refreshRateSample k temp counts => Sys2Proof.Machine.execRefreshRateSample k temp counts s
  | .readTimingRetune k ch => Sys2Proof.Machine.execReadTimingRetune k ch s
  | .selfRefreshEntry k => Sys2Proof.Machine.execSelfRefreshEntry k s
  | .selfRefreshExit k temp fail => Sys2Proof.Machine.execSelfRefreshExit k temp fail s
  | .flitReceive p flit => Sys2Proof.Machine.execFlitReceive p flit s
  | .flitRetryTimeout p => Sys2Proof.Machine.execFlitRetryTimeout p s
  | .messageStart p => Sys2Proof.Machine.execMessageStart p s
  | .messageForward p => Sys2Proof.Machine.execMessageForward p s
  | .read => Sys2Proof.Machine.execRead s
  | .write => Sys2Proof.Machine.execWrite s
  | .atomic young => Sys2Proof.Machine.execAtomic young s
  | .scatred young => Sys2Proof.Machine.execScatred young s
  | .data => Sys2Proof.Machine.execData s
  | .ack => Sys2Proof.Machine.execAck s
  | .old => Sys2Proof.Machine.execOld s
  | .error => Sys2Proof.Machine.execError s
  | .mread => Sys2Proof.Machine.execMread s
  | .mwrite => Sys2Proof.Machine.execMwrite s
  | .mdata => Sys2Proof.Machine.execMdata s
  | .badMessage => Sys2Proof.Machine.execBadMessage s
  | .responseDeadline id => Sys2Proof.Machine.execResponseDeadline id s
  | .channelStuck p vc => Sys2Proof.Machine.execChannelStuck p vc s
  | .linkReset p => Sys2Proof.Machine.execLinkReset p s
  | .linkTrainingComplete p farId farPort farRole => Sys2Proof.Machine.execLinkTrainingComplete p farId farPort farRole s
  | .linkTrainingRetry p => Sys2Proof.Machine.execLinkTrainingRetry p s
  | .openFibreDetect p => Sys2Proof.Machine.execOpenFibreDetect p s
  | .connectorRemoved => Sys2Proof.Machine.execConnectorRemoved s
  | .laserFault p => Sys2Proof.Machine.execLaserFault p s
  | .probeTimer p => Sys2Proof.Machine.execProbeTimer p s
  | .probeLightSeen p => Sys2Proof.Machine.execProbeLightSeen p s
  | .probeLightSteady p => Sys2Proof.Machine.execProbeLightSteady p s
  | .probeLightLost p => Sys2Proof.Machine.execProbeLightLost p s
  | .upwardRelay => Sys2Proof.Machine.execUpwardRelay s
  | .sopen sinceFail twinSc sameKey => Sys2Proof.Machine.execSopen sinceFail twinSc sameKey s
  | .ledgerWriteComplete ok => Sys2Proof.Machine.execLedgerWriteComplete ok s
  | .sprove => Sys2Proof.Machine.execSprove s
  | .sproveTimeout => Sys2Proof.Machine.execSproveTimeout s
  | .sclose => Sys2Proof.Machine.execSclose s
  | .hbSessctlClose ag => Sys2Proof.Machine.execHbSessctlClose ag s
  | .hread => Sys2Proof.Machine.execHread s
  | .hwrite => Sys2Proof.Machine.execHwrite s
  | .hmread => Sys2Proof.Machine.execHmread s
  | .hmwrite => Sys2Proof.Machine.execHmwrite s
  | .doorbell => Sys2Proof.Machine.execDoorbell s
  | .attest => Sys2Proof.Machine.execAttest s
  | .attestReportReady => Sys2Proof.Machine.execAttestReportReady s
  | .hdata => Sys2Proof.Machine.execHdata s
  | .hresp => Sys2Proof.Machine.execHresp s
  | .hostAccessDeadline id => Sys2Proof.Machine.execHostAccessDeadline id s
  | .relaydown => Sys2Proof.Machine.execRelaydown s
  | .ringCommandFetch n => Sys2Proof.Machine.execRingCommandFetch n s
  | .nop n => Sys2Proof.Machine.execNop n s
  | .start n => Sys2Proof.Machine.execStart n s
  | .stop n => Sys2Proof.Machine.execStop n s
  | .event n => Sys2Proof.Machine.execEvent n s
  | .move n => Sys2Proof.Machine.execMove n s
  | .tract n => Sys2Proof.Machine.execTract n s
  | .replat n => Sys2Proof.Machine.execReplat n s
  | .ringFence n => Sys2Proof.Machine.execRingFence n s
  | .commandComplete n k => Sys2Proof.Machine.execCommandComplete n k s
  | .suTractctlGo ag => Sys2Proof.Machine.execSuTractctlGo ag s
  | .rdStart ag r => Sys2Proof.Machine.execRdStart ag r s
  | .rdAbort ag r => Sys2Proof.Machine.execRdAbort ag r s
  | .rdFill ag r v => Sys2Proof.Machine.execRdFill ag r v s
  | .ownShareConverted r => Sys2Proof.Machine.execOwnShareConverted r s
  | .contrib => Sys2Proof.Machine.execContrib s
  | .contribPlace r => Sys2Proof.Machine.execContribPlace r s
  | .result => Sys2Proof.Machine.execResult s
  | .rpull => Sys2Proof.Machine.execRpull s
  | .steprep => Sys2Proof.Machine.execSteprep s
  | .bucketDeadline r b => Sys2Proof.Machine.execBucketDeadline r b s
  | .resultDeadline r => Sys2Proof.Machine.execResultDeadline r s
  | .helloTimer => Sys2Proof.Machine.execHelloTimer s
  | .hello => Sys2Proof.Machine.execHello s
  | .formingTimeout => Sys2Proof.Machine.execFormingTimeout s
  | .beatTimer => Sys2Proof.Machine.execBeatTimer s
  | .beat => Sys2Proof.Machine.execBeat s
  | .twinSilence => Sys2Proof.Machine.execTwinSilence s
  | .twinProbeDeadline => Sys2Proof.Machine.execTwinProbeDeadline s
  | .leave => Sys2Proof.Machine.execLeave s
  | .twinFallOut => Sys2Proof.Machine.execTwinFallOut s
  | .mirror => Sys2Proof.Machine.execMirror s
  | .confirm => Sys2Proof.Machine.execConfirm s
  | .digest => Sys2Proof.Machine.execDigest s
  | .place => Sys2Proof.Machine.execPlace s
  | .seed => Sys2Proof.Machine.execSeed s
  | .sync => Sys2Proof.Machine.execSync s
  | .rejoin ag => Sys2Proof.Machine.execRejoin ag s
  | .rejoinComplete => Sys2Proof.Machine.execRejoinComplete s
  | .digestGo ag => Sys2Proof.Machine.execDigestGo ag s
  | .digestTimeout => Sys2Proof.Machine.execDigestTimeout s
  | .faultEventReport stamp => Sys2Proof.Machine.execFaultEventReport stamp s
  | .ledgerWrite => Sys2Proof.Machine.execLedgerWrite s
  | .flashSectorErase bank => Sys2Proof.Machine.execFlashSectorErase bank s
  | .clearsite => Sys2Proof.Machine.execClearsite s
  | .clearchan => Sys2Proof.Machine.execClearchan s
  | .setowner => Sys2Proof.Machine.execSetowner s
  | .setpass => Sys2Proof.Machine.execSetpass s
  | .setplatkey => Sys2Proof.Machine.execSetplatkey s
  | .clearplatkey => Sys2Proof.Machine.execClearplatkey s
  | .clearway => Sys2Proof.Machine.execClearway s
  | .powerBudgetTick other demand => Sys2Proof.Machine.execPowerBudgetTick other demand s
  | .qvidStep q => Sys2Proof.Machine.execQvidStep q s
  | .ceilingCheck pkg other tj => Sys2Proof.Machine.execCeilingCheck pkg other tj s
  | .throttleStep => Sys2Proof.Machine.execThrottleStep s
  | .thermalTrip => Sys2Proof.Machine.execThermalTrip s
  | .thermalTripClear => Sys2Proof.Machine.execThermalTripClear s
  | .idlePowerDown g => Sys2Proof.Machine.execIdlePowerDown g s
  | .clusterWake cl => Sys2Proof.Machine.execClusterWake cl s
  | .quarterDormantEntry q => Sys2Proof.Machine.execQuarterDormantEntry q s
  | .quarterDormantExit q => Sys2Proof.Machine.execQuarterDormantExit q s
  | .groupUp => Sys2Proof.Machine.execGroupUp s
  | .groupDown => Sys2Proof.Machine.execGroupDown s
  | .standby => Sys2Proof.Machine.execStandby s
  | .wake fails => Sys2Proof.Machine.execWake fails s
  | .powerOnReset => Sys2Proof.Machine.execPowerOnReset s
  | .pinReset => Sys2Proof.Machine.execPinReset s
  | .deviceReset ag => Sys2Proof.Machine.execDeviceReset ag s
  | .quarterReset ag q => Sys2Proof.Machine.execQuarterReset ag q s
  | .quarterResetRelease q => Sys2Proof.Machine.execQuarterResetRelease q s
  | .clusterReset ag cl => Sys2Proof.Machine.execClusterReset ag cl s
  | .boot fails => Sys2Proof.Machine.execBoot fails s
  | .fwErase => Sys2Proof.Machine.execFwErase s
  | .fwWrite => Sys2Proof.Machine.execFwWrite s
  | .fwCommit => Sys2Proof.Machine.execFwCommit s
  | .i3cSetOffset off => Sys2Proof.Machine.execI3cSetOffset off s
  | .i3cRead => Sys2Proof.Machine.execI3cRead s
  | .i3cWrite off v => Sys2Proof.Machine.execI3cWrite off v s
  | .bypass => Sys2Proof.Machine.execBypass s
  | .idcode => Sys2Proof.Machine.execIdcode s
  | .samplePreload pins v => Sys2Proof.Machine.execSamplePreload pins v s
  | .extest pins v => Sys2Proof.Machine.execExtest pins v s
  | .clamp => Sys2Proof.Machine.execClamp s
  | .highz => Sys2Proof.Machine.execHighz s
  | .vectorOpComplete cl => Sys2Proof.Machine.execVectorOpComplete cl s
  | .matrixOpComplete cl => Sys2Proof.Machine.execMatrixOpComplete cl s
  | .copySectorReturn cl id => Sys2Proof.Machine.execCopySectorReturn cl id s
  | .quarterCacheRequest id => Sys2Proof.Machine.execQuarterCacheRequest id s
  | .icacheInvallComplete cl => Sys2Proof.Machine.execIcacheInvallComplete cl s
  | .clusterResetComplete cl => Sys2Proof.Machine.execClusterResetComplete cl s
  | .probeEnd p => Sys2Proof.Machine.execProbeEnd p s
  | .connectorSeated => Sys2Proof.Machine.execConnectorSeated s

end Sys2Proof.Machine
end

