-- ==== Sys2Proof/Safety.lean ====
section
/-!
DEFINITION. What the statements are about: a command that answers with a device, the places of a state they compare, the
invariant of memory.
-/
namespace Sys2Proof.Machine

/-- A run is safe at a state: the step answers a next state. -/
def Safe (s : State) : Prop := ∃ t, step s = .next t

/-- The state with another device and the same queue. -/
def State.withDev (s : State) (d : Dev) : State := { s with dev := d }

/-- Memory has its canonical form. -/
def MemOk (s : State) : Prop := Memory.wf s.dev.mem = true

/-- The syllable in a slot (0 A, 1 B, 2 M) of the bundle that a context holds in W. -/
def wSyl (d : Dev) (l c slot : Nat) : Option Syl := (getCtx d l c).wb.bind (fun b => getSyl b slot)

/-- The device in which that syllable has come to a state with effects: nothing else differs. -/
def withSyl (d : Dev) (l c slot : Nat) (b : WB) (y : Syl) (st : SylSt) (eff : List Eff) : Dev :=
  updCtx d l c (fun x => { x with wb := some (putSyl b slot { y with st := st, eff := eff }) })

/-- The map of a register as an agent may write it through the management window. -/
def cmdReg (d : Dev) (ag : Agent) (o : Nat) : RegMap :=
  agentMap d ag (blkOf o).1 ((blkOf o).2 / 8 * 8) ((regMapOf (blkOf o).1 ((blkOf o).2 / 8 * 8)).getD ⟨"", []⟩)

/-- What an 8-byte write of `v` gives a command register to act on (R6 to R8, R26). -/
def cmdWord (d : Dev) (ag : Agent) (o v : Nat) : Word :=
  (cmdReg d ag o).writeVal (BitVec.ofNat 64 (ones 64)) (BitVec.ofNat 64 v) (rget d o)

/-- The device on which the command of such a write acts: the command register has taken the write, and its write-only fields read as 0
again. -/
def cmdDev (d : Dev) (ag : Agent) (o v : Nat) : Dev := rset d o (cmdWord d ag o v &&& ~~~ (cmdReg d ag o).woMask)

/-- The same for a register whose other fields are written as any register's are. -/
def cmdParts (d : Dev) (ag : Agent) (o v : Nat) : Dev :=
  regWrite d { cmdReg d ag o with fs := (cmdReg d ag o).fs.filter (fun x => x.acc != .wo) } o (BitVec.ofNat 64 (ones 64)) (BitVec.ofNat 64 v)

/-- Does a block answer management accesses: it stands in the map and is not asleep (R25 to R29)? -/
def blkAnswers (d : Dev) (b : Blk) : Prop := blkUnmapped d b = false ∧ blkAsleep d b = false

/-- The devices differ in the register store alone, and there in HB_MMERR and HB_MMERR_ADDR alone (hub offsets 0x100 and 0x108). -/
def onlyMmErr (d d' : Dev) : Prop :=
  { d' with regs := d.regs } = d ∧ ∀ o, o ≠ 0x100 → o ≠ 0x108 → rget d' o = rget d o

/-- The integer operation of a FUNC code over words of `n` bits (spec/04, R87 and its table). -/
def intSpec {n : Nat} (op : Nat) (a b : BitVec n) : BitVec n :=
  let bool (p : Bool) : BitVec n := if p then 1 else 0
  let sh := b.toNat % n
  match op with
  | 0x00 => a + b
  | 0x01 => a - b
  | 0x02 => a &&& b
  | 0x03 => a ||| b
  | 0x04 => a ^^^ b
  | 0x05 => a &&& ~~~b
  | 0x06 => a <<< sh
  | 0x07 => a >>> sh
  | 0x08 => a.sshiftRight sh
  | 0x09 => a.rotateRight sh
  | 0x0A => bool (a == b)
  | 0x0B => bool (a.slt b)
  | 0x0C => bool (a.ult b)
  | 0x0D => if a.slt b then a else b
  | 0x0E => if a.slt b then b else a
  | 0x0F => if a.ult b then a else b
  | 0x10 => if a.ult b then b else a
  | 0x11 => a + b
  | 0x12 => a - b
  | 0x13 => BitVec.ofNat n (((List.range n).takeWhile (fun i => !a.getMsbD i)).length)
  | 0x14 => BitVec.ofNat n (((List.range n).takeWhile (fun i => !a.getLsbD i)).length)
  | _ => BitVec.ofNat n ((List.range n).countP (fun i => a.getLsbD i))

/-- The same for a syllable: on 64-bit words, or, in the W variant, on their low halves with the result sign-extended (R87). -/
def intResult (op : Nat) (w32 : Bool) (a b : Word) : Word :=
  if w32 then (intSpec op (a.setWidth 32) (b.setWidth 32)).signExtend 64 else intSpec op a b

/-- Quotient (OP 0 signed, 1 unsigned) or remainder (2, 3) of words of `n` bits; for a zero divisor all ones and the dividend (R90). -/
def divSpec {n : Nat} (op : Nat) (a b : BitVec n) : BitVec n :=
  if b = 0 then (if op < 2 then BitVec.allOnes n else a)
  else if op = 0 then a.sdiv b
  else if op = 1 then a / b
  else if op = 2 then a.srem b
  else a % b

/-- The same for a syllable, with its W variant. -/
def divResult (op : Nat) (w32 : Bool) (a b : Word) : Word :=
  if w32 then (divSpec op (a.setWidth 32) (b.setWidth 32)).signExtend 64 else divSpec op a b

/-- Does a division of words of `n` bits overflow: the most negative value by -1, signed (R90)? -/
def divOver {n : Nat} (op : Nat) (a b : BitVec n) : Bool := op % 2 == 0 && a == BitVec.intMin n && b == BitVec.allOnes n

/-- The class code of a floating-point operand with `e` exponent bits and `f` fraction bits (R98). -/
def classSpec (e f x : Nat) : Nat :=
  let ex := x / 2 ^ f % 2 ^ e
  let fr := x % 2 ^ f
  (if ex = 0 then (if fr = 0 then 1 else 2) else if ex = 2 ^ e - 1 then (if fr = 0 then 8 else 16) else 4) +
    (if x / 2 ^ (e + f) % 2 = 1 then 32 else 0) +
    (if ex = 2 ^ e - 1 ∧ fr ≠ 0 ∧ fr < 2 ^ (f - 1) then 64 else 0)

/-- A register after a bundle's effects, in their order: the last result named for it, else its old value; s0 stays 0. -/
def regAfter (r : Nat) (w : Word) : List Eff → Word
  | [] => w
  | .sreg q v :: es => regAfter r (if q = r ∧ r ≠ 0 then v else w) es
  | _ :: es => regAfter r w es

end Sys2Proof.Machine
end

