-- ==== Sys2Proof/WellFormed.lean ====
section
/-!
DEFINITION. Well-formed commands: every operand names something the block has (spec/01 R18 to R23, spec/03 R53, spec/15 R338, spec/17
R379, spec/18 R409, spec/19 R411).
-/
namespace Sys2Proof

/-- A logical cluster: 0 to 799 (spec/00, R23). -/
def clOk (l : Nat) : Bool := decide (l < 800)
/-- A physical site: 0 to 831 (R18). -/
def siteOk (p : Nat) : Bool := decide (p < 832)
/-- A context: 0 to 7. -/
def ctxOk (c : Nat) : Bool := decide (c < 8)
/-- The A, B or M slot of a bundle. -/
def slotOk (s : Nat) : Bool := decide (s < 3)
/-- A quarter: 0 to 3. -/
def quarterOk (q : Nat) : Bool := decide (q < 4)
/-- A Sightline port: 0 to 11. -/
def portOk (p : Nat) : Bool := decide (p < 12)
/-- A memory stack: 0 to 23. -/
def stackOk (k : Nat) : Bool := decide (k < 24)
/-- A channel of a stack: 0 to 15. -/
def chanOk (c : Nat) : Bool := decide (c < 16)
/-- A reduction: 0 to 3. -/
def redOk (r : Nat) : Bool := decide (r < 4)
/-- A command ring: 0 to 15. -/
def ringOk (n : Nat) : Bool := decide (n < 16)
/-- A way of a quarter cache: 0 to 15. -/
def wayOk (w : Nat) : Bool := decide (w < 16)
/-- A Brynip channel: 0 to 5. -/
def vcOk (v : Nat) : Bool := decide (v < 6)
/-- A register access is of 4 or 8 bytes (R25). -/
def sizeOk (n : Nat) : Bool := n == 4 || n == 8
/-- A mask of contexts. -/
def maskOk (m : Nat) : Bool := decide (m < 256)
/-- An address space: four bits (CL_XLAT.ASID). -/
def asidOk (a : Nat) : Bool := decide (a < 16)
/-- A bank of the ledger (R459). -/
def bankOk (b : Nat) : Bool := decide (b < 2)
/-- A plat slot of the flash. -/
def flashSlotOk (s : Nat) : Bool := decide (s < 2)
/-- A flit has 64 bytes (R392). -/
def flitOk (f : Bytes) : Bool := f.length == 64
/-- One count for each channel of a stack. -/
def countsOk (c : Nats) : Bool := c.length == 16
/-- One set of failing channels for each stack. -/
def failsOk (f : Nats) : Bool := decide (f.length ≤ 24) && f.all (fun x => decide (x < 65536))
/-- One value for each quarter. -/
def fourOk (t : Nats) : Bool := t.length == 4
/-- A value of one byte. -/
def byteOk (b : Nat) : Bool := decide (b < 256)
/-- A lane, an element group or a power group: 0 to 63. -/
def lanesOk (g : Nat) : Bool := decide (g < 64)
/-- A device ID has 14 bits (R379). -/
def devOk (d : Nat) : Bool := decide (d < 2 ^ 14)
/-- A port role: 0 to 5. -/
def roleOk (r : Nat) : Bool := decide (r < 6)
/-- A unit of a cluster with residue checks: scalar, vector, matrix (CL_MCINFO.UNIT). -/
def unitOk (u : Nat) : Bool := decide (1 ≤ u ∧ u ≤ 3)

/-- An agent that exists. -/
def agentOk : Agent → Bool
  | .cluster l => clOk l
  | .peer d => devOk d
  | _ => true

/-- An array that exists. -/
def arrayOk : SramArray → Bool
  | .site s a => siteOk s && decide (a < 16)
  | .way q w a => quarterOk q && wayOk w && decide (a < 16)
  | .hub a => decide (a < 0x4000)

/-- A place that exists. -/
def placeOk : SramPlace → Bool
  | .sreg l c s => clOk l && ctxOk c && slotOk s
  | .vreg l c e => clOk l && ctxOk c && decide (e < 512)
  | .tile l t r => clOk l && decide (t < 8) && lanesOk r
  | .mere l o => clOk l && decide (o < 0x10_0000)
  | .l1 l c => clOk l && ctxOk c
  | .cc l _ _ => clOk l
  | .side l _ _ => clOk l
  | .ic l _ => clOk l
  | .tlb l i => clOk l && lanesOk i
  | .qc q _ _ => quarterOk q
  | .qtlb q i => quarterOk q && decide (i < 4096)
  | .walkCache q _ => quarterOk q
  | .copy l _ => clOk l
  | .bucket r => redOk r
  | .msg _ => true
  | .hub => true

/-- An item that exists. -/
def itemOk : Item → Bool
  | .scalar c => ctxOk c
  | .fetch c => ctxOk c
  | .vector c => ctxOk c
  | .copy _ => true

/-- Is a command well formed? -/
def WellFormed (i : Instr) : Bool :=
  match i with
  | .referenceClockLoss => true
  | .referenceClockRestored => true
  | .vcoreUndervoltage q _ => quarterOk q
  | .vcoreRecovered q _ => quarterOk q
  | .qtRateUpdate q _ _ tj => quarterOk q && byteOk tj
  | .registerWrite ag _ size _ => agentOk ag && sizeOk size
  | .verifyStagingBuffer ag => agentOk ag
  | .replatFromBuffer ag => agentOk ag
  | .replatFromFlash ag slot => agentOk ag && flashSlotOk slot
  | .replatQuiesced => true
  | .replatQuiesceTimeout => true
  | .bundleIssue cl => clOk cl
  | .packedIssue cl groups => clOk cl && maskOk groups
  | .bundleRetire cl ctx => clOk cl && ctxOk ctx
  | .alu cl ctx slot => clOk cl && ctxOk ctx && slotOk slot
  | .adds cl ctx slot => clOk cl && ctxOk ctx && slotOk slot
  | .mul cl ctx => clOk cl && ctxOk ctx
  | .div cl ctx => clOk cl && ctxOk ctx
  | .divideComplete cl => clOk cl
  | .fadd cl ctx => clOk cl && ctxOk ctx
  | .fdiv cl ctx => clOk cl && ctxOk ctx
  | .fminimum cl ctx => clOk cl && ctxOk ctx
  | .fcmp cl ctx => clOk cl && ctxOk ctx
  | .fclass cl ctx => clOk cl && ctxOk ctx
  | .fcvt cl ctx => clOk cl && ctxOk ctx
  | .load cl ctx => clOk cl && ctxOk ctx
  | .scalarLoadReturn cl ctx => clOk cl && ctxOk ctx
  | .store cl ctx => clOk cl && ctxOk ctx
  | .amo cl ctx => clOk cl && ctxOk ctx
  | .atomicOldValueReturn cl ctx => clOk cl && ctxOk ctx
  | .getc cl ctx => clOk cl && ctxOk ctx
  | .setc cl ctx => clOk cl && ctxOk ctx
  | .sevt cl ctx => clOk cl && ctxOk ctx
  | .eventDelivery _ => true
  | .wevt cl ctx => clOk cl && ctxOk ctx
  | .wtal cl ctx => clOk cl && ctxOk ctx
  | .wtalTallyReached cl ctx => clOk cl && ctxOk ctx
  | .br cl ctx => clOk cl && ctxOk ctx
  | .bc cl ctx => clOk cl && ctxOk ctx
  | .jr cl ctx => clOk cl && ctxOk ctx
  | .loop cl ctx => clOk cl && ctxOk ctx
  | .lbrk cl ctx => clOk cl && ctxOk ctx
  | .fenceI cl ctx => clOk cl && ctxOk ctx
  | .instructionCacheMissFill cl ctx => clOk cl && ctxOk ctx
  | .vsetvl cl ctx => clOk cl && ctxOk ctx
  | .fence cl ctx => clOk cl && ctxOk ctx
  | .fenceComplete cl ctx => clOk cl && ctxOk ctx
  | .copy cl ctx => clOk cl && ctxOk ctx
  | .copyStart cl => clOk cl
  | .copyFinish cl _ => clOk cl
  | .copyFail cl _ => clOk cl
  | .warr cl ctx => clOk cl && ctxOk ctx
  | .pref cl ctx => clOk cl && ctxOk ctx
  | .cmo cl ctx => clOk cl && ctxOk ctx
  | .cmosw cl ctx => clOk cl && ctxOk ctx
  | .maintenanceComplete cl ctx => clOk cl && ctxOk ctx
  | .threadAlu cl _ => clOk cl
  | .threadLoad cl _ => clOk cl
  | .threadAtomic cl _ => clOk cl
  | .tbc cl => clOk cl
  | .threadBranchResolve cl ctx => clOk cl && ctxOk ctx
  | .texit cl ctx => clOk cl && ctxOk ctx
  | .gyield cl ctx => clOk cl && ctxOk ctx
  | .gvote cl ctx => clOk cl && ctxOk ctx
  | .gshfl cl ctx => clOk cl && ctxOk ctx
  | .gbar cl ctx => clOk cl && ctxOk ctx
  | .gxld cl ctx => clOk cl && ctxOk ctx
  | .gxst cl ctx => clOk cl && ctxOk ctx
  | .contextStart ag cl mask => agentOk ag && clOk cl && maskOk mask
  | .contextStop ag cl mask => agentOk ag && clOk cl && maskOk mask
  | .contextEnd cl ctx => clOk cl && ctxOk ctx
  | .vectorOpStart cl => clOk cl
  | .vadd cl _ => clOk cl
  | .vfadd cl _ => clOk cl
  | .vsadd cl _ => clOk cl
  | .vcmp cl _ => clOk cl
  | .vmand cl => clOk cl
  | .vcvt cl _ => clOk cl
  | .vpack cl => clOk cl
  | .vunpack cl => clOk cl
  | .vmpop cl => clOk cl
  | .vredsum cl => clOk cl
  | .vfredosum cl => clOk cl
  | .summaryArrival cl => clOk cl
  | .vcompress cl => clOk cl
  | .vexpand cl => clOk cl
  | .vperm cl => clOk cl
  | .vmatch cl => clOk cl
  | .vmerge cl => clOk cl
  | .vld cl _ => clOk cl
  | .vlseg cl _ => clOk cl
  | .vldx cl _ => clOk cl
  | .vstx cl _ => clOk cl
  | .vstxr cl _ => clOk cl
  | .loadGroupArrival cl ctx g => clOk cl && ctxOk ctx && lanesOk g
  | .vectorWalkResume cl => clOk cl
  | .matrixOpStart cl => clOk cl
  | .xopa cl _ => clOk cl
  | .tzero cl => clOk cl
  | .trel cl => clOk cl
  | .tld cl _ => clOk cl
  | .tst cl _ => clOk cl
  | .tacc cl _ => clOk cl
  | .residueMismatch cl ctx unit _ _ => clOk cl && ctxOk ctx && unitOk unit
  | .sramSingleBitCorrect arr => arrayOk arr
  | .sramUncorrectable place => placeOk place
  | .trapEntry cl ctx => clOk cl && ctxOk ctx
  | .interruptEntry cl ctx => clOk cl && ctxOk ctx
  | .trap cl ctx => clOk cl && ctxOk ctx
  | .tack cl ctx => clOk cl && ctxOk ctx
  | .tret cl ctx => clOk cl && ctxOk ctx
  | .ifsave cl ctx => clOk cl && ctxOk ctx
  | .ifload cl ctx => clOk cl && ctxOk ctx
  | .tallyCompareMatch cl ctx => clOk cl && ctxOk ctx
  | .clMereResize cl ctx => clOk cl && ctxOk ctx
  | .clTstateWrite cl ctx => clOk cl && ctxOk ctx
  | .icacheInvall cl ctx => clOk cl && ctxOk ctx
  | .icacheEnableWrite cl ctx => clOk cl && ctxOk ctx
  | .prefetchFill _ => true
  | .sideBufferPromote cl _ => clOk cl
  | .wayPowerDown q w => quarterOk q && wayOk w
  | .wayDrainComplete q w => quarterOk q && wayOk w
  | .wayPowerUp q w => quarterOk q && wayOk w
  | .tlbMiss cl item => clOk cl && itemOk item
  | .walkStart q => quarterOk q
  | .walkComplete q w => quarterOk q && wayOk w
  | .faultRecordSend q w => quarterOk q && wayOk w
  | .faultRecordFreeWait q => quarterOk q
  | .invAllSpaces ag => agentOk ag
  | .invSpace ag asid => agentOk ag && asidOk asid
  | .invRange ag asid => agentOk ag && asidOk asid
  | .invalidationComplete => true
  | .walkerFormatWrite ag _ size _ => agentOk ag && sizeOk size
  | .resumeRetry ag _ => agentOk ag
  | .resumeUnresolved ag _ => agentOk ag
  | .migrate => true
  | .advise => true
  | .tractChunkMove _ => true
  | .allotmentEpoch => true
  | .stackRequestAdmit _ => true
  | .stackRequestComplete _ => true
  | .atomicUnitApply _ => true
  | .mapout ag k ch => agentOk ag && stackOk k && chanOk ch
  | .restripeChunk k => stackOk k
  | .restripeComplete k => stackOk k
  | .patrolScrub k => stackOk k
  | .stackRefresh k => stackOk k
  | .refreshRateSample k temp counts => stackOk k && byteOk temp && countsOk counts
  | .readTimingRetune k ch => stackOk k && chanOk ch
  | .selfRefreshEntry k => stackOk k
  | .selfRefreshExit k temp _ => stackOk k && byteOk temp
  | .flitReceive p flit => portOk p && flitOk flit
  | .flitRetryTimeout p => portOk p
  | .messageStart p => portOk p
  | .messageForward p => portOk p
  | .read => true
  | .write => true
  | .atomic _ => true
  | .scatred _ => true
  | .data => true
  | .ack => true
  | .old => true
  | .error => true
  | .mread => true
  | .mwrite => true
  | .mdata => true
  | .badMessage => true
  | .responseDeadline _ => true
  | .channelStuck p vc => portOk p && vcOk vc
  | .linkReset p => portOk p
  | .linkTrainingComplete p farId farPort farRole => portOk p && devOk farId && portOk farPort && roleOk farRole
  | .linkTrainingRetry p => portOk p
  | .openFibreDetect p => portOk p
  | .connectorRemoved => true
  | .laserFault p => portOk p
  | .probeTimer p => portOk p
  | .probeLightSeen p => portOk p
  | .probeLightSteady p => portOk p
  | .probeLightLost p => portOk p
  | .upwardRelay => true
  | .sopen _ _ _ => true
  | .ledgerWriteComplete _ => true
  | .sprove => true
  | .sproveTimeout => true
  | .sclose => true
  | .hbSessctlClose ag => agentOk ag
  | .hread => true
  | .hwrite => true
  | .hmread => true
  | .hmwrite => true
  | .doorbell => true
  | .attest => true
  | .attestReportReady => true
  | .hdata => true
  | .hresp => true
  | .hostAccessDeadline _ => true
  | .relaydown => true
  | .ringCommandFetch n => ringOk n
  | .nop n => ringOk n
  | .start n => ringOk n
  | .stop n => ringOk n
  | .event n => ringOk n
  | .move n => ringOk n
  | .tract n => ringOk n
  | .replat n => ringOk n
  | .ringFence n => ringOk n
  | .commandComplete n k => ringOk n && stackOk k
  | .suTractctlGo ag => agentOk ag
  | .rdStart ag r => agentOk ag && redOk r
  | .rdAbort ag r => agentOk ag && redOk r
  | .rdFill ag r _ => agentOk ag && redOk r
  | .ownShareConverted r => redOk r
  | .contrib => true
  | .contribPlace r => redOk r
  | .result => true
  | .rpull => true
  | .steprep => true
  | .bucketDeadline r _ => redOk r
  | .resultDeadline r => redOk r
  | .helloTimer => true
  | .hello => true
  | .formingTimeout => true
  | .beatTimer => true
  | .beat => true
  | .twinSilence => true
  | .twinProbeDeadline => true
  | .leave => true
  | .twinFallOut => true
  | .mirror => true
  | .confirm => true
  | .digest => true
  | .place => true
  | .seed => true
  | .sync => true
  | .rejoin ag => agentOk ag
  | .rejoinComplete => true
  | .digestGo ag => agentOk ag
  | .digestTimeout => true
  | .faultEventReport _ => true
  | .ledgerWrite => true
  | .flashSectorErase bank => bankOk bank
  | .clearsite => true
  | .clearchan => true
  | .setowner => true
  | .setpass => true
  | .setplatkey => true
  | .clearplatkey => true
  | .clearway => true
  | .powerBudgetTick _ _ => true
  | .qvidStep q => quarterOk q
  | .ceilingCheck _ _ tj => fourOk tj
  | .throttleStep => true
  | .thermalTrip => true
  | .thermalTripClear => true
  | .idlePowerDown g => lanesOk g
  | .clusterWake cl => clOk cl
  | .quarterDormantEntry q => quarterOk q
  | .quarterDormantExit q => quarterOk q
  | .groupUp => true
  | .groupDown => true
  | .standby => true
  | .wake fails => failsOk fails
  | .powerOnReset => true
  | .pinReset => true
  | .deviceReset ag => agentOk ag
  | .quarterReset ag q => agentOk ag && quarterOk q
  | .quarterResetRelease q => quarterOk q
  | .clusterReset ag cl => agentOk ag && clOk cl
  | .boot fails => failsOk fails
  | .fwErase => true
  | .fwWrite => true
  | .fwCommit => true
  | .i3cSetOffset _ => true
  | .i3cRead => true
  | .i3cWrite _ _ => true
  | .bypass => true
  | .idcode => true
  | .samplePreload _ _ => true
  | .extest _ _ => true
  | .clamp => true
  | .highz => true
  | .vectorOpComplete cl => clOk cl
  | .matrixOpComplete cl => clOk cl
  | .copySectorReturn cl _ => clOk cl
  | .quarterCacheRequest _ => true
  | .icacheInvallComplete cl => clOk cl
  | .clusterResetComplete cl => clOk cl
  | .probeEnd p => portOk p
  | .connectorSeated => true

end Sys2Proof
end

