-- ==== Sys2Proof/Certificates/Slice0/Obligations.lean ====
section
/-!
DEFINITION. The statements about the model, for the provers.
-/
open Sys2Proof Sys2Proof.Machine

/-- ALU, ADDS, MUL, FADD, FMINIMUM, FCMP, FCLASS, FCVT, DIV, FDIV, DIVIDE_COMPLETE: each answers the state in which its syllable
has its result, or its enabled trap, and nothing else differs (R60, R61, R82, R87 to R90, R96 to R101). -/
def Obligations.ScalarCompute : Prop :=
  (∀ (s : State) (l c slot : Nat) (b : WB) (y : Syl), sylFor s.dev l c slot .alu isReady = some (b, y) →
    exec (.alu l c slot) s = .next (s.withDev (withSyl s.dev l c slot b y .done
      [.sreg (fRD y.word) (aluResult (getCtx s.dev l c) y.word)]))) ∧
  (∀ (s : State) (l c slot : Nat) (b : WB) (y : Syl), sylFor s.dev l c slot .adds isReady = some (b, y) →
    let r := checkedResult (getCtx s.dev l c) y.word
    exec (.adds l c slot) s = .next (s.withDev (if r.2 = true ∧ b.md.iov = true
      then withSyl s.dev l c slot b y (.faulted ⟨0x0B, 0⟩) []
      else withSyl s.dev l c slot b y .done [.sreg (fRD y.word) r.1]))) ∧
  (∀ (s : State) (l c : Nat) (b : WB) (y : Syl), sylFor s.dev l c 0 .mul isReady = some (b, y) →
    exec (.mul l c) s = .next (s.withDev (withSyl s.dev l c 0 b y .done [.sreg (fRD y.word)
      (mulCompute (fOP y.word) (fW y.word) (sread (getCtx s.dev l c) (fRA y.word)) (sread (getCtx s.dev l c) (fRB y.word))).1]))) ∧
  (∀ (s : State) (l c : Nat) (b : WB) (y : Syl) (i : Instr) (op : Op),
    (i, op) ∈ [(Instr.fadd l c, Op.fadd), (.fminimum l c, .fminimum), (.fcmp l c, .fcmp), (.fclass l c, .fclass), (.fcvt l c, .fcvt)] →
    sylFor s.dev l c 0 op isReady = some (b, y) →
    let r := floatResult b.md (getCtx s.dev l c) y.word
    let nv := r.2 &&& flNV != 0 && b.md.tnv
    let dz := r.2 &&& flDZ != 0 && b.md.tdz
    exec i s = .next (s.withDev (if nv = true ∨ dz = true
      then withSyl s.dev l c 0 b y (.faulted ⟨0x0C, BitVec.ofNat 64 ((if r.2 &&& flNV != 0 then 0x1_0000 else 0) +
        (if r.2 &&& flDZ != 0 then 0x2_0000 else 0))⟩) []
      else withSyl s.dev l c 0 b y .done [.sreg (fRD y.word) r.1, .fflags r.2]))) ∧
  (∀ (s : State) (l c : Nat) (b : WB) (y : Syl) (i : Instr) (op : Op),
    (i, op) ∈ [(Instr.div l c, Op.div), (.fdiv l c, .fdiv)] → sylFor s.dev l c 0 op isReady = some (b, y) →
    (getCl s.dev l).divOwner = none →
    exec i s = .next (s.withDev (withSyl (updCl s.dev l (fun k => { k with divOwner := some c })) l c 0 b y .divide []))) ∧
  (∀ (s : State) (l c : Nat) (b : WB) (y : Syl), (getCl s.dev l).divOwner = some c →
    sylFor s.dev l c 0 .div (· == .divide) = some (b, y) →
    let x := getCtx s.dev l c
    let r := divCompute (fOP y.word) (fW y.word) (sread x (fRA y.word)) (sread x (fRB y.word))
    let d := updCl s.dev l (fun k => { k with divOwner := none })
    exec (.divideComplete l) s = .next (s.withDev
      (if r.2.1 = true ∧ b.md.idz = true then withSyl d l c 0 b y (.faulted ⟨0x0A, 0⟩) []
       else if r.2.2 = true ∧ b.md.iov = true then withSyl d l c 0 b y (.faulted ⟨0x0B, 0⟩) []
       else withSyl d l c 0 b y .done [.sreg (fRD y.word) r.1])))

/-- LOAD, SCALAR_LOAD_RETURN, STORE, AMO, ATOMIC_OLD_VALUE_RETURN: the fault of a misaligned address, and where each completes with
what (R91, R92, R94, R95, R503). -/
def Obligations.ScalarMemory : Prop :=
  (∀ (s : State) (l c : Nat) (b : WB) (y : Syl), sylFor s.dev l c 2 .load isReady = some (b, y) →
    (memAddr (getCtx s.dev l c) y.word).toNat % (memSize (majorOf y.word)).1 ≠ 0 →
    exec (.load l c) s = .next (s.withDev (withSyl s.dev l c 2 b y (.faulted ⟨6, memAddr (getCtx s.dev l c) y.word⟩) []))) ∧
  (∀ (s : State) (l c : Nat) (b : WB) (y : Syl) (o : Nat), sylFor s.dev l c 2 .load isReady = some (b, y) →
    let a := memAddr (getCtx s.dev l c) y.word
    let n := (memSize (majorOf y.word)).1
    a.toNat % n = 0 → access s.dev l b.md a .rd = .mere o → mereBad s.dev l o n = false →
    exec (.load l c) s = .next (s.withDev (withSyl s.dev l c 2 b y .done
      [.sreg (fRD y.word) (loadExt n (memSize (majorOf y.word)).2 (mereRead s.dev l o n))]))) ∧
  (∀ (s : State) (l c : Nat) (b : WB) (y : Syl) (da k off attr key : Nat) (x : Line),
    sylFor s.dev l c 2 .load isReady = some (b, y) →
    let a := memAddr (getCtx s.dev l c) y.word
    let n := (memSize (majorOf y.word)).1
    a.toNat % n = 0 → access s.dev l b.md a .rd = .ok da (.stack k off) attr → l1Find s.dev l da = some (key, x) →
    exec (.load l c) s = .next (s.withDev (withSyl s.dev l c 2 b y .done
      [.sreg (fRD y.word) (loadExt n (memSize (majorOf y.word)).2 (vbits x.data (8 * (da % 64)) (8 * n)))]))) ∧
  (∀ (s : State) (l c id : Nat) (b : WB) (y : Syl) (r : Req), (getCtx s.dev l c).wb = some b → b.m = some y →
    y.st = .req id → Tab.find? s.dev.reqs id = some r → r.stage = .done → r.kind = .read → r.status = 0 →
    majorOf y.word ≤ 0x06 →
    let n := (memSize (majorOf y.word)).1
    let g := clusterRead (takeSector s.dev l id r) l r.elem n true
    exec (.scalarLoadReturn l c) s = .next (s.withDev (doneReg g.2 l c 2 y.word (loadExt n (memSize (majorOf y.word)).2
      (match g.1 with | some v => v.1 | none => bitsOf r.out (8 * (r.elem % 64)) (8 * n)))))) ∧
  (∀ (s : State) (l c : Nat) (b : WB) (y : Syl), sylFor s.dev l c 2 .store isReady = some (b, y) →
    (memAddr (getCtx s.dev l c) y.word).toNat % (memSize (majorOf y.word)).1 ≠ 0 →
    exec (.store l c) s = .next (s.withDev (withSyl s.dev l c 2 b y (.faulted ⟨6, memAddr (getCtx s.dev l c) y.word⟩) []))) ∧
  (∀ (s : State) (l c : Nat) (b : WB) (y : Syl), sylFor s.dev l c 2 .store isReady = some (b, y) →
    let a := memAddr (getCtx s.dev l c) y.word
    let n := (memSize (majorOf y.word)).1
    let v := (sread (getCtx s.dev l c) (fRD y.word)).toNat % 2 ^ (8 * n)
    let r := access s.dev l b.md a .wr
    a.toNat % n = 0 →
    (∀ o, r = .mere o →
      exec (.store l c) s = .next (s.withDev (withSyl s.dev l c 2 b y .done [.store true o n v]))) ∧
    (∀ da k off attr, r = .ok da (.stack k off) attr →
      exec (.store l c) s = .next (s.withDev (withSyl (dropReplicas s.dev .wr r) l c 2 b y .done [.store false da n v])))) ∧
  (∀ (s : State) (l c : Nat) (b : WB) (y : Syl) (o : Nat), sylFor s.dev l c 2 .amo isReady = some (b, y) →
    let x := getCtx s.dev l c
    let a := sread x (fRA y.word)
    let n := 2 ^ fFMT y.word
    let old := mereRead s.dev l o n
    a.toNat % n = 0 → access s.dev l b.md a .wr = .mere o → mereBad s.dev l o n = false → othersDone b = true → fORD y.word = 0 →
    exec (.amo l c) s = .next (s.withDev (setSyl
      (match amoNew (majorOf y.word - 0x10) (8 * n) old ((sread x (fRB y.word)).toNat % 2 ^ (8 * n))
          ((sread x (fRD y.word)).toNat % 2 ^ (8 * n)) with
        | some w => mereWrite s.dev l o n w
        | none => s.dev) l c 2 .done
      [.sreg (fRD y.word) (amoOld (majorOf y.word - 0x10) (8 * n) old)]))) ∧
  (∀ (s : State) (l c id op n cmp : Nat) (b : WB) (y : Syl) (r : Req), (getCtx s.dev l c).wb = some b → b.m = some y →
    y.st = .req id → Tab.find? s.dev.reqs id = some r → r.stage = .done → r.kind = .atomic op n cmp → r.status = 0 →
    exec (.atomicOldValueReturn l c) s = .next (s.withDev (settle (retireIf
      (setSyl (dropReq s.dev id) l c 2 .done (amoEffs y.word r.out)) l c) l)))

/-- GETC, SETC, SEVT, VSETVL, BR, BC, JR, LOOP, LBRK, FENCE_I, TRAP, TACK, TRET: each answers the state in which its syllable is done
with the effect of its rule, and nothing else differs (R56, R64, R68, R103, R105, R189, R366 to R368). -/
def Obligations.ScalarControl : Prop :=
  (∀ (s : State) (l c : Nat) (b : WB) (y : Syl) (m : RegMap), sylFor s.dev l c 1 .getc isReady = some (b, y) →
    clusterReg (selOff l c (fSEL y.word) - clOff l 0) = some m →
    exec (.getc l c) s = .next (s.withDev (withSyl s.dev l c 1 b y .done
      [.sreg (fRD y.word) (m.readVal (regView s.dev (canonOff s.dev (selOff l c (fSEL y.word)))))]))) ∧
  (∀ (s : State) (l c : Nat) (b : WB) (y : Syl), sylFor s.dev l c 1 .setc isReady = some (b, y) →
    let o := selOff l c (fSEL y.word)
    let r := o - clOff l 0
    b.md.gm = false → r ≠ 0x500 → ¬(0x480 ≤ r ∧ r < 0x4C0) → r ≠ 0x700 →
    exec (.setc l c) s = .next (s.withDev (withSyl s.dev l c 1 b y .done [.setc o (sread (getCtx s.dev l c) (fRD y.word))]))) ∧
  (∀ (s : State) (l c : Nat) (b : WB) (y : Syl), sylFor s.dev l c 1 .sevt isReady = some (b, y) →
    let x := getCtx s.dev l c
    exec (.sevt l c) s = .next (s.withDev (withSyl s.dev l c 1 b y .done
      [.sevt ((sread x (fRA y.word)).toNat % 2 ^ 32) (sread x (fRB y.word))]))) ∧
  (∀ (s : State) (l c : Nat) (b : WB) (y : Syl), sylFor s.dev l c 1 .vsetvl isReady = some (b, y) →
    let cfg := vsetvlCfg (sread (getCtx s.dev l c) (fRA y.word)) y.word
    exec (.vsetvl l c) s = .next (s.withDev (withSyl s.dev l c 1 b y .done
      [.vcfg cfg, .sreg (fRD y.word) (BitVec.ofNat 64 (getF cfg CL_VCFG.VL))]))) ∧
  (∀ (s : State) (l c : Nat) (b : WB) (y : Syl), sylFor s.dev l c 1 .br isReady = some (b, y) → majorOf y.word ≠ 0x31 →
    exec (.br l c) s = .next (s.withDev (withSyl s.dev l c 1 b y .done
      [.branch true (addDisp b.addr (4 * sgn 22 (fld y.word 0 22)))]))) ∧
  (∀ (s : State) (l c : Nat) (b : WB) (y : Syl), sylFor s.dev l c 1 .bc isReady = some (b, y) →
    exec (.bc l c) s = .next (s.withDev (withSyl s.dev l c 1 b y .done
      [.branch (bcTaken s.dev l c (getCtx s.dev l c) y.word) (addDisp b.addr (4 * sgn 14 (fld y.word 0 14)))]))) ∧
  (∀ (s : State) (l c : Nat) (b : WB) (y : Syl), sylFor s.dev l c 1 .jr isReady = some (b, y) → majorOf y.word ≠ 0x34 →
    exec (.jr l c) s = .next (s.withDev (withSyl s.dev l c 1 b y .done
      [.branch true (BitVec.ofNat 64
        ((addDisp (sread (getCtx s.dev l c) (fRD y.word)) (4 * sgn 17 (fld y.word 0 17))).toNat / 4 * 4))]))) ∧
  (∀ (s : State) (l c : Nat) (b : WB) (y : Syl), sylFor s.dev l c 1 .loop isReady = some (b, y) →
    let n := sread (getCtx s.dev l c) (fRD y.word)
    n ≠ 0 → isSet (rget s.dev (csOff l c 0)) CL_LSTAT.ACT0 = false → isSet (rget s.dev (csOff l c 0)) CL_LSTAT.ACT1 = false →
    exec (.loop l c) s = .next (s.withDev (withSyl s.dev l c 1 b y .done
      [.loopTake n (b.addr + BitVec.ofNat 64 (4 * b.len + 4 * fld y.word 0 17))]))) ∧
  (∀ (s : State) (l c : Nat) (b : WB) (y : Syl) (i : Instr) (op : Op) (e : Eff),
    (i, op, e) ∈ [(Instr.lbrk l c, Op.lbrk, Eff.lbrk), (.fenceI l c, .fenceI, .fencei), (.trap l c, .trap, .swtrap (fld y.word 0 22)),
      (.tack l c, .tack, .tack)] →
    sylFor s.dev l c 1 op isReady = some (b, y) →
    exec i s = .next (s.withDev (withSyl s.dev l c 1 b y .done [e]))) ∧
  (∀ (s : State) (l c : Nat) (b : WB) (y : Syl), sylFor s.dev l c 1 .tret isReady = some (b, y) → unitsIdle s.dev l c = true →
    exec (.tret l c) s = .next (s.withDev (withSyl s.dev l c 1 b y .done [.tret])))

/-- WEVT, WTAL, WTAL_TALLY_REACHED, TALLY_COMPARE_MATCH, EVENT_DELIVERY, FENCE, FENCE_COMPLETE, WARR (R105 to R108, R150, R296,
R371). -/
def Obligations.ScalarWaits : Prop :=
  (∀ (s : State) (l c : Nat) (b : WB) (y : Syl) (i : Instr) (op : Op),
    (i, op) ∈ [(Instr.wevt l c, Op.wevt), (.wtal l c, .wtal)] → sylFor s.dev l c 1 op isReady = some (b, y) →
    exec i s = .next (s.withDev (settle (updCl (withSyl s.dev l c 1 b y .held []) l
      (fun k => { k with evq := if k.evq.contains c then k.evq else k.evq ++ [c] })) l))) ∧
  (∀ (s : State) (l c : Nat) (b : WB) (y : Syl), sylFor s.dev l c 1 .wtal (· == .held) = some (b, y) →
    let v := sread (getCtx s.dev l c) (fRA y.word)
    (rget s.dev (clOff l 0x40)).toNat < v.toNat →
    exec (.wtalTallyReached l c) s = .next (s.withDev (settle (rset s.dev (clOff l 0x40) v) l))) ∧
  (∀ (s : State) (l c : Nat), isSet (rget s.dev (dtOff l c 0x58)) DT_TCMP.EN = true →
    let v := BitVec.ofNat 64 (getF (rget s.dev (dtOff l c 0x58)) DT_TCMP.VALUE)
    (rget s.dev (clOff l 0x40)).toNat < v.toNat →
    exec (.tallyCompareMatch l c) s = .next (s.withDev (settle (rset s.dev (clOff l 0x40) v) l))) ∧
  (∀ (s : State) (i l bits : Nat), s.dev.events[i]? = some (l, bits) → (getCl s.dev l).dormant = false →
    (getQ s.dev (quarterOf s.dev l)).held = false →
    exec (.eventDelivery i) s = .next (s.withDev (settle (rset { s.dev with events := s.dev.events.eraseIdx i } (clOff l 0x50)
      (rget s.dev (clOff l 0x50) ||| BitVec.ofNat 64 bits)) l))) ∧
  (∀ (s : State) (l c : Nat) (b : WB) (y : Syl), sylFor s.dev l c 2 .fence isReady = some (b, y) →
    exec (.fence l c) s = .next (s.withDev (withSyl s.dev l c 2 b y .held []))) ∧
  (∀ (s : State) (l c : Nat) (b : WB) (y : Syl), sylFor s.dev l c 2 .fence (· == .held) = some (b, y) →
    fenceReady s.dev l c (fORD y.word) (fSCOPE y.word) = true →
    releaseErr s.dev l c (fORD y.word) (fSCOPE y.word) = none →
    exec (.fenceComplete l c) s = .next (s.withDev (settle (retireIf
      (setSyl (releaseClean s.dev l (fORD y.word) (fSCOPE y.word)) l c 2 .done
        (if (fORD y.word).testBit 0 then [.acquire (fSCOPE y.word)] else [])) l c) l))) ∧
  (∀ (s : State) (l c : Nat) (b : WB) (y : Syl), sylFor s.dev l c 2 .warr isReady = some (b, y) →
    exec (.warr l c) s = .next (s.withDev (warrSettle (withSyl s.dev l c 2 b y .held []) l c)))

/-- BUNDLE_ISSUE, PACKED_ISSUE, BUNDLE_RETIRE, INSTRUCTION_CACHE_MISS_FILL, TRAP_ENTRY, INTERRUPT_ENTRY, CONTEXT_START, CONTEXT_STOP,
CONTEXT_END (R57 to R62, R121, R122, R360, R362). -/
def Obligations.IssueRetireTrap : Prop :=
  (∀ (s : State) (l c : Nat), s.dev.replat = none → chooseCtx s.dev l = some c →
    exec (.bundleIssue l) s = .next (s.withDev (issueAll s.dev l [c]))) ∧
  (∀ (s : State) (l groups c : Nat), chooseCtx s.dev l = some c →
    let cs := filterUpto 8 (fun c => groups.testBit c)
    cs.contains c = true → 2 ≤ cs.length → packOk s.dev l cs = true → s.dev.replat = none →
    exec (.packedIssue l groups) s = .next (s.withDev (issueAll s.dev l
      (cs.mergeSort (fun a b => decide ((rget s.dev (csOff l a 0x60)).toNat ≤ (rget s.dev (csOff l b 0x60)).toNat)))))) ∧
  (∀ (s : State) (l c : Nat) (b : WB), (getCtx s.dev l c).wb = some b → ownRetire b = false → complete s.dev l c = true →
    exec (.bundleRetire l c) s = .next (s.withDev (settle (retire s.dev l c) l))) ∧
  (∀ (s : State) (l c da k off attr : Nat) (va : Word) (md : Modes), wantCode s.dev l c = some (va, md) →
    fetchWords s.dev l md 5 va [] = .line da (.stack k off) attr →
    let la := da / 64 * 64
    let r := homeRead s.dev la k (off / 64 * 64) 64
    let d := homeNote s.dev la k off 1
    exec (.instructionCacheMissFill l c) s = .next (s.withDev (if r.2 = true
      then updCtx d l c (fun x => { x with dfault := some (mcheck 1 (BitVec.ofNat 64 la)) })
      else fillCode d l la (dirtyOver d l la r.1)))) ∧
  (∀ (s : State) (l c : Nat) (t : Trap) (u : Bool), running s.dev l c = true → (getCtx s.dev l c).stop = false →
    (getCtx s.dev l c).park = none → unitsStop s.dev l c = true → atBoundary s.dev l c = true → dueTrap s.dev l c = some (t, u) →
    exec (.trapEntry l c) s = .next (s.withDev (settle (takeTrap (clearDeferred s.dev l c t) l c t u) l))) ∧
  (∀ (s : State) (l c k : Nat) (n : Bool), running s.dev l c = true → (getCtx s.dev l c).stop = false →
    (getCtx s.dev l c).park = none → unitsStop s.dev l c = true → atBoundary s.dev l c = true →
    (getCtx s.dev l c).swtrap = none → (getCtx s.dev l c).ufault = none → (getCtx s.dev l c).dmc = none →
    (getCtx s.dev l c).dcf = none → takeable s.dev l c = some (k, n) →
    exec (.interruptEntry l c) s = .next (s.withDev (settle (takeTrap s.dev l c
      ⟨0x80 + k, ipendView s.dev l c &&& rget s.dev (dtOff l c 0x48)⟩ false) l))) ∧
  (∀ (s : State) (ag : Agent) (l mask : Nat), exec (.contextStart ag l mask) s =
    .next (s.withDev (mgmtWrite s.dev ag (clOff l 0x60) 8 (BitVec.ofNat 64 (mask % 256))).2)) ∧
  (∀ (s : State) (ag : Agent) (l mask : Nat), exec (.contextStop ag l mask) s =
    .next (s.withDev (settle (mgmtWrite s.dev ag (clOff l 0x68) 8 (BitVec.ofNat 64 (mask % 256))).2 l))) ∧
  (∀ (s : State) (l c : Nat), running s.dev l c = true → (getCtx s.dev l c).stop = true → atBoundary s.dev l c = true →
    (getCtx s.dev l c).vq = [] → (getCtx s.dev l c).xq = [] → (getCl s.dev l).summ = [] →
    exec (.contextEnd l c) s = .next (s.withDev (settle (endContext (discardBundle s.dev l c) l c) l)))

/-- PREF, CMO, CMOSW, MAINTENANCE_COMPLETE, ICACHE_INVALL, ICACHE_INVALL_COMPLETE, ICACHE_ENABLE_WRITE, CL_MERE_RESIZE,
CL_TSTATE_WRITE, IFSAVE, IFLOAD (R282, R304, R305, R309 to R313, R374). -/
def Obligations.MaintenanceSyllables : Prop :=
  (∀ (s : State) (l c da k off attr : Nat) (b : WB) (y : Syl), sylFor s.dev l c 2 .pref isReady = some (b, y) →
    access s.dev l b.md (memAddr (getCtx s.dev l c) y.word) .rd = .ok da (.stack k off) attr →
    exec (.pref l c) s = .next (s.withDev (withSyl s.dev l c 2 b y .done [.pref (fld y.word 17 1) da]))) ∧
  (∀ (s : State) (l c : Nat) (b : WB) (y : Syl), sylFor s.dev l c 2 .cmo isReady = some (b, y) → cmoPos y = 0 →
    let r := cmoPages l b.md (cmoOp b.md y.word) (fld y.word 18 2) (sread (getCtx s.dev l c) (fRA y.word))
      (sread (getCtx s.dev l c) (fRB y.word)).toNat (ceilDiv (sread (getCtx s.dev l c) (fRB y.word)).toNat 4096 + 1) s.dev 0
    r.2.2 = false → exec (.cmo l c) s = .next (s.withDev (setSyl r.1 l c 2 .held []))) ∧
  (∀ (s : State) (l c : Nat) (b : WB) (y : Syl), sylFor s.dev l c 2 .cmosw isReady = some (b, y) → fld y.word 18 2 = 0 →
    let w := (sread (getCtx s.dev l c) (fRA y.word)).toNat
    exec (.cmosw l c) s = .next (s.withDev (setSyl
      (updCl s.dev l (fun k => { k with ic := Tab.erase k.ic (w % 256 * 4 + bitsOf w 16 4 % 4) })) l c 2 .held []))) ∧
  (∀ (s : State) (l c : Nat) (b : WB) (y : Syl), sylFor s.dev l c 2 .cmo (· == .held) = some (b, y) → s.dev.reqs = [] →
    exec (.maintenanceComplete l c) s = .next (s.withDev (settle (retireIf (withSyl s.dev l c 2 b y .done []) l c) l))) ∧
  (∀ (s : State) (l c o : Nat) (v : Word) (y : Syl), icWrite s.dev l c = some (o, v, y) → isSet v CL_ICCTL.INVALL = true →
    y.eff = [] → exec (.icacheInvall l c) s = .next (s.withDev (setSyl
      (rsetB (updCl s.dev l (fun k => { k with ic := [] })) (clOff l 0x700) CL_ICCTL.BUSY true) l c 1 .fixed [.setc o v]))) ∧
  (∀ (s : State) (l : Nat), rbit s.dev (clOff l 0x700) CL_ICCTL.BUSY = true →
    exec (.icacheInvallComplete l) s = .next (s.withDev ((List.range 8).foldl
      (fun d c => match icWrite d l c with
        | some (_, _, y) => if y.eff = [] then d else settle (retireIf (setSyl d l c 1 .done y.eff) l c) l
        | none => d)
      (rsetB (updCl s.dev l (fun k => { k with ic := [] })) (clOff l 0x700) CL_ICCTL.BUSY false)))) ∧
  (∀ (s : State) (l c o : Nat) (v : Word) (y : Syl), icWrite s.dev l c = some (o, v, y) → isSet v CL_ICCTL.INVALL = false →
    exec (.icacheEnableWrite l c) s = .next (s.withDev (setSyl s.dev l c 1 .done [.setc o v]))) ∧
  (∀ (s : State) (l c : Nat) (b : WB) (y : Syl), sylFor s.dev l c 1 .setc (· == .held) = some (b, y) →
    selOff l c (fSEL y.word) = clOff l 0x500 → mereQuiet s.dev l c = true →
    exec (.clMereResize l c) s = .next (s.withDev (settle (retireIf (setSyl (resizeMere s.dev l
      (getF (fixStored (clOff l 0x500) 0 (sread (getCtx s.dev l c) (fRD y.word))) CL_MERE.WAYS)) l c 1 .done []) l c) l))) ∧
  (∀ (s : State) (l c : Nat) (b : WB) (y : Syl), sylFor s.dev l c 1 .setc (· == .fixed) = some (b, y) →
    let o := selOff l c (fSEL y.word)
    0x480 ≤ o - clOff l 0 → o - clOff l 0 < 0x4C0 → tileNamed s.dev l ((o - clOff l 0 - 0x480) / 8) = false →
    exec (.clTstateWrite l c) s = .next (s.withDev (settle (retireIf (withSyl s.dev l c 1 b y .done
      [.setc o (sread (getCtx s.dev l c) (fRD y.word))]) l c) l))) ∧
  (∀ (s : State) (l c : Nat) (b : WB) (y : Syl) (i : Instr) (op : Op),
    (i, op) ∈ [(Instr.ifsave l c, Op.ifsave), (.ifload l c, .ifload)] → sylFor s.dev l c 2 op isReady = some (b, y) →
    let a := memAddr (getCtx s.dev l c) y.word
    a.toNat % 64 ≠ 0 → exec i s = .next (s.withDev (withSyl s.dev l c 2 b y (.faulted ⟨6, a⟩) []))) ∧
  (∀ (s : State) (l c : Nat) (b : WB) (y : Syl) (d : Dev) (es : List Eff) (got : List (List Byte)),
    sylFor s.dev l c 2 .ifsave isReady = some (b, y) →
    let a := memAddr (getCtx s.dev l c) y.word
    let us := recordUnits (if fRD y.word % 2 = 0 then (getCtx s.dev l c).heldD else (getCtx s.dev l c).heldS)
    a.toNat % 64 = 0 →
    ((List.range us.length).zip us).foldl (saveUnit l c b a) (.go s.dev [] []) = .go d es got →
    exec (.ifsave l c) s = .next (s.withDev (setSyl d l c 2 .done es))) ∧
  (∀ (s : State) (l c : Nat) (b : WB) (y : Syl) (d1 d2 : Dev) (e1 e2 : List Eff) (hs us : List (List Byte)),
    sylFor s.dev l c 2 .ifload isReady = some (b, y) →
    let a := memAddr (getCtx s.dev l c) y.word
    a.toNat % 64 = 0 → loadUnit l c b a (.go s.dev [] []) 0 = .go d1 e1 hs → badRecord b.md hs = none →
    ((List.range (numAt (hs.headD []) 0 2 + numAt (hs.headD []) 2 2)).map (· + 1)).foldl (loadUnit l c b a) (.go d1 [] hs)
      = .go d2 e2 us → badRecord b.md us = none →
    exec (.ifload l c) s = .next (s.withDev (setSyl d2 l c 2 .done [.ifload (fRD y.word % 2) ((us.drop 1).map (entryOp b.md))])))

/-- THREAD_ALU, THREAD_LOAD, THREAD_ATOMIC, TBC, THREAD_BRANCH_RESOLVE, TEXIT, GYIELD, GVOTE, GSHFL, GXLD, GXST, GBAR (R116 to R122,
R128, R137 to R140). -/
def Obligations.ThreadGroups : Prop :=
  (∀ (s : State) (l n c : Nat) (x : Ctx) (o : QOp), vHead s.dev l = some (c, x, o) → qopOp o = some .talu →
    let hi := min 64 ((o.pos / 8 + n) * 8)
    let a := (upTo o.pos hi).foldl (threadLane s.dev l c o) ⟨x, 0, false, none⟩
    a.stop = none →
    exec (.threadAlu l n) s = .next (s.withDev (setVHead (setCtx s.dev l c
      { a.x with vp := { a.x.vp with fl := a.x.vp.fl ||| a.fl } }) l c { o with pos := max o.pos hi }))) ∧
  (∀ (s : State) (l n c : Nat) (x : Ctx) (o : QOp), vHead s.dev l = some (c, x, o) → qopOp o = some .tload →
    exec (.threadLoad l n) s = .next (s.withDev (memGroups l n .tload s.dev))) ∧
  (∀ (s : State) (l n c : Nat) (x : Ctx) (o : QOp), vHead s.dev l = some (c, x, o) → qopOp o = some .tatomic →
    (fORD o.syl).testBit 1 = false →
    exec (.threadAtomic l n) s = .next (s.withDev (memGroups l n .tatomic s.dev))) ∧
  (∀ (s : State) (l c : Nat) (x : Ctx) (o : QOp), vHead s.dev l = some (c, x, o) → qopOp o = some .tbc → x.vp.fin = false →
    let r := threadBranchAll o (afterDelay s.dev l c) x
    let d := setCtx s.dev l c { r.1 with delay := r.1.delay.map (fun dl => { dl with follow := r.2 }), vp := { r.1.vp with fin := true } }
    exec (.tbc l) s = .next (s.withDev { d with freeCtr := d.freeCtr + 1 })) ∧
  (∀ (s : State) (l c : Nat) (dl : Delay), (getCl s.dev l).vrun = none → (getCtx s.dev l c).delay = some dl →
    dl.unresolved = true → branchQueued (getCtx s.dev l c) = false →
    exec (.threadBranchResolve l c) s = .next (s.withDev (updCtx s.dev l c
      (fun x => { x with delay := some { dl with unresolved := false } })))) ∧
  (∀ (s : State) (l c : Nat) (b : WB) (w : Syllable), ownBundle s.dev l c .texit = some (b, w) →
    let d := onLanes b.act (retire s.dev l c) (fun d t => setSt d l c t 3)
    let live := maskOf 64 (fun t => (glive d l c).testBit t && !b.act.testBit t)
    let d := rset d (csOff l c 0x50) (BitVec.ofNat 64 live)
    exec (.texit l c) s = .next (s.withDev (settle
      (if live = 0 then updCtx d l c (fun x => { x with stop := true, colls := [] }) else checkColls d l c) l))) ∧
  (∀ (s : State) (l c : Nat) (b : WB) (w : Syllable), ownBundle s.dev l c .gyield = some (b, w) →
    exec (.gyield l c) s = .next (s.withDev (settle (yieldThreads (retire s.dev l c) l c b.act) l))) ∧
  (∀ (s : State) (l c : Nat) (b : WB) (w : Syllable) (i : Instr) (op : Op),
    (i, op) ∈ [(Instr.gvote l c, Op.gvote), (.gshfl l c, .gshfl), (.gxld l c, .gxld), (.gxst l c, .gxst)] →
    ownBundle s.dev l c op = some (b, w) → (getCtx s.dev l c).vq = [] → (getCtx s.dev l c).ufault = none →
    issueMask (getCtx s.dev l c) op w = 0 →
    let d := if op = .gvote then updCtx s.dev l c (fun x => swrite x (fRD w) 0) else s.dev
    exec i s = .next (s.withDev (settle (freeW (collLoop (retireThreads d l c b b.act) l c b b.act) l c) l))) ∧
  (∀ (s : State) (l c : Nat) (b : WB) (w : Syllable) (i : Instr) (op : Op),
    (i, op) ∈ [(Instr.gvote l c, Op.gvote), (.gshfl l c, .gshfl), (.gxld l c, .gxld), (.gxst l c, .gxst)] →
    ownBundle s.dev l c op = some (b, w) → (getCtx s.dev l c).vq = [] → (getCtx s.dev l c).ufault = none →
    let m := issueMask (getCtx s.dev l c) op w
    m ≠ 0 → splitters s.dev l c m b.addr = 0 → maskDiffers (getCtx s.dev l c) b.addr m = false →
    let d := arrive s.dev l c b m (some m)
    waitingAt d l c b.addr &&& m = m →
    exec i s = .next (s.withDev (settle (freeW (collLoop (finishColl (perform d l c op b w m) l c m b.addr
      (b.addr + BitVec.ofNat 64 (4 * b.len))) l c b m) l c) l))) ∧
  (∀ (s : State) (l c : Nat) (b : WB) (w : Syllable), ownBundle s.dev l c .gbar = some (b, w) →
    let m := glive s.dev l c
    splitters s.dev l c m b.addr = 0 →
    let d := arrive s.dev l c b m none
    let e := if waitingAt d l c b.addr &&& m = m then gbarLoop d l c b m else d
    exec (.gbar l c) s = .next (s.withDev (settle (gbarTry (checkColls (freeW e l c) l c) l
      (rgetF s.dev (csOff l c 0x48) CL_GCTL.BLOCK)) l)))

/-- VECTOR_OP_START, VADD, VFADD, VSADD, VCMP, VCVT, VMAND, VPACK, VUNPACK, VMPOP, VCOMPRESS, VEXPAND, VPERM, VMATCH, VMERGE, VREDSUM,
VFREDOSUM, SUMMARY_ARRIVAL, VECTOR_OP_COMPLETE (R194 to R208, R212, R213). -/
def Obligations.VectorUnit : Prop :=
  (∀ (s : State) (l c : Nat), (getCl s.dev l).vrun = none → unitPick s.dev l (vStartable s.dev l) (getCl s.dev l).vwait = some c →
    (getCtx s.dev l c).vp.yield = none →
    exec (.vectorOpStart l) s = .next (s.withDev (updCl s.dev l
      (fun k => { k with vrun := some c, vwait := unitWaits (vStartable s.dev l) k.vwait c })))) ∧
  (∀ (s : State) (l n c : Nat) (x : Ctx) (o : QOp) (i : Instr) (op : Op),
    (i, op) ∈ [(Instr.vadd l n, Op.vadd), (.vfadd l n, .vfadd), (.vsadd l n, .vsadd), (.vcmp l n, .vcmp), (.vcvt l n, .vcvt)] →
    vHead s.dev l = some (c, x, o) → qopOp o = some op →
    let hi := min (cfgVl o.vcfg) ((o.pos / groupElems o + n) * groupElems o)
    let a := (upTo o.pos hi).foldl (vEnter o) ⟨x, 0, false, none⟩
    a.stop = none →
    exec i s = .next (s.withDev (setVHead (setCtx s.dev l c
      { a.x with vp := { a.x.vp with fl := a.x.vp.fl ||| a.fl, xsat := a.x.vp.xsat || a.sat } }) l c { o with pos := max o.pos hi }))) ∧
  (∀ (s : State) (l c : Nat) (x : Ctx) (o : QOp) (i : Instr) (op : Op) (k : Ctx → QOp → Ctx × Option (Bool × Nat × Word)),
    (i = .vmand l ∧ op = .vmand ∧ k = vMaskOp ∨ i = .vpack l ∧ op = .vpack ∧ k = vPackOp ∨
     i = .vunpack l ∧ op = .vunpack ∧ k = vUnpackOp ∨ i = .vmpop l ∧ op = .vmpop ∧ k = vSummaryOp ∨
     i = .vcompress l ∧ op = .vcompress ∧ k = vCompressOp ∨ i = .vexpand l ∧ op = .vexpand ∧ k = vExpandOp ∨
     i = .vperm l ∧ op = .vperm ∧ k = vPermOp ∨ i = .vmatch l ∧ op = .vmatch ∧ k = vMatchOp ∨
     i = .vmerge l ∧ op = .vmerge ∧ k = vMergeOp) →
    vHead s.dev l = some (c, x, o) → qopOp o = some op → x.vp.fin = false →
    let d := setCtx s.dev l c { (k x o).1 with vp := { (k x o).1.vp with fin := true } }
    exec i s = .next (s.withDev (match (k x o).2 with
      | some (toFlag, idx, v) => if toFlag = false ∧ idx = 0 then d else updCl d l (fun u => { u with summ := u.summ ++ [⟨c, toFlag, idx, v⟩] })
      | none => d))) ∧
  (∀ (s : State) (l c : Nat) (x : Ctx) (o : QOp), vHead s.dev l = some (c, x, o) → qopOp o = some .vredsum → x.vp.fin = false →
    majorOf o.syl = 0x24 → fRD o.syl ≠ 0 →
    exec (.vredsum l) s = .next (s.withDev (updCl (setCtx s.dev l c { x with vp := { x.vp with fin := true } }) l
      (fun u => { u with summ := u.summ ++ [⟨c, false, fRD o.syl, vIntRed x o⟩] })))) ∧
  (∀ (s : State) (l c : Nat) (x : Ctx) (o : QOp), vHead s.dev l = some (c, x, o) → qopOp o = some .vfredosum → x.vp.fin = false →
    majorOf o.syl ≠ 0x24 → fRD o.syl ≠ 0 → (ERes.float o.md (vFloatRed x o)).trap = none →
    exec (.vfredosum l) s = .next (s.withDev (updCl (setCtx s.dev l c
      { x with vp := { x.vp with fl := x.vp.fl ||| (vFloatRed x o).2, fin := true } }) l
      (fun u => { u with summ := u.summ ++ [⟨c, false, fRD o.syl, BitVec.ofNat 64 (vFloatRed x o).1⟩] })))) ∧
  (∀ (s : State) (l : Nat) (m : Summary) (rest : List Summary), (getCl s.dev l).summ = m :: rest →
    let d := updCl s.dev l (fun k => { k with summ := rest })
    exec (.summaryArrival l) s = .next (s.withDev (refreshPend (if m.toFlag = true
      then rset d (clOff l (0x400 + 8 * m.ctx)) (setB (rget d (clOff l (0x400 + 8 * m.ctx))) ⟨m.idx, 1⟩ (m.val != 0))
      else updCtx d l m.ctx (fun x => swrite x m.idx m.val)) l m.ctx))) ∧
  (∀ (s : State) (l c : Nat) (x : Ctx) (o : QOp), vHead s.dev l = some (c, x, o) →
    (x.vp.fin = true ∨ isWhole o = false ∧ vTotal o ≤ o.pos) → x.vp.waiting = [] → x.vp.fault = none → o.fault = false →
    let d := accrue s.dev l c
    let d := if qopOp o = some .tatomic ∧ (fORD o.syl).testBit 0 = true then acquireAt d l (fSCOPE o.syl) else d
    let d := updCl (updCtx d l c (fun x => { x with vq := x.vq.drop 1, vp := Prog.empty })) l (fun k => { k with vrun := none })
    exec (.vectorOpComplete l) s = .next (s.withDev (refreshPend (rset d (csOff l c 0x78) 0) l c)))

/-- VLD, VLSEG, VLDX, VSTX, VSTXR, LOAD_GROUP_ARRIVAL, VECTOR_WALK_RESUME (R219 to R229). -/
def Obligations.VectorMemory : Prop :=
  (∀ (s : State) (l n c : Nat) (x : Ctx) (o : QOp) (i : Instr) (op : Op),
    (i, op) ∈ [(Instr.vld l n, Op.vld), (.vlseg l n, .vlseg), (.vldx l n, .vldx), (.vstx l n, .vstx), (.vstxr l n, .vstxr)] →
    vHead s.dev l = some (c, x, o) → qopOp o = some op → x.vp.fault = none →
    let hi := min (memTotal o) ((o.pos / memE o + n) * memE o)
    let m := (upTo o.pos hi).foldl (memEnter l c o) ⟨s.dev, none, none, []⟩
    m.why = none →
    let d := setVHead m.d l c { o with pos := m.at_.getD (max o.pos hi) }
    exec i s = .next (s.withDev (settleReset s.dev (if memArrives o = true
      then updCtx d l c (fun x => { x with vp := { x.vp with waiting := m.groups.foldl (fun w g => insertAsc g w) x.vp.waiting } })
      else d) l))) ∧
  (∀ (s : State) (l c g : Nat) (o : QOp) (q : List QOp) (more : List Nat), (getCtx s.dev l c).vq = o :: q →
    (getCtx s.dev l c).vp.waiting = g :: more →
    let mine := (reqsOf s.dev l).filter (fun e => e.2.src == .vector c &&
      (match e.2.kind with | .read => e.2.elem == g | .atomic _ _ _ => e.2.elem / 8 == g | _ => false))
    mine.any (fun e => e.2.stage != .done) = false →
    let reads := mine.filter (fun e => e.2.kind == .read)
    let d := reads.foldl (fun d e => if e.2.status = 0 then clusterFill (dropReq d e.1) l e.2.da e.2.out false false
      else dropReq d e.1) s.dev
    let r1 := arriveElems d l c o (reads.map (·.2)) (upTo (g * memE o) (g * memE o + memE o))
    let r2 := arriveAtomics r1.1 l c o (mine.filter (fun e => e.2.kind != .read))
    let d := updCtx r2.1 l c (fun x => { x with vp := { x.vp with
      waiting := more, got := x.vp.got.filter (fun p => !(p.1 / 8 / memE o == g)),
      need := x.vp.need.filter (fun p => !(p.1 / 8 / memE o == g)) } })
    exec (.loadGroupArrival l c g) s = .next (s.withDev
      (match (match r1.2 with | some p => some p | none => r2.2), more, (getCtx s.dev l c).vp.fault with
        | some (i, t), _, _ => memStopAt d l c i t
        | none, [], some (i, t) => memStopAt d l c i t
        | none, _, _ => d))) ∧
  (∀ (s : State) (l c : Nat), (getCl s.dev l).vrun = none → unitPick s.dev l (vStartable s.dev l) (getCl s.dev l).vwait = some c →
    (getCtx s.dev l c).vp.yield = some .ready →
    exec (.vectorWalkResume l) s = .next (s.withDev (updCtx (updCl s.dev l
      (fun k => { k with vrun := some c, vwait := unitWaits (vStartable s.dev l) k.vwait c })) l c
      (fun x => { x with vp := { x.vp with yield := none } }))))

/-- MATRIX_OP_START, XOPA, TLD, TST, TACC, TZERO, TREL, MATRIX_OP_COMPLETE (R240 to R264, R272). -/
def Obligations.MatrixUnit : Prop :=
  (∀ (s : State) (l c : Nat) (o : QOp) (q : List QOp), (getCl s.dev l).xrun = none →
    unitPick s.dev l (xStartable s.dev l) (getCl s.dev l).xwait = some c → (getCtx s.dev l c).xq = o :: q →
    opX o.md.gm o.syl ≠ some .gxld → opX o.md.gm o.syl ≠ some .gxst →
    let d := updCl s.dev l (fun k => { k with xrun := some c, xwait := unitWaits (xStartable s.dev l) k.xwait c })
    setupFault d l c o = none →
    exec (.matrixOpStart l) s = .next (s.withDev
      (updCtx (setupDeclare d l c o) l c (fun x => { x with xp := { x.xp with setup := true } })))) ∧
  (∀ (s : State) (l n c : Nat) (x : Ctx) (o : QOp) (i : Instr) (op : Op) (size : Nat) (bad : Dev → Nat → Option Word)
    (unit : Dev → Nat → Dev),
    (i = .xopa l n ∧ op = .xopa ∧ size = xPasses (xopaType o.syl) ∧ bad = (fun d g => xopaErr d l o g) ∧
        unit = (fun d g => xopaGroup d l c o g) ∨
     i = .tld l n ∧ op = .tld ∧ size = 1 ∧ bad = (fun d r => imgErr d l (fld o.syl 0 3) o r) ∧
        unit = (fun d r => tldUnit d l c o r) ∨
     i = .tst l n ∧ op = .tst ∧ size = 1 ∧ bad = (fun d r => tstErr d l o r) ∧ unit = (fun d r => tstUnit d l c o r) ∨
     i = .tacc l n ∧ op = .tacc ∧ size = 1 ∧ bad = (fun d r => taccErr d l o r) ∧ unit = (fun d r => taccUnit d l c o r)) →
    xHead s.dev l = some (c, x, o) → qopOp o = some op → x.xp.setup = true →
    let more (a : Option (Dev × Nat)) : Option (Dev × Nat) := a.bind (fun a =>
      if xTotal o ≤ a.2 then some a
      else match bad a.1 (a.2 / size) with
        | some _ => none
        | none => some (unit a.1 (a.2 / size), (a.2 / size + 1) * size))
    ∀ d p, Nat.repeat more n (some (s.dev, o.pos)) = some (d, p) →
    exec i s = .next (s.withDev (setXHead d l c { o with pos := p }))) ∧
  (∀ (s : State) (l c : Nat) (x : Ctx) (o : QOp), xHead s.dev l = some (c, x, o) → x.xp.setup = true → x.xp.fin = false →
    let fin (d : Dev) : Dev := updCtx d l c (fun x => { x with xp := { x.xp with fin := true } })
    (qopOp o = some .tzero → exec (.tzero l) s = .next (s.withDev
      (fin (tDeclare s.dev l (xTD o.syl) (fld o.syl 6 3) c (fld o.syl 13 6 + 1) (fld o.syl 9 4 + 1))))) ∧
    (qopOp o = some .trel → exec (.trel l) s = .next (s.withDev (fin (tRelease s.dev l (xTD o.syl)))))) ∧
  (∀ (s : State) (l c : Nat) (x : Ctx) (o : QOp), xHead s.dev l = some (c, x, o) → x.xp.setup = true → o.fault = false →
    (if opX o.md.gm o.syl ∈ [some .tzero, some .trel, some .gxld, some .gxst] then x.xp.fin = true else xTotal o ≤ o.pos) →
    let d := updCl (updCtx (accrue s.dev l c) l c (fun x => { x with xq := x.xq.drop 1, xp := Prog.empty })) l
      (fun k => { k with xrun := none })
    exec (.matrixOpComplete l) s = .next (s.withDev (refreshPend (rset d (clOff l (0x440 + 8 * c)) 0) l c)))

/-- COPY, COPY_START, COPY_SECTOR_RETURN, COPY_FINISH, COPY_FAIL (R285 to R295). -/
def Obligations.CopyEngine : Prop :=
  (∀ (s : State) (l c : Nat) (b : WB) (y : Syl), sylFor s.dev l c 2 .copy isReady = some (b, y) →
    let w := (List.range 4).map (fun i => sread (getCtx s.dev l c) (fRA y.word + i))
    exec (.copy l c) s = .next (s.withDev (
      if fRA y.word % 4 ≠ 0 ∨ descBad w = true then withSyl s.dev l c 2 b y (.faulted (sylTrap 3 y.word)) []
      else match mereBadOff s.dev l (copyOf c w) with
        | some o => withSyl s.dev l c 2 b y (.faulted ⟨0x10, BitVec.ofInt 64 o⟩) []
        | none => withSyl s.dev l c 2 b y .done [.copy w]))) ∧
  (∀ (s : State) (l id : Nat) (cp : Copy),
    List.find? (fun e : Nat × Copy => !e.2.active && e.2.park.isNone && e.2.fail.isNone && !e.2.done) (getCl s.dev l).copies = some (id, cp) →
    activeCopies (getCl s.dev l) < 8 →
    exec (.copyStart l) s = .next (s.withDev (copyBegin (setCopy s.dev l id { cp with active := true }) l id))) ∧
  (∀ (s : State) (l id : Nat) (cp : Copy), Tab.find? (getCl s.dev l).copies id = some cp →
    (copyOut s.dev l id = none → exec (.copySectorReturn l id) s = .next (s.withDev (copyBegin s.dev l id))) ∧
    (∀ rid r u, copyOut s.dev l id = some (rid, r) → r.stage = .done → r.status = 0 → copyNext cp = some u →
      (r.kind ≠ .read → exec (.copySectorReturn l id) s =
        .next (s.withDev (copyBegin (setCopy (dropReq s.dev rid) l id (copySkip cp u.n)) l id))) ∧
      (r.kind = .read → cpKind cp ≠ 1 →
        let d := clusterFill (dropReq s.dev rid) l r.da r.out false false
        exec (.copySectorReturn l id) s = .next (s.withDev (match clusterRead d l (r.da + u.src.toNat % 64) u.n false with
          | (some (v, bad), d) => if bad = true then copyStop d l id cp 3 u.src else copyWrite d l id cp u v
          | (none, d) => copyWrite d l id cp u (bitsOf r.out (8 * (u.src.toNat % 64)) (8 * u.n))))))) ∧
  (∀ (s : State) (l id : Nat) (cp : Copy), Tab.find? (getCl s.dev l).copies id = some cp → cp.done = true → cp.fail = none →
    let d := refreshCpstat (updCl s.dev l (fun k => { k with copies := Tab.erase k.copies id })) l cp.ctx
    let o := arrOff l cp.ctx (cpCtr cp)
    exec (.copyFinish l id) s = .next (s.withDev (warrSettle (rset d o (rget d o + 1)) l cp.ctx))) ∧
  (∀ (s : State) (l id cause : Nat) (cp : Copy) (a : Word), Tab.find? (getCl s.dev l).copies id = some cp → cp.fail = some (cause, a) →
    let d := captureCopy s.dev l cp cause a
    exec (.copyFail l id) s = .next (s.withDev (endCopy (if running d l cp.ctx = true ∧ (getCtx d l cp.ctx).stop = false
      then updCtx d l cp.ctx (fun x => { x with dcf := some (x.dcf.getD (rget d (clOff l (0x680 + 8 * cp.ctx)))) })
      else d) l id cp)))

/-- QUARTER_CACHE_REQUEST, PREFETCH_FILL, SIDE_BUFFER_PROMOTE, WAY_POWER_DOWN, WAY_DRAIN_COMPLETE, WAY_POWER_UP (R300 to R316). -/
def Obligations.CacheUnits : Prop :=
  (∀ (s : State) (id k off : Nat) (r : Req), Tab.find? s.dev.reqs id = some r → r.stage = .toQuarter → r.tgt = .stack k off →
    reqBlocked s.dev id r = false → (getQ s.dev (k / 6)).held = false →
    let q := k / 6
    let held (p : Nat × Sline) : Bool := slHit p.2 (r.da / 64 % 8 * 64) 64
    (∀ key ln, qcFind s.dev q r.da = some (key, ln) → held (key, ln) = true →
      (r.kind = .read → exec (.quarterCacheRequest id) s = .next (s.withDev
        (finishReq s.dev id (if ln.bad.testBit (r.da / 64 % 8) = true then 0x13 else 0) (slRead ln (r.da % 512) r.len)))) ∧
      (r.kind = .write → exec (.quarterCacheRequest id) s = .next (s.withDev
        (finishReq (homeWrite s.dev r.da k off r.len r.mask r.data (r.status == 3)) id 0 0)))) ∧
    ((∀ key ln, qcFind s.dev q r.da = some (key, ln) → held (key, ln) = false) →
      (r.kind = .read → exec (.quarterCacheRequest id) s = .next (s.withDev (goStack s.dev id))) ∧
      (r.kind = .write → r.status = 0 → r.len = 64 → r.mask = ones 64 → qcTakes s.dev q r.da = true →
        exec (.quarterCacheRequest id) s = .next (s.withDev
          (finishReq (homeWrite s.dev r.da k off 64 (ones 64) r.data false) id 0 0))) ∧
      (r.kind = .write → (r.status ≠ 0 ∨ r.len ≠ 64 ∨ r.mask ≠ ones 64 ∨ qcTakes s.dev q r.da = false) →
        exec (.quarterCacheRequest id) s = .next (s.withDev (goStack s.dev id))))) ∧
  (∀ (s : State) (id : Nat) (r : Req), Tab.find? s.dev.reqs id = some r → r.src = .prefetch 0 → r.stage = .done → r.status = 0 →
    sectorHeld (dropReq s.dev id) r.cl r.da = false →
    exec (.prefetchFill id) s = .next (s.withDev (sideFill (dropReq s.dev id) r.cl r.da r.out false))) ∧
  (∀ (s : State) (l da : Nat), (sideFind s.dev l da).isSome = true → hasCC s.dev l = true →
    exec (.sideBufferPromote l da) s = .next (s.withDev (promote s.dev l da))) ∧
  (∀ (s : State) (q w : Nat), wayBit s.dev q w QT_QWAY.ON = true → wayBit s.dev q w QT_QWAY.DRAIN = false →
    exec (.wayPowerDown q w) s = .next (s.withDev (setWay s.dev q w QT_QWAY.DRAIN true))) ∧
  (∀ (s : State) (q w : Nat), wayBit s.dev q w QT_QWAY.DRAIN = true →
    let d := updQ (setWay (drainWay s.dev q w) q w QT_QWAY.DRAIN false) q (fun u => { u with upAfter := u.upAfter.filter (· != w) })
    exec (.wayDrainComplete q w) s = .next (s.withDev (if (getQ s.dev q).upAfter.contains w = true then d
      else domSet (setWay d q w QT_QWAY.ON false) (domWay q w) false))) ∧
  (∀ (s : State) (q w : Nat),
    (wayBit s.dev q w QT_QWAY.DRAIN = false → wayBit s.dev q w QT_QWAY.ON = false →
      exec (.wayPowerUp q w) s = .next (s.withDev (setWay (domSet s.dev (domWay q w) true) q w QT_QWAY.ON true))) ∧
    (wayBit s.dev q w QT_QWAY.DRAIN = true → (getQ s.dev q).upAfter.contains w = false →
      exec (.wayPowerUp q w) s = .next (s.withDev (updQ s.dev q (fun u => { u with upAfter := u.upAfter ++ [w] })))))

/-- TLB_MISS, WALK_START, WALK_COMPLETE, FAULT_RECORD_SEND, FAULT_RECORD_FREE_WAIT (R320 to R330). -/
def Obligations.TranslationUnits : Prop :=
  (∀ (s : State) (l asid : Nat) (item : Item) (wt : Waiter), itemNeed s.dev l item = some (wt, asid) →
    let q := quarterOf s.dev l
    let u := getQ s.dev q
    alreadyWaits u wt = false → s.dev.wfdPend = [] →
    (∀ e, quarterHit s.dev q asid wt.va wt.user (accOf wt.acc) = some e →
      exec (.tlbMiss l item) s = .next (s.withDev (waiterReady (clusterTlb s.dev l e) wt))) ∧
    (quarterHit s.dev q asid wt.va wt.user (accOf wt.acc) = none →
      (∀ i w, List.find? (fun e : Nat × Walk => e.2.asid == asid && e.2.va.toNat / 4096 == wt.va.toNat / 4096) u.walks = some (i, w) →
        exec (.tlbMiss l item) s = .next (s.withDev
          (updQ s.dev q (fun u => { u with walks := Tab.insert u.walks i { w with who := w.who ++ [wt] } })))) ∧
      (List.find? (fun e : Nat × Walk => e.2.asid == asid && e.2.va.toNat / 4096 == wt.va.toNat / 4096) u.walks = none →
        u.missq.length < 512 →
        exec (.tlbMiss l item) s = .next (s.withDev (updQ s.dev q (fun u => { u with missq := u.missq ++
          [{ asid := asid, va := wt.va, acc := wt.acc, user := wt.user, who := [wt], got := [], bad := [] }] })))))) ∧
  (∀ (s : State) (q i : Nat) (w : Walk) (r : List Walk), (getQ s.dev q).missq = w :: r →
    findUpto 16 (fun i => (Tab.find? (getQ s.dev q).walks i).isNone) = some i → s.dev.wfdPend = [] →
    exec (.walkStart q) s = .next (s.withDev (refreshBusy (updQ s.dev q
      (fun u => { u with missq := r, walks := Tab.insert u.walks i w })) q))) ∧
  (∀ (s : State) (q i : Nat) (w : Walk), Tab.find? (getQ s.dev q).walks i = some w →
    let p := walkTake s.dev q i w
    (∀ d kind level, walkGo p.1 q i p.2 = .fault d kind level →
      exec (.walkComplete q i) s = .next (s.withDev (walkFaulted d q i p.2 kind level))) ∧
    (∀ d pa lo e a level wr us ex, walkGo p.1 q i p.2 = .leaf d pa lo e a level wr us ex →
      (p.2.acc = 1 → wr = true) → (p.2.user = true → us = true) → (p.2.acc = 2 → ex = true) →
      flagIn d 3 e true = true → (p.2.acc = 1 → flagIn d 4 e true = true) →
      exec (.walkComplete q i) s = .next (s.withDev (walkFilled d q i p.2 pa lo wr us ex (flagIn d 4 e true))))) ∧
  (∀ (s : State) (q i : Nat) (r : FRec), Tab.find? (getQ s.dev q).recs i = some r → r.sent = false → silent s.dev = false →
    hostReachable s.dev = true →
    exec (.faultRecordSend q i) s = .next (s.withDev (updQ (sendUp s.dev 0x26 0 0 (recBytes (1024 * q + i) r)) q
      (fun u => { u with recs := Tab.insert u.recs i { r with sent := true } })))) ∧
  (∀ (s : State) (q i l c : Nat) (r : List WalkFor) (p : Park) (d : Dev), (getQ s.dev q).recWait = .ctx l c :: r →
    (getCtx s.dev l c).park = some p → p.tag = none →
    joinRecord (updQ s.dev q (fun u => { u with recWait := r })) q p.fault.tval p.kind p.access p.level (getCtx s.dev l c).cur.asid p.dev
      (firstCtx l c) = some (i, d) →
    exec (.faultRecordFreeWait q) s = .next (s.withDev
      (updCtx d l c (fun x => { x with park := some { p with tag := some (1024 * q + i) } }))))

/-- INV_ALL_SPACES, INV_SPACE, INV_RANGE, INVALIDATION_COMPLETE, WALKER_FORMAT_WRITE, RESUME_RETRY, RESUME_UNRESOLVED (R326, R327, R332). -/
def Obligations.TranslationControl : Prop :=
  (∀ (s : State) (ag : Agent) (asid : Nat) (i : Instr) (v : Nat),
    (i, v) ∈ [(Instr.invAllSpaces ag, regOf [(TR_INV.OP, 1)]), (.invSpace ag asid, regOf [(TR_INV.OP, 2), (TR_INV.ASID, asid)]),
      (.invRange ag asid, regOf [(TR_INV.OP, 3), (TR_INV.ASID, asid)])] →
    blkAnswers s.dev (.quarter 0) → rbit s.dev invStat TR_INVSTAT.BUSY = false →
    let o := qOff 0 0x1100
    let w := cmdWord s.dev ag o v
    let d := cmdDev s.dev ag o v
    let n := getF w TR_INV.ASID
    let lo := (rget d (qOff 0 0x1108)).toNat / 4096 * 4096
    let len := (rget d (qOff 0 0x1110)).toNat
    (getF w TR_INV.OP = 1 → exec i s = .next (s.withDev
      (rsetB (dropTrans d (fun _ => true) (fun _ => true)) invStat TR_INVSTAT.BUSY true))) ∧
    (getF w TR_INV.OP = 2 → exec i s = .next (s.withDev
      (rsetB (dropTrans d (fun e => e.asid == n) (fun a => a == n)) invStat TR_INVSTAT.BUSY true))) ∧
    (getF w TR_INV.OP = 3 → exec i s = .next (s.withDev (if len = 0 then invDone d
      else rsetB (dropTrans d (tlbIn n lo (lo + len)) (fun a => a == n)) invStat TR_INVSTAT.BUSY true)))) ∧
  (∀ (s : State), rbit s.dev invStat TR_INVSTAT.BUSY = true →
    accessesOut s.dev = false →
    exec .invalidationComplete s = .next (s.withDev
      (invDone (rsetB ((Tab.keys s.dev.cl).foldl cleanCluster s.dev) invStat TR_INVSTAT.BUSY false)))) ∧
  (∀ (s : State) (ag : Agent) (off size q r : Nat) (v : Word), blkOf off = (.quarter q, r) → 0x1000 ≤ r → r < 0x10C0 →
    sizeOk off size = true → blkAnswers s.dev (.quarter q) → (quarterReg (r / 8 * 8)).isSome = true →
    exec (.walkerFormatWrite ag off size v) s = .next (s.withDev
      (wfdWrite s.dev (canonOff s.dev (off / 8 * 8)) (writeMask off size v).1 (writeMask off size v).2))) ∧
  (∀ (s : State) (ag : Agent) (tag a : Nat) (i : Instr), (i, a) ∈ [(Instr.resumeRetry ag tag, 1), (.resumeUnresolved ag tag, 2)] →
    blkAnswers s.dev (.quarter 0) →
    let o := qOff 0 0x1180
    let v := regOf [(TR_RESUME.TAG, tag), (TR_RESUME.ACTION, a)]
    let d := cmdDev s.dev ag o v
    let t := getF (cmdWord s.dev ag o v) TR_RESUME.TAG
    getF (cmdWord s.dev ag o v) TR_RESUME.ACTION = a →
    exec i s = .next (s.withDev (if (Tab.find? (getQ d (t / 1024 % 4)).recs (t % 1024)).isSome = true
      then answerRecord d (t % 4096) (a == 1) else rinc d (qOff 0 0x1188) TR_FAULTSTAT.STALE)))

/-- SU_TRACTCTL_GO, MIGRATE, ADVISE, TRACT_CHUNK_MOVE, ALLOTMENT_EPOCH (R335 to R337, R445, R446). -/
def Obligations.TractMoves : Prop :=
  (∀ (s : State) (ag : Agent),
    let d := cmdParts s.dev ag (suOff 0x1020) (regOf [(SU_TRACTCTL.GO, 1)])
    let w := (List.range 4).map (fun i => rget d (suOff (0x1000 + 8 * i)))
    let c : TractCmd := { words := w, ring := none, started := false, todo := [], done := 0 }
    rbit d (suOff 0x1020) SU_TRACTCTL.BUSY = false →
    exec (.suTractctlGo ag) s = .next (s.withDev (match tcCheck d w with
      | some st => tractEnds d c st
      | none => { rsetB d (suOff 0x1020) SU_TRACTCTL.BUSY true with tractCmd := some c }))) ∧
  (∀ (s : State) (c : TractCmd), s.dev.tractCmd = some c → tcByte c.words 0x10 = 1 → c.started = false →
    let ts := tcTracts c.words
    let todo := ((List.range ts.length).zip ts).map (fun p => (p.2, (tcStack s.dev c.words p.1).getD 0))
    exec .migrate s = .next (s.withDev (tractNext { s.dev with tractCmd := some { c with started := true, todo := todo } }))) ∧
  (∀ (s : State) (c : TractCmd), s.dev.tractCmd = some c → tcByte c.words 0x10 = 2 →
    let h := tcByte c.words 0x11
    let pref := tcByte c.words 0x13 + 256 * tcByte c.words 0x12
    let one (d : Dev) (t : Nat) : Dev :=
      let d := updTract d t (fun x => { x with hints := h, pref := if h.testBit 1 = true then some pref else none,
                                               repl := if h.testBit 2 = true then [] else x.repl })
      if h.testBit 3 = true then discardTract d t else d
    exec .advise s = .next (s.withDev
      (tractEnds ((tcTracts c.words).foldl one s.dev) { c with done := (tcTracts c.words).length } 0))) ∧
  (∀ (s : State) (t : Nat), (getTract s.dev t).moving.isSome = true → (getTract (moveChunk s.dev t) t).moving.isSome = true →
    exec (.tractChunkMove t) s = .next (s.withDev (moveChunk s.dev t))) ∧
  (∀ (s : State), s.dev.plat.allot = true →
    let ts := (epochTracts s.dev).filter (tractInWindows s.dev)
    let d := if silent s.dev = true then s.dev
      else ([ruleVacate, rulePref, ruleLocal, ruleRepl].foldl (fun e rule => ts.foldl rule e) (s.dev, 64)).1
    let d := ts.foldl (fun d t =>
      let a := Tab.get [0, 0, 0, 0] d.lv.epochAcc t
      updTract d t (fun x => { x with
        acc := a.sum, topq := (List.range 4).foldl (fun b q => if a.getD b 0 < a.getD q 0 then q else b) 0 })) d
    let d := rinc d (suOff 0x1200) SU_ALLOTSTAT.EPOCH
    let d := rsetF d (suOff 0x1200) SU_ALLOTSTAT.REPL ((d.tracts.map (fun e => e.2.repl.length)).sum)
    exec .allotmentEpoch s = .next (s.withDev (updLv d (fun v => { v with epochOld := v.epochAcc, epochAcc := [] }))))

/-- STACK_REQUEST_ADMIT, STACK_REQUEST_COMPLETE, ATOMIC_UNIT_APPLY (R341, R348 to R350). -/
def Obligations.StackRequests : Prop :=
  (∀ (s : State) (id k off : Nat) (r : Req), Tab.find? s.dev.reqs id = some r → r.stage = .toStack → r.tgt = .stack k off →
    rbit s.dev (stkOff k 0x18) MS_STAT.SR = false → inMotion s.dev k off = false → (getQ s.dev (k / 6)).held = false →
    writeAhead s.dev id r = false →
    let n := (heldReqs s.dev k).filter (fun e => match reqStack e.2 with
      | some (_, o) => chanOf s.dev k o == chanOf s.dev k off | none => false)
    let m := (getStk s.dev k).nextOrd
    exec (.stackRequestAdmit id) s = .next (s.withDev (
      if stackLen s.dev k ≤ off then finishReq s.dev id 1 0
      else if 64 ≤ n.length then rset s.dev (stkOff k 0x28) (rget s.dev (stkOff k 0x28) + 1)
      else updReq (updStk s.dev k (fun s => { s with nextOrd := m + 1 })) id (fun r => { r with stage := .admitted m, passed := 0 })))) ∧
  (∀ (s : State) (id k off : Nat) (r : Req), Tab.find? s.dev.reqs id = some r → r.tgt = .stack k off → mayFinish s.dev r = true →
    let d := sampleAccess (notePassed s.dev r) k r
    (r.kind = .read →
      let g := homeRead d r.da k off r.len
      let e := homeNote d r.da k off (eccKind d r)
      exec (.stackRequestComplete id) s = .next (s.withDev (finishReq
        (if r.qcache = true ∧ g.2 = false ∧ r.len = 64 ∧ qcHolds e k r.da = false ∧ qcTakes e (k / 6) r.da = true
          then qcFill e (k / 6) r.da g.1 false else e) id (if g.2 = true then 3 else 0) g.1))) ∧
    (r.kind = .write → exec (.stackRequestComplete id) s = .next (s.withDev (finishReq (writeAtStack d r k off) id 0 0))) ∧
    (∀ op n cmp, (r.kind = .atomic op n cmp ∨ r.kind = .red op n ∧ cmp = 0 ∨ r.kind = .swap n cmp ∧ op = 1) →
      let p := atomApply (notePassed s.dev r) r.da k off n op r.data cmp
      exec (.atomicUnitApply id) s = .next (s.withDev (match p.1 with
        | some old => finishReq p.2 id 0 old
        | none => finishReq p.2 id 3 0))))

/-- MAPOUT, RESTRIPE_CHUNK, RESTRIPE_COMPLETE, PATROL_SCRUB, REFRESH_RATE_SAMPLE, SELF_REFRESH_ENTRY, SELF_REFRESH_EXIT, STACK_REFRESH,
READ_TIMING_RETUNE (R342 to R353). -/
def Obligations.StackUpkeep : Prop :=
  (∀ (s : State) (ag : Agent) (k ch : Nat), k < 24 → blkAnswers s.dev (.stack k) →
    let o := stkOff k 0x10
    let v := regOf [(MS_CTL.CHAN, ch), (MS_CTL.MAPOUT, 1), (MS_CTL.SCRUB, rgetF s.dev o MS_CTL.SCRUB)]
    let d1 := cmdParts s.dev ag o v
    let w := ({ cmdReg s.dev ag o with fs := (cmdReg s.dev ag o).fs.filter (fun x => x.acc == .wo) } : RegMap).writeVal
      (BitVec.ofNat 64 (ones 64)) (BitVec.ofNat 64 v) (rget d1 o)
    let d := rset d1 o (w &&& ~~~ ({ cmdReg s.dev ag o with fs := (cmdReg s.dev ag o).fs.filter (fun x => x.acc == .wo) } : RegMap).woMask)
    let c := getF w MS_CTL.CHAN
    getF w MS_CTL.MAPOUT = 1 → (inService d k).contains c = true → (getStk d k).removing ≠ some c → (getStk d k).waiting.contains c = false →
    exec (.mapout ag k ch) s = .next (s.withDev (if (getStk d k).removing.isSome = true
      then setWaiting (recordMapout d k c) k ((getStk d k).waiting ++ [c]) else beginMapout (recordMapout d k c) k c))) ∧
  (∀ (s : State) (k ch : Nat), (getStk s.dev k).removing = some ch →
    let m := (rget s.dev (stkOff k 0x20)).toNat
    let a := memKey k m
    let inA (x : Nat) : Bool := decide (a ≤ 64 * x ∧ 64 * x < a + chunkLen)
    let fix := s.dev.badMem.filter (fun e => inA e.1 && decide (e.2 ≤ 4))
    let d := fix.foldl (fun d e => countCE d k (chanOf d k (64 * e.1 - memKey k 0)) 1) s.dev
    m < stackLen s.dev k →
    exec (.restripeChunk k) s = .next (s.withDev (rset { d with badMem := d.badMem.filter (fun e => !(inA e.1 && decide (e.2 ≤ 4))) }
      (stkOff k 0x20) (BitVec.ofNat 64 (m + chunkLen))))) ∧
  (∀ (s : State) (k ch : Nat), (getStk s.dev k).removing = some ch → stackLen s.dev k ≤ (rget s.dev (stkOff k 0x20)).toNat →
    let d := updStk s.dev k (fun s => { s with removing := none })
    let d := rset (rsetB d (stkOff k 0x18) MS_STAT.RESTRIPE false) (stkOff k 0x20) 0
    let d := rsetF d (stkOff k 8) MS_CHAN.INSVC (clrBit (rgetF d (stkOff k 8) MS_CHAN.INSVC) ch)
    exec (.restripeComplete k) s = .next (s.withDev (match (getStk d k).waiting with
      | [] => d
      | c :: r => beginMapout (setWaiting d k r) k c))) ∧
  (∀ (s : State) (k : Nat), rbit s.dev (stkOff k 0x10) MS_CTL.SCRUB = true → stackLen s.dev k ≠ 0 →
    rbit s.dev (stkOff k 0x18) MS_STAT.SR = false →
    let o := (getStk s.dev k).scrubPos
    let d := noteRead (updStk s.dev k (fun x => { x with scrubPos := if o + 64 < stackLen s.dev k then o + 64 else 0 })) k o 4
    exec (.patrolScrub k) s = .next (s.withDev
      (if sectorBad d k o = true then d else { d with badMem := Tab.erase d.badMem (memKey k o / 64) }))) ∧
  (∀ (s : State) (k temp : Nat) (counts : List Nat),
    let t := sgn 8 temp
    let d := rset s.dev (stkOff k 0x18) (setF (setF (rget s.dev (stkOff k 0x18)) MS_STAT.TEMP temp) MS_STAT.RATE
      (if 95 < t then 2 else if 85 < t then 1 else 0))
    exec (.refreshRateSample k temp counts) s = .next (s.withDev
      ((List.range 16).foldl (fun d c => if counts.getD c 0 = 0 then d else countCE d k c (counts.getD c 0)) d))) ∧
  (∀ (s : State) (k : Nat), rbit s.dev (stkOff k 0x18) MS_STAT.SR = false →
    exec (.selfRefreshEntry k) s = .next (s.withDev
      (rsetB (updStk s.dev k (fun x => { x with srTemp := rgetF s.dev (stkOff k 0x18) MS_STAT.TEMP })) (stkOff k 0x18) MS_STAT.SR true))) ∧
  (∀ (s : State) (k temp fail : Nat), rbit s.dev (stkOff k 0x18) MS_STAT.SR = true →
    let d := rsetB (rsetF s.dev (stkOff k 0x18) MS_STAT.TEMP temp) (stkOff k 0x18) MS_STAT.SR false
    exec (.selfRefreshExit k temp fail) s = .next (s.withDev (if 20 < (sgn 8 temp - sgn 8 (getStk d k).srTemp).natAbs
      then (List.range 16).foldl (fun d c => if fail.testBit c = true then mapOut d k c else d) d else d))) ∧
  (∀ (s : State) (k ch : Nat), exec (.stackRefresh k) s = .next s ∧ exec (.readTimingRetune k ch) s = .next s)

/-- FLIT_RECEIVE, FLIT_RETRY_TIMEOUT, MESSAGE_START, MESSAGE_FORWARD, UPWARD_RELAY, CHANNEL_STUCK (R378 to R400). -/
def Obligations.LinkTraffic : Prop :=
  (∀ (s : State) (p : Nat) (flit : List Byte), portUp s.dev p = true → flit.length = 64 →
    let tr := fieldAt flit 56 4
    let x := getPort s.dev p
    let idle := tr.testBit 25
    let n := bitsOf tr 30 2
    let v := bitsOf tr 26 3
    let c := bitsOf tr 29 1
    (fieldAt flit 60 4 ≠ crc32c (flit.take 60) ∨ bitsOf tr 0 12 ≠ x.rxSeq →
      exec (.flitReceive p flit) s = .next (s.withDev (updPort s.dev p (fun x => { x with nak := true })))) ∧
    (fieldAt flit 60 4 = crc32c (flit.take 60) → bitsOf tr 0 12 = x.rxSeq → tr.testBit 24 = false →
      let d := updPort s.dev p (fun x => { ackFlits x (bitsOf tr 12 12) with
        rxSeq := if idle = true ∧ n = 0 then x.rxSeq else (x.rxSeq + 1) % 4096 })
      let d := if n = 0 then d else setCredits d p v c (credits d p v c + n)
      exec (.flitReceive p flit) s = .next (s.withDev (if idle = true then d
        else takeContent (rset d (portOff p 0x18) (rget d (portOff p 0x18) + 1)) p (flit.take 56))))) ∧
  (∀ (s : State) (p : Nat), portUp s.dev p = true → (getPort s.dev p).sent ≠ [] →
    let d := resend s.dev p
    exec (.flitRetryTimeout p) s = .next (s.withDev (if 8 ≤ (getPort d p).resends then linkReset p d else d))) ∧
  (∀ (s : State) (p : Nat), portUp s.dev p = true →
    (∀ v o, pickVc s.dev p = some v → headOf s.dev p v = some o →
      exec (.messageStart p) s = .next (s.withDev (if 256 < (getPort s.dev p).sent.length + flitsFor o.msg.data.length
        then sendFlit s.dev p (List.replicate 56 0) true else reapBkts (emit s.dev p v o)))) ∧
    (pickVc s.dev p = none → exec (.messageStart p) s = .next (s.withDev (sendFlit s.dev p (List.replicate 56 0) true)))) ∧
  (∀ (s : State) (p p' : Nat) (m : Msg) (rest : List (Nat × Msg)),
    takeFirst (goesOn s.dev p) s.dev.inbox = some ((p', m), rest) →
    m.hops < 30 → (routePort s.dev m.dst).isSome = true →
    let relayed := if m.vc = 3 ∧ m.op = 1 ∧ (portRole s.dev p = 3 ∨ portRole s.dev p = 4) ∧ s.dev.relayed.contains m.dst = false
      then s.dev.relayed ++ [m.dst] else s.dev.relayed
    exec (.messageForward p) s = .next (s.withDev { s.dev with
      relayed := relayed, inbox := rest, outbox := s.dev.outbox ++ [⟨p + 1, none, { m with hops := m.hops + 1 }⟩] })) ∧
  (∀ (s : State) (p q : Nat) (m : Msg) (rest : List (Nat × Msg)),
    takeFirst (fun e => isMe s.dev e.2.dst && e.2.vc == 3 && decide (0x20 ≤ e.2.op)) s.dev.inbox = some ((p, m), rest) →
    landPort s.dev = some q →
    exec .upwardRelay s = .next (s.withDev { s.dev with
      inbox := rest, outbox := s.dev.outbox ++ [⟨if p < 12 then p + 1 else 0, some q, m⟩] })) ∧
  (∀ (s : State) (p v : Nat), s.dev.outbox.any (fun o => outPort s.dev o == some p && o.msg.vc == v) = true →
    exec (.channelStuck p v) s = .next (s.withDev (rsetB s.dev (portOff p 0) SL_PSTAT.STUCK true)))

/-- LINK_RESET, LINK_TRAINING_COMPLETE, LINK_TRAINING_RETRY, OPEN_FIBRE_DETECT, CONNECTOR_REMOVED, CONNECTOR_SEATED, LASER_FAULT,
PROBE_TIMER, PROBE_LIGHT_SEEN, PROBE_LIGHT_STEADY, PROBE_LIGHT_LOST, PROBE_END (R393 to R397). -/
def Obligations.LinkTraining : Prop :=
  (∀ (s : State) (p : Nat), portState s.dev p ∈ [2, 3, 4] → exec (.linkReset p) s = .next (s.withDev (linkDown s.dev p 5))) ∧
  (∀ (s : State) (p farId farPort farRole : Nat), portState s.dev p ∈ [2, 5] →
    let d := rset s.dev (portOff p 0) (setF (setF (rget s.dev (portOff p 0)) SL_PSTAT.FARID farId) SL_PSTAT.FARPORT farPort)
    (rolesPair (portRole d p) farRole = false →
      exec (.linkTrainingComplete p farId farPort farRole) s = .next (s.withDev (setPortState d p 4))) ∧
    (rolesPair (portRole d p) farRole = true →
      let u := (List.range 6).foldl (fun d v => setCredits (setCredits d p v 0 (vcFlits v)) p v 1 (vcFlits v)) (setPortState d p 3)
      let u := updPort u p (fun x => { Port.empty with wire := x.wire, dateline := rbit u (portOff p 8) SL_PCTL.DATELINE })
      let u := updDk u (fun k => { k with stamps := Tab.erase k.stamps (4 * 65536 + p) })
      exec (.linkTrainingComplete p farId farPort farRole) s =
        .next (s.withDev (if (getPort d p).lasting = true then linkReset p u else u))) ∧
    exec (.linkTrainingRetry p) s = .next (s.withDev (setPortState s.dev p 2))) ∧
  (∀ (s : State) (p : Nat), lit s.dev p = true →
    exec (.openFibreDetect p) s = .next (s.withDev (startProbe (noLight (rsetB (darken s.dev p 0) (laserOff p) DK_LASER.OPEN true) p) p))) ∧
  (∀ (s : State),
    let off := (List.range 12).foldl (fun d p => updPort (noLight (rsetB (darken d p (if portState d p = 6 then 6 else 0)) (laserOff p)
      DK_LASER.NOCONN true) p) p (fun x => { x with probe := 0 })) s.dev
    let on := (List.range 12).foldl (fun d p => startProbe (rsetB d (laserOff p) DK_LASER.NOCONN false) p) s.dev
    exec .connectorRemoved s = .next (s.withDev { off with pins := { off.pins with fibreSeated := false } }) ∧
    exec .connectorSeated s = .next (s.withDev { on with pins := { on.pins with fibreSeated := true } })) ∧
  (∀ (s : State) (p : Nat), exec (.laserFault p) s = .next (s.withDev
    (updPort (rsetB (darken s.dev p 6) (laserOff p) DK_LASER.FAULT true) p (fun x => { x with probe := 0 })))) ∧
  (∀ (s : State) (p : Nat),
    (probeStep s.dev p = 1 → mayLight s.dev p = true →
      exec (.probeTimer p) s = .next (s.withDev (setProbe (setLit s.dev p true) p 2)) ∧
      exec (.probeLightSeen p) s = .next (s.withDev (setProbe (setLit (seesLight s.dev p) p true) p 4))) ∧
    (probeStep s.dev p = 2 → exec (.probeLightSeen p) s = .next (s.withDev (setProbe (seesLight s.dev p) p 3)) ∧
      exec (.probeEnd p) s = .next (s.withDev (setProbe (setLit s.dev p false) p 1))) ∧
    (probeStep s.dev p ∈ [3, 4] →
      exec (.probeLightSteady p) s = .next (s.withDev (rsetB (setProbe (setPortState s.dev p 2) p 0) (laserOff p) DK_LASER.OPEN false)) ∧
      exec (.probeLightLost p) s = .next (s.withDev (setProbe (setLit (noLight s.dev p) p false) p 1))))

/-- READ, WRITE, ATOMIC, SCATRED, DATA, ACK, OLD, ERROR, MREAD, MWRITE, MDATA, BAD_MESSAGE, RESPONSE_DEADLINE (R382, R390, R391, R434). -/
def Obligations.PeerMessages : Prop :=
  (∀ (s : State) (m : Msg) (d : Dev), s.dev.replat = none →
    (receive s.dev (fun m => m.vc == 0 && m.op == 1 && reqOk m) = (some m, d) →
      let n := fieldAt m.data 0 2 % 4096
      (peerRange d m.addr n false = false → exec .read s = .next (s.withDev (errorTo d m 1))) ∧
      (∀ ps e, peerRange d m.addr n false = true → hreadParts d m.addr n = (ps, false, e) →
        exec .read s = .next (s.withDev (hubSettle { e with hjobs := e.hjobs ++ [⟨m.tag, true, some (m.src, 1), ps⟩] })))) ∧
    (receive s.dev (fun m => m.vc == 0 && m.op == 2 && reqOk m) = (some m, d) →
      (peerRange d m.addr m.data.length true = false → exec .write s = .next (s.withDev (errorTo d m 1))) ∧
      (∀ ps e, peerRange d m.addr m.data.length true = true → hwriteParts d m.addr m.data = (ps, e) →
        exec .write s = .next (s.withDev (hubSettle { e with hjobs := e.hjobs ++ [⟨m.tag, false, some (m.src, 2), ps⟩] }))))) ∧
  (∀ (s : State) (young : Bool) (m : Msg) (d : Dev) (k o : Nat), s.dev.replat = none →
    (young = true → replayed d m = none) → peerTarget d m.addr true = some (.stack k o) →
    let n := szLen (fieldAt m.data 1 1)
    let d1 := if (tractOf d m.addr).repl = [] then d else updTract d (m.addr / tractLen) (fun x => { x with repl := [] })
    m.addr % n = 0 →
    (receive s.dev (fun m => m.vc == 0 && m.op == 3 && reqOk m) = (some m, d) →
      let r := atomApply d1 m.addr k o n (fieldAt m.data 0 1) (fieldAt m.data 8 8) (fieldAt m.data 16 8 % 2 ^ (8 * n))
      exec (.atomic young) s = .next (s.withDev (match r.1 with
        | some old => answerAtomic r.2 m 3 (toBytes 8 old)
        | none => answerAtomic r.2 m 4 (toBytes 8 3)))) ∧
    (receive s.dev (fun m => m.vc == 0 && m.op == 4 && reqOk m) = (some m, d) →
      let r := atomApply d1 m.addr k o n (redOp (fieldAt m.data 0 1)) (fieldAt m.data 8 8) 0
      exec (.scatred young) s = .next (s.withDev (match r.1 with
        | some _ => answerAtomic r.2 m 2 []
        | none => answerAtomic r.2 m 4 (toBytes 8 3))))) ∧
  (∀ (s : State) (op : Nat) (i : Instr) (post : Dev → Dev) (m : Msg) (d : Dev),
    (i = .data ∧ op = 1 ∧ post = id ∨ i = .ack ∧ op = 2 ∧ post = postSettle ∨ i = .old ∧ op = 3 ∧ post = id ∨
     i = .error ∧ op = 4 ∧ post = postSettle) →
    receive s.dev (fun m => m.vc == 1 && m.op == op && rspOk m) = (some m, d) →
    (∀ id r, peerReqOf d m = some (id, r) → answerFits m r = true →
      exec i s = .next (s.withDev (post (finishReq (mirrorResponse d m r.key) id (answerOf m).1 (answerOf m).2)))) ∧
    (peerReqOf d m = none → exec i s = .next (s.withDev (post (devCount d SL_DEVSTAT.LATE))))) ∧
  (∀ (s : State) (p : Nat) (m : Msg) (d : Dev),
    (receiveAt s.dev (fun m => m.vc == 5 && m.op == 1 && mgtOk m) = (some (p, m), d) →
      exec .mread s = .next (s.withDev (match mgmtRead d (.peer m.src) m.addr 8 with
        | (some v, d) => mdata d p m m.tag (toBytes 8 v.toNat)
        | (none, d) => mdata d p m (errTag m 1) []))) ∧
    (receiveAt s.dev (fun m => m.vc == 5 && m.op == 2 && mgtOk m) = (some (p, m), d) →
      let e := (mgmtWrite d (.peer m.src) m.addr 8 (BitVec.ofNat 64 (ofBytes m.data))).2
      exec .mwrite s = .next (s.withDev (if isIset m.addr = true then mdata e.free.2 p m m.tag (toBytes 8 e.free.1.toNat)
        else mdata d p m (errTag m 1) []))) ∧
    (receive s.dev (fun m => m.vc == 5 && m.op == 3 && mgtOk m) = (some m, d) →
      exec .mdata s = .next (s.withDev (if d.lv.probe = 1 ∧ m.src = d.plat.twinId
        then probeAnswer d (if m.data.length = 8 then some (ofBytes m.data) else none) else devCount d SL_DEVSTAT.LATE)))) ∧
  (∀ (s : State) (p : Nat) (m : Msg) (rest : List (Nat × Msg)) (d : Dev),
    (takeFirst (fun e => !isMe s.dev e.2.dst && !msgFits e.2) s.dev.inbox = some ((p, m), rest) ∧
        d = (if m.vc ≤ 5 then oweCredits { s.dev with inbox := rest } p m else { s.dev with inbox := rest }) ∨
      takeFirst (fun e => !isMe s.dev e.2.dst && !msgFits e.2) s.dev.inbox = none ∧
        receive s.dev (fun m => !accepts s.dev m) = (some m, d)) →
    exec .badMessage s = .next (s.withDev (if m.vc = 0 then errorTo (devCount d SL_DEVSTAT.BADMSG) m 6
      else devCount d SL_DEVSTAT.BADMSG))) ∧
  (∀ (s : State) (id p o : Nat) (r : Req), Tab.find? s.dev.reqs id = some r → r.stage = .remote → r.tgt = .peer p o →
    exec (.responseDeadline id) s = .next (s.withDev (finishReq s.dev id 4 0)))

/-- SOPEN, SPROVE, SPROVE_TIMEOUT, SCLOSE, RELAYDOWN, HB_SESSCTL_CLOSE, LEDGER_WRITE_COMPLETE (R401 to R407, R461). -/
def Obligations.SessionCommands : Prop :=
  (∀ (s : State) (since twinSc : Nat) (same : Bool) (m : Msg) (d : Dev) (key : List Byte), writesPending s.dev = false →
    receive s.dev (fun m => m.vc == 3 && m.op == 1 && hostLenOk m) = (some m, d) →
    lvState d ≠ 1 → lvState d ≠ 5 → sessOpen d = false → rbit d (landOff 0) HB_SESSTAT.OPENING = false → lockedOut d since = false →
    keyOf d (fieldAt m.data 32 1) = some key → (paired d = true → same = true) → m.op = 1 →
    let sc := (if paired d = true then max d.dyke.led.sessCtr twinSc else d.dyke.led.sessCtr) + 1
    let d := updLed d (fun r => { r with sessCtr := sc })
    let d := rset d (landOff 0) (setF (setF (setB (rget d (landOff 0)) HB_SESSTAT.OPENING true) HB_SESSTAT.LANDID m.src) HB_SESSTAT.SC sc)
    exec (.sopen since twinSc same) s = .next (s.withDev (ledgerAsk { d with
      sess := { stage := 1, nh := m.data.take 32, nd := toBytes 32 (Config.nonce sc).toNat, keysel := fieldAt m.data 32 1, key := key,
                tag := m.tag } } .challenge))) ∧
  (∀ (s : State) (m : Msg) (d : Dev), writesPending s.dev = false →
    receive s.dev (fun m => m.vc == 3 && m.op == 2 && hostLenOk m) = (some m, d) → m.op = 2 → d.sess.stage = 2 →
    (m.data ≠ Config.hmac384 d.sess.key (sessInput d 0x48) →
      exec .sprove s = .next (s.withDev (sresult (countFail (openingEnds d)) m 5))) ∧
    (m.data = Config.hmac384 d.sess.key (sessInput d 0x48) →
      let mac := Config.hmac384 d.sess.key (sessInput d 0x44)
      let d := showLedger (updLed d (fun r => { r with fails := 0 }))
      let d := rset d (landOff 0) (setF (setB (setB (rget d (landOff 0)) HB_SESSTAT.OPEN true) HB_SESSTAT.OPENING false)
        HB_SESSTAT.KEYSEL d.sess.keysel)
      exec .sprove s = .next (s.withDev
        (hostReply { d with sess := { d.sess with stage := 0 } } m 0x21 (toBytes 1 0 ++ mac))))) ∧
  (∀ (s : State), s.dev.sess.stage = 2 → exec .sproveTimeout s = .next (s.withDev (openingEnds s.dev))) ∧
  (∀ (s : State) (m : Msg) (d : Dev), writesPending s.dev = false →
    receive s.dev (fun m => m.vc == 3 && m.op == 3 && hostLenOk m) = (some m, d) → sessOpen d = true →
    exec .sclose s = .next (s.withDev (endSession d (some 0)))) ∧
  (∀ (s : State) (m : Msg) (d : Dev), receive s.dev (fun m => m.vc == 3 && m.op == 0x0C && hostLenOk m) = (some m, d) →
    (sessOpen d = true ∨ rbit d (landOff 0) HB_SESSTAT.OPENING = true) →
    exec .relaydown s = .next (s.withDev (endSession d (some 2)))) ∧
  (∀ (s : State) (ag : Agent),
    let v := regOf [(HB_SESSCTL.CLOSE, 1)]
    getF (cmdWord s.dev ag (landOff 8) v) HB_SESSCTL.CLOSE = 1 → sessOpen (cmdDev s.dev ag (landOff 8) v) = true →
    exec (.hbSessctlClose ag) s = .next (s.withDev (endSession (cmdDev s.dev ag (landOff 8) v) (some 3)))) ∧
  (∀ (s : State) (w : LWrite), s.dev.dyke.writing = some w → fbytes s.dev (slotAt w.slot) w.bytes.length = w.bytes →
    exec (.ledgerWriteComplete true) s = .next (s.withDev (w.reasons.foldl (ledgerNext true) (ledgerDone s.dev))))

/-- HREAD, HWRITE, HMREAD, HMWRITE, DOORBELL, ATTEST, ATTEST_REPORT_READY, HDATA, HRESP, HOST_ACCESS_DEADLINE (R402 to R410). -/
def Obligations.HostCommands : Prop :=
  (∀ (s : State) (op : Nat) (m : Msg) (d : Dev), writesPending s.dev = false →
    receive s.dev (fun m => m.vc == 3 && m.op == op && hostLenOk m) = (some m, d) → hostServed d m = true →
    (∀ ps e, op = 4 → 1 ≤ fieldAt m.data 0 2 % 4096 → fieldAt m.data 0 2 % 4096 ≤ 2048 → recovery d = false →
      rangeOk d m.addr (fieldAt m.data 0 2 % 4096) false = true → hreadParts d m.addr (fieldAt m.data 0 2 % 4096) = (ps, false, e) →
      exec .hread s = .next (s.withDev (hubSettle { e with hjobs := e.hjobs ++ [⟨m.tag, true, none, ps⟩] }))) ∧
    (∀ ps e, op = 5 → recovery d = false → rangeOk d m.addr m.data.length true = true → hwriteParts d m.addr m.data = (ps, e) →
      exec .hwrite s = .next (s.withDev (hubSettle { e with hjobs := e.hjobs ++ [⟨m.tag, false, none, ps⟩] }))) ∧
    (∀ v e, op = 6 → m.addr % 8 = 0 → mgmtRead d .host m.addr 8 = (some v, e) →
      exec .hmread s = .next (s.withDev (hostReply e m 0x24 (toBytes 8 v.toNat)))) ∧
    (op = 7 → m.addr % 8 = 0 →
      let e := (mgmtWrite d .host m.addr 8 (BitVec.ofNat 64 (ofBytes m.data))).2
      exec .hmwrite s = .next (s.withDev (if e.booted = true then hstat e m 0 else e))) ∧
    (op = 8 → fieldAt m.data 0 1 < 16 → fieldAt m.data 1 1 ≤ 1 → recovery d = false →
      exec .doorbell s = .next (s.withDev (ringPtr d (fieldAt m.data 0 1) (fieldAt m.data 1 1) (fieldAt m.data 4 4)))) ∧
    (op = 9 → d.attest = none → recovery d = false → fieldAt m.data 32 1 ≤ 1 → (fieldAt m.data 32 1 = 1 → paired d = true) →
      exec .attest s = .next (s.withDev { d with attest := some (m.data.take 32, fieldAt m.data 32 1, m.tag + 65536 * m.src) }))) ∧
  (∀ (s : State) (nonce : List Byte) (which dest : Nat), s.dev.attest = some (nonce, which, dest) → silent s.dev = false →
    let body := reportBody s.dev nonce
    let bs := if which = 0 then body ++ Config.identitySign body else Config.twinReport nonce
    exec .attestReportReady s = .next (s.withDev ((List.range 9).foldl (fun d i =>
      send d { mkMsg d 3 0x2A (dest / 65536) (dest % 65536) (2048 * i) ((bs.drop (2048 * i)).take (if i = 8 then 480 else 2048)) with cls := 0 })
      { s.dev with attest := none }))) ∧
  (∀ (s : State) (m : Msg) (d : Dev) (id : Nat) (r : Req),
    (receive s.dev (fun m => m.vc == 3 && m.op == 0x0A && hostLenOk m) = (some m, d) → sessOpen d = true →
      hostReqOf d m.tag = some (id, r) → r.kind = .read → m.data.length = r.len →
      exec .hdata s = .next (s.withDev (finishReq (mirrorResponse d m r.key) id (answerOf m).1 (answerOf m).2))) ∧
    (receive s.dev (fun m => m.vc == 3 && m.op == 0x0B && hostLenOk m) = (some m, d) → sessOpen d = true →
      hostReqOf d m.tag = some (id, r) → r.kind ≠ .read →
      exec .hresp s = .next (s.withDev (postSettle (finishReq (mirrorResponse d m r.key) id (answerOf m).1 (answerOf m).2))))) ∧
  (∀ (s : State) (id o : Nat) (r : Req), Tab.find? s.dev.reqs id = some r → r.stage = .remote → r.tgt = .host o →
    exec (.hostAccessDeadline id) s = .next (s.withDev (postSettle (finishReq s.dev id 4 0))))

/-- RING_COMMAND_FETCH, NOP, START, STOP, EVENT, MOVE, TRACT, REPLAT, RING_FENCE, COMMAND_COMPLETE (R408, R409). -/
def Obligations.RingCommands : Prop :=
  (∀ (s : State) (n : Nat), ringRuns s.dev n = true → (getRing s.dev n).fetching = none →
    rptr s.dev n RING_PTR.SQHEAD ≠ rptr s.dev n RING_PTR.SQTAIL → (getRing s.dev n).cmds.length < 8 → cqFull s.dev n = false →
    let a := rgetF s.dev (ringOff n 0) RING_BASE.ADDR * 64 + 64 * rptr s.dev n RING_PTR.SQHEAD
    (∀ bs d, rbit s.dev (ringOff n 0x10) RING_CTL.SQLOC = true → hubRead s.dev a 64 = (some bs, d) →
      exec (.ringCommandFetch n) s = .next (s.withDev (putCmd d n bs))) ∧
    (rbit s.dev (ringOff n 0x10) RING_CTL.SQLOC = false →
      let q := hubReq s.dev (.host a) a 64 .read 0
      exec (.ringCommandFetch n) s = .next (s.withDev (updRing q.2 n (fun r => { r with fetching := some q.1 }))))) ∧
  (∀ (s : State) (n : Nat) (c : RCmd), nextCmd s.dev n = some c → cmdOk c = true →
    let b : RCmd := { c with began := true }
    let d := setCmd s.dev n b
    (cOp c = 0 → exec (.nop n) s = .next (s.withDev (endCmd d n b 0 0))) ∧
    (cOp c = 1 → cArg c 3 1 ≤ 1 → cArg c 0 2 ≠ 0xFFFF → (siteOfCl s.dev (cArg c 0 2)).isSome = true →
      exec (.start n) s = .next (s.withDev (startDone d n b (cArg c 0 2)))) ∧
    (∀ l e, cOp c = 1 → cArg c 3 1 ≤ 1 → cArg c 0 2 = 0xFFFF → s.dev.plat.allot = true → choose s.dev n c = (some l, e) →
      exec (.start n) s = .next (s.withDev (startDone (setCmd e n b) n b l))) ∧
    (cOp c = 2 → (siteOfCl d (cArg c 0 2)).isSome = true →
      exec (.stop n) s = .next (s.withDev (stopMask d (cArg c 0 2) (cArg c 2 1)))) ∧
    (cOp c = 3 → exec (.event n) s = .next (s.withDev (sendEvents d (cArg c 8 4) (BitVec.ofNat 64 (cArg c 0 8))))) ∧
    (cOp c = 4 → (getRing s.dev n).cmds.find? (fun c => c.began && cOp c == 4 && c.res.isNone) = none →
      exec (.move n) s = .next (s.withDev (if cArg c 16 8 = 0 then endCmd d n b 0 0 else moveGet d n b))) ∧
    (cOp c = 5 → s.dev.tractCmd = none → s.dev.tractEnd = none →
      exec (.tract n) s = .next (s.withDev (tractGo d ((List.range 4).map (fun i => BitVec.ofNat 64 (cArg c (8 * i) 8))) (some n)))) ∧
    (cOp c = 6 → rbit d 0x310 HB_PLATSTAT.BUSY = false → rbit d 0x718 HB_FWSTAT.BUSY = false → cArg c 0 1 ≤ 3 → cArg c 1 1 ≤ 1 →
      let e := platCmd d (cArg c 0 1) (cArg c 1 1)
      exec (.replat n) s = .next (s.withDev
        (if e.replat.isSome = true then e else endCmd e n b 0 (rgetF e 0x310 HB_PLATSTAT.RESULT)))) ∧
    (cOp c = 7 → exec (.ringFence n) s = .next (s.withDev d))) ∧
  (∀ (s : State) (n i : Nat) (c : RCmd) (r : Nat × Nat),
    let d := postSettle s.dev
    (getRing d n).cmds.find? (fun c => c.idx == i) = some c → cmdOk c = true → cmdResult d n c = some r → c.drop = false →
    cqFull d n = false → ¬ (cOp c = 6 ∧ c.chosen = 1) →
    exec (.commandComplete n i) s = .next (s.withDev (postEvt (leaveRing d n c) n (eventBytes d n c r))))

/-- RD_START, RD_ABORT, RD_FILL, OWN_SHARE_CONVERTED, CONTRIB, CONTRIB_PLACE, RESULT, RPULL, STEPREP, BUCKET_DEADLINE, RESULT_DEADLINE
(R414 to R428). -/
def Obligations.ReductionEngine : Prop :=
  (∀ (s : State) (ag : Agent) (n : Nat) (bs : List Byte) (e : Dev), rdBusy s.dev (n % 4) = false →
    let r := n % 4
    let o := rdOff r 0x50
    let d := rset s.dev o (setF (setB (setB (setB (setB (rget s.dev o) RD_STAT.NV false) RD_STAT.OF false) RD_STAT.NX false)
      RD_STAT.BUSY true) RD_STAT.STATUS 0)
    let d := rset d (rdOff r 0x48) 0
    let b := if d.plat.bucket = 0 then 8 else d.plat.bucket
    let d := rset d (rdOff 0 0x1008) (setF (setF (rget d (rdOff 0 0x1008)) RD_BUF.BUCKET b) RD_BUF.SLOTS (64 / b))
    let old := (getRed d r).repeated
    let d := updRed d r (fun _ => { Red.empty with repeated := old, mute := if old = some (rdStep d r) then old else none })
    let st := rdStep d r
    let d := showBuf { d with bkts := d.bkts.filter (fun b => !(b.rid == r && decide (2 ^ 15 ≤ (b.step + 65536 - st) % 65536))) }
    rdLen d r ≠ 0 → hubRead d (rdAddr d r 0x8) (4 * rdP d r) = (some bs, e) → rdLen e r % 128 = 0 → rdNB e r ≤ 65535 → rdP e r ≠ 0 →
    exec (.rdStart ag n) s = .next (s.withDev
      (updRed e r (fun x => { x with members := (List.range (rdP e r)).map (fun i => fieldAt bs (4 * i) 4) })))) ∧
  (∀ (s : State) (ag : Agent) (n : Nat) (v : Word), rdBusy s.dev (n % 4) = true →
    let r := n % 4
    exec (.rdAbort ag n) s = .next (s.withDev (stepEnd (dropStep (muteStep s.dev r) r (rdStep (muteStep s.dev r) r)) r 1)) ∧
    (getF v RD_FILL.ADD ≠ 0 → exec (.rdFill ag n v) s = .next (s.withDev
      (rdAdvance (rsetF s.dev (rdOff r 0x48) RD_PROG.FILLED (satAdd (rdLen s.dev r) (rdFilled s.dev r) (getF v RD_FILL.ADD))) r)))) ∧
  (∀ (s : State) (r b : Nat) (x : Bkt) (d e : Dev) (y : Bkt), (getRed s.dev r).own.find? (fun b => (takeBkt s.dev r (rdStep s.dev r) b).isSome) = some b →
    takeBkt s.dev r (rdStep s.dev r) b = some (x, d) →
    let d := updRed d r (fun y => { y with own := y.own.erase b })
    (List.range (bktChunks d r b)).foldl (ownChunk r b) (some x, d) = (some y, e) →
    exec (.ownShareConverted r) s = .next (s.withDev (maybeComplete e y))) ∧
  (∀ (s : State) (m : Msg) (d : Dev), s.dev.store.length < 2048 →
    receive s.dev (fun m => rdAccepts s.dev m && m.op == 1) = (some m, d) →
    exec .contrib s = .next (s.withDev (match placeContrib d m with
      | some d => d
      | none => showBuf { d with store := d.store ++ [m] }))) ∧
  (∀ (s : State) (r : Nat) (m : Msg) (d : Dev), s.dev.store.find? (fun m => mRid m == r && (placeContrib s.dev m).isSome) = some m →
    placeContrib { s.dev with store := s.dev.store.erase m } m = some d →
    exec (.contribPlace r) s = .next (s.withDev (showBuf d))) ∧
  (∀ (s : State) (m : Msg) (d : Dev),
    (receive s.dev (fun m => rdAccepts s.dev m && m.op == 2) = (some m, d) → stepClass d m = 1 → rdBusy d (mRid m) = true →
      exec .result s = .next (s.withDev (writeResult d (mRid m) (mBucket m) (mChunk m) m.data))) ∧
    (receive s.dev (fun m => rdAccepts s.dev m && m.op == 3) = (some m, d) → stepClass d m = 1 → rdBusy d (mRid m) = true →
      ofBytes m.data ≠ 0 →
      exec .rpull s = .next (s.withDev
        (rdAdvance (updRed d (mRid m) (fun x => { x with pulls := x.pulls ++ [(mBucket m, mSlot m, ofBytes m.data)] })) (mRid m)))) ∧
    (receive s.dev (fun m => rdAccepts s.dev m && m.op == 4) = (some m, d) → stepClass d m = 1 → silent d = false →
      exec .steprep s = .next (s.withDev (applySteprep d (mRid m))))) ∧
  (∀ (s : State) (r b : Nat) (x : Bkt), findBkt s.dev r (rdStep s.dev r) b = some x → x.complete = false →
    rgetF s.dev (rdOff r 0x28) RD_DEADLINE.BUCKET ≠ 0 → silent s.dev = false → rdMute s.dev r = false →
    let full := ones (bktChunks s.dev r b)
    let late := (List.range (rdP s.dev r)).filter (fun i => Tab.get 0 x.seen i != full)
    let mem (i : Nat) : Nat := (getRed s.dev r).members.getD i 0
    exec (.bucketDeadline r b) s = .next (s.withDev
      (if 256 < rdP s.dev r ∨ x.expired = true ∨ late.any (fun i => (mBackup (mem i)).isNone) = true then repeatStep s.dev r
       else late.foldl (fun d i =>
         rdCount (rdSend d r 3 ((mBackup (mem i)).getD 0) i 0 b (toBytes (ceilDiv (bktChunks d r b) 8) (full ^^^ Tab.get 0 x.seen i))) RD_CNT.PULLS)
         (putBkt s.dev { x with expired := true })))) ∧
  (∀ (s : State) (r : Nat), rdBusy s.dev r = true → rgetF s.dev (rdOff r 0x28) RD_DEADLINE.RESULT ≠ 0 → silent s.dev = false →
    rdLen s.dev r ≤ rdFilled s.dev r → exec (.resultDeadline r) s = .next (s.withDev (stepEnd s.dev r 3)))

/-- HELLO_TIMER, HELLO, FORMING_TIMEOUT, BEAT_TIMER, BEAT, TWIN_SILENCE, TWIN_PROBE_DEADLINE, LEAVE, TWIN_FALL_OUT (R430, R431, R441, R442). -/
def Obligations.PairForming : Prop :=
  (∀ (s : State), lvState s.dev = 1 → exec .helloTimer s = .next (s.withDev (sendHello s.dev)) ∧
    exec .formingTimeout s = .next (s.withDev (suspect s.dev))) ∧
  (∀ (s : State) (op : Nat) (m : Msg) (d : Dev),
    receive s.dev (fun m => m.vc == 4 && m.op == op && twinLenOk m && m.src == s.dev.plat.twinId) = (some m, d) →
    (op = 1 → lvState d = 1 →
      let e := updLv (sendHello d) (fun v => { v with probe := 0 })
      exec .hello s = .next (s.withDev
        (if m.data.take 16 = e.plat.twinUid ∧ (m.data.drop 16).take 48 = agreeDigest e
          then (if e.plat.self < e.plat.twinId then sendSeeds (setFace (setLv e 2) true) else setFace (setLv e 2) false)
          else setLv e 5))) ∧
    (op = 2 → exec .beat s = .next (s.withDev
      (updLv d (fun v => { v with farState := fieldAt m.data 4 1, farShort := (fieldAt m.data 5 1).testBit 0 })))) ∧
    (op = 9 →
      let e := updLv d (fun v => { v with farState := 4 })
      exec .leave s = .next (s.withDev (if paired e = true then enterAlone e else e)))) ∧
  (∀ (s : State), lvState s.dev ≠ 0 →
    let sh := if rbit s.dev 0x310 HB_PLATSTAT.SHORT = true then 1 else 0
    exec .beatTimer s = .next (s.withDev
      (updLv (sendTwin s.dev 2 0 (toBytes 4 s.dev.lv.beatSeq ++ toBytes 1 (lvState s.dev) ++ toBytes 3 sh))
        (fun v => { v with beatSeq := (v.beatSeq + 1) % 2 ^ 32 })))) ∧
  (∀ (s : State), paired s.dev = true → exec .twinSilence s = .next (s.withDev (suspect s.dev))) ∧
  (∀ (s : State), (s.dev.lv.probe = 1 → exec .twinProbeDeadline s = .next (s.withDev (enterAlone s.dev))) ∧
    (s.dev.lv.probe = 2 → exec .twinProbeDeadline s = .next (s.withDev (split s.dev)))) ∧
  (∀ (s : State) (r : Nat), s.dev.lv.cause = some r → lvState s.dev = 2 →
    let d := if portUp s.dev s.dev.plat.twinPort = true then sendTwin s.dev 9 0 (toBytes 1 r) else s.dev
    exec .twinFallOut s = .next (s.withDev
      (updLv (setFace (setLv (stopAll d) 4) false) (fun v => { v with cause := none, probe := 0 }))))

/-- MIRROR, CONFIRM, DIGEST, PLACE, SEED, DIGEST_GO, DIGEST_TIMEOUT, REJOIN, SYNC, REJOIN_COMPLETE (R433 to R448). -/
def Obligations.PairMessages : Prop :=
  (∀ (s : State) (h b : Msg) (d d2 : Dev),
    receive s.dev (fun m => m.vc == 4 && m.op == 3 && twinLenOk m && m.src == s.dev.plat.twinId) = (some h, d) →
    receive d (fun m => m.vc == 4 && m.op == 4 && twinLenOk m && m.src == s.dev.plat.twinId) = (some b, d2) →
    let m := msgOf (ofBytes h.data) b.data
    ¬ (isResponse m = true ∧ keyReq d2 h.addr = none ∧ 4096 ≤ d2.mirrored.length) →
    exec .mirror s = .next (s.withDev (mirrorActs d2 h.addr m))) ∧
  (∀ (s : State) (op : Nat) (m : Msg) (d : Dev),
    receive s.dev (fun m => m.vc == 4 && m.op == op && twinLenOk m && m.src == s.dev.plat.twinId) = (some m, d) →
    (op = 5 → exec .confirm s = .next (s.withDev (confirmTaken m d))) ∧
    (op = 6 → exec .digest s = .next (s.withDev
      (digCompare (updLv d (fun v => { v with theirs := some (fieldAt m.data 0 8, fieldAt m.data 8 8) }))))) ∧
    (op = 7 → fieldAt m.data 16 1 ≠ 0xFF → exec .place s = .next (s.withDev
      ((tractAct d (fieldAt m.data 16 1) (fieldAt m.data 0 8 / tractLen) (fieldAt m.data 19 1)).getD d))) ∧
    (op = 8 → exec .seed s = .next (s.withDev ((List.range (m.data.length / 8)).foldl (fun d i =>
      rset d (clOff (m.addr + i) 0x70) (srValue (BitVec.ofNat 64 (fieldAt m.data (8 * i) 8)))) d)))) ∧
  (∀ (s : State) (ag : Agent),
    let o := suOff 0x1120
    let v := regOf [(SU_LVDIGCTL.GO, 1), (SU_LVDIGCTL.TAG, rgetF s.dev o SU_LVDIGCTL.TAG)]
    let d0 := cmdDev s.dev ag o v
    let d := rsetB d0 digOff SU_LVDIGSTAT.BUSY true
    let a := (rget d (suOff 0x1110)).toNat
    let n := (rget d (suOff 0x1118)).toNat
    let p := digestOf d a n
    let e := rset p.2 (suOff 0x1130) (BitVec.ofNat 64 p.1)
    let tag := rgetF e o SU_LVDIGCTL.TAG
    getF (cmdWord s.dev ag o v) SU_LVDIGCTL.GO = 1 → rbit d0 digOff SU_LVDIGSTAT.BUSY = false → n % 64 = 0 → rangeLocal d a n = true →
    exec (.digestGo ag) s = .next (s.withDev (if paired e = true
      then digCompare (updLv (sendTwin e 6 0 (toBytes 8 tag ++ toBytes 8 p.1)) (fun v => { v with mine := some (tag, p.1) }))
      else digEnds e 2))) ∧
  (∀ (s : State), rbit s.dev digOff SU_LVDIGSTAT.BUSY = true → exec .digestTimeout s = .next (s.withDev (digEnds s.dev 3))) ∧
  (∀ (s : State) (ag : Agent),
    let o := suOff 0x1108
    let v := regOf [(SU_LVCTL.REJOIN, 1)]
    let d := cmdDev s.dev ag o v
    getF (cmdWord s.dev ag o v) SU_LVCTL.REJOIN = 1 →
    exec (.rejoin ag) s = .next (s.withDev
      (if lvState d = 3 ∧ d.lv.farState = 4 ∧ d.lv.farShort = false ∧ portUp d d.plat.twinPort = true ∧ anyRunning d = false ∧
          anyCopy d = false ∧ anyReduction d = false ∧ d.tractCmd = none ∧ rbit d lvOff SU_LVSTAT.REJOIN = false
        then updLv (rsetB d lvOff SU_LVSTAT.REJOIN true) (fun v => { v with syncPos := 0 })
        else rsetB d lvOff SU_LVSTAT.REJFAIL true))) ∧
  (∀ (s : State),
    (rbit s.dev lvOff SU_LVSTAT.REJOIN = true → lvState s.dev = 3 → exec .sync s = .next (s.withDev (syncSend s.dev))) ∧
    (∀ m d, lvState s.dev ≠ 3 → receive s.dev (fun m => m.vc == 4 && m.op == 10 && twinLenOk m && m.src == s.dev.plat.twinId) = (some m, d) →
      exec .sync s = .next (s.withDev (syncTaken m d))) ∧
    (lvState s.dev = 3 → rbit s.dev lvOff SU_LVSTAT.REJOIN = true → syncItem s.dev s.dev.lv.syncPos = none → s.dev.lv.syncPos ≠ 0 →
      exec .rejoinComplete s = .next (s.withDev
        (sendLog (beatTimer (rsetB (setLv s.dev 2) lvOff SU_LVSTAT.REJOIN false)) 3 0))) ∧
    (lvState s.dev = 4 → s.dev.lv.farState = 2 → exec .rejoinComplete s = .next (s.withDev (setFace (setLv s.dev 2) false))))

/-- RESIDUE_MISMATCH, SRAM_SINGLE_BIT_CORRECT, SRAM_UNCORRECTABLE, FAULT_EVENT_REPORT, LEDGER_WRITE, FLASH_SECTOR_ERASE, CLEARSITE, CLEARCHAN,
SETOWNER, SETPASS, SETPLATKEY, CLEARPLATKEY, CLEARWAY (R450 to R467). The model's choice: which slots wait for an erase and which sector
is not erased yet (log entry 78). -/
def Obligations.FaultHandling : Prop :=
  (∀ (s : State) (l c slot : Nat) (b : WB) (y : Syl) (op : Op), (getCtx s.dev l c).wb = some b → getSyl b slot = some y →
    sylOp b.md.gm (rget s.dev (csOff l c 0x70)) y.word = some op → checkedSyl op y.word = true → y.st = .ready →
    exec (.residueMismatch l c 1 slot false) s = .next (s.withDev (siteEvent s.dev l 0)) ∧
    exec (.residueMismatch l c 1 slot true) s = .next (s.withDev
      (settle (failSyl (siteEvent (siteEvent s.dev l 0) l 0) l c slot (mcheck 0x13 0)) l))) ∧
  (∀ (s : State) (l c place : Nat) (x : Ctx) (o : QOp) (op : Op), qopOp o = some op →
    (vHead s.dev l = some (c, x, o) → checkedV op o.syl = true → vStops x o place = true →
      exec (.residueMismatch l c 2 place false) s = .next (s.withDev (siteEvent s.dev l 0)) ∧
      exec (.residueMismatch l c 2 place true) s = .next (s.withDev
        (vStopAt (siteEvent (siteEvent s.dev l 0) l 0) l c x o place (mcheck 0x23 (BitVec.ofNat 64 place))))) ∧
    (xHead s.dev l = some (c, x, o) → (op = .tacc ∨ op = .xopa) → x.xp.setup = true → o.pos < xTotal o → o.fault = false →
      exec (.residueMismatch l c 3 place false) s = .next (s.withDev (siteEvent s.dev l 1)))) ∧
  (∀ (s : State) (a : SramArray), exec (.sramSingleBitCorrect a) s = .next (s.withDev
    (match a with
     | .site p _ => if domOn s.dev (p % 832) = true then fevent s.dev 2 (arrayCode a) else s.dev
     | _ => fevent s.dev 2 (arrayCode a)))) ∧
  (∀ (s : State) (p : SramPlace), sramMet s.dev p = true →
    exec (.sramUncorrectable p) s = .next (s.withDev (sramEffect p (arrayEvent s.dev (placeArray s.dev p))))) ∧
  (∀ (s : State) (stamp cls unit : Nat) (rest : List (Nat × Nat)), s.dev.fevents = (cls, unit) :: rest →
    let key := 65536 * cls + unit
    let th := rget s.dev (dkOff (0x40 + 8 * cls))
    let ss := windowOf (getF th DK_THRESH.WINDOW) stamp (Tab.get [] s.dev.dyke.stamps key ++ [stamp])
    let d := updDk { s.dev with fevents := rest } (fun k => { k with
      stamps := Tab.set [] k.stamps key ss
      life := Tab.set 0 k.life key (satAdd (ones 32) (Tab.get 0 k.life key) 1)
      totPend := Tab.set 0 k.totPend cls (Tab.get 0 k.totPend cls + 1) })
    exec (.faultEventReport stamp) s = .next (s.withDev
      (if getF th DK_THRESH.COUNT ≤ ss.length ∧ s.dev.dyke.lastF.contains key = false then declareLasting d cls unit else d))) ∧
  (∀ (s : State),
    let k := s.dev.dyke
    let seq := (k.led.seq + 1) % 2 ^ 32
    let slot := slotOfSeq seq
    let led : Led := { k.led with
      seq := seq, totals := (List.range 5).map (fun i => satAdd (ones 32) (k.led.totals.getD i 0) (Tab.get 0 k.totPend i)) }
    k.want ≠ [] → k.writing = none → (slot % 4 = 0 → ferased s.dev (slotAt slot) 1024 = true) →
    exec .ledgerWrite s = .next (s.withDev (updDk (fprog s.dev (slotAt slot) (ledBytes led)) (fun x => { x with
      led := led, totPend := [], want := [], writing := some ⟨slot, 0, ledBytes led, k.want⟩ })))) ∧
  (∀ (s : State) (bank : Nat),
    let n := if (s.dev.dyke.led.seq + 1) % 2 = bank % 2 then s.dev.dyke.led.seq + 1 else s.dev.dyke.led.seq + 2
    n / 2 % 64 % 4 = 0 → sectorInUse s.dev (64 * (bank % 2) + n / 2 % 64) = false → exec (.flashSectorErase bank) s = .next (s.withDev (ferase s.dev (slotAt (64 * (bank % 2) + n / 2 % 64)) 4096))) ∧
  (∀ (s : State) (n op : Nat) (i : Instr) (f : Word → Dev → Dev), s.dev.dyke.lcmd = some (n, 0) →
    (i, op, f) ∈ [(Instr.clearsite, 1, clearSite), (.clearchan, 2, clearChan), (.setowner, 3, setOwner), (.setpass, 4, setPass),
      (.setplatkey, 5, setPlatKey), (.clearplatkey, 6, clearPlatKey), (.clearway, 7, clearWay)] →
    getF (BitVec.ofNat 64 n) HB_LCMD.OP = op →
    exec i s = .next (s.withDev (showKeys (showLedger (ledgerAsk
      (updDk (f (BitVec.ofNat 64 n) s.dev) (fun k => { k with lcmd := some (n, 1) })) .lcmd)))))

/-- POWER_BUDGET_TICK, QVID_STEP, CEILING_CHECK, THROTTLE_STEP, GROUP_UP, GROUP_DOWN, IDLE_POWER_DOWN, CLUSTER_WAKE, QUARTER_DORMANT_ENTRY,
QUARTER_DORMANT_EXIT, STANDBY, WAKE (R44, R468 to R478, R490). The model's choice: SET of a quarter in Quarter Dormant (log entry 79). -/
def Obligations.PowerCommands : Prop :=
  (∀ (s : State) (other : Nat) (dem : List Nat), s.dev.plat.loaded = true → s.dev.hub.standby = false →
    let sh := quarterShares s.dev other dem
    exec (.powerBudgetTick other dem) s = .next (s.withDev ((List.range 4).foldl (fun d q =>
      vTarget (rsetF d (vsetOff q) QT_VSET.SET
        (if (getQ d q).dormant = true then 550 else 550 + 10 * (Config.powerModel q (sh.getD q 0).num (sh.getD q 0).den % 31))) q) s.dev))) ∧
  (∀ (s : State) (q : Nat), q < 4 →
    let n := s.dev.board.qvid.getD q 21
    let t := qvidCode (rgetF s.dev (vsetOff q) QT_VSET.TARGET)
    exec (.qvidStep q) s = .next (s.withDev { s.dev with
      board := { s.dev.board with qvid := s.dev.board.qvid.set q (if n < t then n + 1 else if t < n then n - 1 else n) } })) ∧
  (∀ (s : State) (pkg other : Nat) (tj : List Nat),
    pkg ≤ (capsNow s.dev).1 → (∀ q, q < 4 → tj.getD q 0 ≤ (capsNow s.dev).2) →
    let o := 0x500
    let d := rset s.dev o (setF (setF (rget s.dev o) HB_PWRSTAT.PKG pkg) HB_PWRSTAT.UNCORE other)
    let calm := decide (100 * pkg ≤ 98 * (capsNow s.dev).1) && (List.range 4).all (fun q => decide (tj.getD q 0 + 2 ≤ (capsNow s.dev).2))
    let low := (List.range 4).all (fun q => ceilOf d q == 550)
    let d := { d with power := { calm := if calm = true then s.dev.power.calm + 1 else 0,
                                 floorFor := if low = true then s.dev.power.floorFor + 1 else 0, within := s.dev.power.within + 1 } }
    let d := if 100 ≤ d.power.calm ∧ d.power.calm % 10 = 0
      then (List.range 4).foldl (fun d q => setCeil d q (min 850 (ceilOf d q + 10))) d else d
    exec (.ceilingCheck pkg other tj) s = .next (s.withDev (if (List.range 4).all (fun q => ceilOf d q == 850) = true
      then rset d o (setB (setB (rget d o) HB_PWRSTAT.CAPPED false) HB_PWRSTAT.HOT false) else d))) ∧
  (∀ (s : State),
    let k := rgetF s.dev 0x500 HB_PWRSTAT.THROT
    (100 ≤ s.dev.power.floorFor → s.dev.power.within = 0 → exec .throttleStep s = .next (s.withDev
      { rsetF s.dev 0x500 HB_PWRSTAT.THROT (min 4 (k + 1)) with power := { s.dev.power with floorFor := 0 } })) ∧
    (100 ≤ s.dev.power.within → exec .throttleStep s = .next (s.withDev
      { rsetF s.dev 0x500 HB_PWRSTAT.THROT (k - 1) with power := { s.dev.power with within := 0 } }))) ∧
  (∀ (s : State) (g : Nat) (b : Bool),
    (s.dev.hub.pwr = some (1, g, b) → exec .groupUp s = .next (s.withDev (pwrEnds ((groupDoms s.dev g).foldl domUp s.dev) 0))) ∧
    (s.dev.hub.pwr = some (2, g, b) → exec .groupDown s = .next (s.withDev
      (if (groupFlags s.dev g).testBit 1 = false then pwrEnds s.dev 1
       else if (groupClusters s.dev g).any (fun l => !clusterIdle s.dev l) = true then pwrEnds s.dev 2
       else if (groupDoms s.dev g).any (fun n => decide (896 ≤ n ∧ n < 920) && stackUsed s.dev (n - 896)) = true then pwrEnds s.dev 3
       else pwrEnds ((groupDoms s.dev g).foldl domDown s.dev) 0))) ∧
    (g < 64 → (groupFlags s.dev g).testBit 0 = true → groupIdle s.dev g ≠ 0 →
      (groupClusters s.dev g).any (fun l => !clusterIdle s.dev l) = false →
      (groupDoms s.dev g).any (fun n => decide (896 ≤ n ∧ n < 920) && stackUsed s.dev (n - 896)) = false →
      exec (.idlePowerDown g) s = .next (s.withDev ((groupDoms s.dev g).foldl domDown s.dev)))) ∧
  (∀ (s : State) (l p : Nat), siteOfCl s.dev l = some p → s.dev.hub.standby = false → exec (.clusterWake l) s = .next (s.withDev (domUp s.dev p))) ∧
  (∀ (s : State) (q : Nat),
    (q < 4 → quarterOff s.dev q = true → (getQ s.dev q).dormant = false → exec (.quarterDormantEntry q) s = .next (s.withDev
      (vTarget (rsetF (updQ s.dev q (fun u => { u with dormant := true, tlb := [], wcache := [] })) (vsetOff q) QT_VSET.SET 550) q))) ∧
    ((getQ s.dev q).dormant = true → exec (.quarterDormantExit q) s = .next (s.withDev
      (rsetB (updQ s.dev q (fun u => { u with dormant := false })) (qOff q 0) QT_RATE.VALID false)))) ∧
  (∀ (s : State) (g : Nat) (b : Bool), s.dev.hub.pwr = some (3, g, b) →
    let busy := anyRunning s.dev || anyCopy s.dev || anyReduction s.dev || s.dev.tractCmd.isSome ||
      (List.range 24).any (fun k => rbit s.dev (stkOff k 0x18) MS_STAT.RESTRIPE)
    (busy = true → exec .standby s = .next (s.withDev (pwrEnds s.dev 4))) ∧
    (busy = false →
      let saved := (List.range 15).map (fun w => rget s.dev (0x800 + 8 * w))
      let d := (List.range 832).foldl domDown (ledgerWrite (ledgerAsk s.dev .standby))
      let d := (List.range 4).foldl (fun d q => (List.range 16).foldl (fun d w => wayDrained q w (wayDown q w d)) d) d
      let d := (List.range 4).foldl (fun d q =>
        rsetF (updQ d q (fun u => { u with tlb := [], wcache := [] })) (vsetOff q) QT_VSET.TARGET 0) d
      let d := (List.range 24).foldl (fun d k => srEnter k d) d
      let d := pwrEnds ((List.range 12).foldl (fun d p => updPort (darken d p 0) p (fun x => { x with probe := 0 })) d) 0
      exec .standby s = .next (s.withDev { d with hub := { d.hub with savedDom := some saved, standby := true } }))) ∧
  (∀ (s : State) (fails : List Nat) (g : Nat) (b : Bool) (saved : List Word), s.dev.hub.pwr = some (4, g, b) → s.dev.hub.savedDom = some saved →
    let d := (List.range 24).foldl (fun d k => srExit k (rgetF d (stkOff k 0x18) MS_STAT.TEMP) 0 d)
      { s.dev with hub := { s.dev.hub with standby := false } }
    let d := (List.range 24).foldl (fun d k => trainStack d k (fails.getD k 0)) d
    let d := (List.range 4).foldl vTarget d
    let d := startPorts d
    let d := (List.range 940).foldl (fun d n =>
      if (saved.getD (n / 64) 0).toNat.testBit (n % 64) = true then domUp d n else domDown d n) d
    let d := pwrEnds (if d.plat.levee = true then setLv (setFace d false) 1 else d) 0
    exec (.wake fails) s = .next (s.withDev { d with hub := { d.hub with savedDom := none } }))

/-- POWER_ON_RESET, PIN_RESET, DEVICE_RESET, QUARTER_RESET, QUARTER_RESET_RELEASE, CLUSTER_RESET, CLUSTER_RESET_COMPLETE, BOOT,
REFERENCE_CLOCK_LOSS, REFERENCE_CLOCK_RESTORED, THERMAL_TRIP, THERMAL_TRIP_CLEAR, VCORE_UNDERVOLTAGE, VCORE_RECOVERED, QT_RATE_UPDATE
(R14 to R17, R472, R479 to R486). -/
def Obligations.ResetCommands : Prop :=
  (∀ (s : State), exec .powerOnReset s = .next (s.withDev { Dev.reset with
      flash := s.dev.flash, freeCtr := s.dev.freeCtr, pins := { s.dev.pins with thermTrip := false }
      dyke := { Dyke.factory with owner := s.dev.dyke.owner, pass := s.dev.dyke.pass, platKeys := s.dev.dyke.platKeys,
                                  anchor := s.dev.dyke.anchor } }) ∧
    exec .pinReset s = .next (s.withDev (scopeReset s.dev 1 false false))) ∧
  (∀ (s : State) (ag : Agent) (q l : Nat),
    (let v := regOf [(HB_RSTCMD.OP, 1)]
     getF (cmdWord s.dev ag 0x600 v) HB_RSTCMD.OP = 1 → recovery (cmdDev s.dev ag 0x600 v) = false →
     exec (.deviceReset ag) s = .next (s.withDev (scopeReset (cmdDev s.dev ag 0x600 v) 5 true false))) ∧
    (let v := regOf [(HB_RSTCMD.OP, 2), (HB_RSTCMD.QUARTER, q)]
     getF (cmdWord s.dev ag 0x600 v) HB_RSTCMD.OP = 2 → recovery (cmdDev s.dev ag 0x600 v) = false →
     exec (.quarterReset ag q) s = .next (s.withDev
       (quarterReset (getF (cmdWord s.dev ag 0x600 v) HB_RSTCMD.QUARTER) (cmdDev s.dev ag 0x600 v)))) ∧
    (let v := regOf [(HB_RSTCMD.OP, 3), (HB_RSTCMD.CLUSTER, l)]
     let n := getF (cmdWord s.dev ag 0x600 v) HB_RSTCMD.CLUSTER
     getF (cmdWord s.dev ag 0x600 v) HB_RSTCMD.OP = 3 → recovery (cmdDev s.dev ag 0x600 v) = false →
     (siteOfCl (cmdDev s.dev ag 0x600 v) n).isSome = true →
     exec (.clusterReset ag l) s = .next (s.withDev (clusterReset (cmdDev s.dev ag 0x600 v) n)))) ∧
  (∀ (s : State) (q : Nat), (getQ s.dev q).held = true → (getQ s.dev q).vcoreHeld = false →
    exec (.quarterResetRelease q) s = .next (s.withDev ((quarterClusters s.dev q).foldl (fun d l =>
      if (getCl d l).dormant = true then updCl d l (fun k => { k with inReset := false })
      else giveHeld (updCl d l (fun k => { k with inReset := false })) l) (updQ s.dev q (fun u => { u with held := false }))))) ∧
  (∀ (s : State) (l : Nat),
    stackWrites s.dev l = false →
    (getQ s.dev (quarterOf s.dev l)).held = false →
    exec (.clusterResetComplete l) s = .next (s.withDev (updCl s.dev l (fun k => { k with inReset := false })))) ∧
  (∀ (s : State) (fails : List Nat), s.dev.holds = [] → s.dev.booted = false →
    let d := readLedger (rsetB { s.dev with booted := true } 0x200 HB_CLKSTAT.REFOK true)
    let d := showKeys (showLedger (ledgerAsk (updLed d (fun r => { r with boots := (r.boots + 1) % 2 ^ 32 })) .boot))
    let o := 0x700
    let d := rset d o (setF (setF (rget d o) HB_BOOTSTAT.ERRA (fwCheck d 0)) HB_BOOTSTAT.ERRB (fwCheck d 1))
    let train (d : Dev) : Dev := (List.range 24).foldl (fun d k => trainStack d k (fails.getD k 0)) d
    (fwPick d = none → exec (.boot fails) s = .next (s.withDev
      (startPorts (rsetB (train (setStage (platless d) 0xF)) 0x200 HB_CLKSTAT.MEMLOCK true)))) ∧
    (∀ b, fwPick d = some b →
      let e := bootPlat (rset d o (setF (setF (rget d o) HB_BOOTSTAT.BANK b) HB_BOOTSTAT.VERSION (fwVersion d b)))
      exec (.boot fails) s = .next (s.withDev (if e.plat.loaded = true then setStage (bringUp e fails) 8
        else setStage (startPorts (rsetB (train e) 0x200 HB_CLKSTAT.MEMLOCK true)) 5)))) ∧
  (∀ (s : State),
    (s.dev.holds.contains .clock = false →
      let d := scopeReset s.dev 2 true true
      exec .referenceClockLoss s = .next (s.withDev { rsetB d 0x200 HB_CLKSTAT.REFLOST true with holds := d.holds ++ [.clock] })) ∧
    (s.dev.holds.contains .clock = true → exec .referenceClockRestored s = .next (s.withDev
      { rsetB s.dev 0x200 HB_CLKSTAT.REFOK true with holds := s.dev.holds.filter (· != .clock) })) ∧
    (s.dev.holds.contains .thermal = false →
      let d := scopeReset s.dev 3 true false
      exec .thermalTrip s = .next (s.withDev { d with holds := d.holds ++ [.thermal], pins := { d.pins with thermTrip := true } })) ∧
    (s.dev.holds.contains .thermal = true → exec .thermalTripClear s = .next (s.withDev
      { s.dev with holds := s.dev.holds.filter (· != .thermal), pins := { s.dev.pins with thermTrip := false } }))) ∧
  (∀ (s : State) (q mv : Nat),
    (mv < 530 → q < 4 → (getQ s.dev q).vcoreHeld = false → exec (.vcoreUndervoltage q mv) s = .next (s.withDev
      (updQ (quarterReset q s.dev) q (fun u => { u with vcoreHeld := true })))) ∧
    (550 ≤ mv → (getQ s.dev q).vcoreHeld = true → exec (.vcoreRecovered q mv) s = .next (s.withDev
      (quarterRelease q (updQ s.dev q (fun u => { u with vcoreHeld := false })))))) ∧
  (∀ (s : State) (q rate mv tj : Nat), q < 4 → exec (.qtRateUpdate q rate mv tj) s = .next (s.withDev (rset s.dev (qOff q 0)
    (setB (setF (setF (setF (rget s.dev (qOff q 0)) QT_RATE.RATE rate) QT_RATE.VCORE mv) QT_RATE.TJ tj) QT_RATE.VALID true))))

/-- REGISTER_WRITE, FW_ERASE, FW_WRITE, FW_COMMIT, VERIFY_STAGING_BUFFER, REPLAT_FROM_BUFFER, REPLAT_FROM_FLASH, REPLAT_QUIESCED,
REPLAT_QUIESCE_TIMEOUT (R23 to R26, R49, R50, R487). The model's choice: what abandoned requests leave (log entry 82). -/
def Obligations.FirmwareAndPlat : Prop :=
  (∀ (s : State) (ag : Agent) (off size : Nat) (v : Word) (m : RegMap), Sys2Proof.Machine.sizeOk off size = true →
    blkAnswers s.dev (blkOf off).1 → (∀ p, (blkOf off).1 ≠ .site p) → inPlatbuf off = false →
    regMapOf (blkOf off).1 ((blkOf off).2 / 8 * 8) = some m →
    let r := (blkOf off).2 / 8 * 8
    exec (.registerWrite ag off size v) s = .next (s.withDev (mgmtApply s.dev ag (agentMap s.dev ag (blkOf off).1 r m) (blkOf off).1 r
      (off / 8 * 8) (writeMask off size v).1 (writeMask off size v).2))) ∧
  (∀ (s : State) (w : Word), s.dev.hub.fw = some w →
    let b := getF w HB_FWCMD.BANK
    bankRuns s.dev b = false →
    (getF w HB_FWCMD.OP = 1 → exec .fwErase s = .next (s.withDev (fwEnds (ferase s.dev (bankAt b) 0x20_0000) 0))) ∧
    (getF w HB_FWCMD.OP = 2 →
      let bs := stageImage s.dev
      let o := getF w HB_FWCMD.OFFSET
      bs ≠ [] → o % 256 = 0 → o + bs.length ≤ 0x20_0000 →
      exec .fwWrite s = .next (s.withDev (fwEnds (fprog s.dev (bankAt b + o) bs)
        (if fbytes (fprog s.dev (bankAt b + o) bs) (bankAt b + o) bs.length = bs then 0 else 4)))) ∧
    (getF w HB_FWCMD.OP = 3 → fwCheck s.dev b = 0 →
      let v := fwVersion s.dev b
      exec .fwCommit s = .next (s.withDev (fwEnds (if getF w HB_FWCMD.FLOOR = 1 ∧ s.dev.dyke.led.fwFloor < v
        then ledgerAsk (updLed s.dev (fun r => { r with fwFloor := v })) .floor else s.dev) 0)))) ∧
  (∀ (s : State) (ag : Agent) (slot v : Nat) (i : Instr),
    (i, v) ∈ [(Instr.verifyStagingBuffer ag, regOf [(HB_PLATCMD.OP, 1)]), (.replatFromBuffer ag, regOf [(HB_PLATCMD.OP, 2)]),
      (.replatFromFlash ag slot, regOf [(HB_PLATCMD.OP, 3), (HB_PLATCMD.SLOT, slot)])] →
    let w := cmdWord s.dev ag 0x300 v
    let d := cmdDev s.dev ag 0x300 v
    getF w HB_PLATCMD.OP ≠ 0 → rbit s.dev 0x310 HB_PLATSTAT.BUSY = false → rbit s.dev 0x718 HB_FWSTAT.BUSY = false →
    exec i s = .next (s.withDev (platCmd d (getF w HB_PLATCMD.OP) (getF w HB_PLATCMD.SLOT)))) ∧
  (∀ (s : State) (r : Replat), s.dev.replat = some r →
    exec .replatQuiesceTimeout s = .next (s.withDev (replatApply (abandonReqs s.dev) r)) ∧
    (s.dev.reqs.all (fun e => e.2.stage == .done) = true → anyCopy s.dev = false →
      exec .replatQuiesced s = .next (s.withDev (replatApply s.dev r))))

/-- I3C_SET_OFFSET, I3C_READ, I3C_WRITE, BYPASS, IDCODE, SAMPLE_PRELOAD, EXTEST, CLAMP, HIGHZ (R495, R496). -/
def Obligations.BoardCommands : Prop :=
  (∀ (s : State) (off : Nat), exec (.i3cSetOffset off) s = .next (s.withDev { s.dev with board := { s.dev.board with i3cOff := off % 2 ^ 32 } })) ∧
  (∀ (s : State), exec .i3cRead s = .next (s.withDev { s.dev with board := { s.dev.board with i3cOut := i3cValue s.dev } })) ∧
  (∀ (s : State) (off : Nat) (v : Word), exec (.i3cWrite off v) s =
    .next (if off % 2 ^ 32 = 0x508 then s.withDev (mgmtWrite s.dev .board 0x508 8 v).2 else s)) ∧
  (∀ (s : State) (pins v : List Byte) (i : Instr) (ir : ScanIr) (out : Nat) (load : Option (List Byte)),
    (i, ir, out, load) ∈ [(Instr.bypass, ScanIr.bypass, 0, none), (.idcode, .idcode, 0x1802_46B7, none),
      (.samplePreload pins v, .sample, ofBytes pins, some v), (.extest pins v, .extest, ofBytes pins, some v), (.clamp, .clamp, 0, none),
      (.highz, .highz, 0, none)] →
    let was := scanDark s.dev
    let d := { s.dev with board := { s.dev.board with ir := ir, tdo := out } }
    let d := if scanDark d = true ∧ was = false then
        (List.range 12).foldl (fun d p =>
          if portState d p = 6 then setLit d p false else updPort (darken d p 0) p (fun x => { x with probe := 0 })) d
      else if was = true ∧ scanDark d = false ∧ d.booted = true then
        (List.range 12).foldl (fun d p => if portState d p = 0 then startProbe d p else d) d
      else d
    exec i s = .next (s.withDev (match load with | some v => scanLoad v d | none => d)))

/-- A step runs the command at the front, on the state with the queue's rest (spec/95). -/
def Obligations.StepRunsFront : Prop :=
  ∀ (c : Instr) (s : State), step { s with pending := c :: s.pending } = exec c s

/-- Every command answers a next state, with the queue as it was given. The answer of a command that finds nothing to do is the
model's choice (notes/assumptions/4.md). -/
def Obligations.EveryCommandAnswers : Prop :=
  ∀ (c : Instr) (s : State), ∃ d, exec c s = .next (s.withDev d)

/-- A step on an empty queue answers the state (the model's choice, notes/assumptions/3.md). -/
def Obligations.EmptyQueueIdles : Prop :=
  ∀ s : State, s.pending = [] → step s = .next s

/-- What reset leaves in the registers, by the reset columns of the spec's register tables, and on the voltage pins (R490). -/
def Obligations.ResetRegisters : Prop :=
  let d := State.reset.dev
  (∀ l < 800, ∀ c < 8,
    (rget d (dtOff l c 0) = setF 0 DT_STATUS.PLEV 3 ∧ rget d (csOff l c 0x40) = setF 0 CL_FCSR.RM 1 ∧
      rget d (csOff l c 0x70) = setF 0 CL_VCFG.SEW 3 ∧ rget d (csOff l c 0x48) = setB 0 CL_GCTL.PACK_EN true ∧
      rget d (dtOff l c 0x08) = 0 ∧ rget d (dtOff l c 0x10) = 0 ∧ rget d (dtOff l c 0x28) = 0 ∧ rget d (dtOff l c 0x38) = 0 ∧
      rget d (dtOff l c 0x48) = 0) ∧
    rget d (clOff l 0x60) = 0 ∧ isSet (rget d (clOff l 0x700)) CL_ICCTL.EN = true ∧
      isSet (rget d (clOff l 0x708)) CL_PFCTL.EN = true) ∧
  (∀ k < 24, isSet (rget d (stkOff k 0x10)) MS_CTL.SCRUB = true) ∧
  (∀ p < 12, getF (rget d (portOff p 0x1000)) SL_RSPTMO.UNITS = 4096) ∧
  (∀ q < 4, getF (rget d (qOff q 8)) QT_VSET.SET = 750 ∧ getF (rget d (qOff q 8)) QT_VSET.TARGET = 750 ∧
    getF (rget d (qOff q 8)) QT_VSET.CEIL = 850) ∧
  rget d 0x100 = 0 ∧ d.board.qvid = [21, 21, 21, 21]

/-- Memory at reset has its canonical form, and nothing is under way. -/
def Obligations.ResetEmpty : Prop :=
  MemOk State.reset ∧ State.reset.pending = [] ∧ State.reset.dev.reqs = [] ∧ State.reset.dev.inbox = [] ∧
    State.reset.dev.outbox = [] ∧ State.reset.dev.events = [] ∧ ∀ k off, mbyte State.reset.dev k off = 0

/-- R27: reserved ranges and unmapped clusters read as zero and ignore writes; HB_MMERR.UNMAPPED is set and nothing else happens. -/
def Obligations.UnmappedAccess : Prop :=
  ∀ (s : State) (ag : Agent) (o n : Nat) (v : Word),
    (n = 4 ∧ o % 4 = 0 ∨ n = 8 ∧ o % 8 = 0) →
    (blkUnmapped s.dev (blkOf o).1 = true ∨
      blkAsleep s.dev (blkOf o).1 = false ∧ inPlatbuf o = false ∧ (∀ p, (blkOf o).1 ≠ .site p) ∧
        regMapOf (blkOf o).1 ((blkOf o).2 / 8 * 8) = none) →
    (mgmtRead s.dev ag o n).1 = some 0 ∧ onlyMmErr s.dev (mgmtRead s.dev ag o n).2 ∧
    isSet (rget (mgmtRead s.dev ag o n).2 0x100) HB_MMERR.UNMAPPED = true ∧
    ∃ d, exec (.registerWrite ag o n v) s = .next (s.withDev d) ∧ onlyMmErr s.dev d ∧
      isSet (rget d 0x100) HB_MMERR.UNMAPPED = true

/-- R28: a block that is Dormant or off reads as all ones and ignores writes; HB_MMERR.DORMANT is set; nothing wakes. -/
def Obligations.DormantAccess : Prop :=
  ∀ (s : State) (ag : Agent) (o n : Nat) (v : Word),
    (n = 4 ∧ o % 4 = 0 ∨ n = 8 ∧ o % 8 = 0) →
    blkUnmapped s.dev (blkOf o).1 = false → blkAsleep s.dev (blkOf o).1 = true →
    (mgmtRead s.dev ag o n).1 = some (BitVec.ofNat 64 (2 ^ (8 * n) - 1)) ∧ onlyMmErr s.dev (mgmtRead s.dev ag o n).2 ∧
    isSet (rget (mgmtRead s.dev ag o n).2 0x100) HB_MMERR.DORMANT = true ∧
    blkAsleep (mgmtRead s.dev ag o n).2 (blkOf o).1 = true ∧
    (((∀ p, (blkOf o).1 ≠ .site p) ∨ ag = .surveyor ∨ ag = .dykereeve) →
      ∃ d, exec (.registerWrite ag o n v) s = .next (s.withDev d) ∧ onlyMmErr s.dev d ∧
        isSet (rget d 0x100) HB_MMERR.DORMANT = true ∧ blkAsleep d (blkOf o).1 = true)

/-- R29: alias writes of other agents than the Surveyor and the Dykereeve are ignored and set HB_MMERR.ALIAS; alias reads serve all. -/
def Obligations.AliasAccess : Prop :=
  ∀ (s : State) (ag : Agent) (o n p : Nat) (v : Word),
    (n = 4 ∧ o % 4 = 0 ∨ n = 8 ∧ o % 8 = 0) → (blkOf o).1 = .site p →
    (ag ≠ .surveyor → ag ≠ .dykereeve →
      ∃ d, exec (.registerWrite ag o n v) s = .next (s.withDev d) ∧ onlyMmErr s.dev d ∧
        isSet (rget d 0x100) HB_MMERR.ALIAS = true) ∧
    (∀ m, ag = .surveyor ∨ ag = .dykereeve → blkAsleep s.dev (.site p) = false →
      regMapOf (.site p) ((blkOf o).2 / 8 * 8) = some m →
      exec (.registerWrite ag o n v) s = .next (s.withDev
        (mgmtApply s.dev ag (agentMap s.dev ag (.site p) ((blkOf o).2 / 8 * 8) m) (.site p) ((blkOf o).2 / 8 * 8) (o / 8 * 8)
          (writeMask o n v).1 (writeMask o n v).2))) ∧
    (∀ b : Agent, (mgmtRead s.dev ag o n).1 = (mgmtRead s.dev b o n).1)

/-- R31: the capture of an error of the management window. -/
def Obligations.WindowErrorCapture : Prop :=
  ∀ (d : Dev) (ag : Agent) (o : Nat) (f : Fld),
    f ∈ [HB_MMERR.UNMAPPED, HB_MMERR.DORMANT, HB_MMERR.SIZE, HB_MMERR.ALIAS] → o < 2 ^ 28 →
    onlyMmErr d (mmErr d f ag o) ∧
    (getF (rget d 0x100) ⟨0, 4⟩ = 0 →
      getF (rget (mmErr d f ag o) 0x108) HB_MMERR_ADDR.OFFSET = o ∧
      getF (rget (mmErr d f ag o) 0x108) HB_MMERR_ADDR.SOURCE = agentCode ag % 2 ^ 16 ∧
      rget (mmErr d f ag o) 0x100 = setB (rget d 0x100) f true) ∧
    (getF (rget d 0x100) ⟨0, 4⟩ ≠ 0 →
      rget (mmErr d f ag o) 0x108 = rget d 0x108 ∧
      rget (mmErr d f ag o) 0x100 = setB (setB (rget d 0x100) HB_MMERR.OVERRUN true) f true)

/-- R6, R7, R26: the access codes, bit by bit, for every register of the management window. -/
def Obligations.AccessCodes : Prop :=
  (∀ (b : Blk) (o : Nat) (m : RegMap), regMapOf b o = some m → ∀ mask v st : Word,
    (∀ x ∈ m.fs, ∀ i, x.f.lo ≤ i → i < x.f.lo + x.f.w →
      (m.writeVal mask v st).getLsbD i =
        (match x.acc with
         | .rw => if mask.getLsbD i then v.getLsbD i else st.getLsbD i
         | .wo => if mask.getLsbD i then v.getLsbD i else st.getLsbD i
         | .ro => st.getLsbD i
         | .w1c => st.getLsbD i && !(mask.getLsbD i && v.getLsbD i)
         | .w1s => st.getLsbD i || (mask.getLsbD i && v.getLsbD i)) ∧
      (m.readVal st).getLsbD i = (if x.acc = .wo then false else st.getLsbD i)) ∧
    (∀ i, (∀ x ∈ m.fs, i < x.f.lo ∨ x.f.lo + x.f.w ≤ i) →
      (m.writeVal mask v st).getLsbD i = st.getLsbD i ∧ (m.readVal st).getLsbD i = false)) ∧
  (∀ (o i : Nat) (v : Word), i < 64 →
    (writeMask o 4 v).1.getLsbD i = decide (i / 32 = o / 4 % 2) ∧
    (i / 32 = o / 4 % 2 → (writeMask o 4 v).2.getLsbD i = v.getLsbD (i % 32)))

/-- R87: the integer operations, with their W variants. -/
def Obligations.IntegerResults : Prop :=
  (∀ (s : State) (l c slot : Nat) (b : WB) (y : Syl), sylFor s.dev l c slot .alu isReady = some (b, y) →
    let x := getCtx s.dev l c
    (majorOf y.word = 0x00 → fOP y.word ≤ 0x15 →
      exec (.alu l c slot) s = .next (s.withDev (withSyl s.dev l c slot b y .done
        [.sreg (fRD y.word) (intResult (fOP y.word) (fW y.word) (sread x (fRA y.word)) (sread x (fRB y.word)))]))) ∧
    (∀ k, 1 ≤ k → k ≤ 10 → majorOf y.word = k →
      exec (.alu l c slot) s = .next (s.withDev (withSyl s.dev l c slot b y .done
        [.sreg (fRD y.word) (intSpec ([0x00, 0x02, 0x03, 0x04, 0x06, 0x07, 0x08, 0x0A, 0x0B, 0x0C].getD (k - 1) 0)
          (sread x (fRA y.word)) ((BitVec.ofNat 12 (fld y.word 0 12)).signExtend 64))])))) ∧
  (∀ (s : State) (l c : Nat) (b : WB) (y : Syl), sylFor s.dev l c 0 .mul isReady = some (b, y) → fOP y.word = 0 →
    let u := sread (getCtx s.dev l c) (fRA y.word) * sread (getCtx s.dev l c) (fRB y.word)
    exec (.mul l c) s = .next (s.withDev (withSyl s.dev l c 0 b y .done
      [.sreg (fRD y.word) (if fW y.word = true then (u.setWidth 32).signExtend 64 else u)]))) ∧
  (∀ (op : Nat) (a b : Word), (divCompute op true a b).1 = ((divCompute op true a b).1.setWidth 32).signExtend 64)

/-- R89: the halves of the product. -/
def Obligations.MultiplyHalves : Prop :=
  ∀ (s : State) (l c : Nat) (b : WB) (y : Syl), sylFor s.dev l c 0 .mul isReady = some (b, y) →
    let p := sread (getCtx s.dev l c) (fRA y.word)
    let q := sread (getCtx s.dev l c) (fRB y.word)
    let u := p.setWidth 32
    let v := q.setWidth 32
    let r : Word := if fW y.word = true then
        (if fOP y.word = 0 then (u * v).signExtend 64
         else if fOP y.word = 1 then ((u.signExtend 64 * v.signExtend 64).extractLsb' 32 32).signExtend 64
         else ((u.setWidth 64 * v.setWidth 64).extractLsb' 32 32).signExtend 64)
      else
        (if fOP y.word = 0 then p * q
         else if fOP y.word = 1 then (p.signExtend 128 * q.signExtend 128).extractLsb' 64 64
         else (p.setWidth 128 * q.setWidth 128).extractLsb' 64 64)
    fOP y.word ≤ 2 →
    exec (.mul l c) s = .next (s.withDev (withSyl s.dev l c 0 b y .done [.sreg (fRD y.word) r]))

/-- R90: the results of division. -/
def Obligations.DivideResults : Prop :=
  ∀ (s : State) (l c : Nat) (b : WB) (y : Syl), (getCl s.dev l).divOwner = some c →
    sylFor s.dev l c 0 .div (· == .divide) = some (b, y) →
    let p := sread (getCtx s.dev l c) (fRA y.word)
    let q := sread (getCtx s.dev l c) (fRB y.word)
    let d := updCl s.dev l (fun k => { k with divOwner := none })
    let w := fW y.word
    let zero : Bool := if w then q.setWidth 32 == 0#32 else q == 0#64
    let above : Bool := if w then divOver (fOP y.word) (p.setWidth 32) (q.setWidth 32) else divOver (fOP y.word) p q
    fOP y.word ≤ 3 →
    (zero = true → b.md.idz = true →
      exec (.divideComplete l) s = .next (s.withDev (withSyl d l c 0 b y (.faulted ⟨0x0A, 0⟩) []))) ∧
    (above = true → b.md.iov = true →
      exec (.divideComplete l) s = .next (s.withDev (withSyl d l c 0 b y (.faulted ⟨0x0B, 0⟩) []))) ∧
    ((zero = true → b.md.idz = false) → (above = true → b.md.iov = false) →
      exec (.divideComplete l) s = .next (s.withDev (withSyl d l c 0 b y .done
        [.sreg (fRD y.word) (divResult (fOP y.word) w p q)])))

/-- R98: FCLASS, for each format. -/
def Obligations.FclassResult : Prop :=
  ∀ (s : State) (l c : Nat) (b : WB) (y : Syl), sylFor s.dev l c 0 .fclass isReady = some (b, y) →
    majorOf y.word = 0x27 → fFN y.word = 1 →
    ∀ e f, (fFMT y.word = 0 ∧ e = 5 ∧ f = 10 ∨ fFMT y.word = 1 ∧ e = 8 ∧ f = 23 ∨ fFMT y.word = 2 ∧ e = 11 ∧ f = 52) →
    exec (.fclass l c) s = .next (s.withDev (withSyl s.dev l c 0 b y .done
      [.sreg (fRD y.word) (BitVec.ofNat 64 (classSpec e f ((sread (getCtx s.dev l c) (fRA y.word)).toNat % 2 ^ (1 + e + f)))),
        .fflags 0]))

/-- R60: until its bundle retires, a syllable changes nothing but its bundle. -/
def Obligations.ExecutionFrame : Prop :=
  ∀ (s : State) (l c slot : Nat) (i : Instr),
    i ∈ [Instr.alu l c slot, .adds l c slot, .mul l c, .fadd l c, .fminimum l c, .fcmp l c, .fclass l c, .fcvt l c, .getc l c,
      .setc l c, .sevt l c, .vsetvl l c, .br l c, .bc l c, .jr l c, .lbrk l c, .fenceI l c, .trap l c, .tack l c, .fence l c] →
    ∃ d, exec i s = .next (s.withDev d) ∧ { d with cl := s.dev.cl, freeCtr := s.dev.freeCtr } = s.dev ∧
      (∀ m, { getCl d m with ctx := [] } = { getCl s.dev m with ctx := [] }) ∧
      (∀ m k, (m, k) ≠ (l, c) → getCtx d m k = getCtx s.dev m k) ∧
      { getCtx d l c with wb := none } = { getCtx s.dev l c with wb := none } ∧
      ((getCtx d l c).wb.map (fun b => (b.addr, b.len, b.act, b.md)) = (getCtx s.dev l c).wb.map (fun b => (b.addr, b.len, b.act, b.md)))

/-- What a retirement of scalar results writes, and what it leaves (R60). -/
def Obligations.RetireScalarFrame : Prop :=
  ∀ (s : State) (l c : Nat) (b : WB), (getCtx s.dev l c).wb = some b → ownRetire b = false → complete s.dev l c = true →
    b.md.gm = false → b.v = none → b.x = none → (getCl s.dev l).evq = [] → (getCtx s.dev l c).shadow = [] →
    let es := (b.a.map Syl.eff).getD [] ++ (b.b.map Syl.eff).getD [] ++ (b.m.map Syl.eff).getD []
    (∀ e ∈ es, (∃ r v, e = .sreg r v) ∨ ∃ f, e = .fflags f) →
    ∃ d, exec (.bundleRetire l c) s = .next (s.withDev d) ∧
      (∀ r, sread (getCtx d l c) r = regAfter r (sread (getCtx s.dev l c) r) es) ∧
      (getCtx d l c).v = (getCtx s.dev l c).v ∧ (getCtx d l c).m = (getCtx s.dev l c).m ∧ (getCtx d l c).wb = none ∧
      (∀ j a, mbyte d j a = mbyte s.dev j a) ∧ (∀ k, k ≠ c → getCtx d l k = getCtx s.dev l k) ∧
      (∀ m, m ≠ l → getCl d m = getCl s.dev m) ∧ (getCl d l).mere = (getCl s.dev l).mere ∧
      (getCl d l).tiles = (getCl s.dev l).tiles ∧
      (∀ o, (o < csOff l c 0 ∨ csOff l (c + 1) 0 ≤ o) → rget d o = rget s.dev o)

/-- What a store to the Mere writes (R91, R280). -/
def Obligations.MereStoreFrame : Prop :=
  ∀ (s : State) (l c a n v : Nat) (b : WB), (getCtx s.dev l c).wb = some b → ownRetire b = false → complete s.dev l c = true →
    b.md.gm = false → b.v = none → b.x = none → (getCl s.dev l).evq = [] → (getCtx s.dev l c).shadow = [] →
    (b.a.map Syl.eff).getD [] ++ (b.b.map Syl.eff).getD [] ++ (b.m.map Syl.eff).getD [] = [.store true a n v] →
    ∃ d, exec (.bundleRetire l c) s = .next (s.withDev d) ∧
      (∀ o, (o < a ∨ a + n ≤ o) → Tab.get 0 (getCl d l).mere o = Tab.get 0 (getCl s.dev l).mere o) ∧
      (∀ i, i < n → Tab.get 0 (getCl d l).mere (a + i) = BitVec.ofNat 8 (v / 2 ^ (8 * i))) ∧
      (∀ r, sread (getCtx d l c) r = sread (getCtx s.dev l c) r) ∧ (∀ j o, mbyte d j o = mbyte s.dev j o) ∧
      (∀ k, k ≠ c → getCtx d l k = getCtx s.dev l k) ∧ (∀ m, m ≠ l → getCl d m = getCl s.dev m)

/-- What a write to a stack does to memory. -/
def Obligations.StackWriteFrame : Prop :=
  ∀ (d : Dev) (k off n m v : Nat) (bad : Bool),
    (∀ j a, memKey j a < memKey k off ∨ memKey k off + n ≤ memKey j a → mbyte (stackWrite d k off n m v bad) j a = mbyte d j a) ∧
    (n = 64 ∧ m = 2 ^ 64 - 1 ∨ sectorBad d k off = false → ∀ i, i < n →
      mbyte (stackWrite d k off n m v bad) k (off + i) =
        (if m.testBit i = true then BitVec.ofNat 8 (v / 2 ^ (8 * i)) else mbyte d k (off + i))) ∧
    (Memory.wf d.mem = true → Memory.wf (stackWrite d k off n m v bad).mem = true)

/-- R378, R380, R381: the flits of a message spell the message. -/
def Obligations.MessageRoundTrip : Prop :=
  (∀ m : Msg, m.dst < 2 ^ 14 → m.src < 2 ^ 14 → m.vc < 8 → m.op < 64 → m.data.length < 4096 → m.tag < 2 ^ 16 → m.hops < 32 →
    m.cls < 2 → m.addr < 2 ^ 57 →
    (∀ f ∈ flitsOf m, f.length = 56) ∧ (flitsOf m).length = (16 + m.data.length + 55) / 56 ∧
    msgOf (ofBytes ((flitsOf m).flatten.take 16)) ((flitsOf m).flatten.drop 16) = m) ∧
  (∀ (f : List Byte) (tr : Nat), f.length = 56 →
    (flitBytes f tr).length = 64 ∧ (flitBytes f tr).take 56 = f ∧
    ofBytes ((flitBytes f tr).drop 60) = crc32c ((flitBytes f tr).take 60))

/-- The layout of a ledger record: reading what is written gives the record. -/
def Obligations.LedgerRecordRoundTrip : Prop :=
  (∀ r : Led, r.seq < 2 ^ 32 → r.select < 2 ^ 8 → r.evhead < 2 ^ 8 → r.platFloor < 2 ^ 64 → r.fwFloor < 2 ^ 64 → r.sessCtr < 2 ^ 64 →
    r.fails < 2 ^ 16 → r.retired.length ≤ 64 → (∀ n ∈ r.retired, n < 2 ^ 16) → r.boots < 2 ^ 32 →
    r.totals.length = 5 → (∀ n ∈ r.totals, n < 2 ^ 32) →
    Tab.wf 0 r.chanmap = true → (∀ e ∈ r.chanmap, e.1 < 24 ∧ e.2 < 2 ^ 16) →
    Tab.wf 0 r.wayoff = true → (∀ e ∈ r.wayoff, e.1 < 4 ∧ e.2 < 2 ^ 16) →
    Tab.wf (List.replicate 16 0) r.events = true → (∀ e ∈ r.events, e.1 < 16 ∧ e.2.length = 16) →
    (ledBytes r).length = 516 ∧ parseLed (ledBytes r) = some r) ∧
  (∀ bs : List Byte, fieldAt bs 0x200 4 ≠ crc32c (bs.take 0x200) → parseLed bs = none)

/-- R362: what entry to a Datum-level handler writes, and what it leaves. -/
def Obligations.TrapEntrySaves : Prop :=
  ∀ (s : State) (l c : Nat) (t : Trap) (u : Bool), running s.dev l c = true → (getCtx s.dev l c).stop = false →
    (getCtx s.dev l c).park = none → unitsStop s.dev l c = true → atBoundary s.dev l c = true → dueTrap s.dev l c = some (t, u) →
    (getCl s.dev l).evq = [] → rbit s.dev (csOff l c 0x48) CL_GCTL.MODE = false →
    causeOf t < 0x80 → causeOf t ≠ 9 → toSupervisor s.dev l c (causeOf t) = false →
    isSet (rget s.dev (dtOff l c 0)) DT_STATUS.ENTRY = false → isSet (rget s.dev (dtOff l c 0)) DT_STATUS.DOUBLE = false →
    rgetF s.dev (dtOff l c 0) DT_STATUS.PLEV ≠ 2 → c < 8 →
    ∃ d, exec (.trapEntry l c) s = .next (s.withDev d) ∧
      rgetF d (dtOff l c 0x08) DT_SAVE.CAUSE = causeOf t ∧
      rgetF d (dtOff l c 0x08) DT_SAVE.PLEV = rgetF s.dev (dtOff l c 0) DT_STATUS.PLEV ∧
      rgetF d (dtOff l c 0x08) DT_SAVE.LACT = rgetF s.dev (csOff l c 0) ⟨0, 2⟩ ∧
      rbit d (dtOff l c 0x08) DT_SAVE.GM = false ∧
      rget d (dtOff l c regsDT.tval) = t.tval ∧
      rget d (dtOff l c regsDT.resume) = BitVec.ofNat 64 ((resumePoint s.dev l c).1.toNat / 4 * 4) ∧
      rbit d (dtOff l c 0) DT_STATUS.ENTRY = true ∧ rgetF d (dtOff l c 0) DT_STATUS.PLEV = 3 ∧
      rgetF d (csOff l c 0) ⟨0, 2⟩ = 0 ∧
      (getCtx d l c).pc = rget s.dev (dtOff l c 0x28) ∧ (getCtx d l c).wb = none ∧ (getCtx d l c).vq = [] ∧
      (getCtx d l c).xq = [] ∧
      (getCtx d l c).s = (getCtx s.dev l c).s ∧ (getCtx d l c).v = (getCtx s.dev l c).v ∧ (getCtx d l c).m = (getCtx s.dev l c).m ∧
      (∀ o ∈ [csOff l c 0x70, dtOff l c 0x38, dtOff l c 0x28, clOff l (0xC00 + 8 * c), lstartOff l c 0, lstartOff l c 1,
        lendOff l c 0, lendOff l c 1, lcountOff l c 0, lcountOff l c 1], rget d o = rget s.dev o) ∧
      (∀ j a, mbyte d j a = mbyte s.dev j a) ∧ (∀ k, k ≠ c → getCtx d l k = getCtx s.dev l k) ∧
      (∀ m, m ≠ l → getCl d m = getCl s.dev m)

/-- R355: the levels of TACK, TRET, IFSAVE, IFLOAD and CMOSW. -/
def Obligations.PrivilegeAtDecode : Prop :=
  ∀ (d : Dev) (l c : Nat) (md : Modes) (vcfg addr : Word) (w : Syllable) (op : Op) (need : Nat),
    (op, need) ∈ [(Op.tack, 1), (.tret, 1), (.ifsave, 3), (.ifload, 3), (.cmosw, 3)] →
    sylOp false vcfg w = some op → stopBit w = true → md.gm = false → isLoopLast d l c addr = false →
    decodeCheck d l c md vcfg addr false [w] = (if md.plev < need then some ⟨0x05, BitVec.ofNat 64 w.toNat⟩ else none)

/-- VADD's addition, element by element (spec/08: the integer operations and masks). -/
def Obligations.VectorAddResult : Prop :=
  ∀ (s : State) (l n c : Nat) (x : Ctx) (o : QOp), vHead s.dev l = some (c, x, o) → qopOp o = some .vadd →
    baseMajor o.syl = 0 → vOPX o.syl = 0 →
    let w := cfgSew o.vcfg
    let hi := min (cfgVl o.vcfg) ((o.pos / groupElems o + n) * groupElems o)
    let k := (hi * w + 4095) / 4096
    let rd := fRD o.syl
    let ra := fRA o.syl
    let rb := fRB o.syl
    (ra = rd ∨ ra + k ≤ rd ∨ rd + k ≤ ra) → (isS o.syl = true ∨ rb = rd ∨ rb + k ≤ rd ∨ rd + k ≤ rb) →
    ∃ d, exec (.vadd l n) s = .next (s.withDev d) ∧
      (∀ i, o.pos ≤ i → i < hi → elemGet (getCtx d l c) rd w i =
        (if unmasked x o.syl i = true then
          (elemGet x ra w i + (if isS o.syl = true then (o.ops.getD 0 0).toNat % 2 ^ w else elemGet x rb w i)) % 2 ^ w
         else elemGet x rd w i)) ∧
      (∀ i, (i < o.pos ∨ hi ≤ i) → elemGet (getCtx d l c) rd w i = elemGet x rd w i) ∧
      (∀ r, (r < rd ∨ rd + k ≤ r) → vread (getCtx d l c) r = vread x r) ∧
      (getCtx d l c).s = x.s ∧ (getCtx d l c).m = x.m ∧ (getCtx d l c).vq = { o with pos := max o.pos hi } :: x.vq.drop 1 ∧
      (∀ a, rget d a = rget s.dev a) ∧ (∀ j a, mbyte d j a = mbyte s.dev j a) ∧
      (∀ m, m ≠ c → getCtx d l m = getCtx s.dev l m) ∧ (∀ m, m ≠ l → getCl d m = getCl s.dev m)

/-- The canonical form of memory (the model's own, notes/assumptions/6.md) is an invariant of every step, from every state that has it. -/
def Obligations.MemoryStaysCanonical : Prop :=
  ∀ s t : State, MemOk s → step s = .next t → MemOk t
end

