-- ==== Sys2Proof/Laws/Bits.lean ====
section
/-!
SUPPORT. Reading after writing a bit field, and bytes and numbers: the laws of Machine/Bits.lean.
-/
namespace Sys2Proof.Machine

theorem testBit_ones (w i : Nat) : (ones w).testBit i = decide (i < w) := by
  unfold ones
  exact Nat.testBit_two_pow_sub_one w i

theorem getLsbD_mask (f : Fld) (i : Nat) :
    f.mask.getLsbD i = decide (i < 64 ∧ f.lo ≤ i ∧ i < f.lo + f.w) := by
  unfold Fld.mask
  rw [BitVec.getLsbD_ofNat, Nat.testBit_shiftLeft, testBit_ones]
  rw [← Bool.decide_and]
  simp only [ge_iff_le, ← Bool.decide_and, decide_eq_decide]
  omega

/-- A bit of a register whose field was written. -/
theorem getLsbD_setF (x : Word) (f : Fld) (v i : Nat) :
    (setF x f v).getLsbD i =
      if i < 64 ∧ f.lo ≤ i ∧ i < f.lo + f.w then v.testBit (i - f.lo) else x.getLsbD i := by
  unfold setF
  rw [BitVec.getLsbD_or, BitVec.getLsbD_and, BitVec.getLsbD_not, getLsbD_mask, BitVec.getLsbD_ofNat, Nat.testBit_shiftLeft,
    Nat.testBit_mod_two_pow]
  by_cases h1 : i < 64
  · by_cases h2 : f.lo ≤ i
    · by_cases h3 : i < f.lo + f.w
      · have h4 : i - f.lo < f.w := by omega
        simp [h1, h2, h3, h4]
      · have h4 : ¬ i - f.lo < f.w := by omega
        simp [h1, h3, h4]
    · simp [h1, h2]
  · have hx : x.getLsbD i = false := BitVec.getLsbD_of_ge x i (by omega)
    simp [h1, hx]

/-- A bit of a field's value. -/
theorem testBit_getF (x : Word) (f : Fld) (i : Nat) : (getF x f).testBit i = (decide (i < f.w) && x.getLsbD (f.lo + i)) := by
  unfold getF
  rw [Nat.testBit_mod_two_pow, Nat.testBit_shiftRight]
  rfl

/-- A field reads as what was written to it, modulo its width. -/
theorem getF_setF_same (x : Word) (f : Fld) (v : Nat) (h : f.lo + f.w ≤ 64) : getF (setF x f v) f = v % 2 ^ f.w := by
  apply Nat.eq_of_testBit_eq
  intro i
  rw [testBit_getF, getLsbD_setF, Nat.testBit_mod_two_pow]
  by_cases hi : i < f.w
  · have : f.lo + i < 64 := by omega
    simp [hi, this]
  · simp [hi]

/-- A write of one field leaves every other that lies apart from it. -/
theorem getF_setF_ne (x : Word) (f g : Fld) (v : Nat) (h : f.lo + f.w ≤ g.lo ∨ g.lo + g.w ≤ f.lo) :
    getF (setF x f v) g = getF x g := by
  apply Nat.eq_of_testBit_eq
  intro i
  rw [testBit_getF, testBit_getF, getLsbD_setF]
  by_cases hi : i < g.w
  · have : ¬(g.lo + i < 64 ∧ f.lo ≤ g.lo + i ∧ g.lo + i < f.lo + f.w) := by omega
    simp [this]
  · simp [hi]

/-- A one-bit field reads as it was set. -/
theorem isSet_setB_same (x : Word) (f : Fld) (b : Bool) (hw : f.w = 1) (h : f.lo < 64) : isSet (setB x f b) f = b := by
  unfold isSet setB
  rw [getF_setF_same _ _ _ (by omega), hw]
  cases b <;> rfl

/-- Setting one field leaves the others that lie apart from it. -/
theorem isSet_setF_ne (x : Word) (f g : Fld) (v : Nat) (h : f.lo + f.w ≤ g.lo ∨ g.lo + g.w ≤ f.lo) :
    isSet (setF x f v) g = isSet x g := by
  unfold isSet
  rw [getF_setF_ne _ _ _ _ h]

theorem isSet_setB_ne (x : Word) (f g : Fld) (b : Bool) (h : f.lo + f.w ≤ g.lo ∨ g.lo + g.w ≤ f.lo) :
    isSet (setB x f b) g = isSet x g := isSet_setF_ne x f g _ h

@[simp] theorem length_toBytes (k n : Nat) : (toBytes k n).length = k := by
  induction k generalizing n with
  | zero => rfl
  | succ k ih => simp [toBytes, ih]

/-- Byte `i` of a number. -/
theorem getElem?_toBytes (k n i : Nat) (h : i < k) : (toBytes k n)[i]? = some (BitVec.ofNat 8 (n >>> (8 * i))) := by
  induction k generalizing n i with
  | zero => omega
  | succ k ih =>
    cases i with
    | zero => simp [toBytes]
    | succ i =>
      simp only [toBytes, List.getElem?_cons_succ]
      rw [ih _ _ (by omega), ← Nat.shiftRight_add]
      congr 3
      omega

/-- The number that a number's bytes spell. -/
theorem ofBytes_toBytes (k n : Nat) : ofBytes (toBytes k n) = n % 256 ^ k := by
  induction k generalizing n with
  | zero => simp [toBytes, ofBytes, Nat.mod_one]
  | succ k ih =>
    have h : 256 ^ (k + 1) = 256 * 256 ^ k := Nat.pow_succ'
    simp only [toBytes, ofBytes, ih, BitVec.toNat_ofNat]
    rw [Nat.shiftRight_eq_div_pow, h, Nat.mod_mul]

/-- Bytes are those of the number they spell. -/
theorem toBytes_ofBytes (bs : List Byte) : toBytes bs.length (ofBytes bs) = bs := by
  induction bs with
  | nil => rfl
  | cons b bs ih =>
    simp only [List.length_cons, toBytes, ofBytes]
    have hb : b.toNat < 256 := b.isLt
    have h1 : (b.toNat + 256 * ofBytes bs) >>> 8 = ofBytes bs := by
      rw [Nat.shiftRight_eq_div_pow]
      omega
    have h2 : BitVec.ofNat 8 (b.toNat + 256 * ofBytes bs) = b := by
      apply BitVec.eq_of_toNat_eq
      simp only [BitVec.toNat_ofNat]
      omega
    rw [h1, h2, ih]

/-- Bytes spell a number below 256 to their count. -/
theorem ofBytes_lt (bs : List Byte) : ofBytes bs < 256 ^ bs.length := by
  induction bs with
  | nil => simp [ofBytes]
  | cons b bs ih =>
    simp only [ofBytes, List.length_cons, Nat.pow_succ']
    have hb : b.toNat < 256 := b.isLt
    omega

/-- Bytes after bytes spell the two numbers side by side. -/
theorem ofBytes_append (as bs : List Byte) : ofBytes (as ++ bs) = ofBytes as + 256 ^ as.length * ofBytes bs := by
  induction as with
  | nil => simp [ofBytes]
  | cons a as ih =>
    simp only [List.cons_append, ofBytes, ih, List.length_cons, Nat.pow_succ']
    rw [Nat.mul_add, Nat.mul_assoc, Nat.add_assoc]

end Sys2Proof.Machine
end

