-- ==== Sys2Proof/Laws/Tab.lean ====
section
/-!
SUPPORT. The laws of sparse tables: reading after writing, for every table, and that the operations keep the canonical form.
-/
namespace Sys2Proof.Machine

variable {α : Type}

@[simp] theorem Tab.find?_nil (k : Nat) : Tab.find? ([] : Tab α) k = none := rfl

/-- An inserted key is found. -/
@[simp] theorem Tab.find?_insert_same (t : Tab α) (k : Nat) (v : α) : Tab.find? (Tab.insert t k v) k = some v := by
  induction t with
  | nil => simp [Tab.insert, Tab.find?]
  | cons e t ih =>
    obtain ⟨j, w⟩ := e
    unfold Tab.insert
    split
    · simp [Tab.find?]
    · split
      · simp [Tab.find?]
      · rename_i h _
        simp [Tab.find?, h, ih]

/-- Inserting a key leaves every other key's entry. -/
theorem Tab.find?_insert_ne (t : Tab α) {k j : Nat} (v : α) (h : j ≠ k) :
    Tab.find? (Tab.insert t k v) j = Tab.find? t j := by
  induction t with
  | nil => simp [Tab.insert, Tab.find?, Ne.symm h]
  | cons e t ih =>
    obtain ⟨i, w⟩ := e
    unfold Tab.insert
    split
    · rename_i hi
      subst hi
      simp [Tab.find?, Ne.symm h]
    · split
      · simp [Tab.find?, Ne.symm h]
      · simp [Tab.find?, ih]

/-- An erased key is not found. -/
@[simp] theorem Tab.find?_erase_same (t : Tab α) (k : Nat) : Tab.find? (Tab.erase t k) k = none := by
  induction t with
  | nil => rfl
  | cons e t ih =>
    obtain ⟨j, w⟩ := e
    unfold Tab.erase
    split
    · exact ih
    · rename_i h
      simp [Tab.find?, h, ih]

/-- Erasing a key leaves every other key's entry. -/
theorem Tab.find?_erase_ne (t : Tab α) {k j : Nat} (h : j ≠ k) : Tab.find? (Tab.erase t k) j = Tab.find? t j := by
  induction t with
  | nil => rfl
  | cons e t ih =>
    obtain ⟨i, w⟩ := e
    unfold Tab.erase
    split
    · rename_i hi
      subst hi
      simp [Tab.find?, Ne.symm h, ih]
    · simp [Tab.find?, ih]

variable [DecidableEq α]

/-- A key that was written reads as the value written. -/
@[simp] theorem Tab.get_set_same (d : α) (t : Tab α) (k : Nat) (v : α) : Tab.get d (Tab.set d t k v) k = v := by
  unfold Tab.set Tab.get
  split
  · rename_i h
    simp [h]
  · simp

/-- Writing a key leaves what every other key reads as. -/
theorem Tab.get_set_ne (d : α) (t : Tab α) {k j : Nat} (v : α) (h : j ≠ k) :
    Tab.get d (Tab.set d t k v) j = Tab.get d t j := by
  unfold Tab.set Tab.get
  split
  · rw [Tab.find?_erase_ne t h]
  · rw [Tab.find?_insert_ne t v h]

/-- The same for any default: what a key reads as after a write of another. -/
theorem Tab.find?_set_ne (d : α) (t : Tab α) {k j : Nat} (v : α) (h : j ≠ k) :
    Tab.find? (Tab.set d t k v) j = Tab.find? t j := by
  unfold Tab.set
  split
  · exact Tab.find?_erase_ne t h
  · exact Tab.find?_insert_ne t v h

/-- A run of writes leaves what the keys outside it read as. -/
theorem Tab.get_setRun_out (d : α) (vs : List α) (t : Tab α) (k j : Nat) (h : j < k ∨ k + vs.length ≤ j) :
    Tab.get d (Tab.setRun d t k vs) j = Tab.get d t j := by
  induction vs generalizing t k with
  | nil => rfl
  | cons v vs ih =>
    simp only [Tab.setRun, List.length_cons] at *
    rw [ih _ _ (by omega), Tab.get_set_ne d t v (by omega)]

/-- A run of writes is read back at its keys. -/
theorem Tab.get_setRun_in (d : α) (vs : List α) (t : Tab α) (k i : Nat) (h : i < vs.length) :
    Tab.get d (Tab.setRun d t k vs) (k + i) = vs[i] := by
  induction vs generalizing t k i with
  | nil => simp at h
  | cons v vs ih =>
    cases i with
    | zero =>
      simp only [Tab.setRun, Nat.add_zero, List.getElem_cons_zero]
      rw [Tab.get_setRun_out d vs _ _ _ (by omega), Tab.get_set_same]
    | succ i =>
      simp only [Tab.setRun, List.getElem_cons_succ]
      have := ih (Tab.set d t k v) (k + 1) i (by simpa using h)
      rw [← this]
      congr 1
      omega

/-- A run of writes is read back as a run. -/
theorem Tab.getRun_setRun (d : α) (vs : List α) (t : Tab α) (k : Nat) :
    Tab.getRun d (Tab.setRun d t k vs) k vs.length = vs := by
  apply List.ext_getElem
  · simp [Tab.getRun]
  · intro i h1 h2
    simp [Tab.getRun, Tab.get_setRun_in d vs t k i h2]

/-! ### The canonical form -/

/-- Every key of the table is above the bound. -/
def Tab.above (b : Option Nat) (t : Tab α) : Prop := ∀ n, b = some n → ∀ e ∈ t, n < e.1

omit [DecidableEq α] in
/-- A table rising above a bound: its keys are above it. -/
theorem Tab.rising_above (b : Option Nat) (t : Tab α) (h : Tab.rising b t = true) : Tab.above b t := by
  induction t generalizing b with
  | nil => intro n _ e he; simp at he
  | cons e t ih =>
    obtain ⟨j, v⟩ := e
    intro n hn e he
    subst hn
    simp only [Tab.rising, Bool.and_eq_true, decide_eq_true_eq] at h
    rcases List.mem_cons.1 he with rfl | he
    · exact h.1
    · have := ih (some j) h.2 j rfl e he
      omega

omit [DecidableEq α] in
/-- A lower bound may be lowered. -/
theorem Tab.rising_mono (a b : Option Nat) (t : Tab α) (h : Tab.rising b t = true)
    (hb : ∀ n, a = some n → ∀ e ∈ t, n < e.1) : Tab.rising a t = true := by
  cases t with
  | nil => cases a <;> rfl
  | cons e t =>
    obtain ⟨j, v⟩ := e
    have h' : Tab.rising (some j) t = true := by
      cases b with
      | none => simpa [Tab.rising] using h
      | some b => simp only [Tab.rising, Bool.and_eq_true] at h; exact h.2
    cases a with
    | none => simpa [Tab.rising] using h'
    | some a =>
      have := hb a rfl (j, v) (by simp)
      simp only [Tab.rising, Bool.and_eq_true, decide_eq_true_eq]
      exact ⟨this, h'⟩

omit [DecidableEq α] in
/-- The entries of an inserted table. -/
theorem Tab.mem_insert (t : Tab α) (k : Nat) (v : α) (e : Nat × α) (h : e ∈ Tab.insert t k v) : e = (k, v) ∨ e ∈ t := by
  induction t with
  | nil => simp [Tab.insert] at h; exact Or.inl h
  | cons f t ih =>
    obtain ⟨j, w⟩ := f
    unfold Tab.insert at h
    split at h
    · rcases List.mem_cons.1 h with h | h
      · exact Or.inl h
      · exact Or.inr (List.mem_cons_of_mem _ h)
    · split at h
      · rcases List.mem_cons.1 h with h | h
        · exact Or.inl h
        · exact Or.inr h
      · rcases List.mem_cons.1 h with h | h
        · exact Or.inr (h ▸ List.mem_cons_self)
        · rcases ih h with h | h
          · exact Or.inl h
          · exact Or.inr (List.mem_cons_of_mem _ h)

omit [DecidableEq α] in
/-- Inserting keeps the keys rising. -/
theorem Tab.rising_insert (b : Option Nat) (t : Tab α) (k : Nat) (v : α) (h : Tab.rising b t = true)
    (hb : ∀ n, b = some n → n < k) : Tab.rising b (Tab.insert t k v) = true := by
  induction t generalizing b with
  | nil =>
    cases b with
    | none => rfl
    | some n => simp [Tab.insert, Tab.rising, hb n rfl]
  | cons e t ih =>
    obtain ⟨j, w⟩ := e
    have hj : Tab.rising (some j) t = true := by
      cases b with
      | none => simpa [Tab.rising] using h
      | some b => simp only [Tab.rising, Bool.and_eq_true] at h; exact h.2
    have hbj : ∀ n, b = some n → n < j := by
      intro n hn; subst hn; simp only [Tab.rising, Bool.and_eq_true, decide_eq_true_eq] at h; exact h.1
    unfold Tab.insert
    split
    · rename_i hk
      subst hk
      cases b with
      | none => simpa [Tab.rising] using hj
      | some n => simp [Tab.rising, hb n rfl, hj]
    · split
      · rename_i hk _
        have : Tab.rising (some k) ((j, w) :: t) = true := by
          simp only [Tab.rising, Bool.and_eq_true, decide_eq_true_eq]
          exact ⟨by assumption, hj⟩
        cases b with
        | none => simpa [Tab.rising] using this
        | some n => simp only [Tab.rising, Bool.and_eq_true, decide_eq_true_eq] at *; exact ⟨hb n rfl, this⟩
      · have := ih (some j) hj (by intro n hn; cases hn; omega)
        cases b with
        | none => simpa [Tab.rising] using this
        | some n => simp only [Tab.rising, Bool.and_eq_true, decide_eq_true_eq]; exact ⟨hbj n rfl, this⟩

omit [DecidableEq α] in
/-- A filtered table keeps its keys rising. -/
theorem Tab.rising_filter (b : Option Nat) (t : Tab α) (p : Nat × α → Bool) (h : Tab.rising b t = true) :
    Tab.rising b (t.filter p) = true := by
  induction t generalizing b with
  | nil => simpa using h
  | cons e t ih =>
    obtain ⟨j, w⟩ := e
    have hj : Tab.rising (some j) t = true := by
      cases b with
      | none => simpa [Tab.rising] using h
      | some b => simp only [Tab.rising, Bool.and_eq_true] at h; exact h.2
    have ha := Tab.rising_above b _ h
    have hf := ih (some j) hj
    by_cases hp : p (j, w) = true
    · rw [List.filter_cons_of_pos hp]
      cases b with
      | none => simpa [Tab.rising] using hf
      | some n => simp only [Tab.rising, Bool.and_eq_true, decide_eq_true_eq]; exact ⟨ha n rfl (j, w) (by simp), hf⟩
    · rw [List.filter_cons_of_neg hp]
      exact Tab.rising_mono b (some j) _ hf (fun n hn e he =>
        ha n hn e (List.mem_cons_of_mem _ ((List.mem_filter.1 he).1)))

omit [DecidableEq α] in
/-- Erasing a key is filtering it out. -/
theorem Tab.erase_eq_filter (t : Tab α) (k : Nat) : Tab.erase t k = t.filter (fun e => decide (e.1 ≠ k)) := by
  induction t with
  | nil => rfl
  | cons e t ih =>
    obtain ⟨j, w⟩ := e
    unfold Tab.erase
    by_cases h : j = k <;> simp [h, ih]

/-- Inserting a value that is not the default keeps the canonical form. -/
theorem Tab.wf_insert (d : α) (t : Tab α) (k : Nat) (v : α) (h : Tab.wf d t = true) (hv : v ≠ d) :
    Tab.wf d (Tab.insert t k v) = true := by
  simp only [Tab.wf, Bool.and_eq_true, List.all_eq_true, decide_eq_true_eq] at *
  refine ⟨Tab.rising_insert none t k v h.1 (by simp), fun e he => ?_⟩
  rcases Tab.mem_insert t k v e he with rfl | he
  · exact hv
  · exact h.2 e he

/-- Filtering keeps the canonical form. -/
theorem Tab.wf_filter (d : α) (t : Tab α) (p : Nat × α → Bool) (h : Tab.wf d t = true) :
    Tab.wf d (t.filter p) = true := by
  simp only [Tab.wf, Bool.and_eq_true, List.all_eq_true, decide_eq_true_eq] at *
  exact ⟨Tab.rising_filter none t p h.1, fun e he => h.2 e ((List.mem_filter.1 he).1)⟩

/-- Erasing keeps the canonical form. -/
theorem Tab.wf_erase (d : α) (t : Tab α) (k : Nat) (h : Tab.wf d t = true) : Tab.wf d (Tab.erase t k) = true := by
  rw [Tab.erase_eq_filter]
  exact Tab.wf_filter d t _ h

/-- Dropping keys keeps the canonical form. -/
theorem Tab.wf_drop (d : α) (t : Tab α) (p : Nat → Bool) (h : Tab.wf d t = true) : Tab.wf d (Tab.drop t p) = true :=
  Tab.wf_filter d t _ h

/-- A write keeps the canonical form. -/
theorem Tab.wf_set (d : α) (t : Tab α) (k : Nat) (v : α) (h : Tab.wf d t = true) : Tab.wf d (Tab.set d t k v) = true := by
  unfold Tab.set
  split
  · exact Tab.wf_erase d t k h
  · rename_i hv
    exact Tab.wf_insert d t k v h hv

/-- A run of writes keeps the canonical form. -/
theorem Tab.wf_setRun (d : α) (vs : List α) (t : Tab α) (k : Nat) (h : Tab.wf d t = true) :
    Tab.wf d (Tab.setRun d t k vs) = true := by
  induction vs generalizing t k with
  | nil => exact h
  | cons v vs ih => exact ih _ _ (Tab.wf_set d t k v h)

/-- A fold of writes keeps the canonical form. -/
theorem Tab.wf_foldl_set {β : Type} (d : α) (f : β → Nat) (g : β → α) (es : List β) (t : Tab α) (h : Tab.wf d t = true) :
    Tab.wf d (es.foldl (fun m e => Tab.set d m (f e) (g e)) t) = true := by
  induction es generalizing t with
  | nil => exact h
  | cons e es ih => exact ih _ (Tab.wf_set d t _ _ h)

end Sys2Proof.Machine
end

