-- ==== Sys2Proof/Laws/State.lean ====
section
/-!
SUPPORT. The named operations over the state: which field of the device each leaves (true by rfl), and reading after writing through
them.
-/
namespace Sys2Proof.Machine

/-! ### Fields that an operation leaves -/

@[simp] theorem rset_cl (d : Dev) (o : Nat) (v : Word) : (rset d o v).cl = d.cl := rfl
@[simp] theorem rset_quarters (d : Dev) (o : Nat) (v : Word) : (rset d o v).quarters = d.quarters := rfl
@[simp] theorem rset_mem (d : Dev) (o : Nat) (v : Word) : (rset d o v).mem = d.mem := rfl
@[simp] theorem rset_badMem (d : Dev) (o : Nat) (v : Word) : (rset d o v).badMem = d.badMem := rfl
@[simp] theorem rset_reqs (d : Dev) (o : Nat) (v : Word) : (rset d o v).reqs = d.reqs := rfl
@[simp] theorem rset_events (d : Dev) (o : Nat) (v : Word) : (rset d o v).events = d.events := rfl
@[simp] theorem rset_outbox (d : Dev) (o : Nat) (v : Word) : (rset d o v).outbox = d.outbox := rfl
@[simp] theorem rset_inbox (d : Dev) (o : Nat) (v : Word) : (rset d o v).inbox = d.inbox := rfl
@[simp] theorem rset_ports (d : Dev) (o : Nat) (v : Word) : (rset d o v).ports = d.ports := rfl
@[simp] theorem rset_tagCtr (d : Dev) (o : Nat) (v : Word) : (rset d o v).tagCtr = d.tagCtr := rfl
@[simp] theorem rset_mirrored (d : Dev) (o : Nat) (v : Word) : (rset d o v).mirrored = d.mirrored := rfl
@[simp] theorem rset_freeCtr (d : Dev) (o : Nat) (v : Word) : (rset d o v).freeCtr = d.freeCtr := rfl
@[simp] theorem rset_plat (d : Dev) (o : Nat) (v : Word) : (rset d o v).plat = d.plat := rfl
@[simp] theorem rset_tracts (d : Dev) (o : Nat) (v : Word) : (rset d o v).tracts = d.tracts := rfl
@[simp] theorem rset_stks (d : Dev) (o : Nat) (v : Word) : (rset d o v).stks = d.stks := rfl
@[simp] theorem rset_fevents (d : Dev) (o : Nat) (v : Word) : (rset d o v).fevents = d.fevents := rfl
@[simp] theorem rset_wfdPend (d : Dev) (o : Nat) (v : Word) : (rset d o v).wfdPend = d.wfdPend := rfl
@[simp] theorem rset_tractCmd (d : Dev) (o : Nat) (v : Word) : (rset d o v).tractCmd = d.tractCmd := rfl
@[simp] theorem rset_tractEnd (d : Dev) (o : Nat) (v : Word) : (rset d o v).tractEnd = d.tractEnd := rfl
@[simp] theorem rset_platbuf (d : Dev) (o : Nat) (v : Word) : (rset d o v).platbuf = d.platbuf := rfl
@[simp] theorem rset_flash (d : Dev) (o : Nat) (v : Word) : (rset d o v).flash = d.flash := rfl
@[simp] theorem rset_dyke (d : Dev) (o : Nat) (v : Word) : (rset d o v).dyke = d.dyke := rfl
@[simp] theorem rset_sess (d : Dev) (o : Nat) (v : Word) : (rset d o v).sess = d.sess := rfl
@[simp] theorem rset_attest (d : Dev) (o : Nat) (v : Word) : (rset d o v).attest = d.attest := rfl
@[simp] theorem rset_rings (d : Dev) (o : Nat) (v : Word) : (rset d o v).rings = d.rings := rfl
@[simp] theorem rset_relayed (d : Dev) (o : Nat) (v : Word) : (rset d o v).relayed = d.relayed := rfl
@[simp] theorem rset_pins (d : Dev) (o : Nat) (v : Word) : (rset d o v).pins = d.pins := rfl
@[simp] theorem rset_hjobs (d : Dev) (o : Nat) (v : Word) : (rset d o v).hjobs = d.hjobs := rfl
@[simp] theorem rset_red (d : Dev) (o : Nat) (v : Word) : (rset d o v).red = d.red := rfl
@[simp] theorem rset_bkts (d : Dev) (o : Nat) (v : Word) : (rset d o v).bkts = d.bkts := rfl
@[simp] theorem rset_store (d : Dev) (o : Nat) (v : Word) : (rset d o v).store = d.store := rfl
@[simp] theorem rset_lv (d : Dev) (o : Nat) (v : Word) : (rset d o v).lv = d.lv := rfl
@[simp] theorem rset_replat (d : Dev) (o : Nat) (v : Word) : (rset d o v).replat = d.replat := rfl
@[simp] theorem rset_hub (d : Dev) (o : Nat) (v : Word) : (rset d o v).hub = d.hub := rfl
@[simp] theorem rset_holds (d : Dev) (o : Nat) (v : Word) : (rset d o v).holds = d.holds := rfl
@[simp] theorem rset_booted (d : Dev) (o : Nat) (v : Word) : (rset d o v).booted = d.booted := rfl
@[simp] theorem rset_board (d : Dev) (o : Nat) (v : Word) : (rset d o v).board = d.board := rfl
@[simp] theorem rset_power (d : Dev) (o : Nat) (v : Word) : (rset d o v).power = d.power := rfl

@[simp] theorem rsetF_cl (d : Dev) (o : Nat) (f : Fld) (v : Nat) : (rsetF d o f v).cl = d.cl := rfl
@[simp] theorem rsetF_quarters (d : Dev) (o : Nat) (f : Fld) (v : Nat) : (rsetF d o f v).quarters = d.quarters := rfl
@[simp] theorem rsetF_mem (d : Dev) (o : Nat) (f : Fld) (v : Nat) : (rsetF d o f v).mem = d.mem := rfl
@[simp] theorem rsetF_badMem (d : Dev) (o : Nat) (f : Fld) (v : Nat) : (rsetF d o f v).badMem = d.badMem := rfl
@[simp] theorem rsetF_reqs (d : Dev) (o : Nat) (f : Fld) (v : Nat) : (rsetF d o f v).reqs = d.reqs := rfl
@[simp] theorem rsetF_events (d : Dev) (o : Nat) (f : Fld) (v : Nat) : (rsetF d o f v).events = d.events := rfl
@[simp] theorem rsetF_outbox (d : Dev) (o : Nat) (f : Fld) (v : Nat) : (rsetF d o f v).outbox = d.outbox := rfl
@[simp] theorem rsetF_inbox (d : Dev) (o : Nat) (f : Fld) (v : Nat) : (rsetF d o f v).inbox = d.inbox := rfl
@[simp] theorem rsetF_ports (d : Dev) (o : Nat) (f : Fld) (v : Nat) : (rsetF d o f v).ports = d.ports := rfl
@[simp] theorem rsetF_tagCtr (d : Dev) (o : Nat) (f : Fld) (v : Nat) : (rsetF d o f v).tagCtr = d.tagCtr := rfl
@[simp] theorem rsetF_mirrored (d : Dev) (o : Nat) (f : Fld) (v : Nat) : (rsetF d o f v).mirrored = d.mirrored := rfl
@[simp] theorem rsetF_freeCtr (d : Dev) (o : Nat) (f : Fld) (v : Nat) : (rsetF d o f v).freeCtr = d.freeCtr := rfl
@[simp] theorem rsetF_plat (d : Dev) (o : Nat) (f : Fld) (v : Nat) : (rsetF d o f v).plat = d.plat := rfl
@[simp] theorem rsetF_tracts (d : Dev) (o : Nat) (f : Fld) (v : Nat) : (rsetF d o f v).tracts = d.tracts := rfl
@[simp] theorem rsetF_stks (d : Dev) (o : Nat) (f : Fld) (v : Nat) : (rsetF d o f v).stks = d.stks := rfl
@[simp] theorem rsetF_fevents (d : Dev) (o : Nat) (f : Fld) (v : Nat) : (rsetF d o f v).fevents = d.fevents := rfl
@[simp] theorem rsetF_wfdPend (d : Dev) (o : Nat) (f : Fld) (v : Nat) : (rsetF d o f v).wfdPend = d.wfdPend := rfl
@[simp] theorem rsetF_tractCmd (d : Dev) (o : Nat) (f : Fld) (v : Nat) : (rsetF d o f v).tractCmd = d.tractCmd := rfl
@[simp] theorem rsetF_tractEnd (d : Dev) (o : Nat) (f : Fld) (v : Nat) : (rsetF d o f v).tractEnd = d.tractEnd := rfl
@[simp] theorem rsetF_platbuf (d : Dev) (o : Nat) (f : Fld) (v : Nat) : (rsetF d o f v).platbuf = d.platbuf := rfl
@[simp] theorem rsetF_flash (d : Dev) (o : Nat) (f : Fld) (v : Nat) : (rsetF d o f v).flash = d.flash := rfl
@[simp] theorem rsetF_dyke (d : Dev) (o : Nat) (f : Fld) (v : Nat) : (rsetF d o f v).dyke = d.dyke := rfl
@[simp] theorem rsetF_sess (d : Dev) (o : Nat) (f : Fld) (v : Nat) : (rsetF d o f v).sess = d.sess := rfl
@[simp] theorem rsetF_attest (d : Dev) (o : Nat) (f : Fld) (v : Nat) : (rsetF d o f v).attest = d.attest := rfl
@[simp] theorem rsetF_rings (d : Dev) (o : Nat) (f : Fld) (v : Nat) : (rsetF d o f v).rings = d.rings := rfl
@[simp] theorem rsetF_relayed (d : Dev) (o : Nat) (f : Fld) (v : Nat) : (rsetF d o f v).relayed = d.relayed := rfl
@[simp] theorem rsetF_pins (d : Dev) (o : Nat) (f : Fld) (v : Nat) : (rsetF d o f v).pins = d.pins := rfl
@[simp] theorem rsetF_hjobs (d : Dev) (o : Nat) (f : Fld) (v : Nat) : (rsetF d o f v).hjobs = d.hjobs := rfl
@[simp] theorem rsetF_red (d : Dev) (o : Nat) (f : Fld) (v : Nat) : (rsetF d o f v).red = d.red := rfl
@[simp] theorem rsetF_bkts (d : Dev) (o : Nat) (f : Fld) (v : Nat) : (rsetF d o f v).bkts = d.bkts := rfl
@[simp] theorem rsetF_store (d : Dev) (o : Nat) (f : Fld) (v : Nat) : (rsetF d o f v).store = d.store := rfl
@[simp] theorem rsetF_lv (d : Dev) (o : Nat) (f : Fld) (v : Nat) : (rsetF d o f v).lv = d.lv := rfl
@[simp] theorem rsetF_replat (d : Dev) (o : Nat) (f : Fld) (v : Nat) : (rsetF d o f v).replat = d.replat := rfl
@[simp] theorem rsetF_hub (d : Dev) (o : Nat) (f : Fld) (v : Nat) : (rsetF d o f v).hub = d.hub := rfl
@[simp] theorem rsetF_holds (d : Dev) (o : Nat) (f : Fld) (v : Nat) : (rsetF d o f v).holds = d.holds := rfl
@[simp] theorem rsetF_booted (d : Dev) (o : Nat) (f : Fld) (v : Nat) : (rsetF d o f v).booted = d.booted := rfl
@[simp] theorem rsetF_board (d : Dev) (o : Nat) (f : Fld) (v : Nat) : (rsetF d o f v).board = d.board := rfl
@[simp] theorem rsetF_power (d : Dev) (o : Nat) (f : Fld) (v : Nat) : (rsetF d o f v).power = d.power := rfl

@[simp] theorem rsetB_cl (d : Dev) (o : Nat) (f : Fld) (b : Bool) : (rsetB d o f b).cl = d.cl := rfl
@[simp] theorem rsetB_quarters (d : Dev) (o : Nat) (f : Fld) (b : Bool) : (rsetB d o f b).quarters = d.quarters := rfl
@[simp] theorem rsetB_mem (d : Dev) (o : Nat) (f : Fld) (b : Bool) : (rsetB d o f b).mem = d.mem := rfl
@[simp] theorem rsetB_badMem (d : Dev) (o : Nat) (f : Fld) (b : Bool) : (rsetB d o f b).badMem = d.badMem := rfl
@[simp] theorem rsetB_reqs (d : Dev) (o : Nat) (f : Fld) (b : Bool) : (rsetB d o f b).reqs = d.reqs := rfl
@[simp] theorem rsetB_events (d : Dev) (o : Nat) (f : Fld) (b : Bool) : (rsetB d o f b).events = d.events := rfl
@[simp] theorem rsetB_outbox (d : Dev) (o : Nat) (f : Fld) (b : Bool) : (rsetB d o f b).outbox = d.outbox := rfl
@[simp] theorem rsetB_inbox (d : Dev) (o : Nat) (f : Fld) (b : Bool) : (rsetB d o f b).inbox = d.inbox := rfl
@[simp] theorem rsetB_ports (d : Dev) (o : Nat) (f : Fld) (b : Bool) : (rsetB d o f b).ports = d.ports := rfl
@[simp] theorem rsetB_tagCtr (d : Dev) (o : Nat) (f : Fld) (b : Bool) : (rsetB d o f b).tagCtr = d.tagCtr := rfl
@[simp] theorem rsetB_mirrored (d : Dev) (o : Nat) (f : Fld) (b : Bool) : (rsetB d o f b).mirrored = d.mirrored := rfl
@[simp] theorem rsetB_freeCtr (d : Dev) (o : Nat) (f : Fld) (b : Bool) : (rsetB d o f b).freeCtr = d.freeCtr := rfl
@[simp] theorem rsetB_plat (d : Dev) (o : Nat) (f : Fld) (b : Bool) : (rsetB d o f b).plat = d.plat := rfl
@[simp] theorem rsetB_tracts (d : Dev) (o : Nat) (f : Fld) (b : Bool) : (rsetB d o f b).tracts = d.tracts := rfl
@[simp] theorem rsetB_stks (d : Dev) (o : Nat) (f : Fld) (b : Bool) : (rsetB d o f b).stks = d.stks := rfl
@[simp] theorem rsetB_fevents (d : Dev) (o : Nat) (f : Fld) (b : Bool) : (rsetB d o f b).fevents = d.fevents := rfl
@[simp] theorem rsetB_wfdPend (d : Dev) (o : Nat) (f : Fld) (b : Bool) : (rsetB d o f b).wfdPend = d.wfdPend := rfl
@[simp] theorem rsetB_tractCmd (d : Dev) (o : Nat) (f : Fld) (b : Bool) : (rsetB d o f b).tractCmd = d.tractCmd := rfl
@[simp] theorem rsetB_tractEnd (d : Dev) (o : Nat) (f : Fld) (b : Bool) : (rsetB d o f b).tractEnd = d.tractEnd := rfl
@[simp] theorem rsetB_platbuf (d : Dev) (o : Nat) (f : Fld) (b : Bool) : (rsetB d o f b).platbuf = d.platbuf := rfl
@[simp] theorem rsetB_flash (d : Dev) (o : Nat) (f : Fld) (b : Bool) : (rsetB d o f b).flash = d.flash := rfl
@[simp] theorem rsetB_dyke (d : Dev) (o : Nat) (f : Fld) (b : Bool) : (rsetB d o f b).dyke = d.dyke := rfl
@[simp] theorem rsetB_sess (d : Dev) (o : Nat) (f : Fld) (b : Bool) : (rsetB d o f b).sess = d.sess := rfl
@[simp] theorem rsetB_attest (d : Dev) (o : Nat) (f : Fld) (b : Bool) : (rsetB d o f b).attest = d.attest := rfl
@[simp] theorem rsetB_rings (d : Dev) (o : Nat) (f : Fld) (b : Bool) : (rsetB d o f b).rings = d.rings := rfl
@[simp] theorem rsetB_relayed (d : Dev) (o : Nat) (f : Fld) (b : Bool) : (rsetB d o f b).relayed = d.relayed := rfl
@[simp] theorem rsetB_pins (d : Dev) (o : Nat) (f : Fld) (b : Bool) : (rsetB d o f b).pins = d.pins := rfl
@[simp] theorem rsetB_hjobs (d : Dev) (o : Nat) (f : Fld) (b : Bool) : (rsetB d o f b).hjobs = d.hjobs := rfl
@[simp] theorem rsetB_red (d : Dev) (o : Nat) (f : Fld) (b : Bool) : (rsetB d o f b).red = d.red := rfl
@[simp] theorem rsetB_bkts (d : Dev) (o : Nat) (f : Fld) (b : Bool) : (rsetB d o f b).bkts = d.bkts := rfl
@[simp] theorem rsetB_store (d : Dev) (o : Nat) (f : Fld) (b : Bool) : (rsetB d o f b).store = d.store := rfl
@[simp] theorem rsetB_lv (d : Dev) (o : Nat) (f : Fld) (b : Bool) : (rsetB d o f b).lv = d.lv := rfl
@[simp] theorem rsetB_replat (d : Dev) (o : Nat) (f : Fld) (b : Bool) : (rsetB d o f b).replat = d.replat := rfl
@[simp] theorem rsetB_hub (d : Dev) (o : Nat) (f : Fld) (b : Bool) : (rsetB d o f b).hub = d.hub := rfl
@[simp] theorem rsetB_holds (d : Dev) (o : Nat) (f : Fld) (b : Bool) : (rsetB d o f b).holds = d.holds := rfl
@[simp] theorem rsetB_booted (d : Dev) (o : Nat) (f : Fld) (b : Bool) : (rsetB d o f b).booted = d.booted := rfl
@[simp] theorem rsetB_board (d : Dev) (o : Nat) (f : Fld) (b : Bool) : (rsetB d o f b).board = d.board := rfl
@[simp] theorem rsetB_power (d : Dev) (o : Nat) (f : Fld) (b : Bool) : (rsetB d o f b).power = d.power := rfl

@[simp] theorem rinc_cl (d : Dev) (o : Nat) (f : Fld) : (rinc d o f).cl = d.cl := rfl
@[simp] theorem rinc_quarters (d : Dev) (o : Nat) (f : Fld) : (rinc d o f).quarters = d.quarters := rfl
@[simp] theorem rinc_mem (d : Dev) (o : Nat) (f : Fld) : (rinc d o f).mem = d.mem := rfl
@[simp] theorem rinc_badMem (d : Dev) (o : Nat) (f : Fld) : (rinc d o f).badMem = d.badMem := rfl
@[simp] theorem rinc_reqs (d : Dev) (o : Nat) (f : Fld) : (rinc d o f).reqs = d.reqs := rfl
@[simp] theorem rinc_events (d : Dev) (o : Nat) (f : Fld) : (rinc d o f).events = d.events := rfl
@[simp] theorem rinc_outbox (d : Dev) (o : Nat) (f : Fld) : (rinc d o f).outbox = d.outbox := rfl
@[simp] theorem rinc_inbox (d : Dev) (o : Nat) (f : Fld) : (rinc d o f).inbox = d.inbox := rfl
@[simp] theorem rinc_ports (d : Dev) (o : Nat) (f : Fld) : (rinc d o f).ports = d.ports := rfl
@[simp] theorem rinc_tagCtr (d : Dev) (o : Nat) (f : Fld) : (rinc d o f).tagCtr = d.tagCtr := rfl
@[simp] theorem rinc_mirrored (d : Dev) (o : Nat) (f : Fld) : (rinc d o f).mirrored = d.mirrored := rfl
@[simp] theorem rinc_freeCtr (d : Dev) (o : Nat) (f : Fld) : (rinc d o f).freeCtr = d.freeCtr := rfl
@[simp] theorem rinc_plat (d : Dev) (o : Nat) (f : Fld) : (rinc d o f).plat = d.plat := rfl
@[simp] theorem rinc_tracts (d : Dev) (o : Nat) (f : Fld) : (rinc d o f).tracts = d.tracts := rfl
@[simp] theorem rinc_stks (d : Dev) (o : Nat) (f : Fld) : (rinc d o f).stks = d.stks := rfl
@[simp] theorem rinc_fevents (d : Dev) (o : Nat) (f : Fld) : (rinc d o f).fevents = d.fevents := rfl
@[simp] theorem rinc_wfdPend (d : Dev) (o : Nat) (f : Fld) : (rinc d o f).wfdPend = d.wfdPend := rfl
@[simp] theorem rinc_tractCmd (d : Dev) (o : Nat) (f : Fld) : (rinc d o f).tractCmd = d.tractCmd := rfl
@[simp] theorem rinc_tractEnd (d : Dev) (o : Nat) (f : Fld) : (rinc d o f).tractEnd = d.tractEnd := rfl
@[simp] theorem rinc_platbuf (d : Dev) (o : Nat) (f : Fld) : (rinc d o f).platbuf = d.platbuf := rfl
@[simp] theorem rinc_flash (d : Dev) (o : Nat) (f : Fld) : (rinc d o f).flash = d.flash := rfl
@[simp] theorem rinc_dyke (d : Dev) (o : Nat) (f : Fld) : (rinc d o f).dyke = d.dyke := rfl
@[simp] theorem rinc_sess (d : Dev) (o : Nat) (f : Fld) : (rinc d o f).sess = d.sess := rfl
@[simp] theorem rinc_attest (d : Dev) (o : Nat) (f : Fld) : (rinc d o f).attest = d.attest := rfl
@[simp] theorem rinc_rings (d : Dev) (o : Nat) (f : Fld) : (rinc d o f).rings = d.rings := rfl
@[simp] theorem rinc_relayed (d : Dev) (o : Nat) (f : Fld) : (rinc d o f).relayed = d.relayed := rfl
@[simp] theorem rinc_pins (d : Dev) (o : Nat) (f : Fld) : (rinc d o f).pins = d.pins := rfl
@[simp] theorem rinc_hjobs (d : Dev) (o : Nat) (f : Fld) : (rinc d o f).hjobs = d.hjobs := rfl
@[simp] theorem rinc_red (d : Dev) (o : Nat) (f : Fld) : (rinc d o f).red = d.red := rfl
@[simp] theorem rinc_bkts (d : Dev) (o : Nat) (f : Fld) : (rinc d o f).bkts = d.bkts := rfl
@[simp] theorem rinc_store (d : Dev) (o : Nat) (f : Fld) : (rinc d o f).store = d.store := rfl
@[simp] theorem rinc_lv (d : Dev) (o : Nat) (f : Fld) : (rinc d o f).lv = d.lv := rfl
@[simp] theorem rinc_replat (d : Dev) (o : Nat) (f : Fld) : (rinc d o f).replat = d.replat := rfl
@[simp] theorem rinc_hub (d : Dev) (o : Nat) (f : Fld) : (rinc d o f).hub = d.hub := rfl
@[simp] theorem rinc_holds (d : Dev) (o : Nat) (f : Fld) : (rinc d o f).holds = d.holds := rfl
@[simp] theorem rinc_booted (d : Dev) (o : Nat) (f : Fld) : (rinc d o f).booted = d.booted := rfl
@[simp] theorem rinc_board (d : Dev) (o : Nat) (f : Fld) : (rinc d o f).board = d.board := rfl
@[simp] theorem rinc_power (d : Dev) (o : Nat) (f : Fld) : (rinc d o f).power = d.power := rfl

@[simp] theorem rincSat_cl (d : Dev) (o : Nat) (f : Fld) : (rincSat d o f).cl = d.cl := rfl
@[simp] theorem rincSat_quarters (d : Dev) (o : Nat) (f : Fld) : (rincSat d o f).quarters = d.quarters := rfl
@[simp] theorem rincSat_mem (d : Dev) (o : Nat) (f : Fld) : (rincSat d o f).mem = d.mem := rfl
@[simp] theorem rincSat_badMem (d : Dev) (o : Nat) (f : Fld) : (rincSat d o f).badMem = d.badMem := rfl
@[simp] theorem rincSat_reqs (d : Dev) (o : Nat) (f : Fld) : (rincSat d o f).reqs = d.reqs := rfl
@[simp] theorem rincSat_events (d : Dev) (o : Nat) (f : Fld) : (rincSat d o f).events = d.events := rfl
@[simp] theorem rincSat_outbox (d : Dev) (o : Nat) (f : Fld) : (rincSat d o f).outbox = d.outbox := rfl
@[simp] theorem rincSat_inbox (d : Dev) (o : Nat) (f : Fld) : (rincSat d o f).inbox = d.inbox := rfl
@[simp] theorem rincSat_ports (d : Dev) (o : Nat) (f : Fld) : (rincSat d o f).ports = d.ports := rfl
@[simp] theorem rincSat_tagCtr (d : Dev) (o : Nat) (f : Fld) : (rincSat d o f).tagCtr = d.tagCtr := rfl
@[simp] theorem rincSat_mirrored (d : Dev) (o : Nat) (f : Fld) : (rincSat d o f).mirrored = d.mirrored := rfl
@[simp] theorem rincSat_freeCtr (d : Dev) (o : Nat) (f : Fld) : (rincSat d o f).freeCtr = d.freeCtr := rfl
@[simp] theorem rincSat_plat (d : Dev) (o : Nat) (f : Fld) : (rincSat d o f).plat = d.plat := rfl
@[simp] theorem rincSat_tracts (d : Dev) (o : Nat) (f : Fld) : (rincSat d o f).tracts = d.tracts := rfl
@[simp] theorem rincSat_stks (d : Dev) (o : Nat) (f : Fld) : (rincSat d o f).stks = d.stks := rfl
@[simp] theorem rincSat_fevents (d : Dev) (o : Nat) (f : Fld) : (rincSat d o f).fevents = d.fevents := rfl
@[simp] theorem rincSat_wfdPend (d : Dev) (o : Nat) (f : Fld) : (rincSat d o f).wfdPend = d.wfdPend := rfl
@[simp] theorem rincSat_tractCmd (d : Dev) (o : Nat) (f : Fld) : (rincSat d o f).tractCmd = d.tractCmd := rfl
@[simp] theorem rincSat_tractEnd (d : Dev) (o : Nat) (f : Fld) : (rincSat d o f).tractEnd = d.tractEnd := rfl
@[simp] theorem rincSat_platbuf (d : Dev) (o : Nat) (f : Fld) : (rincSat d o f).platbuf = d.platbuf := rfl
@[simp] theorem rincSat_flash (d : Dev) (o : Nat) (f : Fld) : (rincSat d o f).flash = d.flash := rfl
@[simp] theorem rincSat_dyke (d : Dev) (o : Nat) (f : Fld) : (rincSat d o f).dyke = d.dyke := rfl
@[simp] theorem rincSat_sess (d : Dev) (o : Nat) (f : Fld) : (rincSat d o f).sess = d.sess := rfl
@[simp] theorem rincSat_attest (d : Dev) (o : Nat) (f : Fld) : (rincSat d o f).attest = d.attest := rfl
@[simp] theorem rincSat_rings (d : Dev) (o : Nat) (f : Fld) : (rincSat d o f).rings = d.rings := rfl
@[simp] theorem rincSat_relayed (d : Dev) (o : Nat) (f : Fld) : (rincSat d o f).relayed = d.relayed := rfl
@[simp] theorem rincSat_pins (d : Dev) (o : Nat) (f : Fld) : (rincSat d o f).pins = d.pins := rfl
@[simp] theorem rincSat_hjobs (d : Dev) (o : Nat) (f : Fld) : (rincSat d o f).hjobs = d.hjobs := rfl
@[simp] theorem rincSat_red (d : Dev) (o : Nat) (f : Fld) : (rincSat d o f).red = d.red := rfl
@[simp] theorem rincSat_bkts (d : Dev) (o : Nat) (f : Fld) : (rincSat d o f).bkts = d.bkts := rfl
@[simp] theorem rincSat_store (d : Dev) (o : Nat) (f : Fld) : (rincSat d o f).store = d.store := rfl
@[simp] theorem rincSat_lv (d : Dev) (o : Nat) (f : Fld) : (rincSat d o f).lv = d.lv := rfl
@[simp] theorem rincSat_replat (d : Dev) (o : Nat) (f : Fld) : (rincSat d o f).replat = d.replat := rfl
@[simp] theorem rincSat_hub (d : Dev) (o : Nat) (f : Fld) : (rincSat d o f).hub = d.hub := rfl
@[simp] theorem rincSat_holds (d : Dev) (o : Nat) (f : Fld) : (rincSat d o f).holds = d.holds := rfl
@[simp] theorem rincSat_booted (d : Dev) (o : Nat) (f : Fld) : (rincSat d o f).booted = d.booted := rfl
@[simp] theorem rincSat_board (d : Dev) (o : Nat) (f : Fld) : (rincSat d o f).board = d.board := rfl
@[simp] theorem rincSat_power (d : Dev) (o : Nat) (f : Fld) : (rincSat d o f).power = d.power := rfl

@[simp] theorem rreset_cl (d : Dev) (p : Nat → Bool) : (rreset d p).cl = d.cl := rfl
@[simp] theorem rreset_quarters (d : Dev) (p : Nat → Bool) : (rreset d p).quarters = d.quarters := rfl
@[simp] theorem rreset_mem (d : Dev) (p : Nat → Bool) : (rreset d p).mem = d.mem := rfl
@[simp] theorem rreset_badMem (d : Dev) (p : Nat → Bool) : (rreset d p).badMem = d.badMem := rfl
@[simp] theorem rreset_reqs (d : Dev) (p : Nat → Bool) : (rreset d p).reqs = d.reqs := rfl
@[simp] theorem rreset_events (d : Dev) (p : Nat → Bool) : (rreset d p).events = d.events := rfl
@[simp] theorem rreset_outbox (d : Dev) (p : Nat → Bool) : (rreset d p).outbox = d.outbox := rfl
@[simp] theorem rreset_inbox (d : Dev) (p : Nat → Bool) : (rreset d p).inbox = d.inbox := rfl
@[simp] theorem rreset_ports (d : Dev) (p : Nat → Bool) : (rreset d p).ports = d.ports := rfl
@[simp] theorem rreset_tagCtr (d : Dev) (p : Nat → Bool) : (rreset d p).tagCtr = d.tagCtr := rfl
@[simp] theorem rreset_mirrored (d : Dev) (p : Nat → Bool) : (rreset d p).mirrored = d.mirrored := rfl
@[simp] theorem rreset_freeCtr (d : Dev) (p : Nat → Bool) : (rreset d p).freeCtr = d.freeCtr := rfl
@[simp] theorem rreset_plat (d : Dev) (p : Nat → Bool) : (rreset d p).plat = d.plat := rfl
@[simp] theorem rreset_tracts (d : Dev) (p : Nat → Bool) : (rreset d p).tracts = d.tracts := rfl
@[simp] theorem rreset_stks (d : Dev) (p : Nat → Bool) : (rreset d p).stks = d.stks := rfl
@[simp] theorem rreset_fevents (d : Dev) (p : Nat → Bool) : (rreset d p).fevents = d.fevents := rfl
@[simp] theorem rreset_wfdPend (d : Dev) (p : Nat → Bool) : (rreset d p).wfdPend = d.wfdPend := rfl
@[simp] theorem rreset_tractCmd (d : Dev) (p : Nat → Bool) : (rreset d p).tractCmd = d.tractCmd := rfl
@[simp] theorem rreset_tractEnd (d : Dev) (p : Nat → Bool) : (rreset d p).tractEnd = d.tractEnd := rfl
@[simp] theorem rreset_platbuf (d : Dev) (p : Nat → Bool) : (rreset d p).platbuf = d.platbuf := rfl
@[simp] theorem rreset_flash (d : Dev) (p : Nat → Bool) : (rreset d p).flash = d.flash := rfl
@[simp] theorem rreset_dyke (d : Dev) (p : Nat → Bool) : (rreset d p).dyke = d.dyke := rfl
@[simp] theorem rreset_sess (d : Dev) (p : Nat → Bool) : (rreset d p).sess = d.sess := rfl
@[simp] theorem rreset_attest (d : Dev) (p : Nat → Bool) : (rreset d p).attest = d.attest := rfl
@[simp] theorem rreset_rings (d : Dev) (p : Nat → Bool) : (rreset d p).rings = d.rings := rfl
@[simp] theorem rreset_relayed (d : Dev) (p : Nat → Bool) : (rreset d p).relayed = d.relayed := rfl
@[simp] theorem rreset_pins (d : Dev) (p : Nat → Bool) : (rreset d p).pins = d.pins := rfl
@[simp] theorem rreset_hjobs (d : Dev) (p : Nat → Bool) : (rreset d p).hjobs = d.hjobs := rfl
@[simp] theorem rreset_red (d : Dev) (p : Nat → Bool) : (rreset d p).red = d.red := rfl
@[simp] theorem rreset_bkts (d : Dev) (p : Nat → Bool) : (rreset d p).bkts = d.bkts := rfl
@[simp] theorem rreset_store (d : Dev) (p : Nat → Bool) : (rreset d p).store = d.store := rfl
@[simp] theorem rreset_lv (d : Dev) (p : Nat → Bool) : (rreset d p).lv = d.lv := rfl
@[simp] theorem rreset_replat (d : Dev) (p : Nat → Bool) : (rreset d p).replat = d.replat := rfl
@[simp] theorem rreset_hub (d : Dev) (p : Nat → Bool) : (rreset d p).hub = d.hub := rfl
@[simp] theorem rreset_holds (d : Dev) (p : Nat → Bool) : (rreset d p).holds = d.holds := rfl
@[simp] theorem rreset_booted (d : Dev) (p : Nat → Bool) : (rreset d p).booted = d.booted := rfl
@[simp] theorem rreset_board (d : Dev) (p : Nat → Bool) : (rreset d p).board = d.board := rfl
@[simp] theorem rreset_power (d : Dev) (p : Nat → Bool) : (rreset d p).power = d.power := rfl

@[simp] theorem setCl_regs (d : Dev) (l : Nat) (c : Cluster) : (setCl d l c).regs = d.regs := rfl
@[simp] theorem setCl_quarters (d : Dev) (l : Nat) (c : Cluster) : (setCl d l c).quarters = d.quarters := rfl
@[simp] theorem setCl_mem (d : Dev) (l : Nat) (c : Cluster) : (setCl d l c).mem = d.mem := rfl
@[simp] theorem setCl_badMem (d : Dev) (l : Nat) (c : Cluster) : (setCl d l c).badMem = d.badMem := rfl
@[simp] theorem setCl_reqs (d : Dev) (l : Nat) (c : Cluster) : (setCl d l c).reqs = d.reqs := rfl
@[simp] theorem setCl_events (d : Dev) (l : Nat) (c : Cluster) : (setCl d l c).events = d.events := rfl
@[simp] theorem setCl_outbox (d : Dev) (l : Nat) (c : Cluster) : (setCl d l c).outbox = d.outbox := rfl
@[simp] theorem setCl_inbox (d : Dev) (l : Nat) (c : Cluster) : (setCl d l c).inbox = d.inbox := rfl
@[simp] theorem setCl_ports (d : Dev) (l : Nat) (c : Cluster) : (setCl d l c).ports = d.ports := rfl
@[simp] theorem setCl_tagCtr (d : Dev) (l : Nat) (c : Cluster) : (setCl d l c).tagCtr = d.tagCtr := rfl
@[simp] theorem setCl_mirrored (d : Dev) (l : Nat) (c : Cluster) : (setCl d l c).mirrored = d.mirrored := rfl
@[simp] theorem setCl_freeCtr (d : Dev) (l : Nat) (c : Cluster) : (setCl d l c).freeCtr = d.freeCtr := rfl
@[simp] theorem setCl_plat (d : Dev) (l : Nat) (c : Cluster) : (setCl d l c).plat = d.plat := rfl
@[simp] theorem setCl_tracts (d : Dev) (l : Nat) (c : Cluster) : (setCl d l c).tracts = d.tracts := rfl
@[simp] theorem setCl_stks (d : Dev) (l : Nat) (c : Cluster) : (setCl d l c).stks = d.stks := rfl
@[simp] theorem setCl_fevents (d : Dev) (l : Nat) (c : Cluster) : (setCl d l c).fevents = d.fevents := rfl
@[simp] theorem setCl_wfdPend (d : Dev) (l : Nat) (c : Cluster) : (setCl d l c).wfdPend = d.wfdPend := rfl
@[simp] theorem setCl_tractCmd (d : Dev) (l : Nat) (c : Cluster) : (setCl d l c).tractCmd = d.tractCmd := rfl
@[simp] theorem setCl_tractEnd (d : Dev) (l : Nat) (c : Cluster) : (setCl d l c).tractEnd = d.tractEnd := rfl
@[simp] theorem setCl_platbuf (d : Dev) (l : Nat) (c : Cluster) : (setCl d l c).platbuf = d.platbuf := rfl
@[simp] theorem setCl_flash (d : Dev) (l : Nat) (c : Cluster) : (setCl d l c).flash = d.flash := rfl
@[simp] theorem setCl_dyke (d : Dev) (l : Nat) (c : Cluster) : (setCl d l c).dyke = d.dyke := rfl
@[simp] theorem setCl_sess (d : Dev) (l : Nat) (c : Cluster) : (setCl d l c).sess = d.sess := rfl
@[simp] theorem setCl_attest (d : Dev) (l : Nat) (c : Cluster) : (setCl d l c).attest = d.attest := rfl
@[simp] theorem setCl_rings (d : Dev) (l : Nat) (c : Cluster) : (setCl d l c).rings = d.rings := rfl
@[simp] theorem setCl_relayed (d : Dev) (l : Nat) (c : Cluster) : (setCl d l c).relayed = d.relayed := rfl
@[simp] theorem setCl_pins (d : Dev) (l : Nat) (c : Cluster) : (setCl d l c).pins = d.pins := rfl
@[simp] theorem setCl_hjobs (d : Dev) (l : Nat) (c : Cluster) : (setCl d l c).hjobs = d.hjobs := rfl
@[simp] theorem setCl_red (d : Dev) (l : Nat) (c : Cluster) : (setCl d l c).red = d.red := rfl
@[simp] theorem setCl_bkts (d : Dev) (l : Nat) (c : Cluster) : (setCl d l c).bkts = d.bkts := rfl
@[simp] theorem setCl_store (d : Dev) (l : Nat) (c : Cluster) : (setCl d l c).store = d.store := rfl
@[simp] theorem setCl_lv (d : Dev) (l : Nat) (c : Cluster) : (setCl d l c).lv = d.lv := rfl
@[simp] theorem setCl_replat (d : Dev) (l : Nat) (c : Cluster) : (setCl d l c).replat = d.replat := rfl
@[simp] theorem setCl_hub (d : Dev) (l : Nat) (c : Cluster) : (setCl d l c).hub = d.hub := rfl
@[simp] theorem setCl_holds (d : Dev) (l : Nat) (c : Cluster) : (setCl d l c).holds = d.holds := rfl
@[simp] theorem setCl_booted (d : Dev) (l : Nat) (c : Cluster) : (setCl d l c).booted = d.booted := rfl
@[simp] theorem setCl_board (d : Dev) (l : Nat) (c : Cluster) : (setCl d l c).board = d.board := rfl
@[simp] theorem setCl_power (d : Dev) (l : Nat) (c : Cluster) : (setCl d l c).power = d.power := rfl

@[simp] theorem updCl_regs (d : Dev) (l : Nat) (f : Cluster → Cluster) : (updCl d l f).regs = d.regs := rfl
@[simp] theorem updCl_quarters (d : Dev) (l : Nat) (f : Cluster → Cluster) : (updCl d l f).quarters = d.quarters := rfl
@[simp] theorem updCl_mem (d : Dev) (l : Nat) (f : Cluster → Cluster) : (updCl d l f).mem = d.mem := rfl
@[simp] theorem updCl_badMem (d : Dev) (l : Nat) (f : Cluster → Cluster) : (updCl d l f).badMem = d.badMem := rfl
@[simp] theorem updCl_reqs (d : Dev) (l : Nat) (f : Cluster → Cluster) : (updCl d l f).reqs = d.reqs := rfl
@[simp] theorem updCl_events (d : Dev) (l : Nat) (f : Cluster → Cluster) : (updCl d l f).events = d.events := rfl
@[simp] theorem updCl_outbox (d : Dev) (l : Nat) (f : Cluster → Cluster) : (updCl d l f).outbox = d.outbox := rfl
@[simp] theorem updCl_inbox (d : Dev) (l : Nat) (f : Cluster → Cluster) : (updCl d l f).inbox = d.inbox := rfl
@[simp] theorem updCl_ports (d : Dev) (l : Nat) (f : Cluster → Cluster) : (updCl d l f).ports = d.ports := rfl
@[simp] theorem updCl_tagCtr (d : Dev) (l : Nat) (f : Cluster → Cluster) : (updCl d l f).tagCtr = d.tagCtr := rfl
@[simp] theorem updCl_mirrored (d : Dev) (l : Nat) (f : Cluster → Cluster) : (updCl d l f).mirrored = d.mirrored := rfl
@[simp] theorem updCl_freeCtr (d : Dev) (l : Nat) (f : Cluster → Cluster) : (updCl d l f).freeCtr = d.freeCtr := rfl
@[simp] theorem updCl_plat (d : Dev) (l : Nat) (f : Cluster → Cluster) : (updCl d l f).plat = d.plat := rfl
@[simp] theorem updCl_tracts (d : Dev) (l : Nat) (f : Cluster → Cluster) : (updCl d l f).tracts = d.tracts := rfl
@[simp] theorem updCl_stks (d : Dev) (l : Nat) (f : Cluster → Cluster) : (updCl d l f).stks = d.stks := rfl
@[simp] theorem updCl_fevents (d : Dev) (l : Nat) (f : Cluster → Cluster) : (updCl d l f).fevents = d.fevents := rfl
@[simp] theorem updCl_wfdPend (d : Dev) (l : Nat) (f : Cluster → Cluster) : (updCl d l f).wfdPend = d.wfdPend := rfl
@[simp] theorem updCl_tractCmd (d : Dev) (l : Nat) (f : Cluster → Cluster) : (updCl d l f).tractCmd = d.tractCmd := rfl
@[simp] theorem updCl_tractEnd (d : Dev) (l : Nat) (f : Cluster → Cluster) : (updCl d l f).tractEnd = d.tractEnd := rfl
@[simp] theorem updCl_platbuf (d : Dev) (l : Nat) (f : Cluster → Cluster) : (updCl d l f).platbuf = d.platbuf := rfl
@[simp] theorem updCl_flash (d : Dev) (l : Nat) (f : Cluster → Cluster) : (updCl d l f).flash = d.flash := rfl
@[simp] theorem updCl_dyke (d : Dev) (l : Nat) (f : Cluster → Cluster) : (updCl d l f).dyke = d.dyke := rfl
@[simp] theorem updCl_sess (d : Dev) (l : Nat) (f : Cluster → Cluster) : (updCl d l f).sess = d.sess := rfl
@[simp] theorem updCl_attest (d : Dev) (l : Nat) (f : Cluster → Cluster) : (updCl d l f).attest = d.attest := rfl
@[simp] theorem updCl_rings (d : Dev) (l : Nat) (f : Cluster → Cluster) : (updCl d l f).rings = d.rings := rfl
@[simp] theorem updCl_relayed (d : Dev) (l : Nat) (f : Cluster → Cluster) : (updCl d l f).relayed = d.relayed := rfl
@[simp] theorem updCl_pins (d : Dev) (l : Nat) (f : Cluster → Cluster) : (updCl d l f).pins = d.pins := rfl
@[simp] theorem updCl_hjobs (d : Dev) (l : Nat) (f : Cluster → Cluster) : (updCl d l f).hjobs = d.hjobs := rfl
@[simp] theorem updCl_red (d : Dev) (l : Nat) (f : Cluster → Cluster) : (updCl d l f).red = d.red := rfl
@[simp] theorem updCl_bkts (d : Dev) (l : Nat) (f : Cluster → Cluster) : (updCl d l f).bkts = d.bkts := rfl
@[simp] theorem updCl_store (d : Dev) (l : Nat) (f : Cluster → Cluster) : (updCl d l f).store = d.store := rfl
@[simp] theorem updCl_lv (d : Dev) (l : Nat) (f : Cluster → Cluster) : (updCl d l f).lv = d.lv := rfl
@[simp] theorem updCl_replat (d : Dev) (l : Nat) (f : Cluster → Cluster) : (updCl d l f).replat = d.replat := rfl
@[simp] theorem updCl_hub (d : Dev) (l : Nat) (f : Cluster → Cluster) : (updCl d l f).hub = d.hub := rfl
@[simp] theorem updCl_holds (d : Dev) (l : Nat) (f : Cluster → Cluster) : (updCl d l f).holds = d.holds := rfl
@[simp] theorem updCl_booted (d : Dev) (l : Nat) (f : Cluster → Cluster) : (updCl d l f).booted = d.booted := rfl
@[simp] theorem updCl_board (d : Dev) (l : Nat) (f : Cluster → Cluster) : (updCl d l f).board = d.board := rfl
@[simp] theorem updCl_power (d : Dev) (l : Nat) (f : Cluster → Cluster) : (updCl d l f).power = d.power := rfl

@[simp] theorem setCtx_regs (d : Dev) (l c : Nat) (x : Ctx) : (setCtx d l c x).regs = d.regs := rfl
@[simp] theorem setCtx_quarters (d : Dev) (l c : Nat) (x : Ctx) : (setCtx d l c x).quarters = d.quarters := rfl
@[simp] theorem setCtx_mem (d : Dev) (l c : Nat) (x : Ctx) : (setCtx d l c x).mem = d.mem := rfl
@[simp] theorem setCtx_badMem (d : Dev) (l c : Nat) (x : Ctx) : (setCtx d l c x).badMem = d.badMem := rfl
@[simp] theorem setCtx_reqs (d : Dev) (l c : Nat) (x : Ctx) : (setCtx d l c x).reqs = d.reqs := rfl
@[simp] theorem setCtx_events (d : Dev) (l c : Nat) (x : Ctx) : (setCtx d l c x).events = d.events := rfl
@[simp] theorem setCtx_outbox (d : Dev) (l c : Nat) (x : Ctx) : (setCtx d l c x).outbox = d.outbox := rfl
@[simp] theorem setCtx_inbox (d : Dev) (l c : Nat) (x : Ctx) : (setCtx d l c x).inbox = d.inbox := rfl
@[simp] theorem setCtx_ports (d : Dev) (l c : Nat) (x : Ctx) : (setCtx d l c x).ports = d.ports := rfl
@[simp] theorem setCtx_tagCtr (d : Dev) (l c : Nat) (x : Ctx) : (setCtx d l c x).tagCtr = d.tagCtr := rfl
@[simp] theorem setCtx_mirrored (d : Dev) (l c : Nat) (x : Ctx) : (setCtx d l c x).mirrored = d.mirrored := rfl
@[simp] theorem setCtx_freeCtr (d : Dev) (l c : Nat) (x : Ctx) : (setCtx d l c x).freeCtr = d.freeCtr := rfl
@[simp] theorem setCtx_plat (d : Dev) (l c : Nat) (x : Ctx) : (setCtx d l c x).plat = d.plat := rfl
@[simp] theorem setCtx_tracts (d : Dev) (l c : Nat) (x : Ctx) : (setCtx d l c x).tracts = d.tracts := rfl
@[simp] theorem setCtx_stks (d : Dev) (l c : Nat) (x : Ctx) : (setCtx d l c x).stks = d.stks := rfl
@[simp] theorem setCtx_fevents (d : Dev) (l c : Nat) (x : Ctx) : (setCtx d l c x).fevents = d.fevents := rfl
@[simp] theorem setCtx_wfdPend (d : Dev) (l c : Nat) (x : Ctx) : (setCtx d l c x).wfdPend = d.wfdPend := rfl
@[simp] theorem setCtx_tractCmd (d : Dev) (l c : Nat) (x : Ctx) : (setCtx d l c x).tractCmd = d.tractCmd := rfl
@[simp] theorem setCtx_tractEnd (d : Dev) (l c : Nat) (x : Ctx) : (setCtx d l c x).tractEnd = d.tractEnd := rfl
@[simp] theorem setCtx_platbuf (d : Dev) (l c : Nat) (x : Ctx) : (setCtx d l c x).platbuf = d.platbuf := rfl
@[simp] theorem setCtx_flash (d : Dev) (l c : Nat) (x : Ctx) : (setCtx d l c x).flash = d.flash := rfl
@[simp] theorem setCtx_dyke (d : Dev) (l c : Nat) (x : Ctx) : (setCtx d l c x).dyke = d.dyke := rfl
@[simp] theorem setCtx_sess (d : Dev) (l c : Nat) (x : Ctx) : (setCtx d l c x).sess = d.sess := rfl
@[simp] theorem setCtx_attest (d : Dev) (l c : Nat) (x : Ctx) : (setCtx d l c x).attest = d.attest := rfl
@[simp] theorem setCtx_rings (d : Dev) (l c : Nat) (x : Ctx) : (setCtx d l c x).rings = d.rings := rfl
@[simp] theorem setCtx_relayed (d : Dev) (l c : Nat) (x : Ctx) : (setCtx d l c x).relayed = d.relayed := rfl
@[simp] theorem setCtx_pins (d : Dev) (l c : Nat) (x : Ctx) : (setCtx d l c x).pins = d.pins := rfl
@[simp] theorem setCtx_hjobs (d : Dev) (l c : Nat) (x : Ctx) : (setCtx d l c x).hjobs = d.hjobs := rfl
@[simp] theorem setCtx_red (d : Dev) (l c : Nat) (x : Ctx) : (setCtx d l c x).red = d.red := rfl
@[simp] theorem setCtx_bkts (d : Dev) (l c : Nat) (x : Ctx) : (setCtx d l c x).bkts = d.bkts := rfl
@[simp] theorem setCtx_store (d : Dev) (l c : Nat) (x : Ctx) : (setCtx d l c x).store = d.store := rfl
@[simp] theorem setCtx_lv (d : Dev) (l c : Nat) (x : Ctx) : (setCtx d l c x).lv = d.lv := rfl
@[simp] theorem setCtx_replat (d : Dev) (l c : Nat) (x : Ctx) : (setCtx d l c x).replat = d.replat := rfl
@[simp] theorem setCtx_hub (d : Dev) (l c : Nat) (x : Ctx) : (setCtx d l c x).hub = d.hub := rfl
@[simp] theorem setCtx_holds (d : Dev) (l c : Nat) (x : Ctx) : (setCtx d l c x).holds = d.holds := rfl
@[simp] theorem setCtx_booted (d : Dev) (l c : Nat) (x : Ctx) : (setCtx d l c x).booted = d.booted := rfl
@[simp] theorem setCtx_board (d : Dev) (l c : Nat) (x : Ctx) : (setCtx d l c x).board = d.board := rfl
@[simp] theorem setCtx_power (d : Dev) (l c : Nat) (x : Ctx) : (setCtx d l c x).power = d.power := rfl

@[simp] theorem updCtx_regs (d : Dev) (l c : Nat) (f : Ctx → Ctx) : (updCtx d l c f).regs = d.regs := rfl
@[simp] theorem updCtx_quarters (d : Dev) (l c : Nat) (f : Ctx → Ctx) : (updCtx d l c f).quarters = d.quarters := rfl
@[simp] theorem updCtx_mem (d : Dev) (l c : Nat) (f : Ctx → Ctx) : (updCtx d l c f).mem = d.mem := rfl
@[simp] theorem updCtx_badMem (d : Dev) (l c : Nat) (f : Ctx → Ctx) : (updCtx d l c f).badMem = d.badMem := rfl
@[simp] theorem updCtx_reqs (d : Dev) (l c : Nat) (f : Ctx → Ctx) : (updCtx d l c f).reqs = d.reqs := rfl
@[simp] theorem updCtx_events (d : Dev) (l c : Nat) (f : Ctx → Ctx) : (updCtx d l c f).events = d.events := rfl
@[simp] theorem updCtx_outbox (d : Dev) (l c : Nat) (f : Ctx → Ctx) : (updCtx d l c f).outbox = d.outbox := rfl
@[simp] theorem updCtx_inbox (d : Dev) (l c : Nat) (f : Ctx → Ctx) : (updCtx d l c f).inbox = d.inbox := rfl
@[simp] theorem updCtx_ports (d : Dev) (l c : Nat) (f : Ctx → Ctx) : (updCtx d l c f).ports = d.ports := rfl
@[simp] theorem updCtx_tagCtr (d : Dev) (l c : Nat) (f : Ctx → Ctx) : (updCtx d l c f).tagCtr = d.tagCtr := rfl
@[simp] theorem updCtx_mirrored (d : Dev) (l c : Nat) (f : Ctx → Ctx) : (updCtx d l c f).mirrored = d.mirrored := rfl
@[simp] theorem updCtx_freeCtr (d : Dev) (l c : Nat) (f : Ctx → Ctx) : (updCtx d l c f).freeCtr = d.freeCtr := rfl
@[simp] theorem updCtx_plat (d : Dev) (l c : Nat) (f : Ctx → Ctx) : (updCtx d l c f).plat = d.plat := rfl
@[simp] theorem updCtx_tracts (d : Dev) (l c : Nat) (f : Ctx → Ctx) : (updCtx d l c f).tracts = d.tracts := rfl
@[simp] theorem updCtx_stks (d : Dev) (l c : Nat) (f : Ctx → Ctx) : (updCtx d l c f).stks = d.stks := rfl
@[simp] theorem updCtx_fevents (d : Dev) (l c : Nat) (f : Ctx → Ctx) : (updCtx d l c f).fevents = d.fevents := rfl
@[simp] theorem updCtx_wfdPend (d : Dev) (l c : Nat) (f : Ctx → Ctx) : (updCtx d l c f).wfdPend = d.wfdPend := rfl
@[simp] theorem updCtx_tractCmd (d : Dev) (l c : Nat) (f : Ctx → Ctx) : (updCtx d l c f).tractCmd = d.tractCmd := rfl
@[simp] theorem updCtx_tractEnd (d : Dev) (l c : Nat) (f : Ctx → Ctx) : (updCtx d l c f).tractEnd = d.tractEnd := rfl
@[simp] theorem updCtx_platbuf (d : Dev) (l c : Nat) (f : Ctx → Ctx) : (updCtx d l c f).platbuf = d.platbuf := rfl
@[simp] theorem updCtx_flash (d : Dev) (l c : Nat) (f : Ctx → Ctx) : (updCtx d l c f).flash = d.flash := rfl
@[simp] theorem updCtx_dyke (d : Dev) (l c : Nat) (f : Ctx → Ctx) : (updCtx d l c f).dyke = d.dyke := rfl
@[simp] theorem updCtx_sess (d : Dev) (l c : Nat) (f : Ctx → Ctx) : (updCtx d l c f).sess = d.sess := rfl
@[simp] theorem updCtx_attest (d : Dev) (l c : Nat) (f : Ctx → Ctx) : (updCtx d l c f).attest = d.attest := rfl
@[simp] theorem updCtx_rings (d : Dev) (l c : Nat) (f : Ctx → Ctx) : (updCtx d l c f).rings = d.rings := rfl
@[simp] theorem updCtx_relayed (d : Dev) (l c : Nat) (f : Ctx → Ctx) : (updCtx d l c f).relayed = d.relayed := rfl
@[simp] theorem updCtx_pins (d : Dev) (l c : Nat) (f : Ctx → Ctx) : (updCtx d l c f).pins = d.pins := rfl
@[simp] theorem updCtx_hjobs (d : Dev) (l c : Nat) (f : Ctx → Ctx) : (updCtx d l c f).hjobs = d.hjobs := rfl
@[simp] theorem updCtx_red (d : Dev) (l c : Nat) (f : Ctx → Ctx) : (updCtx d l c f).red = d.red := rfl
@[simp] theorem updCtx_bkts (d : Dev) (l c : Nat) (f : Ctx → Ctx) : (updCtx d l c f).bkts = d.bkts := rfl
@[simp] theorem updCtx_store (d : Dev) (l c : Nat) (f : Ctx → Ctx) : (updCtx d l c f).store = d.store := rfl
@[simp] theorem updCtx_lv (d : Dev) (l c : Nat) (f : Ctx → Ctx) : (updCtx d l c f).lv = d.lv := rfl
@[simp] theorem updCtx_replat (d : Dev) (l c : Nat) (f : Ctx → Ctx) : (updCtx d l c f).replat = d.replat := rfl
@[simp] theorem updCtx_hub (d : Dev) (l c : Nat) (f : Ctx → Ctx) : (updCtx d l c f).hub = d.hub := rfl
@[simp] theorem updCtx_holds (d : Dev) (l c : Nat) (f : Ctx → Ctx) : (updCtx d l c f).holds = d.holds := rfl
@[simp] theorem updCtx_booted (d : Dev) (l c : Nat) (f : Ctx → Ctx) : (updCtx d l c f).booted = d.booted := rfl
@[simp] theorem updCtx_board (d : Dev) (l c : Nat) (f : Ctx → Ctx) : (updCtx d l c f).board = d.board := rfl
@[simp] theorem updCtx_power (d : Dev) (l c : Nat) (f : Ctx → Ctx) : (updCtx d l c f).power = d.power := rfl

@[simp] theorem updQ_regs (d : Dev) (q : Nat) (f : Quarter → Quarter) : (updQ d q f).regs = d.regs := rfl
@[simp] theorem updQ_cl (d : Dev) (q : Nat) (f : Quarter → Quarter) : (updQ d q f).cl = d.cl := rfl
@[simp] theorem updQ_mem (d : Dev) (q : Nat) (f : Quarter → Quarter) : (updQ d q f).mem = d.mem := rfl
@[simp] theorem updQ_badMem (d : Dev) (q : Nat) (f : Quarter → Quarter) : (updQ d q f).badMem = d.badMem := rfl
@[simp] theorem updQ_reqs (d : Dev) (q : Nat) (f : Quarter → Quarter) : (updQ d q f).reqs = d.reqs := rfl
@[simp] theorem updQ_events (d : Dev) (q : Nat) (f : Quarter → Quarter) : (updQ d q f).events = d.events := rfl
@[simp] theorem updQ_outbox (d : Dev) (q : Nat) (f : Quarter → Quarter) : (updQ d q f).outbox = d.outbox := rfl
@[simp] theorem updQ_inbox (d : Dev) (q : Nat) (f : Quarter → Quarter) : (updQ d q f).inbox = d.inbox := rfl
@[simp] theorem updQ_ports (d : Dev) (q : Nat) (f : Quarter → Quarter) : (updQ d q f).ports = d.ports := rfl
@[simp] theorem updQ_tagCtr (d : Dev) (q : Nat) (f : Quarter → Quarter) : (updQ d q f).tagCtr = d.tagCtr := rfl
@[simp] theorem updQ_mirrored (d : Dev) (q : Nat) (f : Quarter → Quarter) : (updQ d q f).mirrored = d.mirrored := rfl
@[simp] theorem updQ_freeCtr (d : Dev) (q : Nat) (f : Quarter → Quarter) : (updQ d q f).freeCtr = d.freeCtr := rfl
@[simp] theorem updQ_plat (d : Dev) (q : Nat) (f : Quarter → Quarter) : (updQ d q f).plat = d.plat := rfl
@[simp] theorem updQ_tracts (d : Dev) (q : Nat) (f : Quarter → Quarter) : (updQ d q f).tracts = d.tracts := rfl
@[simp] theorem updQ_stks (d : Dev) (q : Nat) (f : Quarter → Quarter) : (updQ d q f).stks = d.stks := rfl
@[simp] theorem updQ_fevents (d : Dev) (q : Nat) (f : Quarter → Quarter) : (updQ d q f).fevents = d.fevents := rfl
@[simp] theorem updQ_wfdPend (d : Dev) (q : Nat) (f : Quarter → Quarter) : (updQ d q f).wfdPend = d.wfdPend := rfl
@[simp] theorem updQ_tractCmd (d : Dev) (q : Nat) (f : Quarter → Quarter) : (updQ d q f).tractCmd = d.tractCmd := rfl
@[simp] theorem updQ_tractEnd (d : Dev) (q : Nat) (f : Quarter → Quarter) : (updQ d q f).tractEnd = d.tractEnd := rfl
@[simp] theorem updQ_platbuf (d : Dev) (q : Nat) (f : Quarter → Quarter) : (updQ d q f).platbuf = d.platbuf := rfl
@[simp] theorem updQ_flash (d : Dev) (q : Nat) (f : Quarter → Quarter) : (updQ d q f).flash = d.flash := rfl
@[simp] theorem updQ_dyke (d : Dev) (q : Nat) (f : Quarter → Quarter) : (updQ d q f).dyke = d.dyke := rfl
@[simp] theorem updQ_sess (d : Dev) (q : Nat) (f : Quarter → Quarter) : (updQ d q f).sess = d.sess := rfl
@[simp] theorem updQ_attest (d : Dev) (q : Nat) (f : Quarter → Quarter) : (updQ d q f).attest = d.attest := rfl
@[simp] theorem updQ_rings (d : Dev) (q : Nat) (f : Quarter → Quarter) : (updQ d q f).rings = d.rings := rfl
@[simp] theorem updQ_relayed (d : Dev) (q : Nat) (f : Quarter → Quarter) : (updQ d q f).relayed = d.relayed := rfl
@[simp] theorem updQ_pins (d : Dev) (q : Nat) (f : Quarter → Quarter) : (updQ d q f).pins = d.pins := rfl
@[simp] theorem updQ_hjobs (d : Dev) (q : Nat) (f : Quarter → Quarter) : (updQ d q f).hjobs = d.hjobs := rfl
@[simp] theorem updQ_red (d : Dev) (q : Nat) (f : Quarter → Quarter) : (updQ d q f).red = d.red := rfl
@[simp] theorem updQ_bkts (d : Dev) (q : Nat) (f : Quarter → Quarter) : (updQ d q f).bkts = d.bkts := rfl
@[simp] theorem updQ_store (d : Dev) (q : Nat) (f : Quarter → Quarter) : (updQ d q f).store = d.store := rfl
@[simp] theorem updQ_lv (d : Dev) (q : Nat) (f : Quarter → Quarter) : (updQ d q f).lv = d.lv := rfl
@[simp] theorem updQ_replat (d : Dev) (q : Nat) (f : Quarter → Quarter) : (updQ d q f).replat = d.replat := rfl
@[simp] theorem updQ_hub (d : Dev) (q : Nat) (f : Quarter → Quarter) : (updQ d q f).hub = d.hub := rfl
@[simp] theorem updQ_holds (d : Dev) (q : Nat) (f : Quarter → Quarter) : (updQ d q f).holds = d.holds := rfl
@[simp] theorem updQ_booted (d : Dev) (q : Nat) (f : Quarter → Quarter) : (updQ d q f).booted = d.booted := rfl
@[simp] theorem updQ_board (d : Dev) (q : Nat) (f : Quarter → Quarter) : (updQ d q f).board = d.board := rfl
@[simp] theorem updQ_power (d : Dev) (q : Nat) (f : Quarter → Quarter) : (updQ d q f).power = d.power := rfl

@[simp] theorem mwriteBytes_regs (d : Dev) (k off : Nat) (bs : List Byte) : (mwriteBytes d k off bs).regs = d.regs := rfl
@[simp] theorem mwriteBytes_cl (d : Dev) (k off : Nat) (bs : List Byte) : (mwriteBytes d k off bs).cl = d.cl := rfl
@[simp] theorem mwriteBytes_quarters (d : Dev) (k off : Nat) (bs : List Byte) : (mwriteBytes d k off bs).quarters = d.quarters := rfl
@[simp] theorem mwriteBytes_badMem (d : Dev) (k off : Nat) (bs : List Byte) : (mwriteBytes d k off bs).badMem = d.badMem := rfl
@[simp] theorem mwriteBytes_reqs (d : Dev) (k off : Nat) (bs : List Byte) : (mwriteBytes d k off bs).reqs = d.reqs := rfl
@[simp] theorem mwriteBytes_events (d : Dev) (k off : Nat) (bs : List Byte) : (mwriteBytes d k off bs).events = d.events := rfl
@[simp] theorem mwriteBytes_outbox (d : Dev) (k off : Nat) (bs : List Byte) : (mwriteBytes d k off bs).outbox = d.outbox := rfl
@[simp] theorem mwriteBytes_inbox (d : Dev) (k off : Nat) (bs : List Byte) : (mwriteBytes d k off bs).inbox = d.inbox := rfl
@[simp] theorem mwriteBytes_ports (d : Dev) (k off : Nat) (bs : List Byte) : (mwriteBytes d k off bs).ports = d.ports := rfl
@[simp] theorem mwriteBytes_tagCtr (d : Dev) (k off : Nat) (bs : List Byte) : (mwriteBytes d k off bs).tagCtr = d.tagCtr := rfl
@[simp] theorem mwriteBytes_mirrored (d : Dev) (k off : Nat) (bs : List Byte) : (mwriteBytes d k off bs).mirrored = d.mirrored := rfl
@[simp] theorem mwriteBytes_freeCtr (d : Dev) (k off : Nat) (bs : List Byte) : (mwriteBytes d k off bs).freeCtr = d.freeCtr := rfl
@[simp] theorem mwriteBytes_plat (d : Dev) (k off : Nat) (bs : List Byte) : (mwriteBytes d k off bs).plat = d.plat := rfl
@[simp] theorem mwriteBytes_tracts (d : Dev) (k off : Nat) (bs : List Byte) : (mwriteBytes d k off bs).tracts = d.tracts := rfl
@[simp] theorem mwriteBytes_stks (d : Dev) (k off : Nat) (bs : List Byte) : (mwriteBytes d k off bs).stks = d.stks := rfl
@[simp] theorem mwriteBytes_fevents (d : Dev) (k off : Nat) (bs : List Byte) : (mwriteBytes d k off bs).fevents = d.fevents := rfl
@[simp] theorem mwriteBytes_wfdPend (d : Dev) (k off : Nat) (bs : List Byte) : (mwriteBytes d k off bs).wfdPend = d.wfdPend := rfl
@[simp] theorem mwriteBytes_tractCmd (d : Dev) (k off : Nat) (bs : List Byte) : (mwriteBytes d k off bs).tractCmd = d.tractCmd := rfl
@[simp] theorem mwriteBytes_tractEnd (d : Dev) (k off : Nat) (bs : List Byte) : (mwriteBytes d k off bs).tractEnd = d.tractEnd := rfl
@[simp] theorem mwriteBytes_platbuf (d : Dev) (k off : Nat) (bs : List Byte) : (mwriteBytes d k off bs).platbuf = d.platbuf := rfl
@[simp] theorem mwriteBytes_flash (d : Dev) (k off : Nat) (bs : List Byte) : (mwriteBytes d k off bs).flash = d.flash := rfl
@[simp] theorem mwriteBytes_dyke (d : Dev) (k off : Nat) (bs : List Byte) : (mwriteBytes d k off bs).dyke = d.dyke := rfl
@[simp] theorem mwriteBytes_sess (d : Dev) (k off : Nat) (bs : List Byte) : (mwriteBytes d k off bs).sess = d.sess := rfl
@[simp] theorem mwriteBytes_attest (d : Dev) (k off : Nat) (bs : List Byte) : (mwriteBytes d k off bs).attest = d.attest := rfl
@[simp] theorem mwriteBytes_rings (d : Dev) (k off : Nat) (bs : List Byte) : (mwriteBytes d k off bs).rings = d.rings := rfl
@[simp] theorem mwriteBytes_relayed (d : Dev) (k off : Nat) (bs : List Byte) : (mwriteBytes d k off bs).relayed = d.relayed := rfl
@[simp] theorem mwriteBytes_pins (d : Dev) (k off : Nat) (bs : List Byte) : (mwriteBytes d k off bs).pins = d.pins := rfl
@[simp] theorem mwriteBytes_hjobs (d : Dev) (k off : Nat) (bs : List Byte) : (mwriteBytes d k off bs).hjobs = d.hjobs := rfl
@[simp] theorem mwriteBytes_red (d : Dev) (k off : Nat) (bs : List Byte) : (mwriteBytes d k off bs).red = d.red := rfl
@[simp] theorem mwriteBytes_bkts (d : Dev) (k off : Nat) (bs : List Byte) : (mwriteBytes d k off bs).bkts = d.bkts := rfl
@[simp] theorem mwriteBytes_store (d : Dev) (k off : Nat) (bs : List Byte) : (mwriteBytes d k off bs).store = d.store := rfl
@[simp] theorem mwriteBytes_lv (d : Dev) (k off : Nat) (bs : List Byte) : (mwriteBytes d k off bs).lv = d.lv := rfl
@[simp] theorem mwriteBytes_replat (d : Dev) (k off : Nat) (bs : List Byte) : (mwriteBytes d k off bs).replat = d.replat := rfl
@[simp] theorem mwriteBytes_hub (d : Dev) (k off : Nat) (bs : List Byte) : (mwriteBytes d k off bs).hub = d.hub := rfl
@[simp] theorem mwriteBytes_holds (d : Dev) (k off : Nat) (bs : List Byte) : (mwriteBytes d k off bs).holds = d.holds := rfl
@[simp] theorem mwriteBytes_booted (d : Dev) (k off : Nat) (bs : List Byte) : (mwriteBytes d k off bs).booted = d.booted := rfl
@[simp] theorem mwriteBytes_board (d : Dev) (k off : Nat) (bs : List Byte) : (mwriteBytes d k off bs).board = d.board := rfl
@[simp] theorem mwriteBytes_power (d : Dev) (k off : Nat) (bs : List Byte) : (mwriteBytes d k off bs).power = d.power := rfl

@[simp] theorem free_regs (d : Dev) : d.free.2.regs = d.regs := rfl
@[simp] theorem choose_regs (d : Dev) (n : Nat) : (d.choose n).2.regs = d.regs := rfl
@[simp] theorem free_cl (d : Dev) : d.free.2.cl = d.cl := rfl
@[simp] theorem choose_cl (d : Dev) (n : Nat) : (d.choose n).2.cl = d.cl := rfl
@[simp] theorem free_quarters (d : Dev) : d.free.2.quarters = d.quarters := rfl
@[simp] theorem choose_quarters (d : Dev) (n : Nat) : (d.choose n).2.quarters = d.quarters := rfl
@[simp] theorem free_mem (d : Dev) : d.free.2.mem = d.mem := rfl
@[simp] theorem choose_mem (d : Dev) (n : Nat) : (d.choose n).2.mem = d.mem := rfl
@[simp] theorem free_badMem (d : Dev) : d.free.2.badMem = d.badMem := rfl
@[simp] theorem choose_badMem (d : Dev) (n : Nat) : (d.choose n).2.badMem = d.badMem := rfl
@[simp] theorem free_reqs (d : Dev) : d.free.2.reqs = d.reqs := rfl
@[simp] theorem choose_reqs (d : Dev) (n : Nat) : (d.choose n).2.reqs = d.reqs := rfl
@[simp] theorem free_events (d : Dev) : d.free.2.events = d.events := rfl
@[simp] theorem choose_events (d : Dev) (n : Nat) : (d.choose n).2.events = d.events := rfl
@[simp] theorem free_outbox (d : Dev) : d.free.2.outbox = d.outbox := rfl
@[simp] theorem choose_outbox (d : Dev) (n : Nat) : (d.choose n).2.outbox = d.outbox := rfl
@[simp] theorem free_inbox (d : Dev) : d.free.2.inbox = d.inbox := rfl
@[simp] theorem choose_inbox (d : Dev) (n : Nat) : (d.choose n).2.inbox = d.inbox := rfl
@[simp] theorem free_ports (d : Dev) : d.free.2.ports = d.ports := rfl
@[simp] theorem choose_ports (d : Dev) (n : Nat) : (d.choose n).2.ports = d.ports := rfl
@[simp] theorem free_tagCtr (d : Dev) : d.free.2.tagCtr = d.tagCtr := rfl
@[simp] theorem choose_tagCtr (d : Dev) (n : Nat) : (d.choose n).2.tagCtr = d.tagCtr := rfl
@[simp] theorem free_mirrored (d : Dev) : d.free.2.mirrored = d.mirrored := rfl
@[simp] theorem choose_mirrored (d : Dev) (n : Nat) : (d.choose n).2.mirrored = d.mirrored := rfl
@[simp] theorem free_plat (d : Dev) : d.free.2.plat = d.plat := rfl
@[simp] theorem choose_plat (d : Dev) (n : Nat) : (d.choose n).2.plat = d.plat := rfl
@[simp] theorem free_tracts (d : Dev) : d.free.2.tracts = d.tracts := rfl
@[simp] theorem choose_tracts (d : Dev) (n : Nat) : (d.choose n).2.tracts = d.tracts := rfl
@[simp] theorem free_stks (d : Dev) : d.free.2.stks = d.stks := rfl
@[simp] theorem choose_stks (d : Dev) (n : Nat) : (d.choose n).2.stks = d.stks := rfl
@[simp] theorem free_fevents (d : Dev) : d.free.2.fevents = d.fevents := rfl
@[simp] theorem choose_fevents (d : Dev) (n : Nat) : (d.choose n).2.fevents = d.fevents := rfl
@[simp] theorem free_wfdPend (d : Dev) : d.free.2.wfdPend = d.wfdPend := rfl
@[simp] theorem choose_wfdPend (d : Dev) (n : Nat) : (d.choose n).2.wfdPend = d.wfdPend := rfl
@[simp] theorem free_tractCmd (d : Dev) : d.free.2.tractCmd = d.tractCmd := rfl
@[simp] theorem choose_tractCmd (d : Dev) (n : Nat) : (d.choose n).2.tractCmd = d.tractCmd := rfl
@[simp] theorem free_tractEnd (d : Dev) : d.free.2.tractEnd = d.tractEnd := rfl
@[simp] theorem choose_tractEnd (d : Dev) (n : Nat) : (d.choose n).2.tractEnd = d.tractEnd := rfl
@[simp] theorem free_platbuf (d : Dev) : d.free.2.platbuf = d.platbuf := rfl
@[simp] theorem choose_platbuf (d : Dev) (n : Nat) : (d.choose n).2.platbuf = d.platbuf := rfl
@[simp] theorem free_flash (d : Dev) : d.free.2.flash = d.flash := rfl
@[simp] theorem choose_flash (d : Dev) (n : Nat) : (d.choose n).2.flash = d.flash := rfl
@[simp] theorem free_dyke (d : Dev) : d.free.2.dyke = d.dyke := rfl
@[simp] theorem choose_dyke (d : Dev) (n : Nat) : (d.choose n).2.dyke = d.dyke := rfl
@[simp] theorem free_sess (d : Dev) : d.free.2.sess = d.sess := rfl
@[simp] theorem choose_sess (d : Dev) (n : Nat) : (d.choose n).2.sess = d.sess := rfl
@[simp] theorem free_attest (d : Dev) : d.free.2.attest = d.attest := rfl
@[simp] theorem choose_attest (d : Dev) (n : Nat) : (d.choose n).2.attest = d.attest := rfl
@[simp] theorem free_rings (d : Dev) : d.free.2.rings = d.rings := rfl
@[simp] theorem choose_rings (d : Dev) (n : Nat) : (d.choose n).2.rings = d.rings := rfl
@[simp] theorem free_relayed (d : Dev) : d.free.2.relayed = d.relayed := rfl
@[simp] theorem choose_relayed (d : Dev) (n : Nat) : (d.choose n).2.relayed = d.relayed := rfl
@[simp] theorem free_pins (d : Dev) : d.free.2.pins = d.pins := rfl
@[simp] theorem choose_pins (d : Dev) (n : Nat) : (d.choose n).2.pins = d.pins := rfl
@[simp] theorem free_hjobs (d : Dev) : d.free.2.hjobs = d.hjobs := rfl
@[simp] theorem choose_hjobs (d : Dev) (n : Nat) : (d.choose n).2.hjobs = d.hjobs := rfl
@[simp] theorem free_red (d : Dev) : d.free.2.red = d.red := rfl
@[simp] theorem choose_red (d : Dev) (n : Nat) : (d.choose n).2.red = d.red := rfl
@[simp] theorem free_bkts (d : Dev) : d.free.2.bkts = d.bkts := rfl
@[simp] theorem choose_bkts (d : Dev) (n : Nat) : (d.choose n).2.bkts = d.bkts := rfl
@[simp] theorem free_store (d : Dev) : d.free.2.store = d.store := rfl
@[simp] theorem choose_store (d : Dev) (n : Nat) : (d.choose n).2.store = d.store := rfl
@[simp] theorem free_lv (d : Dev) : d.free.2.lv = d.lv := rfl
@[simp] theorem choose_lv (d : Dev) (n : Nat) : (d.choose n).2.lv = d.lv := rfl
@[simp] theorem free_replat (d : Dev) : d.free.2.replat = d.replat := rfl
@[simp] theorem choose_replat (d : Dev) (n : Nat) : (d.choose n).2.replat = d.replat := rfl
@[simp] theorem free_hub (d : Dev) : d.free.2.hub = d.hub := rfl
@[simp] theorem choose_hub (d : Dev) (n : Nat) : (d.choose n).2.hub = d.hub := rfl
@[simp] theorem free_holds (d : Dev) : d.free.2.holds = d.holds := rfl
@[simp] theorem choose_holds (d : Dev) (n : Nat) : (d.choose n).2.holds = d.holds := rfl
@[simp] theorem free_booted (d : Dev) : d.free.2.booted = d.booted := rfl
@[simp] theorem choose_booted (d : Dev) (n : Nat) : (d.choose n).2.booted = d.booted := rfl
@[simp] theorem free_board (d : Dev) : d.free.2.board = d.board := rfl
@[simp] theorem choose_board (d : Dev) (n : Nat) : (d.choose n).2.board = d.board := rfl
@[simp] theorem free_power (d : Dev) : d.free.2.power = d.power := rfl
@[simp] theorem choose_power (d : Dev) (n : Nat) : (d.choose n).2.power = d.power := rfl

/-! ### The register store -/

/-- A register reads as the value last written. -/
@[simp] theorem rget_rset_same (d : Dev) (o : Nat) (v : Word) : rget (rset d o v) o = v := by
  have h := Tab.get_set_same (regDefault o) d.regs o v
  exact h

/-- A write of one register leaves every other. -/
theorem rget_rset_ne (d : Dev) {o p : Nat} (v : Word) (h : p ≠ o) : rget (rset d o v) p = rget d p := by
  simp only [rget, rset, Tab.find?_set_ne _ _ v h]

/-- The two together. -/
theorem rget_rset (d : Dev) (o p : Nat) (v : Word) : rget (rset d o v) p = if p = o then v else rget d p := by
  split
  · rename_i h
    rw [h, rget_rset_same]
  · rename_i h
    exact rget_rset_ne d v h

/-- A register whose device field is unchanged reads the same. -/
theorem rget_congr {d d' : Dev} (h : d'.regs = d.regs) (o : Nat) : rget d' o = rget d o := by simp [rget, h]

/-! ### Clusters and contexts -/

/-- A cluster reads as last written. -/
@[simp] theorem getCl_setCl_same (d : Dev) (l : Nat) (c : Cluster) : getCl (setCl d l c) l = c := by
  simp [getCl, setCl]
/-- A write of one cluster leaves every other. -/
theorem getCl_setCl_ne (d : Dev) {l m : Nat} (c : Cluster) (h : m ≠ l) : getCl (setCl d l c) m = getCl d m := by
  simp [getCl, setCl, Tab.get_set_ne _ _ _ h]
/-- A cluster changed. -/
@[simp] theorem getCl_updCl_same (d : Dev) (l : Nat) (f : Cluster → Cluster) : getCl (updCl d l f) l = f (getCl d l) := by
  simp [updCl]
/-- A change of one cluster leaves every other. -/
theorem getCl_updCl_ne (d : Dev) {l m : Nat} (f : Cluster → Cluster) (h : m ≠ l) :
    getCl (updCl d l f) m = getCl d m := getCl_setCl_ne d _ h
/-- A context reads as last written. -/
@[simp] theorem getCtx_setCtx_same (d : Dev) (l c : Nat) (x : Ctx) : getCtx (setCtx d l c x) l c = x := by
  simp [getCtx, setCtx]
/-- A write of one context leaves every other of its cluster. -/
theorem getCtx_setCtx_ne (d : Dev) (l : Nat) {c k : Nat} (x : Ctx) (h : k ≠ c) :
    getCtx (setCtx d l c x) l k = getCtx d l k := by
  simp [getCtx, setCtx, Tab.get_set_ne _ _ _ h]
/-- A write of a context leaves every other cluster. -/
theorem getCl_setCtx_ne (d : Dev) {l m : Nat} (c : Nat) (x : Ctx) (h : m ≠ l) :
    getCl (setCtx d l c x) m = getCl d m := getCl_setCl_ne d _ h
/-- A context changed. -/
@[simp] theorem getCtx_updCtx_same (d : Dev) (l c : Nat) (f : Ctx → Ctx) :
    getCtx (updCtx d l c f) l c = f (getCtx d l c) := by simp [updCtx]
/-- A change of a context leaves every other of its cluster. -/
theorem getCtx_updCtx_ne (d : Dev) (l : Nat) {c k : Nat} (f : Ctx → Ctx) (h : k ≠ c) :
    getCtx (updCtx d l c f) l k = getCtx d l k := getCtx_setCtx_ne d l _ h
/-- A quarter changed. -/
@[simp] theorem getQ_updQ_same (d : Dev) (q : Nat) (f : Quarter → Quarter) : getQ (updQ d q f) q = f (getQ d q) := by
  simp [getQ, updQ]
/-- A change of one quarter leaves every other. -/
theorem getQ_updQ_ne (d : Dev) {q p : Nat} (f : Quarter → Quarter) (h : p ≠ q) : getQ (updQ d q f) p = getQ d p := by
  simp [getQ, updQ, Tab.get_set_ne _ _ _ h]

@[simp] theorem getCl_rset (d : Dev) (o : Nat) (v : Word) (m : Nat) : getCl (rset d o v) m = getCl d m := rfl
@[simp] theorem getQ_rset (d : Dev) (o : Nat) (v : Word) (r : Nat) : getQ (rset d o v) r = getQ d r := rfl
@[simp] theorem mbyte_rset (d : Dev) (o : Nat) (v : Word) (j a : Nat) : mbyte (rset d o v) j a = mbyte d j a := rfl
@[simp] theorem mbytes_rset (d : Dev) (o : Nat) (v : Word) (j a n : Nat) : mbytes (rset d o v) j a n = mbytes d j a n := rfl
@[simp] theorem getCtx_rset (d : Dev) (o : Nat) (v : Word) (m k : Nat) : getCtx (rset d o v) m k = getCtx d m k := rfl
@[simp] theorem getCl_rsetF (d : Dev) (o : Nat) (f : Fld) (v : Nat) (m : Nat) : getCl (rsetF d o f v) m = getCl d m := rfl
@[simp] theorem getQ_rsetF (d : Dev) (o : Nat) (f : Fld) (v : Nat) (r : Nat) : getQ (rsetF d o f v) r = getQ d r := rfl
@[simp] theorem mbyte_rsetF (d : Dev) (o : Nat) (f : Fld) (v : Nat) (j a : Nat) : mbyte (rsetF d o f v) j a = mbyte d j a := rfl
@[simp] theorem mbytes_rsetF (d : Dev) (o : Nat) (f : Fld) (v : Nat) (j a n : Nat) : mbytes (rsetF d o f v) j a n = mbytes d j a n := rfl
@[simp] theorem getCtx_rsetF (d : Dev) (o : Nat) (f : Fld) (v : Nat) (m k : Nat) : getCtx (rsetF d o f v) m k = getCtx d m k := rfl
@[simp] theorem getCl_rsetB (d : Dev) (o : Nat) (f : Fld) (b : Bool) (m : Nat) : getCl (rsetB d o f b) m = getCl d m := rfl
@[simp] theorem getQ_rsetB (d : Dev) (o : Nat) (f : Fld) (b : Bool) (r : Nat) : getQ (rsetB d o f b) r = getQ d r := rfl
@[simp] theorem mbyte_rsetB (d : Dev) (o : Nat) (f : Fld) (b : Bool) (j a : Nat) : mbyte (rsetB d o f b) j a = mbyte d j a := rfl
@[simp] theorem mbytes_rsetB (d : Dev) (o : Nat) (f : Fld) (b : Bool) (j a n : Nat) : mbytes (rsetB d o f b) j a n = mbytes d j a n := rfl
@[simp] theorem getCtx_rsetB (d : Dev) (o : Nat) (f : Fld) (b : Bool) (m k : Nat) : getCtx (rsetB d o f b) m k = getCtx d m k := rfl
@[simp] theorem getCl_rinc (d : Dev) (o : Nat) (f : Fld) (m : Nat) : getCl (rinc d o f) m = getCl d m := rfl
@[simp] theorem getQ_rinc (d : Dev) (o : Nat) (f : Fld) (r : Nat) : getQ (rinc d o f) r = getQ d r := rfl
@[simp] theorem mbyte_rinc (d : Dev) (o : Nat) (f : Fld) (j a : Nat) : mbyte (rinc d o f) j a = mbyte d j a := rfl
@[simp] theorem mbytes_rinc (d : Dev) (o : Nat) (f : Fld) (j a n : Nat) : mbytes (rinc d o f) j a n = mbytes d j a n := rfl
@[simp] theorem getCtx_rinc (d : Dev) (o : Nat) (f : Fld) (m k : Nat) : getCtx (rinc d o f) m k = getCtx d m k := rfl
@[simp] theorem getCl_rincSat (d : Dev) (o : Nat) (f : Fld) (m : Nat) : getCl (rincSat d o f) m = getCl d m := rfl
@[simp] theorem getQ_rincSat (d : Dev) (o : Nat) (f : Fld) (r : Nat) : getQ (rincSat d o f) r = getQ d r := rfl
@[simp] theorem mbyte_rincSat (d : Dev) (o : Nat) (f : Fld) (j a : Nat) : mbyte (rincSat d o f) j a = mbyte d j a := rfl
@[simp] theorem mbytes_rincSat (d : Dev) (o : Nat) (f : Fld) (j a n : Nat) : mbytes (rincSat d o f) j a n = mbytes d j a n := rfl
@[simp] theorem getCtx_rincSat (d : Dev) (o : Nat) (f : Fld) (m k : Nat) : getCtx (rincSat d o f) m k = getCtx d m k := rfl
@[simp] theorem getCl_rreset (d : Dev) (p : Nat → Bool) (m : Nat) : getCl (rreset d p) m = getCl d m := rfl
@[simp] theorem getQ_rreset (d : Dev) (p : Nat → Bool) (r : Nat) : getQ (rreset d p) r = getQ d r := rfl
@[simp] theorem mbyte_rreset (d : Dev) (p : Nat → Bool) (j a : Nat) : mbyte (rreset d p) j a = mbyte d j a := rfl
@[simp] theorem mbytes_rreset (d : Dev) (p : Nat → Bool) (j a n : Nat) : mbytes (rreset d p) j a n = mbytes d j a n := rfl
@[simp] theorem getCtx_rreset (d : Dev) (p : Nat → Bool) (m k : Nat) : getCtx (rreset d p) m k = getCtx d m k := rfl
@[simp] theorem rget_setCl (d : Dev) (l : Nat) (c : Cluster) (p : Nat) : rget (setCl d l c) p = rget d p := rfl
@[simp] theorem getQ_setCl (d : Dev) (l : Nat) (c : Cluster) (r : Nat) : getQ (setCl d l c) r = getQ d r := rfl
@[simp] theorem mbyte_setCl (d : Dev) (l : Nat) (c : Cluster) (j a : Nat) : mbyte (setCl d l c) j a = mbyte d j a := rfl
@[simp] theorem mbytes_setCl (d : Dev) (l : Nat) (c : Cluster) (j a n : Nat) : mbytes (setCl d l c) j a n = mbytes d j a n := rfl
@[simp] theorem rget_updCl (d : Dev) (l : Nat) (f : Cluster → Cluster) (p : Nat) : rget (updCl d l f) p = rget d p := rfl
@[simp] theorem getQ_updCl (d : Dev) (l : Nat) (f : Cluster → Cluster) (r : Nat) : getQ (updCl d l f) r = getQ d r := rfl
@[simp] theorem mbyte_updCl (d : Dev) (l : Nat) (f : Cluster → Cluster) (j a : Nat) : mbyte (updCl d l f) j a = mbyte d j a := rfl
@[simp] theorem mbytes_updCl (d : Dev) (l : Nat) (f : Cluster → Cluster) (j a n : Nat) : mbytes (updCl d l f) j a n = mbytes d j a n := rfl
@[simp] theorem rget_setCtx (d : Dev) (l c : Nat) (x : Ctx) (p : Nat) : rget (setCtx d l c x) p = rget d p := rfl
@[simp] theorem getQ_setCtx (d : Dev) (l c : Nat) (x : Ctx) (r : Nat) : getQ (setCtx d l c x) r = getQ d r := rfl
@[simp] theorem mbyte_setCtx (d : Dev) (l c : Nat) (x : Ctx) (j a : Nat) : mbyte (setCtx d l c x) j a = mbyte d j a := rfl
@[simp] theorem mbytes_setCtx (d : Dev) (l c : Nat) (x : Ctx) (j a n : Nat) : mbytes (setCtx d l c x) j a n = mbytes d j a n := rfl
@[simp] theorem rget_updCtx (d : Dev) (l c : Nat) (f : Ctx → Ctx) (p : Nat) : rget (updCtx d l c f) p = rget d p := rfl
@[simp] theorem getQ_updCtx (d : Dev) (l c : Nat) (f : Ctx → Ctx) (r : Nat) : getQ (updCtx d l c f) r = getQ d r := rfl
@[simp] theorem mbyte_updCtx (d : Dev) (l c : Nat) (f : Ctx → Ctx) (j a : Nat) : mbyte (updCtx d l c f) j a = mbyte d j a := rfl
@[simp] theorem mbytes_updCtx (d : Dev) (l c : Nat) (f : Ctx → Ctx) (j a n : Nat) : mbytes (updCtx d l c f) j a n = mbytes d j a n := rfl
@[simp] theorem rget_updQ (d : Dev) (q : Nat) (f : Quarter → Quarter) (p : Nat) : rget (updQ d q f) p = rget d p := rfl
@[simp] theorem getCl_updQ (d : Dev) (q : Nat) (f : Quarter → Quarter) (m : Nat) : getCl (updQ d q f) m = getCl d m := rfl
@[simp] theorem mbyte_updQ (d : Dev) (q : Nat) (f : Quarter → Quarter) (j a : Nat) : mbyte (updQ d q f) j a = mbyte d j a := rfl
@[simp] theorem mbytes_updQ (d : Dev) (q : Nat) (f : Quarter → Quarter) (j a n : Nat) : mbytes (updQ d q f) j a n = mbytes d j a n := rfl
@[simp] theorem getCtx_updQ (d : Dev) (q : Nat) (f : Quarter → Quarter) (m k : Nat) : getCtx (updQ d q f) m k = getCtx d m k := rfl
@[simp] theorem rget_mwriteBytes (d : Dev) (k off : Nat) (bs : List Byte) (p : Nat) : rget (mwriteBytes d k off bs) p = rget d p := rfl
@[simp] theorem getCl_mwriteBytes (d : Dev) (k off : Nat) (bs : List Byte) (m : Nat) : getCl (mwriteBytes d k off bs) m = getCl d m := rfl
@[simp] theorem getQ_mwriteBytes (d : Dev) (k off : Nat) (bs : List Byte) (r : Nat) : getQ (mwriteBytes d k off bs) r = getQ d r := rfl
@[simp] theorem getCtx_mwriteBytes (d : Dev) (k off : Nat) (bs : List Byte) (m k : Nat) : getCtx (mwriteBytes d k off bs) m k = getCtx d m k := rfl

/-- A register s0 reads as zero and takes no write (R84). -/
@[simp] theorem sread_zero (x : Ctx) : sread x 0 = 0 := rfl
/-- A write of s0 changes nothing (R84). -/
@[simp] theorem swrite_zero (x : Ctx) (v : Word) : swrite x 0 v = x := rfl
/-- A scalar register reads as last written. -/
theorem sread_swrite_same (x : Ctx) {r : Nat} (v : Word) (h : r ≠ 0) : sread (swrite x r v) r = v := by
  simp [sread, swrite, h]
/-- A write of one scalar register leaves every other. -/
theorem sread_swrite_ne (x : Ctx) {r q : Nat} (v : Word) (h : q ≠ r) : sread (swrite x r v) q = sread x q := by
  unfold sread swrite
  by_cases hr : r = 0 <;> by_cases hq : q = 0 <;> simp [hr, hq, Tab.get_set_ne _ _ _ h]

end Sys2Proof.Machine
end

