-- ==== Sys2Proof/Laws/Scalar.lean ====
section
/-!
SUPPORT. What the operations over the bundle in W do: the syllable found, the syllable changed.
-/
namespace Sys2Proof.Machine

/-- The syllable that a command names stands in the bundle in W, in an accepted state, and is of its operation. -/
theorem sylFor_some {d : Dev} {l c slot : Nat} {op : Op} {p : SylSt → Bool} {b : WB} {y : Syl}
    (h : sylFor d l c slot op p = some (b, y)) :
    (getCtx d l c).wb = some b ∧ getSyl b slot = some y ∧ p y.st = true ∧
      sylOp b.md.gm (rget d (csOff l c 0x70)) y.word = some op := by
  unfold sylFor at h
  split at h
  · rename_i b' hb
    split at h
    · rename_i y' hy
      split at h
      · rename_i hc
        cases h
        exact ⟨hb, hy, hc.1, hc.2⟩
      · cases h
    · cases h
  · cases h

/-- A command on a syllable acts on the syllable found. -/
theorem onSyl_some {d : Dev} {l c slot : Nat} {op : Op} {p : SylSt → Bool} {b : WB} {y : Syl}
    (h : sylFor d l c slot op p = some (b, y)) (k : WB → Syl → Ctx → Dev) :
    onSyl l c slot op p k d = k b y (getCtx d l c) := by
  unfold onSyl
  rw [h]

/-- A command whose syllable is not there leaves the device. -/
theorem onSyl_none {d : Dev} {l c slot : Nat} {op : Op} {p : SylSt → Bool}
    (h : sylFor d l c slot op p = none) (k : WB → Syl → Ctx → Dev) : onSyl l c slot op p k d = d := by
  unfold onSyl
  rw [h]

/-- The syllable of the bundle in W set to a state with effects. -/
theorem setSyl_eq {d d' : Dev} {l c slot : Nat} {op : Op} {p : SylSt → Bool} {b : WB} {y : Syl}
    (h : sylFor d l c slot op p = some (b, y)) (hx : (getCtx d' l c).wb = (getCtx d l c).wb) (st : SylSt) (eff : List Eff) :
    setSyl d' l c slot st eff = withSyl d' l c slot b y st eff := by
  obtain ⟨hb, hy, -, -⟩ := sylFor_some h
  simp only [setSyl, withSyl, updCtx, hx.trans hb, hy]

end Sys2Proof.Machine
end

