-- ==== Sys2Proof/Laws/Frame.lean ====
section
/-!
SUPPORT. Until its bundle retires a syllable changes its bundle alone (spec/03 R60): what setSyl and onSyl, through which every
execution in W goes, leave unchanged.
-/
namespace Sys2Proof.Machine

/-- The devices differ in the syllables of the bundle that context `c` of cluster `l` holds, and in the free-value counter, alone. -/
def OnlyBundle (l c : Nat) (s d : Dev) : Prop :=
  { d with cl := s.cl, freeCtr := s.freeCtr } = s ∧
  (∀ m, { getCl d m with ctx := [] } = { getCl s m with ctx := [] }) ∧
  (∀ m k, (m, k) ≠ (l, c) → getCtx d m k = getCtx s m k) ∧
  { getCtx d l c with wb := none } = { getCtx s l c with wb := none } ∧
  ((getCtx d l c).wb.map (fun b => (b.addr, b.len, b.act, b.md)) = (getCtx s l c).wb.map (fun b => (b.addr, b.len, b.act, b.md)))

/-- Nothing changed. -/
theorem OnlyBundle.refl (l c : Nat) (s : Dev) : OnlyBundle l c s s := ⟨rfl, fun _ => rfl, fun _ _ _ => rfl, rfl, rfl⟩

/-- A syllable put into its bundle changes that bundle alone. -/
theorem onlyBundle_setSyl (l c slot : Nat) (s : Dev) (st : SylSt) (e : List Eff) : OnlyBundle l c s (setSyl s l c slot st e) := by
  unfold setSyl
  refine ⟨rfl, ?_, ?_, ?_, ?_⟩
  · intro m
    by_cases hm : m = l
    · subst hm; simp [updCtx, setCtx, updCl]
    · simp [updCtx, getCl_setCtx_ne, hm]
  · intro m k hk
    by_cases hm : m = l
    · subst hm
      have : k ≠ c := by rintro rfl; exact hk rfl
      simp [updCtx, getCtx_setCtx_ne, this]
    · simp [getCtx, updCtx, getCl_setCtx_ne, hm]
  · simp only [updCtx, getCtx_setCtx_same]
    cases hb : (getCtx s l c).wb with
    | none => simp
    | some b => cases hy : getSyl b slot with
      | none => simp [hy]
      | some y => simp [hy]
  · simp only [updCtx, getCtx_setCtx_same]
    cases hb : (getCtx s l c).wb with
    | none => simp [hb]
    | some b => cases hy : getSyl b slot with
      | none => simp [hb, hy]
      | some y => simp [hy, putSyl]; split <;> (try split) <;> simp

/-- The same after a free value was drawn. -/
theorem onlyBundle_setSyl_free (l c slot : Nat) (s : Dev) (st : SylSt) (e : List Eff) :
    OnlyBundle l c s (setSyl s.free.2 l c slot st e) := by
  obtain ⟨_, h2, h3, h4, h5⟩ := onlyBundle_setSyl l c slot s.free.2 st e
  exact ⟨rfl, h2, h3, h4, h5⟩

/-- A command on a syllable changes its bundle alone where what it does to the syllable does. -/
theorem onlyBundle_onSyl (l c slot : Nat) (op : Op) (p : SylSt → Bool) (k : WB → Syl → Ctx → Dev) (d : Dev)
    (h : ∀ b y x, OnlyBundle l c d (k b y x)) : OnlyBundle l c d (onSyl l c slot op p k d) := by
  unfold onSyl
  split
  · exact h _ _ _
  · exact .refl _ _ _

end Sys2Proof.Machine
end

