-- ==== Sys2Proof/Laws/Inbox.lean ====
section
/-!
SUPPORT. Taking a message from the inbox.
-/
namespace Sys2Proof.Machine

/-- What a device whose partner does not share its messages takes: the message, its credits owed. -/
theorem receive_eq {d : Dev} {ok : Msg → Bool} {p : Nat} {m : Msg} {rest : List (Nat × Msg)} (hb : d.booted = true)
    (ht : takeOrdered (fun m => isMe d m.dst) ok [] d.inbox = some ((p, m), rest))
    (hp : paired (oweCredits { d with inbox := rest } p m) = false) :
    receive d ok = (some m, oweCredits { d with inbox := rest } p m) := by
  unfold receive receiveAt
  rw [if_pos hb, ht]
  simp only [hp, Bool.false_eq_true, false_and, if_false]

/-- A device that has not booted takes nothing. -/
theorem receive_off {d : Dev} {ok : Msg → Bool} (hb : d.booted = false) : receive d ok = (none, d) := by
  unfold receive receiveAt
  simp only [hb, Bool.false_eq_true, if_false]

end Sys2Proof.Machine
end

