-- ==== Sys2Proof/Laws/Memory.lean ====
section
/-!
SUPPORT. What the operations on stack memory do: a run of bytes written reads back and leaves every other byte; every operation that
changes memory keeps its canonical form, and reset's memory has it.
-/
namespace Sys2Proof.Machine

/-- Reset's memory has the canonical form. -/
theorem reset_mem_wf : Memory.wf State.reset.dev.mem = true := rfl

/-- A byte outside a run that is written reads as before. -/
theorem mbyte_mwriteBytes_out (d : Dev) (k off j a : Nat) (bs : List Byte)
    (h : memKey j a < memKey k off ∨ memKey k off + bs.length ≤ memKey j a) :
    mbyte (mwriteBytes d k off bs) j a = mbyte d j a :=
  Tab.get_setRun_out 0 bs d.mem (memKey k off) (memKey j a) h

/-- A byte of a run that is written reads as written. -/
theorem mbyte_mwriteBytes_in (d : Dev) (k off i : Nat) (bs : List Byte) (h : i < bs.length) :
    mbyte (mwriteBytes d k off bs) k (off + i) = bs[i] := by
  have e : memKey k (off + i) = memKey k off + i := by unfold memKey; omega
  show Tab.get 0 (Tab.setRun 0 d.mem (memKey k off) bs) (memKey k (off + i)) = bs[i]
  rw [e]
  exact Tab.get_setRun_in 0 bs d.mem (memKey k off) i h

/-- Bytes written read back. -/
theorem mbytes_mwriteBytes (d : Dev) (k off : Nat) (bs : List Byte) : mbytes (mwriteBytes d k off bs) k off bs.length = bs :=
  Tab.getRun_setRun 0 bs d.mem (memKey k off)

/-- Writing bytes keeps the canonical form. -/
theorem mwriteBytes_wf (d : Dev) (k off : Nat) (bs : List Byte) (h : Memory.wf d.mem = true) :
    Memory.wf (mwriteBytes d k off bs).mem = true :=
  Tab.wf_setRun 0 bs d.mem (memKey k off) h

/-- Moving bytes keeps the canonical form. -/
theorem moveMem_wf (d : Dev) (k1 o1 k2 o2 n : Nat) (h : Memory.wf d.mem = true) : Memory.wf (moveMem d k1 o1 k2 o2 n).mem = true :=
  Tab.wf_foldl_set 0 _ _ _ _ (Tab.wf_drop 0 _ _ (Tab.wf_drop 0 _ _ h))

/-- Clearing bytes keeps the canonical form. -/
theorem zeroMem_wf (d : Dev) (k o n : Nat) (h : Memory.wf d.mem = true) : Memory.wf (zeroMem d k o n).mem = true :=
  Tab.wf_drop 0 d.mem (fun x => decide (memKey k o ≤ x ∧ x < memKey k o + n)) h

/-- Copying bytes keeps the canonical form. -/
theorem copyMem_wf (d : Dev) (k1 o1 k2 o2 n : Nat) (h : Memory.wf d.mem = true) : Memory.wf (copyMem d k1 o1 k2 o2 n).mem = true :=
  Tab.wf_foldl_set 0 _ _ _ _ (zeroMem_wf d k2 o2 n h)

/-- Losing the bytes above an offset keeps the canonical form. -/
theorem dropAbove_wf (d : Dev) (k len : Nat) (h : Memory.wf d.mem = true) : Memory.wf (dropAbove d k len).mem = true :=
  Tab.wf_drop 0 d.mem (fun x => decide (memKey k len ≤ x ∧ x < memKey (k + 1) 0)) h

/-- What a reset of device scope keeps of memory has the canonical form. -/
theorem keptMem_wf (d : Dev) (c : Bool) (h : Memory.wf d.mem = true) : Memory.wf (keptMem d c).1 = true :=
  Tab.wf_filter 0 _ _ h

end Sys2Proof.Machine
end

