-- ==== Sys2Proof/Laws/MemWfBase.lean ====
section
/-! SUPPORT. The device's memory keeps its canonical form (strictly rising addresses, no byte equal to what an unlisted one
reads as): one lemma for each operation of the model that answers a device, here for the operations on registers, accesses, caches and the window. -/

namespace Sys2Proof.Machine

/-- The device's memory has its canonical form. -/
def MemWf (d : Dev) : Prop := Memory.wf d.mem = true
theorem MemWf.cong {d e : Dev} (h : MemWf d) (hm : e.mem = d.mem) : MemWf e := by
  unfold MemWf; rw [hm]; exact h
theorem MemWf.ite {c : Prop} [Decidable c] {a b : Dev} (ha : MemWf a) (hb : MemWf b) : MemWf (if c then a else b) := by
  split
  · exact ha
  · exact hb
theorem MemWf.foldl {β : Type} {g : Dev → β → Dev} {l : List β} {d : Dev} (h : MemWf d) (hg : ∀ d x, MemWf d → MemWf (g d x)) :
    MemWf (l.foldl g d) := by
  induction l generalizing d with
  | nil => exact h
  | cons x l ih => exact ih (hg d x h)
theorem MemWf.mk {regs : Tab Word} {cl : Tab Cluster} {quarters : Tab Quarter} {mem : Tab Byte} {badMem : Tab Nat} {reqs : Tab Req} {events : List (Nat × Nat)} {outbox : List OutMsg} {inbox : List (Nat × Msg)} {ports : Tab Port} {tagCtr : Nat} {mirrored : List (Nat × Msg)} {freeCtr : Nat} {plat : Plat} {tracts : Tab Tract} {stks : Tab Stk} {fevents : List (Nat × Nat)} {wfdPend : List (Nat × Word × Word)} {tractCmd : Option TractCmd} {tractEnd : Option (Nat × Nat × Nat)} {platbuf : Tab Byte} {flash : Tab Byte} {dyke : Dyke} {sess : Sess} {attest : Option (List Byte × Nat × Nat)} {rings : Tab Ring} {relayed : List Nat} {pins : Pins} {hjobs : List HJob} {red : Tab Red} {bkts : List Bkt} {store : List Msg} {lv : Lv} {replat : Option Replat} {hub : HubOps} {holds : List Hold} {booted : Bool} {board : Board} {power : Power} (h : Memory.wf mem = true) :
    MemWf ⟨regs, cl, quarters, mem, badMem, reqs, events, outbox, inbox, ports, tagCtr, mirrored, freeCtr, plat, tracts, stks, fevents, wfdPend, tractCmd, tractEnd, platbuf, flash, dyke, sess, attest, rings, relayed, pins, hjobs, red, bkts, store, lv, replat, hub, holds, booted, board, power⟩ := h
theorem MemWf.out {d : Dev} (h : MemWf d) : Memory.wf d.mem = true := h
theorem MemWf.foldl2 {α β : Type} {g : α × Dev → β → α × Dev} {l : List β} {p : α × Dev} (h : MemWf p.2)
    (hg : ∀ p x, MemWf p.2 → MemWf (g p x).2) : MemWf (l.foldl g p).2 := by
  induction l generalizing p with
  | nil => exact h
  | cons x l ih => exact ih (hg p x h)
theorem MemWf.foldl1 {α β : Type} {g : Dev × α → β → Dev × α} {l : List β} {p : Dev × α} (h : MemWf p.1)
    (hg : ∀ p x, MemWf p.1 → MemWf (g p x).1) : MemWf (l.foldl g p).1 := by
  induction l generalizing p with
  | nil => exact h
  | cons x l ih => exact ih (hg p x h)
theorem MemWf.foldl22 {α α' β : Type} {g : α × α' × Dev → β → α × α' × Dev} {l : List β} {p : α × α' × Dev} (h : MemWf p.2.2)
    (hg : ∀ p x, MemWf p.2.2 → MemWf (g p x).2.2) : MemWf (l.foldl g p).2.2 := by
  induction l generalizing p with
  | nil => exact h
  | cons x l ih => exact ih (hg p x h)
theorem MemWf.ofIf {c : Prop} [Decidable c] {x e : Dev} (h : (if c then some x else none) = some e) (hx : MemWf x) : MemWf e := by
  split at h
  · cases h; exact hx
  · cases h

/-! ## State -/

theorem Dev_reset_memWf : MemWf Dev.reset := rfl

/-! ## Ops -/

theorem Dev_free_memWf (d : Dev) (hd : MemWf d) : MemWf (Dev.free d).2 := by
  unfold Dev.free
  try dsimp only
  with_reducible repeat' (first | assumption | intro _ | apply Dev_free_memWf | apply MemWf.ite | apply MemWf.foldl | split | refine MemWf.mk (MemWf.out ?_))
theorem Dev_free_memWf_eq {d : Dev} {dd : Dev} {r1}  (h : Dev.free d = (r1, dd)) (hd : MemWf d) : MemWf dd := by
  have g := Dev_free_memWf d hd
  rw [h] at g
  exact g
theorem Dev_choose_memWf (d : Dev) (n : Nat) (hd : MemWf d) : MemWf (Dev.choose d n).2 := by
  unfold Dev.choose
  try dsimp only
  with_reducible repeat' (first | assumption | intro _ | apply Dev_free_memWf | (refine Dev_free_memWf_eq (by assumption) ?_) | apply MemWf.ite | apply MemWf.foldl | split | refine MemWf.mk (MemWf.out ?_))
theorem Dev_choose_memWf_eq {d : Dev} {n : Nat} {dd : Dev} {r1}  (h : Dev.choose d n = (r1, dd)) (hd : MemWf d) : MemWf dd := by
  have g := Dev_choose_memWf d n hd
  rw [h] at g
  exact g
theorem rset_memWf (d : Dev) (o : Nat) (v : Word) (hd : MemWf d) : MemWf (rset d o v) := by
  unfold rset
  try dsimp only
  with_reducible repeat' (first | assumption | intro _ | apply MemWf.ite | apply MemWf.foldl | split | refine MemWf.mk (MemWf.out ?_))
theorem rsetF_memWf (d : Dev) (o : Nat) (f : Fld) (v : Nat) (hd : MemWf d) : MemWf (rsetF d o f v) := by
  unfold rsetF
  try dsimp only
  with_reducible repeat' (first | assumption | intro _ | apply rset_memWf)
theorem rsetB_memWf (d : Dev) (o : Nat) (f : Fld) (b : Bool) (hd : MemWf d) : MemWf (rsetB d o f b) := by
  unfold rsetB
  try dsimp only
  with_reducible repeat' (first | assumption | intro _ | apply rset_memWf)
theorem rinc_memWf (d : Dev) (o : Nat) (f : Fld) (hd : MemWf d) : MemWf (rinc d o f) := by
  unfold rinc
  try dsimp only
  with_reducible repeat' (first | assumption | intro _ | apply rsetF_memWf)
theorem rincSat_memWf (d : Dev) (o : Nat) (f : Fld) (hd : MemWf d) : MemWf (rincSat d o f) := by
  unfold rincSat
  try dsimp only
  with_reducible repeat' (first | assumption | intro _ | apply rsetF_memWf)
theorem rreset_memWf (d : Dev) (p : Nat → Bool) (hd : MemWf d) : MemWf (rreset d p) := by
  unfold rreset
  try dsimp only
  with_reducible repeat' (first | assumption | intro _ | apply MemWf.ite | apply MemWf.foldl | split | refine MemWf.mk (MemWf.out ?_))
theorem setCl_memWf (d : Dev) (l : Nat) (c : Cluster) (hd : MemWf d) : MemWf (setCl d l c) := by
  unfold setCl
  try dsimp only
  with_reducible repeat' (first | assumption | intro _ | apply MemWf.ite | apply MemWf.foldl | split | refine MemWf.mk (MemWf.out ?_))
theorem updCl_memWf (d : Dev) (l : Nat) (f : Cluster → Cluster) (hd : MemWf d) : MemWf (updCl d l f) := by
  unfold updCl
  try dsimp only
  with_reducible repeat' (first | assumption | intro _ | apply setCl_memWf)
theorem setCtx_memWf (d : Dev) (l c : Nat) (x : Ctx) (hd : MemWf d) : MemWf (setCtx d l c x) := by
  unfold setCtx
  try dsimp only
  with_reducible repeat' (first | assumption | intro _ | apply updCl_memWf)
theorem updCtx_memWf (d : Dev) (l c : Nat) (f : Ctx → Ctx) (hd : MemWf d) : MemWf (updCtx d l c f) := by
  unfold updCtx
  try dsimp only
  with_reducible repeat' (first | assumption | intro _ | apply setCtx_memWf)
theorem updQ_memWf (d : Dev) (q : Nat) (f : Quarter → Quarter) (hd : MemWf d) : MemWf (updQ d q f) := by
  unfold updQ
  try dsimp only
  with_reducible repeat' (first | assumption | intro _ | apply MemWf.ite | apply MemWf.foldl | split | refine MemWf.mk (MemWf.out ?_))
theorem mwriteBytes_memWf (d : Dev) (k off : Nat) (bs : List Byte) (hd : MemWf d) : MemWf (mwriteBytes d k off bs) := mwriteBytes_wf d k off bs hd

/-! ## Brynip -/

theorem inject_memWf (d : Dev) (port : Option Nat) (m : Msg) (hd : MemWf d) : MemWf (inject d port m) := by
  unfold inject
  try dsimp only
  with_reducible repeat' (first | assumption | intro _ | apply MemWf.ite | apply MemWf.foldl | split | refine MemWf.mk (MemWf.out ?_))
theorem send_memWf (d : Dev) (m : Msg) (hd : MemWf d) : MemWf (send d m) := by
  unfold send
  try dsimp only
  with_reducible repeat' (first | assumption | intro _ | apply inject_memWf)
theorem reply_memWf (d : Dev) (m : Msg) (vc op tag : Nat) (data : List Byte) (hd : MemWf d) : MemWf (reply d m vc op tag data) := by
  unfold reply
  try dsimp only
  with_reducible repeat' (first | assumption | intro _ | apply send_memWf | apply MemWf.ite)
theorem sendUp_memWf (d : Dev) (op tag addr : Nat) (data : List Byte) (hd : MemWf d) : MemWf (sendUp d op tag addr data) := by
  unfold sendUp
  try dsimp only
  with_reducible repeat' (first | assumption | intro _ | apply send_memWf | apply MemWf.ite)
theorem sendLog_memWf (d : Dev) (code detail : Nat) (hd : MemWf d) : MemWf (sendLog d code detail) := by
  unfold sendLog
  try dsimp only
  with_reducible repeat' (first | assumption | intro _ | apply sendUp_memWf | apply MemWf.ite)
theorem sendTwin_memWf (d : Dev) (op addr : Nat) (data : List Byte) (hd : MemWf d) : MemWf (sendTwin d op addr data) := by
  unfold sendTwin
  try dsimp only
  with_reducible repeat' (first | assumption | intro _ | apply inject_memWf)
theorem mirror_memWf (d : Dev) (m : Msg) (key : Nat) (hd : MemWf d) : MemWf (mirror d m key) := by
  unfold mirror
  try dsimp only
  with_reducible repeat' (first | assumption | intro _ | apply sendTwin_memWf)

/-! ## Cache -/

theorem updStk_memWf (d : Dev) (k : Nat) (f : Stk → Stk) (hd : MemWf d) : MemWf (updStk d k f) := by
  unfold updStk
  try dsimp only
  with_reducible repeat' (first | assumption | intro _ | apply MemWf.ite | apply MemWf.foldl | split | refine MemWf.mk (MemWf.out ?_))
theorem fevent_memWf (d : Dev) (cls unit : Nat) (hd : MemWf d) : MemWf (fevent d cls unit) := by
  unfold fevent
  try dsimp only
  with_reducible repeat' (first | assumption | intro _ | apply MemWf.ite | apply MemWf.foldl | split | refine MemWf.mk (MemWf.out ?_))
theorem countCE_memWf (d : Dev) (k ch n : Nat) (hd : MemWf d) : MemWf (countCE d k ch n) := by
  unfold countCE
  try dsimp only
  with_reducible repeat' (first | assumption | intro _ | apply rsetF_memWf | apply MemWf.ite | apply MemWf.foldl | split | refine MemWf.mk (MemWf.out ?_))
theorem eccCapture_memWf (d : Dev) (k off kind : Nat) (hd : MemWf d) : MemWf (eccCapture d k off kind) := by
  unfold eccCapture
  try dsimp only
  with_reducible repeat' (first | assumption | intro _ | apply rincSat_memWf | apply rset_memWf | apply rsetB_memWf | apply MemWf.ite)
theorem noteRead_memWf (d : Dev) (k off kind : Nat) (hd : MemWf d) : MemWf (noteRead d k off kind) := by
  unfold noteRead
  try dsimp only
  with_reducible repeat' (first | assumption | intro _ | apply countCE_memWf | apply eccCapture_memWf | apply MemWf.ite)
theorem stackWrite_memWf (d : Dev) (k off n m v : Nat) (bad : Bool) (hd : MemWf d) : MemWf (stackWrite d k off n m v bad) := by
  unfold stackWrite
  try dsimp only
  with_reducible repeat' (first | assumption | intro _ | apply countCE_memWf | apply eccCapture_memWf | apply mwriteBytes_memWf | apply MemWf.ite | apply MemWf.foldl | split | refine MemWf.mk (MemWf.out ?_))
theorem qcPut_memWf (d : Dev) (q key : Nat) (l : Sline) (hd : MemWf d) : MemWf (qcPut d q key l) := by
  unfold qcPut
  try dsimp only
  with_reducible repeat' (first | assumption | intro _ | apply updQ_memWf)
theorem qcWriteBack_memWf (d : Dev) (l : Sline) (s : Nat) (hd : MemWf d) : MemWf (qcWriteBack d l s) := by
  unfold qcWriteBack
  try dsimp only
  with_reducible repeat' (first | assumption | intro _ | apply stackWrite_memWf | apply MemWf.ite | apply MemWf.foldl | split)
theorem qcCleanLine_memWf (d : Dev) (l : Sline) (hd : MemWf d) : MemWf (qcCleanLine d l) := by
  unfold qcCleanLine
  try dsimp only
  with_reducible repeat' (first | assumption | intro _ | apply qcWriteBack_memWf | apply MemWf.ite | apply MemWf.foldl)
theorem qcAlloc_memWf {d : Dev} {q da : Nat} {e : Dev} {a} (h : qcAlloc d q da = some (a, e)) (hd : MemWf d) : MemWf e := by
  unfold qcAlloc at h
  try dsimp only at h
  repeat' split at h
  all_goals first | cases h; done | skip
  all_goals (cases h)
  all_goals (with_reducible repeat' (first | assumption | intro _ | apply Dev_choose_memWf | (refine Dev_choose_memWf_eq (by assumption) ?_) | apply qcCleanLine_memWf | apply MemWf.ite | apply MemWf.foldl | (refine MemWf.mk ?_; refine MemWf.out ?_; first | assumption | intro _ | apply Dev_choose_memWf | (refine Dev_choose_memWf_eq (by assumption) ?_) | apply qcCleanLine_memWf | apply MemWf.ite | apply MemWf.foldl) | split))
theorem homeNote_memWf (d : Dev) (da k off kind : Nat) (hd : MemWf d) : MemWf (homeNote d da k off kind) := by
  unfold homeNote
  try dsimp only
  with_reducible repeat' (first | assumption | intro _ | apply noteRead_memWf | apply MemWf.ite | apply MemWf.foldl | split)
theorem qcFill_memWf (d : Dev) (q da v : Nat) (dirty : Bool) (hd : MemWf d) : MemWf (qcFill d q da v dirty) := by
  unfold qcFill
  try dsimp only
  with_reducible repeat' (first | assumption | intro _ | (refine qcAlloc_memWf (e := _) (by assumption) ?_) | apply qcPut_memWf | apply MemWf.ite | apply MemWf.foldl | split)
theorem missWrite_memWf (d : Dev) (da k off n m v : Nat) (bad : Bool) (hd : MemWf d) : MemWf (missWrite d da k off n m v bad) := by
  unfold missWrite
  try dsimp only
  with_reducible repeat' (first | assumption | intro _ | apply noteRead_memWf | apply qcFill_memWf | apply stackWrite_memWf | apply MemWf.ite)
theorem homeWrite_memWf (d : Dev) (da k off n m v : Nat) (bad : Bool) (hd : MemWf d) : MemWf (homeWrite d da k off n m v bad) := by
  unfold homeWrite
  try dsimp only
  with_reducible repeat' (first | assumption | intro _ | apply missWrite_memWf | apply qcCleanLine_memWf | apply qcPut_memWf | apply MemWf.ite | apply MemWf.foldl | split)
theorem qcDropSector_memWf (d : Dev) (q da : Nat) (hd : MemWf d) : MemWf (qcDropSector d q da) := by
  unfold qcDropSector
  try dsimp only
  with_reducible repeat' (first | assumption | intro _ | apply qcPut_memWf | apply MemWf.ite | apply MemWf.foldl | split)
theorem storeError_memWf (d : Dev) (l c status da : Nat) (hd : MemWf d) : MemWf (storeError d l c status da) := by
  unfold storeError
  try dsimp only
  with_reducible repeat' (first | assumption | intro _ | apply rset_memWf | apply updCtx_memWf | apply MemWf.ite)
theorem deferMC_memWf (d : Dev) (l c : Nat) (va : Word) (kind : Nat) (hd : MemWf d) : MemWf (deferMC d l c va kind) := by
  unfold deferMC
  try dsimp only
  with_reducible repeat' (first | assumption | intro _ | apply updCtx_memWf)
theorem dropReq_memWf (d : Dev) (id : Nat) (hd : MemWf d) : MemWf (dropReq d id) := by
  unfold dropReq
  try dsimp only
  with_reducible repeat' (first | assumption | intro _ | apply MemWf.ite | apply MemWf.foldl | split | refine MemWf.mk (MemWf.out ?_))
theorem jobAnswer_memWf (d : Dev) (j : HJob) (hd : MemWf d) : MemWf (jobAnswer d j) := by
  unfold jobAnswer
  try dsimp only
  with_reducible repeat' (first | assumption | intro _ | apply dropReq_memWf | apply send_memWf | apply sendUp_memWf | apply MemWf.ite | apply MemWf.foldl | apply MemWf.foldl2 | apply MemWf.foldl1 | apply MemWf.foldl22 | split)
theorem hubSettle_memWf (d : Dev) (hd : MemWf d) : MemWf (hubSettle d) := by
  unfold hubSettle
  try dsimp only
  with_reducible repeat' (first | assumption | intro _ | apply jobAnswer_memWf | apply MemWf.ite | apply MemWf.foldl | apply MemWf.foldl2 | apply MemWf.foldl1 | apply MemWf.foldl22 | split | refine MemWf.mk (MemWf.out ?_))
theorem finishReq_memWf (d : Dev) (id status out : Nat) (hd : MemWf d) : MemWf (finishReq d id status out) := by
  unfold finishReq
  try dsimp only
  with_reducible repeat' (first | assumption | intro _ | apply deferMC_memWf | apply dropReq_memWf | apply hubSettle_memWf | apply storeError_memWf | apply MemWf.ite | apply MemWf.foldl | split | refine MemWf.mk (MemWf.out ?_))
theorem updReq_memWf (d : Dev) (id : Nat) (f : Req → Req) (hd : MemWf d) : MemWf (updReq d id f) := by
  unfold updReq
  try dsimp only
  with_reducible repeat' (first | assumption | intro _ | apply MemWf.ite | apply MemWf.foldl | split | refine MemWf.mk (MemWf.out ?_))
theorem tagReq_memWf (d : Dev) (id : Nat) (hd : MemWf d) : MemWf (tagReq d id) := by
  unfold tagReq
  try dsimp only
  with_reducible repeat' (first | assumption | intro _ | apply updCtx_memWf | apply updReq_memWf | apply MemWf.ite | apply MemWf.foldl | split | refine MemWf.mk (MemWf.out ?_))
theorem leave_memWf (d : Dev) (id : Nat) (hd : MemWf d) : MemWf (leave d id) := by
  unfold leave
  try dsimp only
  with_reducible repeat' (first | assumption | intro _ | apply finishReq_memWf | apply send_memWf | apply tagReq_memWf | apply MemWf.ite | apply MemWf.foldl | split | refine MemWf.mk (MemWf.out ?_))
theorem goOut_memWf (d : Dev) (id : Nat) (hd : MemWf d) : MemWf (goOut d id) := by
  unfold goOut
  try dsimp only
  with_reducible repeat' (first | assumption | intro _ | apply dropReq_memWf | apply finishReq_memWf | apply leave_memWf | apply updReq_memWf | apply MemWf.ite | apply MemWf.foldl | split)
theorem newReq_memWf (d : Dev) (r : Req) (hd : MemWf d) : MemWf (newReq d r) := by
  unfold newReq
  try dsimp only
  with_reducible repeat' (first | assumption | intro _ | apply goOut_memWf | apply MemWf.ite | apply MemWf.foldl | split | refine MemWf.mk (MemWf.out ?_))
theorem ccPut_memWf (d : Dev) (l key : Nat) (x : Sline) (hd : MemWf d) : MemWf (ccPut d l key x) := by
  unfold ccPut
  try dsimp only
  with_reducible repeat' (first | assumption | intro _ | apply updCl_memWf)
theorem ccWriteBack_memWf (d : Dev) (l : Nat) (x : Sline) (s : Nat) (hd : MemWf d) : MemWf (ccWriteBack d l x s) := by
  unfold ccWriteBack
  try dsimp only
  with_reducible repeat' (first | assumption | intro _ | apply newReq_memWf | apply MemWf.ite | apply MemWf.foldl | split)
theorem ccCleanLine_memWf (d : Dev) (l : Nat) (x : Sline) (hd : MemWf d) : MemWf (ccCleanLine d l x) := by
  unfold ccCleanLine
  try dsimp only
  with_reducible repeat' (first | assumption | intro _ | apply ccWriteBack_memWf | apply MemWf.ite | apply MemWf.foldl)
theorem cleanSectorNow_memWf (d : Dev) (l : Nat) (x : Sline) (s : Nat) (hd : MemWf d) : MemWf (cleanSectorNow d l x s) := by
  unfold cleanSectorNow
  try dsimp only
  with_reducible repeat' (first | assumption | intro _ | apply homeWrite_memWf | apply MemWf.ite | apply MemWf.foldl | split)
theorem cleanLineNow_memWf (d : Dev) (l : Nat) (x : Sline) (hd : MemWf d) : MemWf (cleanLineNow d l x) := by
  unfold cleanLineNow
  try dsimp only
  with_reducible repeat' (first | assumption | intro _ | apply cleanSectorNow_memWf | apply MemWf.ite | apply MemWf.foldl)
theorem ccAlloc_memWf (d : Dev) (l da : Nat) (hd : MemWf d) : MemWf (ccAlloc d l da).2 := by
  unfold ccAlloc
  try dsimp only
  with_reducible repeat' (first | assumption | intro _ | apply Dev_choose_memWf | (refine Dev_choose_memWf_eq (by assumption) ?_) | apply cleanLineNow_memWf | apply MemWf.ite | apply MemWf.foldl | split)
theorem ccAlloc_memWf_eq {d : Dev} {l da : Nat} {dd : Dev} {r1}  (h : ccAlloc d l da = (r1, dd)) (hd : MemWf d) : MemWf dd := by
  have g := ccAlloc_memWf d l da hd
  rw [h] at g
  exact g
theorem sideDrop_memWf (d : Dev) (l ln : Nat) (hd : MemWf d) : MemWf (sideDrop d l ln) := by
  unfold sideDrop
  try dsimp only
  with_reducible repeat' (first | assumption | intro _ | apply rsetF_memWf | apply updCl_memWf)
theorem promote_memWf (d : Dev) (l da : Nat) (hd : MemWf d) : MemWf (promote d l da) := by
  unfold promote
  try dsimp only
  with_reducible repeat' (first | assumption | intro _ | apply ccAlloc_memWf | (refine ccAlloc_memWf_eq (by assumption) ?_) | apply ccPut_memWf | apply sideDrop_memWf | apply MemWf.ite | apply MemWf.foldl | apply MemWf.foldl2 | apply MemWf.foldl1 | apply MemWf.foldl22 | split)
theorem l1Fill_memWf (d : Dev) (l da v : Nat) (hd : MemWf d) : MemWf (l1Fill d l da v) := by
  unfold l1Fill
  try dsimp only
  with_reducible repeat' (first | assumption | intro _ | apply Dev_choose_memWf | (refine Dev_choose_memWf_eq (by assumption) ?_) | apply updCl_memWf | apply MemWf.ite | apply MemWf.foldl | split)
theorem l1Store_memWf (d : Dev) (l da n m v : Nat) (hd : MemWf d) : MemWf (l1Store d l da n m v) := by
  unfold l1Store
  try dsimp only
  with_reducible repeat' (first | assumption | intro _ | apply updCl_memWf | apply MemWf.ite | apply MemWf.foldl | split)
theorem l1Drop_memWf (d : Dev) (l da : Nat) (hd : MemWf d) : MemWf (l1Drop d l da) := by
  unfold l1Drop
  try dsimp only
  with_reducible repeat' (first | assumption | intro _ | apply updCl_memWf | apply MemWf.ite | apply MemWf.foldl | split)
theorem l1Clear_memWf (d : Dev) (l : Nat) (hd : MemWf d) : MemWf (l1Clear d l) := by
  unfold l1Clear
  try dsimp only
  with_reducible repeat' (first | assumption | intro _ | apply updCl_memWf)
theorem clusterRead_memWf (d : Dev) (l da n : Nat) (scalar : Bool) (hd : MemWf d) : MemWf (clusterRead d l da n scalar).2 := by
  unfold clusterRead
  try dsimp only
  with_reducible repeat' (first | assumption | intro _ | apply l1Fill_memWf | apply promote_memWf | apply sideDrop_memWf | apply MemWf.ite | apply MemWf.foldl | split)
theorem clusterRead_memWf_eq {d : Dev} {l da n : Nat} {scalar : Bool} {dd : Dev} {r1}  (h : clusterRead d l da n scalar = (r1, dd)) (hd : MemWf d) : MemWf dd := by
  have g := clusterRead_memWf d l da n scalar hd
  rw [h] at g
  exact g
theorem clusterFill_memWf (d : Dev) (l da v : Nat) (scalar bad : Bool) (hd : MemWf d) : MemWf (clusterFill d l da v scalar bad) := by
  unfold clusterFill
  try dsimp only
  with_reducible repeat' (first | assumption | intro _ | apply ccAlloc_memWf | (refine ccAlloc_memWf_eq (by assumption) ?_) | apply ccPut_memWf | apply l1Fill_memWf | apply MemWf.ite | apply MemWf.foldl | split)
theorem clusterStore_memWf (d : Dev) (l c da : Nat) (t : Target) (qc : Bool) (n m v : Nat) (src : ReqSrc) (hd : MemWf d) : MemWf (clusterStore d l c da t qc n m v src) := by
  unfold clusterStore
  try dsimp only
  with_reducible repeat' (first | assumption | intro _ | apply ccAlloc_memWf | (refine ccAlloc_memWf_eq (by assumption) ?_) | apply ccPut_memWf | apply l1Store_memWf | apply leave_memWf | apply newReq_memWf | apply promote_memWf | apply sideDrop_memWf | apply MemWf.ite | apply MemWf.foldl | split)
theorem flushSector_memWf (d : Dev) (l da : Nat) (l1too : Bool) (hd : MemWf d) : MemWf (flushSector d l da l1too) := by
  unfold flushSector
  try dsimp only
  with_reducible repeat' (first | assumption | intro _ | apply ccPut_memWf | apply homeWrite_memWf | apply l1Drop_memWf | apply MemWf.ite | apply MemWf.foldl | split)
theorem mereWrite_memWf (d : Dev) (l off n v : Nat) (hd : MemWf d) : MemWf (mereWrite d l off n v) := by
  unfold mereWrite
  try dsimp only
  with_reducible repeat' (first | assumption | intro _ | apply updCl_memWf)

/-! ## Ctl -/

theorem domSet_memWf (d : Dev) (n : Nat) (b : Bool) (hd : MemWf d) : MemWf (domSet d n b) := by
  unfold domSet
  try dsimp only
  with_reducible repeat' (first | assumption | intro _ | apply rset_memWf)
theorem mmErr_memWf (d : Dev) (f : Fld) (ag : Agent) (o : Nat) (hd : MemWf d) : MemWf (mmErr d f ag o) := by
  unfold mmErr
  try dsimp only
  with_reducible repeat' (first | assumption | intro _ | apply rset_memWf | apply rsetB_memWf | apply MemWf.ite)
theorem mgmtRead_memWf (d : Dev) (ag : Agent) (o n : Nat) (hd : MemWf d) : MemWf (mgmtRead d ag o n).2 := by
  unfold mgmtRead
  try dsimp only
  with_reducible repeat' (first | assumption | intro _ | apply mmErr_memWf | apply MemWf.ite | apply MemWf.foldl | split)
theorem mgmtRead_memWf_eq {d : Dev} {ag : Agent} {o n : Nat} {dd : Dev} {r1}  (h : mgmtRead d ag o n = (r1, dd)) (hd : MemWf d) : MemWf dd := by
  have g := mgmtRead_memWf d ag o n hd
  rw [h] at g
  exact g
theorem regWrite_memWf (d : Dev) (m : RegMap) (o : Nat) (mask v : Word) (hd : MemWf d) : MemWf (regWrite d m o mask v) := by
  unfold regWrite
  try dsimp only
  with_reducible repeat' (first | assumption | intro _ | apply rset_memWf)
theorem onCmd_memWf (d : Dev) (m : RegMap) (o : Nat) (cmd : Fld) (mask v : Word) (lost : Option Dev) (go : Word → Dev → Dev)
    (hl : ∀ e, lost = some e → MemWf e) (hg : ∀ w e, MemWf e → MemWf (go w e)) (hd : MemWf d) : MemWf (onCmd d m o cmd mask v lost go) := by
  unfold onCmd
  dsimp only
  split
  · exact rset_memWf _ _ _ hd
  · split
    · exact hl _ rfl
    · exact hg _ _ (rset_memWf _ _ _ hd)
theorem setTpc_memWf (d : Dev) (l c t st pc : Nat) (hd : MemWf d) : MemWf (setTpc d l c t st pc) := by
  unfold setTpc
  try dsimp only
  with_reducible repeat' (first | assumption | intro _ | apply rset_memWf)
theorem setPcT_memWf (d : Dev) (l c t pc : Nat) (hd : MemWf d) : MemWf (setPcT d l c t pc) := by
  unfold setPcT
  try dsimp only
  with_reducible repeat' (first | assumption | intro _ | apply rsetF_memWf)
theorem setSt_memWf (d : Dev) (l c t st : Nat) (hd : MemWf d) : MemWf (setSt d l c t st) := by
  unfold setSt
  try dsimp only
  with_reducible repeat' (first | assumption | intro _ | apply rsetF_memWf)
theorem onLanes_memWf (m : Nat) (d : Dev) (f : Dev → Nat → Dev) (hf : ∀ e t, MemWf e → MemWf (f e t)) (hd : MemWf d) :
    MemWf (onLanes m d f) := by
  unfold onLanes
  refine MemWf.foldl hd ?_
  intro e t he
  exact MemWf.ite (hf e t he) he
theorem postEvent_memWf (d : Dev) (l bits : Nat) (hd : MemWf d) : MemWf (postEvent d l bits) := by
  unfold postEvent
  try dsimp only
  with_reducible repeat' (first | assumption | intro _ | apply MemWf.ite | apply MemWf.foldl | split | refine MemWf.mk (MemWf.out ?_))
theorem sendEvents_memWf (d : Dev) (bits : Nat) (desc : Word) (hd : MemWf d) : MemWf (sendEvents d bits desc) := by
  unfold sendEvents
  try dsimp only
  with_reducible repeat' (first | assumption | intro _ | apply postEvent_memWf | apply MemWf.ite | apply MemWf.foldl)
theorem endContext_memWf (d : Dev) (l c : Nat) (hd : MemWf d) : MemWf (endContext d l c) := by
  unfold endContext
  try dsimp only
  with_reducible repeat' (first | assumption | intro _ | apply rset_memWf | apply updCl_memWf | apply updCtx_memWf | apply MemWf.ite)
theorem startContext_memWf (d : Dev) (l c : Nat) (hd : MemWf d) : MemWf (startContext d l c) := by
  unfold startContext
  try dsimp only
  with_reducible repeat' (first | assumption | intro _ | apply endContext_memWf | apply rset_memWf | apply setSt_memWf | apply setTpc_memWf | apply updCl_memWf | apply updCtx_memWf | apply MemWf.ite | apply MemWf.foldl)
theorem startMask_memWf (d : Dev) (l m : Nat) (hd : MemWf d) : MemWf (startMask d l m) := by
  unfold startMask
  try dsimp only
  with_reducible repeat' (first | assumption | intro _ | apply startContext_memWf | apply MemWf.ite | apply MemWf.foldl)
theorem discardBundle_memWf (d : Dev) (l c : Nat) (hd : MemWf d) : MemWf (discardBundle d l c) := by
  unfold discardBundle
  try dsimp only
  with_reducible repeat' (first | assumption | intro _ | apply updCl_memWf | apply updCtx_memWf)
theorem leaveRecord_memWf (d : Dev) (q idx : Nat) (hd : MemWf d) : MemWf (leaveRecord d q idx) := by
  unfold leaveRecord
  try dsimp only
  with_reducible repeat' (first | assumption | intro _ | apply updQ_memWf)
theorem stopContext_memWf (d : Dev) (l c : Nat) (hd : MemWf d) : MemWf (stopContext d l c) := by
  unfold stopContext
  try dsimp only
  with_reducible repeat' (first | assumption | intro _ | apply discardBundle_memWf | apply leaveRecord_memWf | apply updCtx_memWf | apply MemWf.ite | apply MemWf.foldl | split)
theorem stopMask_memWf (d : Dev) (l m : Nat) (hd : MemWf d) : MemWf (stopMask d l m) := by
  unfold stopMask
  try dsimp only
  with_reducible repeat' (first | assumption | intro _ | apply stopContext_memWf | apply MemWf.ite | apply MemWf.foldl)
theorem unparkCtx_memWf (d : Dev) (l c : Nat) (hd : MemWf d) : MemWf (unparkCtx d l c) := by
  unfold unparkCtx
  try dsimp only
  with_reducible repeat' (first | assumption | intro _ | apply updCtx_memWf)
theorem unresolveCtx_memWf (d : Dev) (l c : Nat) (hd : MemWf d) : MemWf (unresolveCtx d l c) := by
  unfold unresolveCtx
  try dsimp only
  with_reducible repeat' (first | assumption | intro _ | apply unparkCtx_memWf | apply updCtx_memWf | apply MemWf.ite | apply MemWf.foldl | split)
theorem refreshCpstat_memWf (d : Dev) (l c : Nat) (hd : MemWf d) : MemWf (refreshCpstat d l c) := by
  unfold refreshCpstat
  try dsimp only
  with_reducible repeat' (first | assumption | intro _ | apply rsetF_memWf)
theorem setCopy_memWf (d : Dev) (l id : Nat) (cp : Copy) (hd : MemWf d) : MemWf (setCopy d l id cp) := by
  unfold setCopy
  try dsimp only
  with_reducible repeat' (first | assumption | intro _ | apply refreshCpstat_memWf | apply updCl_memWf)
theorem refreshOpen_memWf (d : Dev) (hd : MemWf d) : MemWf (refreshOpen d) := by
  unfold refreshOpen
  try dsimp only
  with_reducible repeat' (first | assumption | intro _ | apply rsetF_memWf)
theorem qcMaintain_memWf (d : Dev) (q op key : Nat) (x : Sline) (hd : MemWf d) : MemWf (qcMaintain d q op key x) := by
  unfold qcMaintain
  try dsimp only
  with_reducible repeat' (first | assumption | intro _ | apply qcCleanLine_memWf | apply qcPut_memWf | apply MemWf.ite)

end Sys2Proof.Machine
end

