-- ==== Sys2Proof/Laws/MemWfHub.lean ====
section
/-! SUPPORT. The device's memory keeps its canonical form (strictly rising addresses, no byte equal to what an unlisted one
reads as): one lemma for each operation of the model that answers a device, here for the hub's agents, the Tract Office, the links, the reduction, the pair, the rings and the Landing. -/

namespace Sys2Proof.Machine

/-! ## Ledger -/

theorem fprog_memWf (d : Dev) (a : Nat) (bs : List Byte) (hd : MemWf d) : MemWf (fprog d a bs) := by
  unfold fprog
  try dsimp only
  with_reducible repeat' (first | assumption | intro _ | apply MemWf.ite | apply MemWf.foldl | split | refine MemWf.mk (MemWf.out ?_))
theorem ferase_memWf (d : Dev) (a n : Nat) (hd : MemWf d) : MemWf (ferase d a n) := by
  unfold ferase
  try dsimp only
  with_reducible repeat' (first | assumption | intro _ | apply MemWf.ite | apply MemWf.foldl | split | refine MemWf.mk (MemWf.out ?_))
theorem updDk_memWf (d : Dev) (f : Dyke → Dyke) (hd : MemWf d) : MemWf (updDk d f) := by
  unfold updDk
  try dsimp only
  with_reducible repeat' (first | assumption | intro _ | apply MemWf.ite | apply MemWf.foldl | split | refine MemWf.mk (MemWf.out ?_))
theorem updLed_memWf (d : Dev) (f : Led → Led) (hd : MemWf d) : MemWf (updLed d f) := by
  unfold updLed
  try dsimp only
  with_reducible repeat' (first | assumption | intro _ | apply updDk_memWf)
theorem ledgerAsk_memWf (d : Dev) (r : LReason) (hd : MemWf d) : MemWf (ledgerAsk d r) := by
  unfold ledgerAsk
  try dsimp only
  with_reducible repeat' (first | assumption | intro _ | apply updDk_memWf)
theorem ledgerEvent_memWf (d : Dev) (kind cls unit detail : Nat) (hd : MemWf d) : MemWf (ledgerEvent d kind cls unit detail) := by
  unfold ledgerEvent
  try dsimp only
  with_reducible repeat' (first | assumption | intro _ | apply updLed_memWf)
theorem showLedger_memWf (d : Dev) (hd : MemWf d) : MemWf (showLedger d) := by
  unfold showLedger
  try dsimp only
  with_reducible repeat' (first | assumption | intro _ | apply rset_memWf | apply rsetF_memWf | apply MemWf.ite | apply MemWf.foldl)
theorem recordMapout_memWf (d : Dev) (k ch : Nat) (hd : MemWf d) : MemWf (recordMapout d k ch) := by
  unfold recordMapout
  try dsimp only
  with_reducible repeat' (first | assumption | intro _ | apply ledgerAsk_memWf | apply updLed_memWf)
theorem retireSite_memWf (d : Dev) (site cls : Nat) (hd : MemWf d) : MemWf (retireSite d site cls) := by
  unfold retireSite
  try dsimp only
  with_reducible repeat' (first | assumption | intro _ | apply ledgerAsk_memWf | apply rsetB_memWf | apply showLedger_memWf | apply updLed_memWf | apply MemWf.ite)
theorem ledgerWrite_memWf (d : Dev) (hd : MemWf d) : MemWf (ledgerWrite d) := by
  unfold ledgerWrite
  try dsimp only
  with_reducible repeat' (first | assumption | intro _ | apply fprog_memWf | apply updDk_memWf | apply MemWf.ite)
theorem sectorErase_memWf (bank : Nat) (d : Dev) (hd : MemWf d) : MemWf (sectorErase bank d) := by
  unfold sectorErase
  try dsimp only
  with_reducible repeat' (first | assumption | intro _ | apply ferase_memWf | apply MemWf.ite)
theorem ledgerRetry_memWf (d : Dev) (w : LWrite) (hd : MemWf d) : MemWf (ledgerRetry d w) := by
  unfold ledgerRetry
  try dsimp only
  with_reducible repeat' (first | assumption | intro _ | apply fprog_memWf | apply updDk_memWf)
theorem setAnchor_memWf (d : Dev) (hd : MemWf d) : MemWf (setAnchor d) := by
  unfold setAnchor
  try dsimp only
  with_reducible repeat' (first | assumption | intro _ | apply updDk_memWf)
theorem ledgerDone_memWf (d : Dev) (hd : MemWf d) : MemWf (ledgerDone d) := by
  unfold ledgerDone
  try dsimp only
  with_reducible repeat' (first | assumption | intro _ | apply rsetB_memWf | apply setAnchor_memWf | apply showLedger_memWf | apply updDk_memWf | apply MemWf.ite)
theorem readLedger_memWf (d : Dev) (hd : MemWf d) : MemWf (readLedger d) := by
  unfold readLedger
  try dsimp only
  with_reducible repeat' (first | assumption | intro _ | apply ledgerEvent_memWf | apply rsetB_memWf | apply updLed_memWf | apply MemWf.ite | apply MemWf.foldl | split)

/-! ## Tracts -/

theorem updTract_memWf (d : Dev) (t : Nat) (f : Tract → Tract) (hd : MemWf d) : MemWf (updTract d t f) := by
  unfold updTract
  try dsimp only
  with_reducible repeat' (first | assumption | intro _ | apply MemWf.ite | apply MemWf.foldl | split | refine MemWf.mk (MemWf.out ?_))
theorem moveMem_memWf (d : Dev) (k1 o1 k2 o2 n : Nat) (hd : MemWf d) : MemWf (moveMem d k1 o1 k2 o2 n) := moveMem_wf d k1 o1 k2 o2 n hd
theorem zeroMem_memWf (d : Dev) (k o n : Nat) (hd : MemWf d) : MemWf (zeroMem d k o n) := zeroMem_wf d k o n hd
theorem qcLeave_memWf (d : Dev) (lo hi : Nat) (clean : Bool) (hd : MemWf d) : MemWf (qcLeave d lo hi clean) := by
  unfold qcLeave
  try dsimp only
  with_reducible repeat' (first | assumption | intro _ | apply qcCleanLine_memWf | apply qcPut_memWf | apply MemWf.ite | apply MemWf.foldl)
theorem retarget_memWf (d : Dev) (lo hi : Nat) (hd : MemWf d) : MemWf (retarget d lo hi) := by
  unfold retarget
  try dsimp only
  with_reducible repeat' (first | assumption | intro _ | apply MemWf.ite | apply MemWf.foldl | split | refine MemWf.mk (MemWf.out ?_))
theorem startMove_memWf {d : Dev} {t k : Nat} {e : Dev} (h : startMove d t k = some e) (hd : MemWf d) : MemWf e := by
  unfold startMove at h
  obtain ⟨f, _, rfl⟩ := Option.map_eq_some_iff.1 h
  exact updTract_memWf _ _ _ hd
theorem moveChunk_memWf (d : Dev) (t : Nat) (hd : MemWf d) : MemWf (moveChunk d t) := by
  unfold moveChunk
  try dsimp only
  with_reducible repeat' (first | assumption | intro _ | apply moveMem_memWf | apply qcLeave_memWf | apply retarget_memWf | apply updTract_memWf | apply MemWf.ite | apply MemWf.foldl | apply MemWf.foldl2 | apply MemWf.foldl1 | apply MemWf.foldl22 | split)
theorem moveWhole_memWf {d : Dev} {t k : Nat} {e : Dev} (h : moveWhole d t k = some e) (hd : MemWf d) : MemWf e := by
  unfold moveWhole at h
  obtain ⟨f, hf, rfl⟩ := Option.map_eq_some_iff.1 h
  exact MemWf.foldl (startMove_memWf hf hd) (fun _ _ h => moveChunk_memWf _ _ h)
theorem assignCovered_memWf (d : Dev) (hd : MemWf d) : MemWf (assignCovered d) := by
  unfold assignCovered
  try dsimp only
  with_reducible repeat' (first | assumption | intro _ | apply updTract_memWf | apply zeroMem_memWf | apply MemWf.ite | apply MemWf.foldl | apply MemWf.foldl2 | apply MemWf.foldl1 | apply MemWf.foldl22 | split)
theorem discardTract_memWf (d : Dev) (t : Nat) (hd : MemWf d) : MemWf (discardTract d t) := by
  unfold discardTract
  try dsimp only
  with_reducible repeat' (first | assumption | intro _ | apply assignCovered_memWf | apply qcLeave_memWf | apply updTract_memWf | apply zeroMem_memWf | apply MemWf.ite | apply MemWf.foldl)
theorem tractEnds_memWf (d : Dev) (c : TractCmd) (status : Nat) (hd : MemWf d) : MemWf (tractEnds d c status) := by
  unfold tractEnds
  try dsimp only
  with_reducible repeat' (first | assumption | intro _ | apply rset_memWf | apply MemWf.ite | apply MemWf.foldl | split | refine MemWf.mk (MemWf.out ?_))
theorem tractGo_memWf (d : Dev) (w : List Word) (ring : Option Nat) (hd : MemWf d) : MemWf (tractGo d w ring) := by
  unfold tractGo
  try dsimp only
  with_reducible repeat' (first | assumption | intro _ | apply rsetB_memWf | apply tractEnds_memWf | apply MemWf.ite | apply MemWf.foldl | split | refine MemWf.mk (MemWf.out ?_))
theorem suTractGo_memWf (d : Dev) (hd : MemWf d) : MemWf (suTractGo d) := by
  unfold suTractGo
  try dsimp only
  with_reducible repeat' (first | assumption | intro _ | apply rsetB_memWf | apply tractGo_memWf | apply MemWf.ite)
theorem tractNext_memWf (d : Dev) (hd : MemWf d) : MemWf (tractNext d) := by
  unfold tractNext
  try dsimp only
  with_reducible repeat' (first | assumption | intro _ | (refine startMove_memWf (e := _) (by assumption) ?_) | apply tractEnds_memWf | apply MemWf.ite | apply MemWf.foldl | split)
theorem migrate_memWf (d : Dev) (hd : MemWf d) : MemWf (migrate d) := by
  unfold migrate
  try dsimp only
  with_reducible repeat' (first | assumption | intro _ | apply tractNext_memWf | apply MemWf.ite | apply MemWf.foldl | split | refine MemWf.mk (MemWf.out ?_))
theorem advise_memWf (d : Dev) (hd : MemWf d) : MemWf (advise d) := by
  unfold advise
  try dsimp only
  with_reducible repeat' (first | assumption | intro _ | apply discardTract_memWf | apply tractEnds_memWf | apply updTract_memWf | apply MemWf.ite | apply MemWf.foldl | apply MemWf.foldl2 | apply MemWf.foldl1 | apply MemWf.foldl22 | split)
theorem chunkMove_memWf (t : Nat) (d : Dev) (hd : MemWf d) : MemWf (chunkMove t d) := by
  unfold chunkMove
  try dsimp only
  with_reducible repeat' (first | assumption | intro _ | apply assignCovered_memWf | apply moveChunk_memWf | apply tractNext_memWf | apply MemWf.ite | apply MemWf.foldl | split | refine MemWf.mk (MemWf.out ?_))

/-! ## Stacks -/

theorem stackAdmit_memWf (id : Nat) (d : Dev) (hd : MemWf d) : MemWf (stackAdmit id d) := by
  unfold stackAdmit
  try dsimp only
  with_reducible repeat' (first | assumption | intro _ | apply finishReq_memWf | apply rset_memWf | apply updReq_memWf | apply updStk_memWf | apply MemWf.ite | apply MemWf.foldl | split)
theorem notePassed_memWf (d : Dev) (r : Req) (hd : MemWf d) : MemWf (notePassed d r) := by
  unfold notePassed
  try dsimp only
  with_reducible repeat' (first | assumption | intro _ | apply MemWf.ite | apply MemWf.foldl | split | refine MemWf.mk (MemWf.out ?_))
theorem writeAtStack_memWf (d : Dev) (r : Req) (k off : Nat) (hd : MemWf d) : MemWf (writeAtStack d r k off) := by
  unfold writeAtStack
  try dsimp only
  with_reducible repeat' (first | assumption | intro _ | apply homeWrite_memWf | apply stackWrite_memWf | apply MemWf.ite)
theorem sampleAccess_memWf (d : Dev) (k : Nat) (r : Req) (hd : MemWf d) : MemWf (sampleAccess d k r) := by
  unfold sampleAccess
  try dsimp only
  with_reducible repeat' (first | assumption | intro _ | apply updStk_memWf | apply MemWf.ite | apply MemWf.foldl | split | refine MemWf.mk (MemWf.out ?_))
theorem stackComplete_memWf (id : Nat) (d : Dev) (hd : MemWf d) : MemWf (stackComplete id d) := by
  unfold stackComplete
  try dsimp only
  with_reducible repeat' (first | assumption | intro _ | apply finishReq_memWf | apply homeNote_memWf | apply notePassed_memWf | apply qcFill_memWf | apply sampleAccess_memWf | apply writeAtStack_memWf | apply MemWf.ite | apply MemWf.foldl | split)
theorem atomApply_memWf (d : Dev) (da k off n op v cmp : Nat) (hd : MemWf d) : MemWf (atomApply d da k off n op v cmp).2 := by
  unfold atomApply
  try dsimp only
  with_reducible repeat' (first | assumption | intro _ | apply eccCapture_memWf | apply noteRead_memWf | apply qcDropSector_memWf | apply qcWriteBack_memWf | apply rset_memWf | apply stackWrite_memWf | apply MemWf.ite | apply MemWf.foldl | split)
theorem atomApply_memWf_eq {d : Dev} {da k off n op v cmp : Nat} {dd : Dev} {r1}  (h : atomApply d da k off n op v cmp = (r1, dd)) (hd : MemWf d) : MemWf dd := by
  have g := atomApply_memWf d da k off n op v cmp hd
  rw [h] at g
  exact g
theorem atomicUnit_memWf (id : Nat) (d : Dev) (hd : MemWf d) : MemWf (atomicUnit id d) := by
  unfold atomicUnit
  try dsimp only
  with_reducible repeat' (first | assumption | intro _ | apply atomApply_memWf | (refine atomApply_memWf_eq (by assumption) ?_) | apply finishReq_memWf | apply notePassed_memWf | apply MemWf.ite | apply MemWf.foldl | split)
theorem saveFrames_memWf (d : Dev) (k len : Nat) (hd : MemWf d) : MemWf (saveFrames d k len) := by
  unfold saveFrames
  refine MemWf.foldl hd ?_
  intro d e hd
  split
  · refine MemWf.ite ?_ hd
    split
    · rename_i h
      obtain ⟨j, _, hj⟩ := List.exists_of_findSome?_eq_some h
      split at hj
      · exact moveWhole_memWf hj hd
      · cases hj
    · exact updTract_memWf _ _ _ (qcLeave_memWf _ _ _ _ hd)
  · exact hd
theorem qcAbove_memWf (d : Dev) (k len : Nat) (hd : MemWf d) : MemWf (qcAbove d k len) := by
  unfold qcAbove
  try dsimp only
  with_reducible repeat' (first | assumption | intro _ | apply qcPut_memWf | apply MemWf.ite | apply MemWf.foldl | apply MemWf.foldl2 | apply MemWf.foldl1 | apply MemWf.foldl22 | split)
theorem dropAbove_memWf (d : Dev) (k len : Nat) (hd : MemWf d) : MemWf (dropAbove d k len) := dropAbove_wf d k len hd
theorem beginMapout_memWf (d : Dev) (k ch : Nat) (hd : MemWf d) : MemWf (beginMapout d k ch) := by
  unfold beginMapout
  try dsimp only
  with_reducible repeat' (first | assumption | intro _ | apply dropAbove_memWf | apply qcAbove_memWf | apply rset_memWf | apply rsetB_memWf | apply rsetF_memWf | apply saveFrames_memWf | apply updStk_memWf | apply MemWf.ite)
theorem setWaiting_memWf (d : Dev) (k : Nat) (w : List Nat) (hd : MemWf d) : MemWf (setWaiting d k w) := by
  unfold setWaiting
  try dsimp only
  with_reducible repeat' (first | assumption | intro _ | apply rsetF_memWf | apply updStk_memWf)
theorem mapOut_memWf (d : Dev) (k ch : Nat) (hd : MemWf d) : MemWf (mapOut d k ch) := by
  unfold mapOut
  try dsimp only
  with_reducible repeat' (first | assumption | intro _ | apply beginMapout_memWf | apply recordMapout_memWf | apply setWaiting_memWf | apply MemWf.ite)
theorem restripeChunk_memWf (k : Nat) (d : Dev) (hd : MemWf d) : MemWf (restripeChunk k d) := by
  unfold restripeChunk
  try dsimp only
  with_reducible repeat' (first | assumption | intro _ | apply countCE_memWf | apply rset_memWf | apply MemWf.ite | apply MemWf.foldl | apply MemWf.foldl2 | apply MemWf.foldl1 | apply MemWf.foldl22 | split | refine MemWf.mk (MemWf.out ?_))
theorem restripeComplete_memWf (k : Nat) (d : Dev) (hd : MemWf d) : MemWf (restripeComplete k d) := by
  unfold restripeComplete
  try dsimp only
  with_reducible repeat' (first | assumption | intro _ | apply beginMapout_memWf | apply rset_memWf | apply rsetB_memWf | apply rsetF_memWf | apply setWaiting_memWf | apply updStk_memWf | apply MemWf.ite | apply MemWf.foldl | split)
theorem patrolScrub_memWf (k : Nat) (d : Dev) (hd : MemWf d) : MemWf (patrolScrub k d) := by
  unfold patrolScrub
  try dsimp only
  with_reducible repeat' (first | assumption | intro _ | apply noteRead_memWf | apply updStk_memWf | apply MemWf.ite | apply MemWf.foldl | split | refine MemWf.mk (MemWf.out ?_))
theorem refreshSample_memWf (k temp : Nat) (counts : List Nat) (d : Dev) (hd : MemWf d) : MemWf (refreshSample k temp counts d) := by
  unfold refreshSample
  try dsimp only
  with_reducible repeat' (first | assumption | intro _ | apply countCE_memWf | apply rset_memWf | apply MemWf.ite | apply MemWf.foldl)
theorem srEnter_memWf (k : Nat) (d : Dev) (hd : MemWf d) : MemWf (srEnter k d) := by
  unfold srEnter
  try dsimp only
  with_reducible repeat' (first | assumption | intro _ | apply rsetB_memWf | apply updStk_memWf | apply MemWf.ite)
theorem srExit_memWf (k temp fail : Nat) (d : Dev) (hd : MemWf d) : MemWf (srExit k temp fail d) := by
  unfold srExit
  try dsimp only
  with_reducible repeat' (first | assumption | intro _ | apply mapOut_memWf | apply rsetB_memWf | apply rsetF_memWf | apply MemWf.ite | apply MemWf.foldl)

/-! ## TransCtl -/

theorem refreshBusy_memWf (d : Dev) (q : Nat) (hd : MemWf d) : MemWf (refreshBusy d q) := by
  unfold refreshBusy
  try dsimp only
  with_reducible repeat' (first | assumption | intro _ | apply rsetF_memWf)
theorem orphanWalk_memWf (d : Dev) (q i : Nat) (hd : MemWf d) : MemWf (orphanWalk d q i) := by
  unfold orphanWalk
  try dsimp only
  with_reducible repeat' (first | assumption | intro _ | apply MemWf.ite | apply MemWf.foldl | split | refine MemWf.mk (MemWf.out ?_))
theorem discardWalk_memWf (d : Dev) (q i : Nat) (hd : MemWf d) : MemWf (discardWalk d q i) := by
  unfold discardWalk
  try dsimp only
  with_reducible repeat' (first | assumption | intro _ | apply orphanWalk_memWf | apply refreshBusy_memWf | apply updQ_memWf | apply MemWf.ite | apply MemWf.foldl | split)
theorem dropTrans_memWf (d : Dev) (p : Tlb → Bool) (sp : Nat → Bool) (hd : MemWf d) : MemWf (dropTrans d p sp) := by
  unfold dropTrans
  try dsimp only
  with_reducible repeat' (first | assumption | intro _ | apply discardWalk_memWf | apply updCl_memWf | apply updQ_memWf | apply MemWf.ite | apply MemWf.foldl)
theorem invDone_memWf (d : Dev) (hd : MemWf d) : MemWf (invDone d) := by
  unfold invDone
  try dsimp only
  with_reducible repeat' (first | assumption | intro _ | apply rinc_memWf)
theorem trInv_memWf (op asid : Nat) (d : Dev) (hd : MemWf d) : MemWf (trInv op asid d) := by
  unfold trInv
  try dsimp only
  with_reducible repeat' (first | assumption | intro _ | apply dropTrans_memWf | apply invDone_memWf | apply rsetB_memWf | apply MemWf.ite | apply MemWf.foldl | split)
theorem wfdAt_memWf (o : Nat) (d : Dev) (w : Nat × Word × Word) (hd : MemWf d) : MemWf (wfdAt o d w) := by
  unfold wfdAt
  split
  · exact hd
  · extract_lets e
    have he : MemWf e := regWrite_memWf _ _ _ _ _ hd
    clear_value e
    split
    · exact dropTrans_memWf _ _ _ he
    · exact dropTrans_memWf _ _ _ he
theorem wfdOne_memWf (d : Dev) (w : Nat × Word × Word) (hd : MemWf d) : MemWf (wfdOne d w) := wfdAt_memWf _ _ _ hd
theorem wfdSettle_memWf (d : Dev) (hd : MemWf d) : MemWf (wfdSettle d) := by
  unfold wfdSettle
  try dsimp only
  with_reducible repeat' (first | assumption | intro _ | apply wfdOne_memWf | apply MemWf.ite | apply MemWf.foldl | apply MemWf.foldl2 | apply MemWf.foldl1 | apply MemWf.foldl22 | split | refine MemWf.mk (MemWf.out ?_))
theorem wfdWrite_memWf (d : Dev) (o : Nat) (mask v : Word) (hd : MemWf d) : MemWf (wfdWrite d o mask v) := by
  unfold wfdWrite
  try dsimp only
  with_reducible repeat' (first | assumption | intro _ | apply wfdSettle_memWf | apply MemWf.ite | apply MemWf.foldl | split | refine MemWf.mk (MemWf.out ?_))
theorem answerItems_memWf (d : Dev) (tag : Nat) (retry : Bool) (hd : MemWf d) : MemWf (answerItems d tag retry) := by
  unfold answerItems
  try dsimp only
  with_reducible repeat' (first | assumption | intro _ | apply setCopy_memWf | apply unparkCtx_memWf | apply unresolveCtx_memWf | apply MemWf.ite | apply MemWf.foldl | apply MemWf.foldl2 | apply MemWf.foldl1 | apply MemWf.foldl22 | split)
theorem answerRecord_memWf (d : Dev) (tag : Nat) (retry : Bool) (hd : MemWf d) : MemWf (answerRecord d tag retry) := by
  unfold answerRecord
  try dsimp only
  with_reducible repeat' (first | assumption | intro _ | apply answerItems_memWf | apply refreshOpen_memWf | apply updQ_memWf)
theorem trResume_memWf (tag action : Nat) (d : Dev) (hd : MemWf d) : MemWf (trResume tag action d) := by
  unfold trResume
  try dsimp only
  with_reducible repeat' (first | assumption | intro _ | apply answerRecord_memWf | apply rinc_memWf | apply MemWf.ite)
theorem answerAll_memWf (d : Dev) (hd : MemWf d) : MemWf (answerAll d) := by
  unfold answerAll
  try dsimp only
  with_reducible repeat' (first | assumption | intro _ | apply answerRecord_memWf | apply MemWf.ite | apply MemWf.foldl)

/-! ## Session -/

theorem updRing_memWf (d : Dev) (n : Nat) (f : Ring → Ring) (hd : MemWf d) : MemWf (updRing d n f) := by
  unfold updRing
  try dsimp only
  with_reducible repeat' (first | assumption | intro _ | apply MemWf.ite | apply MemWf.foldl | split | refine MemWf.mk (MemWf.out ?_))
theorem endSession_memWf (d : Dev) (reason : Option Nat) (hd : MemWf d) : MemWf (endSession d reason) := by
  unfold endSession
  try dsimp only
  with_reducible repeat' (first | assumption | intro _ | apply answerAll_memWf | apply finishReq_memWf | apply rset_memWf | apply sendUp_memWf | apply MemWf.ite | apply MemWf.foldl | apply MemWf.foldl2 | apply MemWf.foldl1 | apply MemWf.foldl22 | split | refine MemWf.mk (MemWf.out ?_))
theorem ringPtr_memWf (d : Dev) (n i v : Nat) (hd : MemWf d) : MemWf (ringPtr d n i v) := by
  unfold ringPtr
  try dsimp only
  with_reducible repeat' (first | assumption | intro _ | apply rsetB_memWf | apply rsetF_memWf | apply MemWf.ite)
theorem ringCtl_memWf (d : Dev) (n : Nat) (w : Word) (hd : MemWf d) : MemWf (ringCtl d n w) := by
  unfold ringCtl
  try dsimp only
  with_reducible repeat' (first | assumption | intro _ | apply rset_memWf)

/-! ## Sightline -/

theorem updPort_memWf (d : Dev) (p : Nat) (f : Port → Port) (hd : MemWf d) : MemWf (updPort d p f) := by
  unfold updPort
  try dsimp only
  with_reducible repeat' (first | assumption | intro _ | apply MemWf.ite | apply MemWf.foldl | split | refine MemWf.mk (MemWf.out ?_))
theorem setPortState_memWf (d : Dev) (p st : Nat) (hd : MemWf d) : MemWf (setPortState d p st) := by
  unfold setPortState
  try dsimp only
  with_reducible repeat' (first | assumption | intro _ | apply rsetF_memWf)
theorem oweCredits_memWf (d : Dev) (p : Nat) (m : Msg) (hd : MemWf d) : MemWf (oweCredits d p m) := by
  unfold oweCredits
  try dsimp only
  with_reducible repeat' (first | assumption | intro _ | apply updPort_memWf | apply MemWf.ite)
theorem setCredits_memWf (d : Dev) (p v c n : Nat) (hd : MemWf d) : MemWf (setCredits d p v c n) := by
  unfold setCredits
  try dsimp only
  with_reducible repeat' (first | assumption | intro _ | apply rsetF_memWf)
theorem sendFlit_memWf (d : Dev) (p : Nat) (content : List Byte) (idle : Bool) (hd : MemWf d) : MemWf (sendFlit d p content idle) := by
  unfold sendFlit
  try dsimp only
  with_reducible repeat' (first | assumption | intro _ | apply updPort_memWf)
theorem resend_memWf (d : Dev) (p : Nat) (hd : MemWf d) : MemWf (resend d p) := by
  unfold resend
  try dsimp only
  with_reducible repeat' (first | assumption | intro _ | apply fevent_memWf | apply rset_memWf | apply updPort_memWf)
theorem errorTo_memWf (d : Dev) (m : Msg) (status : Nat) (hd : MemWf d) : MemWf (errorTo d m status) := by
  unfold errorTo
  try dsimp only
  with_reducible repeat' (first | assumption | intro _ | apply reply_memWf)
theorem dropUnacked_memWf (d : Dev) (p : Nat) (hd : MemWf d) : MemWf (dropUnacked d p) := by
  unfold dropUnacked
  try dsimp only
  with_reducible repeat' (first | assumption | intro _ | apply errorTo_memWf | apply finishReq_memWf | apply MemWf.ite | apply MemWf.foldl | apply MemWf.foldl2 | apply MemWf.foldl1 | apply MemWf.foldl22 | split)
theorem linkDown_memWf (d : Dev) (p st : Nat) (hd : MemWf d) : MemWf (linkDown d p st) := by
  unfold linkDown
  try dsimp only
  with_reducible repeat' (first | assumption | intro _ | apply dropUnacked_memWf | apply endSession_memWf | apply rset_memWf | apply rsetB_memWf | apply send_memWf | apply setPortState_memWf | apply updPort_memWf | apply MemWf.ite | apply MemWf.foldl | apply MemWf.foldl2 | apply MemWf.foldl1 | apply MemWf.foldl22 | split | refine MemWf.mk (MemWf.out ?_))
theorem linkReset_memWf (p : Nat) (d : Dev) (hd : MemWf d) : MemWf (linkReset p d) := by
  unfold linkReset
  try dsimp only
  with_reducible repeat' (first | assumption | intro _ | apply linkDown_memWf | apply MemWf.ite)
theorem takeContent_memWf (d : Dev) (p : Nat) (content : List Byte) (hd : MemWf d) : MemWf (takeContent d p content) := by
  unfold takeContent
  try dsimp only
  with_reducible repeat' (first | assumption | intro _ | apply updPort_memWf | apply MemWf.ite | apply MemWf.foldl | split | refine MemWf.mk (MemWf.out ?_))
theorem flitReceive_memWf (p : Nat) (flit : List Byte) (d : Dev) (hd : MemWf d) : MemWf (flitReceive p flit d) := by
  unfold flitReceive
  try dsimp only
  with_reducible repeat' (first | assumption | intro _ | apply linkReset_memWf | apply resend_memWf | apply rset_memWf | apply setCredits_memWf | apply takeContent_memWf | apply updPort_memWf | apply MemWf.ite)
theorem retryTimeout_memWf (p : Nat) (d : Dev) (hd : MemWf d) : MemWf (retryTimeout p d) := by
  unfold retryTimeout
  try dsimp only
  with_reducible repeat' (first | assumption | intro _ | apply linkReset_memWf | apply resend_memWf | apply MemWf.ite)
theorem emit_memWf (d : Dev) (p v : Nat) (o : OutMsg) (hd : MemWf d) : MemWf (emit d p v o) := by
  unfold emit
  try dsimp only
  with_reducible repeat' (first | assumption | intro _ | apply oweCredits_memWf | apply rset_memWf | apply sendFlit_memWf | apply setCredits_memWf | apply updPort_memWf | apply MemWf.ite | apply MemWf.foldl | apply MemWf.foldl2 | apply MemWf.foldl1 | apply MemWf.foldl22 | split | refine MemWf.mk (MemWf.out ?_))
theorem showBuf_memWf (d : Dev) (hd : MemWf d) : MemWf (showBuf d) := by
  unfold showBuf
  try dsimp only
  with_reducible repeat' (first | assumption | intro _ | apply rset_memWf)
theorem reapBkts_memWf (d : Dev) (hd : MemWf d) : MemWf (reapBkts d) := by
  unfold reapBkts
  try dsimp only
  with_reducible repeat' (first | assumption | intro _ | apply showBuf_memWf | apply MemWf.ite | apply MemWf.foldl | split | refine MemWf.mk (MemWf.out ?_))
theorem messageStart_memWf (p : Nat) (d : Dev) (hd : MemWf d) : MemWf (messageStart p d) := by
  unfold messageStart
  try dsimp only
  with_reducible repeat' (first | assumption | intro _ | apply emit_memWf | apply reapBkts_memWf | apply sendFlit_memWf | apply MemWf.ite | apply MemWf.foldl | split)
theorem devCount_memWf (d : Dev) (f : Fld) (hd : MemWf d) : MemWf (devCount d f) := by
  unfold devCount
  try dsimp only
  with_reducible repeat' (first | assumption | intro _ | apply rincSat_memWf)
theorem messageForward_memWf (p : Nat) (d : Dev) (hd : MemWf d) : MemWf (messageForward p d) := by
  unfold messageForward
  try dsimp only
  with_reducible repeat' (first | assumption | intro _ | apply devCount_memWf | apply errorTo_memWf | apply oweCredits_memWf | apply MemWf.ite | apply MemWf.foldl | split | refine MemWf.mk (MemWf.out ?_))
theorem upwardRelay_memWf (d : Dev) (hd : MemWf d) : MemWf (upwardRelay d) := by
  unfold upwardRelay
  try dsimp only
  with_reducible repeat' (first | assumption | intro _ | apply MemWf.ite | apply MemWf.foldl | split | refine MemWf.mk (MemWf.out ?_))
theorem channelStuck_memWf (p v : Nat) (d : Dev) (hd : MemWf d) : MemWf (channelStuck p v d) := by
  unfold channelStuck
  try dsimp only
  with_reducible repeat' (first | assumption | intro _ | apply rsetB_memWf | apply MemWf.ite)
theorem trainingComplete_memWf (p farId farPort farRole : Nat) (d : Dev) (hd : MemWf d) : MemWf (trainingComplete p farId farPort farRole d) := by
  unfold trainingComplete
  try dsimp only
  with_reducible repeat' (first | assumption | intro _ | apply linkReset_memWf | apply rset_memWf | apply setCredits_memWf | apply setPortState_memWf | apply updDk_memWf | apply updPort_memWf | apply MemWf.ite | apply MemWf.foldl)
theorem trainingRetry_memWf (p : Nat) (d : Dev) (hd : MemWf d) : MemWf (trainingRetry p d) := by
  unfold trainingRetry
  try dsimp only
  with_reducible repeat' (first | assumption | intro _ | apply setPortState_memWf | apply MemWf.ite)
theorem measured_memWf (d : Dev) (o : Nat) (f : Fld) (hd : MemWf d) : MemWf (measured d o f) := by
  unfold measured
  try dsimp only
  with_reducible repeat' (first | assumption | intro _ | apply Dev_free_memWf | (refine Dev_free_memWf_eq (by assumption) ?_) | apply rsetF_memWf)
theorem setLit_memWf (d : Dev) (p : Nat) (b : Bool) (hd : MemWf d) : MemWf (setLit d p b) := by
  unfold setLit
  try dsimp only
  with_reducible repeat' (first | assumption | intro _ | apply measured_memWf | apply rsetB_memWf)
theorem seesLight_memWf (d : Dev) (p : Nat) (hd : MemWf d) : MemWf (seesLight d p) := by
  unfold seesLight
  try dsimp only
  with_reducible repeat' (first | assumption | intro _ | apply measured_memWf)
theorem noLight_memWf (d : Dev) (p : Nat) (hd : MemWf d) : MemWf (noLight d p) := by
  unfold noLight
  try dsimp only
  with_reducible repeat' (first | assumption | intro _ | apply rsetF_memWf)
theorem darken_memWf (d : Dev) (p st : Nat) (hd : MemWf d) : MemWf (darken d p st) := by
  unfold darken
  try dsimp only
  with_reducible repeat' (first | assumption | intro _ | apply linkDown_memWf | apply setLit_memWf | apply setPortState_memWf | apply MemWf.ite)
theorem startProbe_memWf (d : Dev) (p : Nat) (hd : MemWf d) : MemWf (startProbe d p) := by
  unfold startProbe
  try dsimp only
  with_reducible repeat' (first | assumption | intro _ | apply setPortState_memWf | apply updPort_memWf | apply MemWf.ite)
theorem openFibre_memWf (p : Nat) (d : Dev) (hd : MemWf d) : MemWf (openFibre p d) := by
  unfold openFibre
  try dsimp only
  with_reducible repeat' (first | assumption | intro _ | apply darken_memWf | apply noLight_memWf | apply rsetB_memWf | apply startProbe_memWf | apply MemWf.ite)
theorem connectorRemoved_memWf (d : Dev) (hd : MemWf d) : MemWf (connectorRemoved d) := by
  unfold connectorRemoved
  try dsimp only
  with_reducible repeat' (first | assumption | intro _ | apply darken_memWf | apply noLight_memWf | apply rsetB_memWf | apply updPort_memWf | apply MemWf.ite | apply MemWf.foldl | apply MemWf.foldl2 | apply MemWf.foldl1 | apply MemWf.foldl22 | split | refine MemWf.mk (MemWf.out ?_))
theorem connectorSeated_memWf (d : Dev) (hd : MemWf d) : MemWf (connectorSeated d) := by
  unfold connectorSeated
  try dsimp only
  with_reducible repeat' (first | assumption | intro _ | apply rsetB_memWf | apply startProbe_memWf | apply MemWf.ite | apply MemWf.foldl | apply MemWf.foldl2 | apply MemWf.foldl1 | apply MemWf.foldl22 | split | refine MemWf.mk (MemWf.out ?_))
theorem laserFault_memWf (p : Nat) (d : Dev) (hd : MemWf d) : MemWf (laserFault p d) := by
  unfold laserFault
  try dsimp only
  with_reducible repeat' (first | assumption | intro _ | apply darken_memWf | apply rsetB_memWf | apply updPort_memWf)
theorem setProbe_memWf (d : Dev) (p n : Nat) (hd : MemWf d) : MemWf (setProbe d p n) := by
  unfold setProbe
  try dsimp only
  with_reducible repeat' (first | assumption | intro _ | apply updPort_memWf)
theorem probeTimer_memWf (p : Nat) (d : Dev) (hd : MemWf d) : MemWf (probeTimer p d) := by
  unfold probeTimer
  try dsimp only
  with_reducible repeat' (first | assumption | intro _ | apply setLit_memWf | apply setProbe_memWf | apply MemWf.ite)
theorem probeSeen_memWf (p : Nat) (d : Dev) (hd : MemWf d) : MemWf (probeSeen p d) := by
  unfold probeSeen
  try dsimp only
  with_reducible repeat' (first | assumption | intro _ | apply seesLight_memWf | apply setLit_memWf | apply setProbe_memWf | apply MemWf.ite)
theorem probeEnd_memWf (p : Nat) (d : Dev) (hd : MemWf d) : MemWf (probeEnd p d) := by
  unfold probeEnd
  try dsimp only
  with_reducible repeat' (first | assumption | intro _ | apply setLit_memWf | apply setProbe_memWf | apply MemWf.ite)
theorem probeSteady_memWf (p : Nat) (d : Dev) (hd : MemWf d) : MemWf (probeSteady p d) := by
  unfold probeSteady
  try dsimp only
  with_reducible repeat' (first | assumption | intro _ | apply rsetB_memWf | apply setPortState_memWf | apply setProbe_memWf | apply MemWf.ite)
theorem probeLost_memWf (p : Nat) (d : Dev) (hd : MemWf d) : MemWf (probeLost p d) := by
  unfold probeLost
  try dsimp only
  with_reducible repeat' (first | assumption | intro _ | apply noLight_memWf | apply setLit_memWf | apply setProbe_memWf | apply MemWf.ite)

/-! ## Hub -/

theorem receiveAt_memWf (d : Dev) (ok : Msg → Bool) (hd : MemWf d) : MemWf (receiveAt d ok).2 := by
  unfold receiveAt
  try dsimp only
  with_reducible repeat' (first | assumption | intro _ | apply inject_memWf | apply mirror_memWf | apply oweCredits_memWf | apply MemWf.ite | apply MemWf.foldl | split | refine MemWf.mk (MemWf.out ?_))
theorem receiveAt_memWf_eq {d : Dev} {ok : Msg → Bool} {dd : Dev} {r1}  (h : receiveAt d ok = (r1, dd)) (hd : MemWf d) : MemWf dd := by
  have g := receiveAt_memWf d ok hd
  rw [h] at g
  exact g
theorem receive_memWf (d : Dev) (ok : Msg → Bool) (hd : MemWf d) : MemWf (receive d ok).2 := by
  unfold receive
  try dsimp only
  with_reducible repeat' (first | assumption | intro _ | apply receiveAt_memWf | (refine receiveAt_memWf_eq (by assumption) ?_) | apply MemWf.ite | apply MemWf.foldl | split)
theorem receive_memWf_eq {d : Dev} {ok : Msg → Bool} {dd : Dev} {r1}  (h : receive d ok = (r1, dd)) (hd : MemWf d) : MemWf dd := by
  have g := receive_memWf d ok hd
  rw [h] at g
  exact g
theorem hubRead_memWf (d : Dev) (a n : Nat) (hd : MemWf d) : MemWf (hubRead d a n).2 := by
  unfold hubRead
  refine MemWf.foldl2 hd ?_
  intro p x hp
  split
  · exact homeNote_memWf _ _ _ _ _ hp
  · exact hp
theorem hubRead_memWf_eq {d : Dev} {a n : Nat} {r : Option (List Byte)} {e : Dev} (h : hubRead d a n = (r, e)) (hd : MemWf d) : MemWf e := by
  have g := hubRead_memWf d a n hd
  rw [h] at g
  exact g
theorem hubWrite_memWf (d : Dev) (a : Nat) (bs : List Byte) (hd : MemWf d) : MemWf (hubWrite d a bs).2 := by
  unfold hubWrite
  try dsimp only
  with_reducible repeat' (first | assumption | intro _ | apply homeWrite_memWf | apply updTract_memWf | apply MemWf.ite | apply MemWf.foldl | apply MemWf.foldl2 | apply MemWf.foldl1 | apply MemWf.foldl22 | split)
theorem hubWrite_memWf_eq {d : Dev} {a : Nat} {bs : List Byte} {dd : Dev} {r1}  (h : hubWrite d a bs = (r1, dd)) (hd : MemWf d) : MemWf dd := by
  have g := hubWrite_memWf d a bs hd
  rw [h] at g
  exact g
theorem hubReq_memWf (d : Dev) (t : Target) (a n : Nat) (kind : ReqKind) (data : Nat) (hd : MemWf d) : MemWf (hubReq d t a n kind data).2 := by
  unfold hubReq
  try dsimp only
  with_reducible repeat' (first | assumption | intro _ | apply newReq_memWf)
theorem hubReq_memWf_eq {d : Dev} {t : Target} {a n : Nat} {kind : ReqKind} {data : Nat} {dd : Dev} {r1}  (h : hubReq d t a n kind data = (r1, dd)) (hd : MemWf d) : MemWf dd := by
  have g := hubReq_memWf d t a n kind data hd
  rw [h] at g
  exact g

/-! ## Reduction -/

theorem updRed_memWf (d : Dev) (r : Nat) (f : Red → Red) (hd : MemWf d) : MemWf (updRed d r f) := by
  unfold updRed
  try dsimp only
  with_reducible repeat' (first | assumption | intro _ | apply MemWf.ite | apply MemWf.foldl | split | refine MemWf.mk (MemWf.out ?_))
theorem rdSend_memWf (d : Dev) (r op dst slot chunk bucket : Nat) (data : List Byte) (hd : MemWf d) : MemWf (rdSend d r op dst slot chunk bucket data) := by
  unfold rdSend
  try dsimp only
  with_reducible repeat' (first | assumption | intro _ | apply send_memWf | apply MemWf.ite)
theorem rdCount_memWf (d : Dev) (f : Fld) (hd : MemWf d) : MemWf (rdCount d f) := by
  unfold rdCount
  try dsimp only
  with_reducible repeat' (first | assumption | intro _ | apply rincSat_memWf)
theorem putBkt_memWf (d : Dev) (x : Bkt) (hd : MemWf d) : MemWf (putBkt d x) := by
  unfold putBkt
  try dsimp only
  with_reducible repeat' (first | assumption | intro _ | apply MemWf.ite | apply MemWf.foldl | split | refine MemWf.mk (MemWf.out ?_))
theorem takeBkt_memWf {d : Dev} {r step b : Nat} {e : Dev} {a} (h : takeBkt d r step b = some (a, e)) (hd : MemWf d) : MemWf e := by
  unfold takeBkt at h
  try dsimp only at h
  repeat' split at h
  all_goals first | cases h; done | skip
  all_goals (cases h)
  all_goals (with_reducible repeat' (first | assumption | intro _ | apply reapBkts_memWf | apply showBuf_memWf | apply MemWf.ite | apply MemWf.foldl | (refine MemWf.mk ?_; refine MemWf.out ?_; first | assumption | intro _ | apply reapBkts_memWf | apply showBuf_memWf | apply MemWf.ite | apply MemWf.foldl) | split))
theorem rdFlags_memWf (d : Dev) (r fl : Nat) (hd : MemWf d) : MemWf (rdFlags d r fl) := by
  unfold rdFlags
  try dsimp only
  with_reducible repeat' (first | assumption | intro _ | apply rset_memWf)
theorem applyChunk_memWf (d : Dev) (x : Bkt) (slot chunk : Nat) (bs : List Byte) (hd : MemWf d) : MemWf (applyChunk d x slot chunk bs).2 := by
  unfold applyChunk
  try dsimp only
  with_reducible repeat' (first | assumption | intro _ | apply putBkt_memWf | apply rdCount_memWf | apply rdFlags_memWf | apply MemWf.ite | apply MemWf.foldl | apply MemWf.foldl2 | apply MemWf.foldl1 | apply MemWf.foldl22 | split)
theorem applyChunk_memWf_eq {d : Dev} {x : Bkt} {slot chunk : Nat} {bs : List Byte} {dd : Dev} {r1}  (h : applyChunk d x slot chunk bs = (r1, dd)) (hd : MemWf d) : MemWf dd := by
  have g := applyChunk_memWf d x slot chunk bs hd
  rw [h] at g
  exact g
theorem stepEnd_memWf (d : Dev) (r status : Nat) (hd : MemWf d) : MemWf (stepEnd d r status) := by
  unfold stepEnd
  try dsimp only
  with_reducible repeat' (first | assumption | intro _ | apply inject_memWf | apply rset_memWf | apply sendEvents_memWf | apply updRed_memWf | apply MemWf.ite)
theorem dropStep_memWf (d : Dev) (r step : Nat) (hd : MemWf d) : MemWf (dropStep d r step) := by
  unfold dropStep
  try dsimp only
  with_reducible repeat' (first | assumption | intro _ | apply rdCount_memWf | apply showBuf_memWf | apply MemWf.ite | apply MemWf.foldl | apply MemWf.foldl2 | apply MemWf.foldl1 | apply MemWf.foldl22 | split | refine MemWf.mk (MemWf.out ?_))
theorem muteStep_memWf (d : Dev) (r : Nat) (hd : MemWf d) : MemWf (muteStep d r) := by
  unfold muteStep
  try dsimp only
  with_reducible repeat' (first | assumption | intro _ | apply updRed_memWf)
theorem accessError_memWf (d : Dev) (r : Nat) (hd : MemWf d) : MemWf (accessError d r) := by
  unfold accessError
  try dsimp only
  with_reducible repeat' (first | assumption | intro _ | apply muteStep_memWf | apply stepEnd_memWf)
theorem applySteprep_memWf (d : Dev) (r : Nat) (hd : MemWf d) : MemWf (applySteprep d r) := by
  unfold applySteprep
  try dsimp only
  with_reducible repeat' (first | assumption | intro _ | apply dropStep_memWf | apply stepEnd_memWf | apply updRed_memWf)
theorem repeatStep_memWf (d : Dev) (r : Nat) (hd : MemWf d) : MemWf (repeatStep d r) := by
  unfold repeatStep
  try dsimp only
  with_reducible repeat' (first | assumption | intro _ | apply applySteprep_memWf | apply rdCount_memWf | apply rdSend_memWf | apply MemWf.ite | apply MemWf.foldl)
theorem writeResult_memWf (d : Dev) (r b chunk : Nat) (bs : List Byte) (hd : MemWf d) : MemWf (writeResult d r b chunk bs) := by
  unfold writeResult
  try dsimp only
  with_reducible repeat' (first | assumption | intro _ | apply accessError_memWf | apply hubWrite_memWf | (refine hubWrite_memWf_eq (by assumption) ?_) | apply inject_memWf | apply rinc_memWf | apply stepEnd_memWf | apply updRed_memWf | apply MemWf.ite)
theorem maybeComplete_memWf (d : Dev) (x : Bkt) (hd : MemWf d) : MemWf (maybeComplete d x) := by
  unfold maybeComplete
  try dsimp only
  with_reducible repeat' (first | assumption | intro _ | apply putBkt_memWf | apply rdSend_memWf | apply reapBkts_memWf | apply updRed_memWf | apply writeResult_memWf | apply MemWf.ite | apply MemWf.foldl)
theorem sendChunks_memWf (d : Dev) (r b : Nat) (cs : List Nat) (hd : MemWf d) : MemWf (sendChunks d r b cs) := by
  unfold sendChunks
  try dsimp only
  with_reducible repeat' (first | assumption | intro _ | apply accessError_memWf | apply hubRead_memWf | (refine hubRead_memWf_eq (by assumption) ?_) | apply rdSend_memWf | apply MemWf.ite | apply MemWf.foldl | apply MemWf.foldl2 | apply MemWf.foldl1 | apply MemWf.foldl22 | split)
theorem ownFull_memWf (d : Dev) (r b : Nat) (hd : MemWf d) : MemWf (ownFull d r b) := by
  unfold ownFull
  try dsimp only
  with_reducible repeat' (first | assumption | intro _ | (refine takeBkt_memWf (e := _) (by assumption) ?_) | apply updRed_memWf | apply MemWf.ite | apply MemWf.foldl | split)
theorem rdAdvance_memWf (d : Dev) (r : Nat) (hd : MemWf d) : MemWf (rdAdvance d r) := by
  unfold rdAdvance
  try dsimp only
  with_reducible repeat' (first | assumption | intro _ | apply ownFull_memWf | apply sendChunks_memWf | apply updRed_memWf | apply MemWf.ite | apply MemWf.foldl)
theorem rdStart_memWf (d : Dev) (r : Nat) (hd : MemWf d) : MemWf (rdStart d r) := by
  unfold rdStart
  try dsimp only
  with_reducible repeat' (first | assumption | intro _ | apply hubRead_memWf | (refine hubRead_memWf_eq (by assumption) ?_) | apply rset_memWf | apply rsetB_memWf | apply showBuf_memWf | apply stepEnd_memWf | apply updRed_memWf | apply MemWf.ite | apply MemWf.foldl | split | refine MemWf.mk (MemWf.out ?_))
theorem rdAbort_memWf (d : Dev) (r : Nat) (hd : MemWf d) : MemWf (rdAbort d r) := by
  unfold rdAbort
  try dsimp only
  with_reducible repeat' (first | assumption | intro _ | apply dropStep_memWf | apply muteStep_memWf | apply stepEnd_memWf | apply MemWf.ite)
theorem rdFill_memWf (d : Dev) (r add : Nat) (hd : MemWf d) : MemWf (rdFill d r add) := by
  unfold rdFill
  try dsimp only
  with_reducible repeat' (first | assumption | intro _ | apply rdAdvance_memWf | apply rsetF_memWf | apply MemWf.ite)
theorem rdWrite_memWf (d : Dev) (m : RegMap) (r o : Nat) (mask v : Word) (hd : MemWf d) : MemWf (rdWrite d m r o mask v) := by
  unfold rdWrite
  try dsimp only
  with_reducible repeat' (first | assumption | intro _ | apply rdAbort_memWf | apply rdFill_memWf | apply rdStart_memWf | apply regWrite_memWf | apply rset_memWf | apply MemWf.ite)
theorem staleMsg_memWf (d : Dev) (hd : MemWf d) : MemWf (staleMsg d) := by
  unfold staleMsg
  try dsimp only
  with_reducible repeat' (first | assumption | intro _ | apply rdCount_memWf)
theorem placeContrib_memWf {d : Dev} {m : Msg} {e : Dev}  (h : placeContrib d m = some e) (hd : MemWf d) : MemWf e := by
  unfold placeContrib at h
  try dsimp only at h
  repeat' split at h
  all_goals first | cases h; done | skip
  all_goals (cases h)
  all_goals (with_reducible repeat' (first | assumption | intro _ | apply applyChunk_memWf | (refine applyChunk_memWf_eq (by assumption) ?_) | apply maybeComplete_memWf | apply rdCount_memWf | apply staleMsg_memWf | (refine takeBkt_memWf (e := _) (by assumption) ?_) | apply MemWf.ite | apply MemWf.foldl | (refine MemWf.mk ?_; refine MemWf.out ?_; first | assumption | intro _ | apply applyChunk_memWf | (refine applyChunk_memWf_eq (by assumption) ?_) | apply maybeComplete_memWf | apply rdCount_memWf | apply staleMsg_memWf | (refine takeBkt_memWf (e := _) (by assumption) ?_) | apply MemWf.ite | apply MemWf.foldl) | split))
theorem takeContrib_memWf (d : Dev) (hd : MemWf d) : MemWf (takeContrib d) := by
  unfold takeContrib
  try dsimp only
  with_reducible repeat' (first | assumption | intro _ | (refine placeContrib_memWf (e := _) (by assumption) ?_) | apply receive_memWf | (refine receive_memWf_eq (by assumption) ?_) | apply showBuf_memWf | apply MemWf.ite | apply MemWf.foldl | split | refine MemWf.mk (MemWf.out ?_))
theorem contribPlace_memWf (r : Nat) (d : Dev) (hd : MemWf d) : MemWf (contribPlace r d) := by
  unfold contribPlace
  split
  · rename_i m _
    refine showBuf_memWf _ ?_
    cases h : placeContrib { d with store := d.store.erase m } m with
    | none => exact hd
    | some e => exact placeContrib_memWf h hd
  · exact hd
theorem ownJoin_memWf (r c : Nat) (x : Bkt) (g : Option (List Byte) × Dev) (hg : MemWf g.2) : MemWf (ownJoin r c x g).2 := by
  unfold ownJoin
  split
  · exact accessError_memWf _ _ hg
  · exact applyChunk_memWf _ _ _ _ _ hg
theorem ownChunk_memWf (r b : Nat) (a : Option Bkt × Dev) (c : Nat) (ha : MemWf a.2) : MemWf (ownChunk r b a c).2 := by
  unfold ownChunk
  split
  · exact ha
  · exact ownJoin_memWf _ _ _ _ (hubRead_memWf _ _ _ ha)
theorem ownEnd_memWf (p : Option Bkt × Dev) (hp : MemWf p.2) : MemWf (ownEnd p) := by
  unfold ownEnd
  try dsimp only
  with_reducible repeat' (first | assumption | intro _ | apply maybeComplete_memWf | apply MemWf.ite | apply MemWf.foldl | split)
theorem ownConverted_memWf (r : Nat) (d : Dev) (hd : MemWf d) : MemWf (ownConverted r d) := by
  unfold ownConverted
  try dsimp only
  with_reducible repeat' (first | assumption | intro _ | apply ownChunk_memWf | apply ownEnd_memWf | (refine takeBkt_memWf (e := _) (by assumption) ?_) | apply updRed_memWf | apply MemWf.ite | apply MemWf.foldl | apply MemWf.foldl2 | apply MemWf.foldl1 | apply MemWf.foldl22 | split)
theorem takeResult_memWf (d : Dev) (hd : MemWf d) : MemWf (takeResult d) := by
  unfold takeResult
  try dsimp only
  with_reducible repeat' (first | assumption | intro _ | apply receive_memWf | (refine receive_memWf_eq (by assumption) ?_) | apply staleMsg_memWf | apply writeResult_memWf | apply MemWf.ite | apply MemWf.foldl | split)
theorem takeRpull_memWf (d : Dev) (hd : MemWf d) : MemWf (takeRpull d) := by
  unfold takeRpull
  try dsimp only
  with_reducible repeat' (first | assumption | intro _ | apply rdAdvance_memWf | apply receive_memWf | (refine receive_memWf_eq (by assumption) ?_) | apply staleMsg_memWf | apply updRed_memWf | apply MemWf.ite | apply MemWf.foldl | split)
theorem takeSteprep_memWf (d : Dev) (hd : MemWf d) : MemWf (takeSteprep d) := by
  unfold takeSteprep
  try dsimp only
  with_reducible repeat' (first | assumption | intro _ | apply applySteprep_memWf | apply receive_memWf | (refine receive_memWf_eq (by assumption) ?_) | apply staleMsg_memWf | apply stepEnd_memWf | apply MemWf.ite | apply MemWf.foldl | split)
theorem bucketDeadline_memWf (r b : Nat) (d : Dev) (hd : MemWf d) : MemWf (bucketDeadline r b d) := by
  unfold bucketDeadline
  try dsimp only
  with_reducible repeat' (first | assumption | intro _ | apply putBkt_memWf | apply rdCount_memWf | apply rdSend_memWf | apply repeatStep_memWf | apply MemWf.ite | apply MemWf.foldl | apply MemWf.foldl2 | apply MemWf.foldl1 | apply MemWf.foldl22 | split)
theorem resultDeadline_memWf (r : Nat) (d : Dev) (hd : MemWf d) : MemWf (resultDeadline r d) := by
  unfold resultDeadline
  try dsimp only
  with_reducible repeat' (first | assumption | intro _ | apply stepEnd_memWf | apply MemWf.ite)

/-! ## Pair -/

theorem updLv_memWf (d : Dev) (f : Lv → Lv) (hd : MemWf d) : MemWf (updLv d f) := by
  unfold updLv
  try dsimp only
  with_reducible repeat' (first | assumption | intro _ | apply MemWf.ite | apply MemWf.foldl | split | refine MemWf.mk (MemWf.out ?_))
theorem setLv_memWf (d : Dev) (st : Nat) (hd : MemWf d) : MemWf (setLv d st) := by
  unfold setLv
  try dsimp only
  with_reducible repeat' (first | assumption | intro _ | apply rsetF_memWf)
theorem setFace_memWf (d : Dev) (b : Bool) (hd : MemWf d) : MemWf (setFace d b) := by
  unfold setFace
  try dsimp only
  with_reducible repeat' (first | assumption | intro _ | apply rsetB_memWf)
theorem stopAll_memWf (d : Dev) (hd : MemWf d) : MemWf (stopAll d) := by
  unfold stopAll
  try dsimp only
  with_reducible repeat' (first | assumption | intro _ | apply stopMask_memWf | apply MemWf.ite | apply MemWf.foldl)
theorem fallOut_memWf (d : Dev) (reason : Nat) (hd : MemWf d) : MemWf (fallOut d reason) := by
  unfold fallOut
  try dsimp only
  with_reducible repeat' (first | assumption | intro _ | apply sendTwin_memWf | apply setFace_memWf | apply setLv_memWf | apply stopAll_memWf | apply updLv_memWf | apply MemWf.ite)
theorem twinFallOut_memWf (d : Dev) (hd : MemWf d) : MemWf (twinFallOut d) := by
  unfold twinFallOut
  try dsimp only
  with_reducible repeat' (first | assumption | intro _ | apply fallOut_memWf | apply updLv_memWf | apply MemWf.ite | apply MemWf.foldl | split)
theorem lvCause_memWf (d : Dev) (reason : Nat) (hd : MemWf d) : MemWf (lvCause d reason) := by
  unfold lvCause
  try dsimp only
  with_reducible repeat' (first | assumption | intro _ | apply updLv_memWf | apply MemWf.ite)
theorem queueWrite_memWf (d : Dev) (n slot : Nat) (bs : List Byte) (hd : MemWf d) : MemWf (queueWrite d n slot bs).2 := by
  unfold queueWrite
  try dsimp only
  with_reducible repeat' (first | assumption | intro _ | apply hubReq_memWf | (refine hubReq_memWf_eq (by assumption) ?_) | apply hubWrite_memWf | (refine hubWrite_memWf_eq (by assumption) ?_) | apply MemWf.ite | apply MemWf.foldl | split)
theorem queueWrite_memWf_eq {d : Dev} {n slot : Nat} {bs : List Byte} {dd : Dev} {r1}  (h : queueWrite d n slot bs = (r1, dd)) (hd : MemWf d) : MemWf dd := by
  have g := queueWrite_memWf d n slot bs hd
  rw [h] at g
  exact g
theorem enterAlone_memWf (d : Dev) (hd : MemWf d) : MemWf (enterAlone d) := by
  unfold enterAlone
  try dsimp only
  with_reducible repeat' (first | assumption | intro _ | apply applySteprep_memWf | apply queueWrite_memWf | (refine queueWrite_memWf_eq (by assumption) ?_) | apply rincSat_memWf | apply send_memWf | apply sendLog_memWf | apply setFace_memWf | apply setLv_memWf | apply updLv_memWf | apply MemWf.ite | apply MemWf.foldl)
theorem suspect_memWf (d : Dev) (hd : MemWf d) : MemWf (suspect d) := by
  unfold suspect
  try dsimp only
  with_reducible repeat' (first | assumption | intro _ | apply inject_memWf | apply updLv_memWf | apply MemWf.ite | apply MemWf.foldl | split)
theorem twinSilence_memWf (d : Dev) (hd : MemWf d) : MemWf (twinSilence d) := by
  unfold twinSilence
  try dsimp only
  with_reducible repeat' (first | assumption | intro _ | apply suspect_memWf | apply MemWf.ite)
theorem formingTimeout_memWf (d : Dev) (hd : MemWf d) : MemWf (formingTimeout d) := by
  unfold formingTimeout
  try dsimp only
  with_reducible repeat' (first | assumption | intro _ | apply suspect_memWf | apply MemWf.ite)
theorem split_memWf (d : Dev) (hd : MemWf d) : MemWf (split d) := by
  unfold split
  try dsimp only
  with_reducible repeat' (first | assumption | intro _ | apply enterAlone_memWf | apply fallOut_memWf | apply setLv_memWf | apply updLv_memWf | apply MemWf.ite)
theorem probeAnswer_memWf (d : Dev) (w : Option Nat) (hd : MemWf d) : MemWf (probeAnswer d w) := by
  unfold probeAnswer
  try dsimp only
  with_reducible repeat' (first | assumption | intro _ | apply enterAlone_memWf | apply split_memWf | apply MemWf.ite | apply MemWf.foldl | split)
theorem probeDeadline_memWf (d : Dev) (hd : MemWf d) : MemWf (probeDeadline d) := by
  unfold probeDeadline
  try dsimp only
  with_reducible repeat' (first | assumption | intro _ | apply enterAlone_memWf | apply split_memWf | apply MemWf.ite | apply MemWf.foldl | split)
theorem sendHello_memWf (d : Dev) (hd : MemWf d) : MemWf (sendHello d) := by
  unfold sendHello
  try dsimp only
  with_reducible repeat' (first | assumption | intro _ | apply sendTwin_memWf)
theorem helloTimer_memWf (d : Dev) (hd : MemWf d) : MemWf (helloTimer d) := by
  unfold helloTimer
  try dsimp only
  with_reducible repeat' (first | assumption | intro _ | apply sendHello_memWf | apply MemWf.ite)
theorem sendSeeds_memWf (d : Dev) (hd : MemWf d) : MemWf (sendSeeds d) := by
  unfold sendSeeds
  try dsimp only
  with_reducible repeat' (first | assumption | intro _ | apply Dev_free_memWf | (refine Dev_free_memWf_eq (by assumption) ?_) | apply rset_memWf | apply sendTwin_memWf | apply MemWf.ite | apply MemWf.foldl)
theorem helloTaken_memWf (d : Dev) (m : Msg) (hd : MemWf d) : MemWf (helloTaken d m) := by
  unfold helloTaken
  try dsimp only
  with_reducible repeat' (first | assumption | intro _ | apply sendHello_memWf | apply sendSeeds_memWf | apply setFace_memWf | apply setLv_memWf | apply updLv_memWf | apply MemWf.ite)
theorem beatTimer_memWf (d : Dev) (hd : MemWf d) : MemWf (beatTimer d) := by
  unfold beatTimer
  try dsimp only
  with_reducible repeat' (first | assumption | intro _ | apply sendTwin_memWf | apply updLv_memWf | apply MemWf.ite)
theorem digEnds_memWf (d : Dev) (res : Nat) (hd : MemWf d) : MemWf (digEnds d res) := by
  unfold digEnds
  try dsimp only
  with_reducible repeat' (first | assumption | intro _ | apply rset_memWf | apply updLv_memWf)
theorem digCompare_memWf (d : Dev) (hd : MemWf d) : MemWf (digCompare d) := by
  unfold digCompare
  try dsimp only
  with_reducible repeat' (first | assumption | intro _ | apply digEnds_memWf | apply rincSat_memWf | apply sendLog_memWf | apply updLv_memWf | apply MemWf.ite | apply MemWf.foldl | split)
theorem digBytes_memWf (d : Dev) (a : Nat) (hd : MemWf d) : MemWf (digBytes d a).2 := by
  unfold digBytes
  try dsimp only
  with_reducible repeat' (first | assumption | intro _ | apply homeNote_memWf | apply MemWf.ite | apply MemWf.foldl | apply MemWf.foldl2 | apply MemWf.foldl1 | apply MemWf.foldl22 | split)
theorem digestOf_memWf (d : Dev) (a n : Nat) (hd : MemWf d) : MemWf (digestOf d a n).2 := by
  unfold digestOf
  try dsimp only
  with_reducible repeat' (first | assumption | intro _ | apply digBytes_memWf | apply MemWf.ite | apply MemWf.foldl | apply MemWf.foldl2 | apply MemWf.foldl1 | apply MemWf.foldl22 | split)
theorem digestOf_memWf_eq {d : Dev} {a n : Nat} {dd : Dev} {r1}  (h : digestOf d a n = (r1, dd)) (hd : MemWf d) : MemWf dd := by
  have g := digestOf_memWf d a n hd
  rw [h] at g
  exact g
theorem digestGo_memWf (d : Dev) (hd : MemWf d) : MemWf (digestGo d) := by
  unfold digestGo
  try dsimp only
  with_reducible repeat' (first | assumption | intro _ | apply digCompare_memWf | apply digEnds_memWf | apply digestOf_memWf | (refine digestOf_memWf_eq (by assumption) ?_) | apply rset_memWf | apply rsetB_memWf | apply sendTwin_memWf | apply updLv_memWf | apply MemWf.ite)
theorem digestTimeout_memWf (d : Dev) (hd : MemWf d) : MemWf (digestTimeout d) := by
  unfold digestTimeout
  try dsimp only
  with_reducible repeat' (first | assumption | intro _ | apply digEnds_memWf | apply MemWf.ite)
theorem rejoinGo_memWf (d : Dev) (hd : MemWf d) : MemWf (rejoinGo d) := by
  unfold rejoinGo
  try dsimp only
  with_reducible repeat' (first | assumption | intro _ | apply rsetB_memWf | apply updLv_memWf | apply MemWf.ite)

/-! ## Plat -/

theorem platResult_memWf (d : Dev) (r : Nat × Nat) (hd : MemWf d) : MemWf (platResult d r) := by
  unfold platResult
  try dsimp only
  with_reducible repeat' (first | assumption | intro _ | apply rset_memWf)
theorem loadWindows_memWf (d : Dev) (win : List Byte) (hd : MemWf d) : MemWf (loadWindows d win) := by
  unfold loadWindows
  try dsimp only
  with_reducible repeat' (first | assumption | intro _ | apply rset_memWf | apply MemWf.ite | apply MemWf.foldl)
theorem loadThresh_memWf (d : Dev) (s : List Byte) (hd : MemWf d) : MemWf (loadThresh d s) := by
  unfold loadThresh
  try dsimp only
  with_reducible repeat' (first | assumption | intro _ | apply rset_memWf | apply MemWf.ite | apply MemWf.foldl)
theorem platLoad_memWf (d : Dev) (b : List Byte) (hd : MemWf d) : MemWf (platLoad d b) := by
  unfold platLoad
  try dsimp only
  with_reducible repeat' (first | assumption | intro _ | apply loadThresh_memWf | apply loadWindows_memWf | apply rset_memWf | apply rsetF_memWf | apply updLv_memWf | apply MemWf.ite | apply MemWf.foldl | apply MemWf.foldl2 | apply MemWf.foldl1 | apply MemWf.foldl22 | split | refine MemWf.mk (MemWf.out ?_))

/-! ## Power -/

theorem setWay_memWf (d : Dev) (q w : Nat) (f : Fld) (b : Bool) (hd : MemWf d) : MemWf (setWay d q w f b) := by
  unfold setWay
  try dsimp only
  with_reducible repeat' (first | assumption | intro _ | apply rsetF_memWf)
theorem wayDown_memWf (q w : Nat) (d : Dev) (hd : MemWf d) : MemWf (wayDown q w d) := by
  unfold wayDown
  try dsimp only
  with_reducible repeat' (first | assumption | intro _ | apply setWay_memWf | apply MemWf.ite)
theorem drainWay_memWf (d : Dev) (q w : Nat) (hd : MemWf d) : MemWf (drainWay d q w) := by
  unfold drainWay
  try dsimp only
  with_reducible repeat' (first | assumption | intro _ | apply qcCleanLine_memWf | apply qcPut_memWf | apply MemWf.ite | apply MemWf.foldl)
theorem wayDrained_memWf (q w : Nat) (d : Dev) (hd : MemWf d) : MemWf (wayDrained q w d) := by
  unfold wayDrained
  try dsimp only
  with_reducible repeat' (first | assumption | intro _ | apply domSet_memWf | apply drainWay_memWf | apply setWay_memWf | apply updQ_memWf | apply MemWf.ite)
theorem wayUp_memWf (q w : Nat) (d : Dev) (hd : MemWf d) : MemWf (wayUp q w d) := by
  unfold wayUp
  try dsimp only
  with_reducible repeat' (first | assumption | intro _ | apply domSet_memWf | apply setWay_memWf | apply updQ_memWf | apply MemWf.ite)
theorem dropWaiters_memWf (d : Dev) (l : Nat) (hd : MemWf d) : MemWf (dropWaiters d l) := by
  unfold dropWaiters
  try dsimp only
  with_reducible repeat' (first | assumption | intro _ | apply updQ_memWf | apply MemWf.ite | apply MemWf.foldl)
theorem leaveAll_memWf (d : Dev) (l : Nat) (hd : MemWf d) : MemWf (leaveAll d l) := by
  unfold leaveAll
  try dsimp only
  with_reducible repeat' (first | assumption | intro _ | apply dropWaiters_memWf | apply leaveRecord_memWf | apply MemWf.ite | apply MemWf.foldl)
theorem orphanCluster_memWf (d : Dev) (l : Nat) (hd : MemWf d) : MemWf (orphanCluster d l) := by
  unfold orphanCluster
  try dsimp only
  with_reducible repeat' (first | assumption | intro _ | apply MemWf.ite | apply MemWf.foldl | split | refine MemWf.mk (MemWf.out ?_))
theorem clusterFresh_memWf (d : Dev) (l : Nat) (keepTally : Bool) (hd : MemWf d) : MemWf (clusterFresh d l keepTally) := by
  unfold clusterFresh
  try dsimp only
  with_reducible repeat' (first | assumption | intro _ | apply Dev_free_memWf | (refine Dev_free_memWf_eq (by assumption) ?_) | apply rreset_memWf | apply rset_memWf | apply rsetF_memWf | apply setCl_memWf)
theorem clusterReset_memWf (d : Dev) (l : Nat) (hd : MemWf d) : MemWf (clusterReset d l) := by
  unfold clusterReset
  try dsimp only
  with_reducible repeat' (first | assumption | intro _ | apply ccCleanLine_memWf | apply clusterFresh_memWf | apply leaveAll_memWf | apply lvCause_memWf | apply orphanCluster_memWf | apply updCl_memWf | apply MemWf.ite | apply MemWf.foldl | apply MemWf.foldl2 | apply MemWf.foldl1 | apply MemWf.foldl22 | split | refine MemWf.mk (MemWf.out ?_))
theorem clusterResetComplete_memWf (l : Nat) (d : Dev) (hd : MemWf d) : MemWf (clusterResetComplete l d) := by
  unfold clusterResetComplete
  try dsimp only
  with_reducible repeat' (first | assumption | intro _ | apply updCl_memWf | apply MemWf.ite)
theorem clusterSleep_memWf (d : Dev) (l : Nat) (hd : MemWf d) : MemWf (clusterSleep d l) := by
  unfold clusterSleep
  try dsimp only
  with_reducible repeat' (first | assumption | intro _ | apply ccCleanLine_memWf | apply clusterFresh_memWf | apply orphanCluster_memWf | apply updCl_memWf | apply MemWf.ite | apply MemWf.foldl)
theorem giveHeld_memWf (d : Dev) (l : Nat) (hd : MemWf d) : MemWf (giveHeld d l) := by
  unfold giveHeld
  try dsimp only
  with_reducible repeat' (first | assumption | intro _ | apply rset_memWf | apply updCl_memWf)
theorem quarterWake_memWf (d : Dev) (q : Nat) (hd : MemWf d) : MemWf (quarterWake d q) := by
  unfold quarterWake
  try dsimp only
  with_reducible repeat' (first | assumption | intro _ | apply rsetB_memWf | apply updQ_memWf | apply MemWf.ite)
theorem domUp_memWf (d : Dev) (n : Nat) (hd : MemWf d) : MemWf (domUp d n) := by
  unfold domUp
  try dsimp only
  with_reducible repeat' (first | assumption | intro _ | apply domSet_memWf | apply giveHeld_memWf | apply quarterWake_memWf | apply updCl_memWf | apply wayUp_memWf | apply MemWf.ite | apply MemWf.foldl | split)
theorem domDown_memWf (d : Dev) (n : Nat) (hd : MemWf d) : MemWf (domDown d n) := by
  unfold domDown
  try dsimp only
  with_reducible repeat' (first | assumption | intro _ | apply clusterSleep_memWf | apply domSet_memWf | apply wayDown_memWf | apply MemWf.ite | apply MemWf.foldl | split)
theorem pwrEnds_memWf (d : Dev) (res : Nat) (hd : MemWf d) : MemWf (pwrEnds d res) := by
  unfold pwrEnds
  try dsimp only
  with_reducible repeat' (first | assumption | intro _ | apply rset_memWf | apply MemWf.ite | apply MemWf.foldl | split | refine MemWf.mk (MemWf.out ?_))
theorem groupUp_memWf (d : Dev) (hd : MemWf d) : MemWf (groupUp d) := by
  unfold groupUp
  try dsimp only
  with_reducible repeat' (first | assumption | intro _ | apply domUp_memWf | apply pwrEnds_memWf | apply MemWf.ite | apply MemWf.foldl | apply MemWf.foldl2 | apply MemWf.foldl1 | apply MemWf.foldl22 | split)
theorem groupDown_memWf (d : Dev) (hd : MemWf d) : MemWf (groupDown d) := by
  unfold groupDown
  try dsimp only
  with_reducible repeat' (first | assumption | intro _ | apply domDown_memWf | apply pwrEnds_memWf | apply MemWf.ite | apply MemWf.foldl | apply MemWf.foldl2 | apply MemWf.foldl1 | apply MemWf.foldl22 | split)
theorem idleDown_memWf (g : Nat) (d : Dev) (hd : MemWf d) : MemWf (idleDown g d) := by
  unfold idleDown
  try dsimp only
  with_reducible repeat' (first | assumption | intro _ | apply domDown_memWf | apply MemWf.ite | apply MemWf.foldl)
theorem clusterWake_memWf (l : Nat) (d : Dev) (hd : MemWf d) : MemWf (clusterWake l d) := by
  unfold clusterWake
  try dsimp only
  with_reducible repeat' (first | assumption | intro _ | apply domUp_memWf | apply MemWf.ite | apply MemWf.foldl | split)
theorem vTarget_memWf (d : Dev) (q : Nat) (hd : MemWf d) : MemWf (vTarget d q) := by
  unfold vTarget
  try dsimp only
  with_reducible repeat' (first | assumption | intro _ | apply rsetF_memWf)
theorem quarterSleep_memWf (q : Nat) (d : Dev) (hd : MemWf d) : MemWf (quarterSleep q d) := by
  unfold quarterSleep
  try dsimp only
  with_reducible repeat' (first | assumption | intro _ | apply vTarget_memWf | apply rsetF_memWf | apply updQ_memWf | apply MemWf.ite)
theorem budgetTick_memWf (other : Nat) (dem : List Nat) (d : Dev) (hd : MemWf d) : MemWf (budgetTick other dem d) := by
  unfold budgetTick
  try dsimp only
  with_reducible repeat' (first | assumption | intro _ | apply rsetF_memWf | apply vTarget_memWf | apply MemWf.ite | apply MemWf.foldl)
theorem qvidStep_memWf (q : Nat) (d : Dev) (hd : MemWf d) : MemWf (qvidStep q d) := by
  unfold qvidStep
  try dsimp only
  with_reducible repeat' (first | assumption | intro _ | apply MemWf.ite | apply MemWf.foldl | split | refine MemWf.mk (MemWf.out ?_))
theorem setCeil_memWf (d : Dev) (q v : Nat) (hd : MemWf d) : MemWf (setCeil d q v) := by
  unfold setCeil
  try dsimp only
  with_reducible repeat' (first | assumption | intro _ | apply rsetF_memWf | apply vTarget_memWf)
theorem ceilingCheck_memWf (pkg other : Nat) (tj : List Nat) (d : Dev) (hd : MemWf d) : MemWf (ceilingCheck pkg other tj d) := by
  unfold ceilingCheck
  try dsimp only
  with_reducible repeat' (first | assumption | intro _ | apply rset_memWf | apply rsetB_memWf | apply setCeil_memWf | apply MemWf.ite | apply MemWf.foldl | apply MemWf.foldl2 | apply MemWf.foldl1 | apply MemWf.foldl22 | split | refine MemWf.mk (MemWf.out ?_))
theorem throttleStep_memWf (d : Dev) (hd : MemWf d) : MemWf (throttleStep d) := by
  unfold throttleStep
  try dsimp only
  with_reducible repeat' (first | assumption | intro _ | apply rsetF_memWf | apply MemWf.ite | apply MemWf.foldl | split | refine MemWf.mk (MemWf.out ?_))
theorem standby_memWf (d : Dev) (hd : MemWf d) : MemWf (standby d) := by
  unfold standby
  try dsimp only
  with_reducible repeat' (first | assumption | intro _ | apply darken_memWf | apply domDown_memWf | apply ledgerAsk_memWf | apply ledgerWrite_memWf | apply updQ_memWf | apply pwrEnds_memWf | apply rsetF_memWf | apply srEnter_memWf | apply updPort_memWf | apply wayDown_memWf | apply wayDrained_memWf | apply MemWf.ite | apply MemWf.foldl | apply MemWf.foldl2 | apply MemWf.foldl1 | apply MemWf.foldl22 | split | refine MemWf.mk (MemWf.out ?_))

/-! ## Reset -/

theorem reportThird_memWf (d : Dev) (l c : Nat) (c0 c1 c2 : Nat) (hd : MemWf d) : MemWf (reportThird d l c c0 c1 c2) := by
  unfold reportThird
  try dsimp only
  with_reducible repeat' (first | assumption | intro _ | apply ledgerAsk_memWf | apply ledgerEvent_memWf | apply lvCause_memWf | apply sendLog_memWf | apply MemWf.ite)
theorem quarterReset_memWf (q : Nat) (d : Dev) (hd : MemWf d) : MemWf (quarterReset q d) := by
  unfold quarterReset
  try dsimp only
  with_reducible repeat' (first | assumption | intro _ | apply clusterFresh_memWf | apply finishReq_memWf | apply leaveAll_memWf | apply lvCause_memWf | apply orphanCluster_memWf | apply refreshBusy_memWf | apply refreshOpen_memWf | apply rincSat_memWf | apply updCl_memWf | apply updQ_memWf | apply MemWf.ite | apply MemWf.foldl | apply MemWf.foldl2 | apply MemWf.foldl1 | apply MemWf.foldl22 | split | refine MemWf.mk (MemWf.out ?_))
theorem quarterRelease_memWf (q : Nat) (d : Dev) (hd : MemWf d) : MemWf (quarterRelease q d) := by
  unfold quarterRelease
  try dsimp only
  with_reducible repeat' (first | assumption | intro _ | apply giveHeld_memWf | apply updCl_memWf | apply updQ_memWf | apply MemWf.ite | apply MemWf.foldl)
theorem vcoreLow_memWf (q mv : Nat) (d : Dev) (hd : MemWf d) : MemWf (vcoreLow q mv d) := by
  unfold vcoreLow
  try dsimp only
  with_reducible repeat' (first | assumption | intro _ | apply quarterReset_memWf | apply updQ_memWf | apply MemWf.ite)
theorem vcoreOk_memWf (q mv : Nat) (d : Dev) (hd : MemWf d) : MemWf (vcoreOk q mv d) := by
  unfold vcoreOk
  try dsimp only
  with_reducible repeat' (first | assumption | intro _ | apply quarterRelease_memWf | apply updQ_memWf | apply MemWf.ite)
theorem sayLeave_memWf (d : Dev) (hd : MemWf d) : MemWf (sayLeave d) := by
  unfold sayLeave
  try dsimp only
  with_reducible repeat' (first | assumption | intro _ | apply emit_memWf | apply MemWf.ite)
theorem scopeReset_memWf (d : Dev) (cause : Nat) (laserFault clockLost : Bool) (hd : MemWf d) :
    MemWf (scopeReset d cause laserFault clockLost) := by
  unfold scopeReset
  have g : Memory.wf (keptMem (sayLeave d) clockLost).1 = true := keptMem_wf _ _ (sayLeave_memWf _ hd)
  refine MemWf.ite (MemWf.foldl ?_ ?_) ?_
  · exact g
  · intro x p hx
    exact MemWf.ite (setPortState_memWf _ _ _ (rsetB_memWf _ _ _ _ hx)) hx
  · exact g
theorem deviceReset_memWf (d : Dev) (cause : Nat) (hd : MemWf d) : MemWf (deviceReset d cause) := by
  unfold deviceReset
  try dsimp only
  with_reducible repeat' (first | assumption | intro _ | apply scopeReset_memWf)
theorem pinReset_memWf (d : Dev) (hd : MemWf d) : MemWf (pinReset d) := by
  unfold pinReset
  try dsimp only
  with_reducible repeat' (first | assumption | intro _ | apply scopeReset_memWf)
theorem powerOnReset_memWf (d : Dev) (hd : MemWf d) : MemWf (powerOnReset d) := by
  unfold powerOnReset
  try dsimp only
  with_reducible repeat' (first | assumption | intro _ | apply Dev_free_memWf | (refine Dev_free_memWf_eq (by assumption) ?_) | apply Dev_reset_memWf | apply MemWf.ite | apply MemWf.foldl | split | refine MemWf.mk (MemWf.out ?_))
theorem clockLoss_memWf (d : Dev) (hd : MemWf d) : MemWf (clockLoss d) := by
  unfold clockLoss
  try dsimp only
  with_reducible repeat' (first | assumption | intro _ | apply rsetB_memWf | apply scopeReset_memWf | apply MemWf.ite | apply MemWf.foldl | split | refine MemWf.mk (MemWf.out ?_))
theorem clockBack_memWf (d : Dev) (hd : MemWf d) : MemWf (clockBack d) := by
  unfold clockBack
  try dsimp only
  with_reducible repeat' (first | assumption | intro _ | apply rsetB_memWf | apply MemWf.ite | apply MemWf.foldl | split | refine MemWf.mk (MemWf.out ?_))
theorem thermalTrip_memWf (d : Dev) (hd : MemWf d) : MemWf (thermalTrip d) := by
  unfold thermalTrip
  try dsimp only
  with_reducible repeat' (first | assumption | intro _ | apply deviceReset_memWf | apply MemWf.ite | apply MemWf.foldl | split | refine MemWf.mk (MemWf.out ?_))
theorem thermalClear_memWf (d : Dev) (hd : MemWf d) : MemWf (thermalClear d) := by
  unfold thermalClear
  try dsimp only
  with_reducible repeat' (first | assumption | intro _ | apply MemWf.ite | apply MemWf.foldl | split | refine MemWf.mk (MemWf.out ?_))
theorem rateUpdate_memWf (q rate mv tj : Nat) (d : Dev) (hd : MemWf d) : MemWf (rateUpdate q rate mv tj d) := by
  unfold rateUpdate
  try dsimp only
  with_reducible repeat' (first | assumption | intro _ | apply rset_memWf | apply MemWf.ite)

/-! ## Boot -/

theorem setStage_memWf (d : Dev) (n : Nat) (hd : MemWf d) : MemWf (setStage d n) := by
  unfold setStage
  try dsimp only
  with_reducible repeat' (first | assumption | intro _ | apply rsetF_memWf)
theorem fwEnds_memWf (d : Dev) (res : Nat) (hd : MemWf d) : MemWf (fwEnds d res) := by
  unfold fwEnds
  try dsimp only
  with_reducible repeat' (first | assumption | intro _ | apply rset_memWf | apply MemWf.ite | apply MemWf.foldl | split | refine MemWf.mk (MemWf.out ?_))
theorem fwOp_memWf (d : Dev) (op : Nat) (go : Word → Nat → Dev) (hg : ∀ w b, MemWf (go w b)) (hd : MemWf d) : MemWf (fwOp d op go) := by
  unfold fwOp
  split
  · exact MemWf.ite hd (MemWf.ite (fwEnds_memWf _ _ hd) (hg _ _))
  · exact hd
theorem fwErase_memWf (d : Dev) (hd : MemWf d) : MemWf (fwErase d) := by
  unfold fwErase
  try dsimp only
  with_reducible repeat' (first | assumption | intro _ | apply ferase_memWf | apply fwEnds_memWf | apply fwOp_memWf)
theorem fwWrite_memWf (d : Dev) (hd : MemWf d) : MemWf (fwWrite d) := by
  unfold fwWrite
  try dsimp only
  with_reducible repeat' (first | assumption | intro _ | apply fprog_memWf | apply fwEnds_memWf | apply fwOp_memWf | apply MemWf.ite)
theorem fwCommit_memWf (d : Dev) (hd : MemWf d) : MemWf (fwCommit d) := by
  unfold fwCommit
  try dsimp only
  with_reducible repeat' (first | assumption | intro _ | apply fwEnds_memWf | apply fwOp_memWf | apply ledgerAsk_memWf | apply updLed_memWf | apply MemWf.ite | apply MemWf.foldl | split)
theorem showKeys_memWf (d : Dev) (hd : MemWf d) : MemWf (showKeys d) := by
  unfold showKeys
  try dsimp only
  with_reducible repeat' (first | assumption | intro _ | apply rset_memWf)
theorem trainStack_memWf (d : Dev) (k fail : Nat) (hd : MemWf d) : MemWf (trainStack d k fail) := by
  unfold trainStack
  try dsimp only
  with_reducible repeat' (first | assumption | intro _ | apply dropAbove_memWf | apply recordMapout_memWf | apply rset_memWf | apply rsetF_memWf | apply MemWf.ite | apply MemWf.foldl)
theorem powerInit_memWf (d : Dev) (hd : MemWf d) : MemWf (powerInit d) := by
  unfold powerInit
  try dsimp only
  with_reducible repeat' (first | assumption | intro _ | apply domDown_memWf | apply domUp_memWf | apply MemWf.ite | apply MemWf.foldl)
theorem startPorts_memWf (d : Dev) (hd : MemWf d) : MemWf (startPorts d) := by
  unfold startPorts
  try dsimp only
  with_reducible repeat' (first | assumption | intro _ | apply rsetB_memWf | apply startProbe_memWf | apply MemWf.ite | apply MemWf.foldl)
theorem platless_memWf (d : Dev) (hd : MemWf d) : MemWf (platless d) := by
  unfold platless
  try dsimp only
  with_reducible repeat' (first | assumption | intro _ | apply domSet_memWf | apply rsetB_memWf | apply rsetF_memWf | apply MemWf.ite | apply MemWf.foldl | apply MemWf.foldl2 | apply MemWf.foldl1 | apply MemWf.foldl22 | split | refine MemWf.mk (MemWf.out ?_))
theorem bringUp_memWf (d : Dev) (fails : List Nat) (hd : MemWf d) : MemWf (bringUp d fails) := by
  unfold bringUp
  try dsimp only
  with_reducible repeat' (first | assumption | intro _ | apply powerInit_memWf | apply rsetB_memWf | apply startPorts_memWf | apply trainStack_memWf | apply MemWf.ite | apply MemWf.foldl)
theorem twinAgrees_memWf (d : Dev) (b : List Byte) (hd : MemWf d) : MemWf (twinAgrees d b).2 := by
  unfold twinAgrees
  try dsimp only
  split
  · exact Dev_choose_memWf d 2 hd
  · exact hd
theorem platVerify_memWf (d : Dev) (b : List Byte) (len : Option Nat) (hd : MemWf d) : MemWf (platVerify d b len).2 := by
  unfold platVerify
  try dsimp only
  split
  · exact hd
  · exact twinAgrees_memWf d b hd
theorem bootPlat_memWf (d : Dev) (hd : MemWf d) : MemWf (bootPlat d) := by
  unfold bootPlat
  try dsimp only
  with_reducible repeat' (first | assumption | intro _ | apply platVerify_memWf | apply clusterFresh_memWf | apply platLoad_memWf | apply platResult_memWf | apply platless_memWf | apply rset_memWf | apply MemWf.ite | apply MemWf.foldl)
theorem boot_memWf (fails : List Nat) (d : Dev) (hd : MemWf d) : MemWf (boot fails d) := by
  unfold boot
  try dsimp only
  with_reducible repeat' (first | assumption | intro _ | apply bootPlat_memWf | apply bringUp_memWf | apply ledgerAsk_memWf | apply platless_memWf | apply readLedger_memWf | apply rset_memWf | apply rsetB_memWf | apply setStage_memWf | apply showKeys_memWf | apply showLedger_memWf | apply startPorts_memWf | apply trainStack_memWf | apply updLed_memWf | apply MemWf.ite | apply MemWf.foldl | apply MemWf.foldl2 | apply MemWf.foldl1 | apply MemWf.foldl22 | split | refine MemWf.mk (MemWf.out ?_))
theorem wake_memWf (fails : List Nat) (d : Dev) (hd : MemWf d) : MemWf (wake fails d) := by
  unfold wake
  try dsimp only
  with_reducible repeat' (first | assumption | intro _ | apply domDown_memWf | apply domUp_memWf | apply pwrEnds_memWf | apply setFace_memWf | apply setLv_memWf | apply srExit_memWf | apply standby_memWf | apply startPorts_memWf | apply trainStack_memWf | apply vTarget_memWf | apply MemWf.ite | apply MemWf.foldl | apply MemWf.foldl2 | apply MemWf.foldl1 | apply MemWf.foldl22 | split | refine MemWf.mk (MemWf.out ?_))
theorem replatApply_memWf (d : Dev) (r : Replat) (hd : MemWf d) : MemWf (replatApply d r) := by
  unfold replatApply
  try dsimp only
  with_reducible repeat' (first | assumption | intro _ | apply cleanLineNow_memWf | apply clusterFresh_memWf | apply darken_memWf | apply endSession_memWf | apply ledgerAsk_memWf | apply linkReset_memWf | apply platLoad_memWf | apply platResult_memWf | apply powerInit_memWf | apply qcCleanLine_memWf | apply refreshBusy_memWf | apply rreset_memWf | apply rset_memWf | apply setCl_memWf | apply setStage_memWf | apply showBuf_memWf | apply startProbe_memWf | apply stepEnd_memWf | apply updLed_memWf | apply updPort_memWf | apply updQ_memWf | apply MemWf.ite | apply MemWf.foldl | apply MemWf.foldl2 | apply MemWf.foldl1 | apply MemWf.foldl22 | split | refine MemWf.mk (MemWf.out ?_))
theorem replatQuiesced_memWf (d : Dev) (hd : MemWf d) : MemWf (replatQuiesced d) := by
  unfold replatQuiesced
  try dsimp only
  with_reducible repeat' (first | assumption | intro _ | apply replatApply_memWf | apply MemWf.ite | apply MemWf.foldl | split)
theorem abandonReqs_memWf (d : Dev) (hd : MemWf d) : MemWf (abandonReqs d) := by
  unfold abandonReqs
  try dsimp only
  with_reducible repeat' (first | assumption | intro _ | apply writeAtStack_memWf | apply Dev_choose_memWf | apply MemWf.ite | apply MemWf.foldl | split)
theorem replatTimeout_memWf (d : Dev) (hd : MemWf d) : MemWf (replatTimeout d) := by
  unfold replatTimeout
  try dsimp only
  with_reducible repeat' (first | assumption | intro _ | apply replatApply_memWf | apply abandonReqs_memWf | apply MemWf.ite | apply MemWf.foldl | split)
theorem platCmd_memWf (d : Dev) (op slot : Nat) (hd : MemWf d) : MemWf (platCmd d op slot) := by
  unfold platCmd
  try dsimp only
  with_reducible repeat' (first | assumption | intro _ | apply platVerify_memWf | apply ferase_memWf | apply fprog_memWf | apply platResult_memWf | apply rsetB_memWf | apply MemWf.ite | apply MemWf.foldl | split | refine MemWf.mk (MemWf.out ?_))

/-! ## Lcmd -/

theorem lcmdEnds_memWf (d : Dev) (res : Nat) (hd : MemWf d) : MemWf (lcmdEnds d res) := by
  unfold lcmdEnds
  try dsimp only
  with_reducible repeat' (first | assumption | intro _ | apply rset_memWf | apply updDk_memWf)
theorem countFail_memWf (d : Dev) (hd : MemWf d) : MemWf (countFail d) := by
  unfold countFail
  try dsimp only
  with_reducible repeat' (first | assumption | intro _ | apply ledgerAsk_memWf | apply showLedger_memWf | apply updLed_memWf)
theorem lcmdGo_memWf (w : Word) (d : Dev) (hd : MemWf d) : MemWf (lcmdGo w d) := by
  unfold lcmdGo
  try dsimp only
  with_reducible repeat' (first | assumption | intro _ | apply countFail_memWf | apply lcmdEnds_memWf | apply rsetB_memWf | apply updDk_memWf | apply MemWf.ite | apply MemWf.foldl | split)
theorem lcmdStep_memWf (op : Nat) (f : Word → Dev → Dev) (d : Dev) (hf : ∀ w e, MemWf e → MemWf (f w e)) (hd : MemWf d) :
    MemWf (lcmdStep op f d) := by
  unfold lcmdStep
  split
  · exact MemWf.ite hd (showKeys_memWf _ (showLedger_memWf _ (ledgerAsk_memWf _ _ (updDk_memWf _ _ (hf _ _ hd)))))
  · exact hd
theorem clearSite_memWf (w : Word) (d : Dev) (hd : MemWf d) : MemWf (clearSite w d) := by
  unfold clearSite
  try dsimp only
  with_reducible repeat' (first | assumption | intro _ | apply ledgerEvent_memWf | apply updLed_memWf)
theorem clearChan_memWf (w : Word) (d : Dev) (hd : MemWf d) : MemWf (clearChan w d) := by
  unfold clearChan
  try dsimp only
  with_reducible repeat' (first | assumption | intro _ | apply ledgerEvent_memWf | apply updLed_memWf)
theorem setOwner_memWf (w : Word) (d : Dev) (hd : MemWf d) : MemWf (setOwner w d) := by
  unfold setOwner
  exact ledgerEvent_memWf _ _ _ _ _ (updLed_memWf _ _ (updDk_memWf _ _ hd))
theorem setPass_memWf (w : Word) (d : Dev) (hd : MemWf d) : MemWf (setPass w d) := by
  unfold setPass
  repeat' (first | with_reducible assumption | intro _ | with_reducible apply ledgerEvent_memWf | with_reducible apply updLed_memWf | with_reducible apply updDk_memWf | with_reducible apply MemWf.ite | with_reducible apply MemWf.foldl | (with_reducible refine MemWf.mk ?_; with_reducible refine MemWf.out ?_; first | with_reducible assumption | with_reducible apply ledgerEvent_memWf | with_reducible apply updLed_memWf | with_reducible apply updDk_memWf) | split)
theorem setPlatKey_memWf (w : Word) (d : Dev) (hd : MemWf d) : MemWf (setPlatKey w d) := by
  unfold setPlatKey
  try dsimp only
  with_reducible repeat' (first | assumption | intro _ | apply ledgerEvent_memWf | apply updDk_memWf)
theorem clearPlatKey_memWf (w : Word) (d : Dev) (hd : MemWf d) : MemWf (clearPlatKey w d) := by
  unfold clearPlatKey
  try dsimp only
  with_reducible repeat' (first | assumption | intro _ | apply ledgerEvent_memWf | apply updDk_memWf)
theorem clearWay_memWf (w : Word) (d : Dev) (hd : MemWf d) : MemWf (clearWay w d) := by
  unfold clearWay
  try dsimp only
  with_reducible repeat' (first | assumption | intro _ | apply updLed_memWf)

/-! ## Mgmt -/

theorem pwrCmd_memWf (d : Dev) (ag : Agent) (w : Word) (hd : MemWf d) : MemWf (pwrCmd d ag w) := by
  unfold pwrCmd
  try dsimp only
  with_reducible repeat' (first | assumption | intro _ | apply pwrEnds_memWf | apply rsetB_memWf | apply MemWf.ite | apply MemWf.foldl | split | refine MemWf.mk (MemWf.out ?_))
theorem rstCmd_memWf (d : Dev) (w : Word) (hd : MemWf d) : MemWf (rstCmd d w) := by
  unfold rstCmd
  try dsimp only
  with_reducible repeat' (first | assumption | intro _ | apply clusterReset_memWf | apply deviceReset_memWf | apply quarterReset_memWf | apply MemWf.ite | apply MemWf.foldl | split)
theorem fwCmd_memWf (d : Dev) (w : Word) (hd : MemWf d) : MemWf (fwCmd d w) := by
  unfold fwCmd
  try dsimp only
  with_reducible repeat' (first | assumption | intro _ | apply fwEnds_memWf | apply rsetB_memWf | apply MemWf.ite | apply MemWf.foldl | split | refine MemWf.mk (MemWf.out ?_))
theorem hubApply_memWf (d : Dev) (ag : Agent) (m : RegMap) (o : Nat) (mask v : Word) (hd : MemWf d) : MemWf (hubApply d ag m o mask v) := by
  unfold hubApply
  try dsimp only
  with_reducible repeat' (first | assumption | intro _ | contradiction | (refine MemWf.ofIf (by assumption) ?_) | apply fwCmd_memWf | apply lcmdGo_memWf | apply onCmd_memWf | apply platCmd_memWf | apply pwrCmd_memWf | apply regWrite_memWf | apply rsetB_memWf | apply rstCmd_memWf | apply MemWf.ite)
theorem suApply_memWf (d : Dev) (m : RegMap) (r o : Nat) (mask v : Word) (hd : MemWf d) : MemWf (suApply d m r o mask v) := by
  unfold suApply
  try dsimp only
  with_reducible repeat' (first | assumption | intro _ | contradiction | (refine MemWf.ofIf (by assumption) ?_) | apply digestGo_memWf | apply onCmd_memWf | apply regWrite_memWf | apply rejoinGo_memWf | apply suTractGo_memWf | apply MemWf.ite)
theorem landApply_memWf (d : Dev) (m : RegMap) (r o : Nat) (mask v : Word) (hd : MemWf d) : MemWf (landApply d m r o mask v) := by
  unfold landApply
  try dsimp only
  with_reducible repeat' (first | assumption | intro _ | contradiction | (refine MemWf.ofIf (by assumption) ?_) | apply endSession_memWf | apply onCmd_memWf | apply regWrite_memWf | apply ringCtl_memWf | apply ringPtr_memWf | apply MemWf.ite | apply MemWf.foldl | split)
theorem quarterApply_memWf (d : Dev) (m : RegMap) (r o : Nat) (mask v : Word) (hd : MemWf d) : MemWf (quarterApply d m r o mask v) := by
  unfold quarterApply
  try dsimp only
  with_reducible repeat' (first | assumption | intro _ | contradiction | (refine MemWf.ofIf (by assumption) ?_) | apply onCmd_memWf | apply regWrite_memWf | apply rsetB_memWf | apply trInv_memWf | apply trResume_memWf | apply wfdWrite_memWf | apply MemWf.ite)
theorem mgmtApply_memWf (d : Dev) (ag : Agent) (m : RegMap) (b : Blk) (r o : Nat) (mask v : Word) (hd : MemWf d) : MemWf (mgmtApply d ag m b r o mask v) := by
  unfold mgmtApply
  try dsimp only
  with_reducible repeat' (first | assumption | intro _ | contradiction | (refine MemWf.ofIf (by assumption) ?_) | apply hubApply_memWf | apply landApply_memWf | apply linkReset_memWf | apply mapOut_memWf | apply onCmd_memWf | apply quarterApply_memWf | apply rdWrite_memWf | apply regWrite_memWf | apply rsetF_memWf | apply startMask_memWf | apply stopMask_memWf | apply suApply_memWf | apply MemWf.ite | apply MemWf.foldl | split)
def MWrite.All (P : Dev → Prop) : MWrite → Prop
  | .err d => P d
  | .ignored d => P d
  | .buf d => P d
  | .reg .. => True
theorem mgmtCheck_memWf (d : Dev) (ag : Agent) (o n : Nat) (v : Word) (hd : MemWf d) : (mgmtCheck d ag o n v).All MemWf := by
  unfold mgmtCheck
  extract_lets b r
  clear_value b r
  repeat' (first | exact mmErr_memWf _ _ _ _ hd | exact hd | exact True.intro | split)
theorem mgmtWrite_memWf (d : Dev) (ag : Agent) (o n : Nat) (v : Word) (hd : MemWf d) : MemWf (mgmtWrite d ag o n v).2 := by
  have g := mgmtCheck_memWf d ag o n v hd
  unfold mgmtWrite
  revert g
  generalize mgmtCheck d ag o n v = w
  intro g
  cases w with
  | err e => exact g
  | ignored e => exact g
  | buf e => exact g
  | reg m b r mask v => exact mgmtApply_memWf _ _ _ _ _ _ _ _ hd
theorem mgmtWrite_memWf_eq {d : Dev} {ag : Agent} {o n : Nat} {v : Word} {r : Bool} {e : Dev} (h : mgmtWrite d ag o n v = (r, e))
    (hd : MemWf d) : MemWf e := by
  have g := mgmtWrite_memWf d ag o n v hd
  rw [h] at g
  exact g
theorem settleReset_memWf (d0 d : Dev) (l : Nat) (hd0 : MemWf d0) (hd : MemWf d) : MemWf (settleReset d0 d l) := by
  unfold settleReset
  try dsimp only
  with_reducible repeat' (first | assumption | intro _ | apply clusterFresh_memWf | apply rreset_memWf | apply updCl_memWf | apply MemWf.ite | apply MemWf.foldl | split | refine MemWf.mk (MemWf.out ?_))

/-! ## MgmtCmds -/

theorem cmdWrite_memWf (ag : Agent) (o v : Nat) (d : Dev) (hd : MemWf d) : MemWf (cmdWrite ag o v d) := by
  unfold cmdWrite
  try dsimp only
  with_reducible repeat' (first | assumption | intro _ | apply mgmtWrite_memWf)
theorem registerWrite_memWf (ag : Agent) (off size : Nat) (v : Word) (d : Dev) (hd : MemWf d) : MemWf (registerWrite ag off size v d) := by
  unfold registerWrite
  try dsimp only
  with_reducible repeat' (first | assumption | intro _ | apply mgmtWrite_memWf)
theorem walkerFormatWrite_memWf (ag : Agent) (off size : Nat) (v : Word) (d : Dev) (hd : MemWf d) : MemWf (walkerFormatWrite ag off size v d) := by
  unfold walkerFormatWrite
  try dsimp only
  with_reducible repeat' (first | assumption | intro _ | apply mgmtWrite_memWf | (refine mgmtWrite_memWf_eq (by assumption) ?_) | apply MemWf.ite | apply MemWf.foldl | split)
theorem mapoutCmd_memWf (ag : Agent) (k ch : Nat) (d : Dev) (hd : MemWf d) : MemWf (mapoutCmd ag k ch d) := by
  unfold mapoutCmd
  try dsimp only
  with_reducible repeat' (first | assumption | intro _ | apply cmdWrite_memWf)
theorem digestGoCmd_memWf (ag : Agent) (d : Dev) (hd : MemWf d) : MemWf (digestGoCmd ag d) := by
  unfold digestGoCmd
  try dsimp only
  with_reducible repeat' (first | assumption | intro _ | apply cmdWrite_memWf)

/-! ## Landing -/

theorem hostReply_memWf (d : Dev) (m : Msg) (op : Nat) (data : List Byte) (hd : MemWf d) : MemWf (hostReply d m op data) := by
  unfold hostReply
  try dsimp only
  with_reducible repeat' (first | assumption | intro _ | apply send_memWf | apply MemWf.ite)
theorem hstat_memWf (d : Dev) (m : Msg) (st : Nat) (hd : MemWf d) : MemWf (hstat d m st) := by
  unfold hstat
  try dsimp only
  with_reducible repeat' (first | assumption | intro _ | apply hostReply_memWf)
theorem sresult_memWf (d : Dev) (m : Msg) (st : Nat) (hd : MemWf d) : MemWf (sresult d m st) := by
  unfold sresult
  try dsimp only
  with_reducible repeat' (first | assumption | intro _ | apply hostReply_memWf)
theorem hostCmd_memWf (d : Dev) (op : Nat) (f : Msg → Dev → Dev) (hf : ∀ m e, MemWf e → MemWf (f m e)) (hd : MemWf d) :
    MemWf (hostCmd d op f) := by
  unfold hostCmd
  split
  · exact hd
  · split
    · rename_i h
      have g := receive_memWf_eq h hd
      exact MemWf.ite (hf _ _ g) (hstat_memWf _ _ _ g)
    · rename_i h
      exact receive_memWf_eq h hd
theorem sopen_memWf (since twinSc : Nat) (sameKey : Bool) (m : Msg) (d : Dev) (hd : MemWf d) : MemWf (sopen since twinSc sameKey m d) := by
  unfold sopen
  try dsimp only
  with_reducible repeat' (first | assumption | intro _ | apply ledgerAsk_memWf | apply rset_memWf | apply sresult_memWf | apply updLed_memWf | apply MemWf.ite | apply MemWf.foldl | split | refine MemWf.mk (MemWf.out ?_))
theorem openingEnds_memWf (d : Dev) (hd : MemWf d) : MemWf (openingEnds d) := by
  unfold openingEnds
  try dsimp only
  with_reducible repeat' (first | assumption | intro _ | apply rsetB_memWf | apply MemWf.ite | apply MemWf.foldl | split | refine MemWf.mk (MemWf.out ?_))
theorem sprove_memWf (m : Msg) (d : Dev) (hd : MemWf d) : MemWf (sprove m d) := by
  unfold sprove
  try dsimp only
  with_reducible repeat' (first | assumption | intro _ | apply countFail_memWf | apply hostReply_memWf | apply openingEnds_memWf | apply rset_memWf | apply showLedger_memWf | apply sresult_memWf | apply updLed_memWf | apply MemWf.ite | apply MemWf.foldl | split | refine MemWf.mk (MemWf.out ?_))
theorem sproveTimeout_memWf (d : Dev) (hd : MemWf d) : MemWf (sproveTimeout d) := by
  unfold sproveTimeout
  try dsimp only
  with_reducible repeat' (first | assumption | intro _ | apply openingEnds_memWf | apply MemWf.ite)
theorem relayDown_memWf (m : Msg) (d : Dev) (hd : MemWf d) : MemWf (relayDown m d) := by
  unfold relayDown
  try dsimp only
  with_reducible repeat' (first | assumption | intro _ | apply endSession_memWf | apply hstat_memWf | apply MemWf.ite)
theorem hreadParts_memWf (d : Dev) (a n : Nat) (hd : MemWf d) : MemWf (hreadParts d a n).2.2 := by
  unfold hreadParts
  try dsimp only
  with_reducible repeat' (first | assumption | intro _ | apply homeNote_memWf | apply hubReq_memWf | (refine hubReq_memWf_eq (by assumption) ?_) | apply MemWf.ite | apply MemWf.foldl | apply MemWf.foldl2 | apply MemWf.foldl1 | apply MemWf.foldl22 | split)
theorem hreadParts_memWf_eq {d : Dev} {a n : Nat} {dd : Dev} {r1} {r2} (h : hreadParts d a n = (r1, r2, dd)) (hd : MemWf d) : MemWf dd := by
  have g := hreadParts_memWf d a n hd
  rw [h] at g
  exact g
theorem hread_memWf (m : Msg) (d : Dev) (hd : MemWf d) : MemWf (hread m d) := by
  unfold hread
  try dsimp only
  with_reducible repeat' (first | assumption | intro _ | apply hreadParts_memWf | (refine hreadParts_memWf_eq (by assumption) ?_) | apply hstat_memWf | apply hubSettle_memWf | apply updReq_memWf | apply MemWf.ite | apply MemWf.foldl | apply MemWf.foldl2 | apply MemWf.foldl1 | apply MemWf.foldl22 | split | refine MemWf.mk (MemWf.out ?_))
theorem hwriteParts_memWf (d : Dev) (a : Nat) (bs : List Byte) (hd : MemWf d) : MemWf (hwriteParts d a bs).2 := by
  unfold hwriteParts
  try dsimp only
  with_reducible repeat' (first | assumption | intro _ | apply hubReq_memWf | (refine hubReq_memWf_eq (by assumption) ?_) | apply hubWrite_memWf | (refine hubWrite_memWf_eq (by assumption) ?_) | apply MemWf.ite | apply MemWf.foldl | apply MemWf.foldl2 | apply MemWf.foldl1 | apply MemWf.foldl22 | split)
theorem hwriteParts_memWf_eq {d : Dev} {a : Nat} {bs : List Byte} {dd : Dev} {r1}  (h : hwriteParts d a bs = (r1, dd)) (hd : MemWf d) : MemWf dd := by
  have g := hwriteParts_memWf d a bs hd
  rw [h] at g
  exact g
theorem hwrite_memWf (m : Msg) (d : Dev) (hd : MemWf d) : MemWf (hwrite m d) := by
  unfold hwrite
  try dsimp only
  with_reducible repeat' (first | assumption | intro _ | apply hstat_memWf | apply hubSettle_memWf | apply hwriteParts_memWf | (refine hwriteParts_memWf_eq (by assumption) ?_) | apply MemWf.ite | apply MemWf.foldl | split | refine MemWf.mk (MemWf.out ?_))
theorem hmread_memWf (m : Msg) (d : Dev) (hd : MemWf d) : MemWf (hmread m d) := by
  unfold hmread
  try dsimp only
  with_reducible repeat' (first | assumption | intro _ | apply hostReply_memWf | apply hstat_memWf | apply mgmtRead_memWf | (refine mgmtRead_memWf_eq (by assumption) ?_) | apply mmErr_memWf | apply MemWf.ite | apply MemWf.foldl | split)
theorem hmwrite_memWf (m : Msg) (d : Dev) (hd : MemWf d) : MemWf (hmwrite m d) := by
  unfold hmwrite
  try dsimp only
  with_reducible repeat' (first | assumption | intro _ | apply hstat_memWf | apply mgmtWrite_memWf | (refine mgmtWrite_memWf_eq (by assumption) ?_) | apply mmErr_memWf | apply MemWf.ite)
theorem doorbell_memWf (m : Msg) (d : Dev) (hd : MemWf d) : MemWf (doorbell m d) := by
  unfold doorbell
  try dsimp only
  with_reducible repeat' (first | assumption | intro _ | apply hstat_memWf | apply ringPtr_memWf | apply MemWf.ite)
theorem attest_memWf (m : Msg) (d : Dev) (hd : MemWf d) : MemWf (attest m d) := by
  unfold attest
  try dsimp only
  with_reducible repeat' (first | assumption | intro _ | apply hstat_memWf | apply MemWf.ite | apply MemWf.foldl | split | refine MemWf.mk (MemWf.out ?_))
theorem reportReady_memWf (d : Dev) (hd : MemWf d) : MemWf (reportReady d) := by
  unfold reportReady
  try dsimp only
  with_reducible repeat' (first | assumption | intro _ | apply attest_memWf | apply send_memWf | apply MemWf.ite | apply MemWf.foldl | apply MemWf.foldl2 | apply MemWf.foldl1 | apply MemWf.foldl22 | split | refine MemWf.mk (MemWf.out ?_))
theorem mirrorResponse_memWf (d : Dev) (m : Msg) (key : Nat) (hd : MemWf d) : MemWf (mirrorResponse d m key) := by
  unfold mirrorResponse
  try dsimp only
  with_reducible repeat' (first | assumption | intro _ | apply mirror_memWf | apply MemWf.ite)
theorem hostAnswer_memWf (op : Nat) (d : Dev) (hd : MemWf d) : MemWf (hostAnswer op d) := by
  unfold hostAnswer
  try dsimp only
  with_reducible repeat' (first | assumption | intro _ | apply devCount_memWf | apply finishReq_memWf | apply hstat_memWf | apply mirrorResponse_memWf | apply receive_memWf | (refine receive_memWf_eq (by assumption) ?_) | apply MemWf.ite | apply MemWf.foldl | split)
theorem hostDeadline_memWf (id : Nat) (d : Dev) (hd : MemWf d) : MemWf (hostDeadline id d) := by
  unfold hostDeadline
  try dsimp only
  with_reducible repeat' (first | assumption | intro _ | apply finishReq_memWf | apply MemWf.ite | apply MemWf.foldl | split)
theorem replatDone_memWf (d : Dev) (hd : MemWf d) : MemWf (replatDone d) := by
  unfold replatDone
  try dsimp only
  with_reducible repeat' (first | assumption | intro _ | apply MemWf.ite | apply MemWf.foldl | split | refine MemWf.mk (MemWf.out ?_))
theorem ledgerNext_memWf (ok : Bool) (d : Dev) (r : LReason) (hd : MemWf d) : MemWf (ledgerNext ok d r) := by
  unfold ledgerNext
  try dsimp only
  with_reducible repeat' (first | assumption | intro _ | apply lcmdEnds_memWf | apply openingEnds_memWf | apply replatDone_memWf | apply rsetB_memWf | apply sendUp_memWf | apply MemWf.ite | apply MemWf.foldl | split | refine MemWf.mk (MemWf.out ?_))
theorem ledgerComplete_memWf (ok : Bool) (d : Dev) (hd : MemWf d) : MemWf (ledgerComplete ok d) := by
  unfold ledgerComplete
  try dsimp only
  with_reducible repeat' (first | assumption | intro _ | apply ledgerDone_memWf | apply ledgerNext_memWf | apply ledgerRetry_memWf | apply rsetB_memWf | apply sendLog_memWf | apply updDk_memWf | apply MemWf.ite | apply MemWf.foldl | apply MemWf.foldl2 | apply MemWf.foldl1 | apply MemWf.foldl22 | split)
theorem relayDownTaken_memWf (d : Dev) (hd : MemWf d) : MemWf (relayDownTaken d) := by
  unfold relayDownTaken
  try dsimp only
  with_reducible repeat' (first | assumption | intro _ | apply receive_memWf | (refine receive_memWf_eq (by assumption) ?_) | apply relayDown_memWf | apply MemWf.ite | apply MemWf.foldl | split)

/-! ## Rings -/

theorem putCmd_memWf (d : Dev) (n : Nat) (bs : List Byte) (hd : MemWf d) : MemWf (putCmd d n bs) := by
  unfold putCmd
  try dsimp only
  with_reducible repeat' (first | assumption | intro _ | apply rsetF_memWf | apply updRing_memWf)
theorem ringFetch_memWf (n : Nat) (d : Dev) (hd : MemWf d) : MemWf (ringFetch n d) := by
  unfold ringFetch
  try dsimp only
  with_reducible repeat' (first | assumption | intro _ | apply dropReq_memWf | apply hubRead_memWf | (refine hubRead_memWf_eq (by assumption) ?_) | apply hubReq_memWf | (refine hubReq_memWf_eq (by assumption) ?_) | apply putCmd_memWf | apply updRing_memWf | apply MemWf.ite | apply MemWf.foldl | split)
theorem setCmd_memWf (d : Dev) (n : Nat) (c : RCmd) (hd : MemWf d) : MemWf (setCmd d n c) := by
  unfold setCmd
  try dsimp only
  with_reducible repeat' (first | assumption | intro _ | apply updRing_memWf)
theorem startCmd_memWf (d : Dev) (n op : Nat) (f : RCmd → Dev → Dev) (hf : ∀ c e, MemWf e → MemWf (f c e)) (hd : MemWf d) :
    MemWf (startCmd d n op f) := by
  unfold startCmd
  split
  · exact MemWf.ite (hf _ _ (setCmd_memWf _ _ _ hd)) hd
  · exact hd
theorem endCmd_memWf (d : Dev) (n : Nat) (c : RCmd) (st detail : Nat) (hd : MemWf d) : MemWf (endCmd d n c st detail) := by
  unfold endCmd
  try dsimp only
  with_reducible repeat' (first | assumption | intro _ | apply setCmd_memWf)
theorem startOn_memWf (d : Dev) (l m mode : Nat) (entry live arg : Word) (hd : MemWf d) : MemWf (startOn d l m mode entry live arg).2 := by
  unfold startOn
  try dsimp only
  with_reducible repeat' (first | assumption | intro _ | apply clusterWake_memWf | apply rset_memWf | apply startMask_memWf | apply updCtx_memWf | apply MemWf.ite | apply MemWf.foldl)
theorem startOn_memWf_eq {d : Dev} {l m mode : Nat} {entry live arg : Word} {dd : Dev} {r1}  (h : startOn d l m mode entry live arg = (r1, dd)) (hd : MemWf d) : MemWf dd := by
  have g := startOn_memWf d l m mode entry live arg hd
  rw [h] at g
  exact g
theorem choose_memWf (d : Dev) (n : Nat) (c : RCmd) (hd : MemWf d) : MemWf (choose d n c).2 := by
  unfold choose
  try dsimp only
  with_reducible repeat' (first | assumption | intro _ | apply Dev_free_memWf | (refine Dev_free_memWf_eq (by assumption) ?_) | apply sendTwin_memWf | apply MemWf.ite | apply MemWf.foldl | split | refine MemWf.mk (MemWf.out ?_))
theorem choose_memWf_eq {d : Dev} {n : Nat} {c : RCmd} {dd : Dev} {r1}  (h : choose d n c = (r1, dd)) (hd : MemWf d) : MemWf dd := by
  have g := choose_memWf d n c hd
  rw [h] at g
  exact g
theorem startDone_memWf (d : Dev) (n : Nat) (c : RCmd) (l : Nat) (hd : MemWf d) : MemWf (startDone d n c l) := by
  unfold startDone
  try dsimp only
  with_reducible repeat' (first | assumption | intro _ | apply endCmd_memWf | apply setCmd_memWf | apply startOn_memWf | (refine startOn_memWf_eq (by assumption) ?_) | apply MemWf.ite)
theorem ringStart_memWf (n : Nat) (d : Dev) (hd : MemWf d) : MemWf (ringStart n d) := by
  unfold ringStart
  try dsimp only
  with_reducible repeat' (first | assumption | intro _ | apply choose_memWf | (refine choose_memWf_eq (by assumption) ?_) | apply endCmd_memWf | apply setCmd_memWf | apply startCmd_memWf | apply startDone_memWf | apply MemWf.ite | apply MemWf.foldl | split)
theorem ringStop_memWf (n : Nat) (d : Dev) (hd : MemWf d) : MemWf (ringStop n d) := by
  unfold ringStop
  try dsimp only
  with_reducible repeat' (first | assumption | intro _ | apply endCmd_memWf | apply startCmd_memWf | apply stopMask_memWf | apply MemWf.ite)
theorem ringEvent_memWf (n : Nat) (d : Dev) (hd : MemWf d) : MemWf (ringEvent n d) := by
  unfold ringEvent
  try dsimp only
  with_reducible repeat' (first | assumption | intro _ | apply sendEvents_memWf | apply startCmd_memWf)
theorem ringTract_memWf (n : Nat) (d : Dev) (hd : MemWf d) : MemWf (ringTract n d) := by
  unfold ringTract
  try dsimp only
  with_reducible repeat' (first | assumption | intro _ | apply startCmd_memWf | apply tractGo_memWf | apply MemWf.ite)
theorem ringReplat_memWf (n : Nat) (d : Dev) (hd : MemWf d) : MemWf (ringReplat n d) := by
  unfold ringReplat
  try dsimp only
  with_reducible repeat' (first | assumption | intro _ | apply endCmd_memWf | apply platCmd_memWf | apply startCmd_memWf | apply MemWf.ite)
theorem moveOn_memWf (d : Dev) (n : Nat) (c : RCmd) (hd : MemWf d) : MemWf (moveOn d n c) := by
  unfold moveOn
  try dsimp only
  with_reducible repeat' (first | assumption | intro _ | apply endCmd_memWf | apply setCmd_memWf | apply MemWf.ite)
theorem movePut_memWf (d : Dev) (n : Nat) (c : RCmd) (bs : List Byte) (hd : MemWf d) : MemWf (movePut d n c bs) := by
  unfold movePut
  try dsimp only
  with_reducible repeat' (first | assumption | intro _ | apply endCmd_memWf | apply hubReq_memWf | (refine hubReq_memWf_eq (by assumption) ?_) | apply hubWrite_memWf | (refine hubWrite_memWf_eq (by assumption) ?_) | apply moveOn_memWf | apply setCmd_memWf | apply MemWf.ite | apply MemWf.foldl | split)
theorem moveGet_memWf (d : Dev) (n : Nat) (c : RCmd) (hd : MemWf d) : MemWf (moveGet d n c) := by
  unfold moveGet
  try dsimp only
  with_reducible repeat' (first | assumption | intro _ | apply endCmd_memWf | apply hubRead_memWf | (refine hubRead_memWf_eq (by assumption) ?_) | apply hubReq_memWf | (refine hubReq_memWf_eq (by assumption) ?_) | apply movePut_memWf | apply setCmd_memWf | apply MemWf.ite | apply MemWf.foldl | split)
theorem moveStep_memWf (d : Dev) (n : Nat) (c : RCmd) (hd : MemWf d) : MemWf (moveStep d n c) := by
  unfold moveStep
  try dsimp only
  with_reducible repeat' (first | assumption | intro _ | apply dropReq_memWf | apply endCmd_memWf | apply moveGet_memWf | apply moveOn_memWf | apply movePut_memWf | apply MemWf.ite | apply MemWf.foldl | split)
theorem ringMove_memWf (n : Nat) (d : Dev) (hd : MemWf d) : MemWf (ringMove n d) := by
  unfold ringMove
  try dsimp only
  with_reducible repeat' (first | assumption | intro _ | apply endCmd_memWf | apply moveGet_memWf | apply moveStep_memWf | apply startCmd_memWf | apply MemWf.ite | apply MemWf.foldl | split)
theorem eventDone_memWf (d : Dev) (n slot : Nat) (hd : MemWf d) : MemWf (eventDone d n slot) := by
  unfold eventDone
  try dsimp only
  with_reducible repeat' (first | assumption | intro _ | apply sendTwin_memWf | apply sendUp_memWf | apply MemWf.ite)
theorem postEvt_memWf (d : Dev) (n : Nat) (bs : List Byte) (hd : MemWf d) : MemWf (postEvt d n bs) := by
  unfold postEvt
  try dsimp only
  with_reducible repeat' (first | assumption | intro _ | apply eventDone_memWf | apply queueWrite_memWf | (refine queueWrite_memWf_eq (by assumption) ?_) | apply rsetF_memWf | apply updRing_memWf | apply MemWf.ite | apply MemWf.foldl | split)
theorem dropEvt_memWf (d : Dev) (hd : MemWf d) : MemWf (dropEvt d) := by
  unfold dropEvt
  try dsimp only
  with_reducible repeat' (first | assumption | intro _ | apply rincSat_memWf)
theorem postSettle_memWf (d : Dev) (hd : MemWf d) : MemWf (postSettle d) := by
  unfold postSettle
  try dsimp only
  with_reducible repeat' (first | assumption | intro _ | apply dropEvt_memWf | apply dropReq_memWf | apply eventDone_memWf | apply queueWrite_memWf | (refine queueWrite_memWf_eq (by assumption) ?_) | apply updRing_memWf | apply MemWf.ite | apply MemWf.foldl | apply MemWf.foldl2 | apply MemWf.foldl1 | apply MemWf.foldl22 | split)
theorem leaveRing_memWf (d : Dev) (n : Nat) (c : RCmd) (hd : MemWf d) : MemWf (leaveRing d n c) := by
  unfold leaveRing
  try dsimp only
  with_reducible repeat' (first | assumption | intro _ | apply updRing_memWf | apply MemWf.ite | apply MemWf.foldl | split | refine MemWf.mk (MemWf.out ?_))
theorem commandComplete_memWf (n i : Nat) (d : Dev) (hd : MemWf d) : MemWf (commandComplete n i d) := by
  unfold commandComplete
  try dsimp only
  with_reducible repeat' (first | assumption | intro _ | apply dropEvt_memWf | apply endSession_memWf | apply leaveRing_memWf | apply postEvt_memWf | apply postSettle_memWf | apply MemWf.ite | apply MemWf.foldl | split)

/-! ## Peer -/

theorem refuseMsg_memWf (d : Dev) (m : Msg) (hd : MemWf d) : MemWf (refuseMsg d m) := by
  unfold refuseMsg
  try dsimp only
  with_reducible repeat' (first | assumption | intro _ | apply devCount_memWf | apply errorTo_memWf | apply MemWf.ite)
theorem badMessage_memWf (d : Dev) (hd : MemWf d) : MemWf (badMessage d) := by
  unfold badMessage
  try dsimp only
  with_reducible repeat' (first | assumption | intro _ | apply refuseMsg_memWf | apply oweCredits_memWf | apply receive_memWf | (refine receive_memWf_eq (by assumption) ?_) | apply MemWf.ite | split)
  all_goals exact MemWf.mk (MemWf.out hd)
theorem peerReq_memWf (d : Dev) (op : Nat) (f : Msg → Dev → Dev) (hf : ∀ m e, MemWf e → MemWf (f m e)) (hd : MemWf d) :
    MemWf (peerReq d op f) := by
  unfold peerReq
  split
  · exact hd
  · split
    · rename_i h
      exact hf _ _ (receive_memWf_eq h hd)
    · rename_i h
      exact receive_memWf_eq h hd
theorem peerRead_memWf (m : Msg) (d : Dev) (hd : MemWf d) : MemWf (peerRead m d) := by
  unfold peerRead
  try dsimp only
  with_reducible repeat' (first | assumption | intro _ | apply errorTo_memWf | apply hreadParts_memWf | (refine hreadParts_memWf_eq (by assumption) ?_) | apply hubSettle_memWf | apply updReq_memWf | apply MemWf.ite | apply MemWf.foldl | apply MemWf.foldl2 | apply MemWf.foldl1 | apply MemWf.foldl22 | split | refine MemWf.mk (MemWf.out ?_))
theorem peerWrite_memWf (m : Msg) (d : Dev) (hd : MemWf d) : MemWf (peerWrite m d) := by
  unfold peerWrite
  try dsimp only
  with_reducible repeat' (first | assumption | intro _ | apply errorTo_memWf | apply hubSettle_memWf | apply hwriteParts_memWf | (refine hwriteParts_memWf_eq (by assumption) ?_) | apply MemWf.ite | apply MemWf.foldl | split | refine MemWf.mk (MemWf.out ?_))
theorem recordReplay_memWf (d : Dev) (m : Msg) (op : Nat) (bs : List Byte) (hd : MemWf d) : MemWf (recordReplay d m op bs) := by
  unfold recordReplay
  try dsimp only
  with_reducible repeat' (first | assumption | intro _ | apply updLv_memWf | apply MemWf.ite)
theorem answerAtomic_memWf (d : Dev) (m : Msg) (op : Nat) (bs : List Byte) (hd : MemWf d) : MemWf (answerAtomic d m op bs) := by
  unfold answerAtomic
  try dsimp only
  with_reducible repeat' (first | assumption | intro _ | apply recordReplay_memWf | apply reply_memWf)
theorem peerAtomic_memWf (op n v cmp rsp : Nat) (m : Msg) (d : Dev) (hd : MemWf d) : MemWf (peerAtomic op n v cmp rsp m d) := by
  unfold peerAtomic
  try dsimp only
  with_reducible repeat' (first | assumption | intro _ | apply answerAtomic_memWf | apply atomApply_memWf | (refine atomApply_memWf_eq (by assumption) ?_) | apply hubReq_memWf | (refine hubReq_memWf_eq (by assumption) ?_) | apply hubSettle_memWf | apply updTract_memWf | apply MemWf.ite | apply MemWf.foldl | split | refine MemWf.mk (MemWf.out ?_))
theorem peerAmo_memWf (young : Bool) (m : Msg) (d : Dev) (hd : MemWf d) : MemWf (peerAmo young m d) := by
  unfold peerAmo
  try dsimp only
  with_reducible repeat' (first | assumption | intro _ | apply peerAtomic_memWf | apply reply_memWf | apply MemWf.ite | apply MemWf.foldl | split)
theorem peerRed_memWf (young : Bool) (m : Msg) (d : Dev) (hd : MemWf d) : MemWf (peerRed young m d) := by
  unfold peerRed
  try dsimp only
  with_reducible repeat' (first | assumption | intro _ | apply peerAtomic_memWf | apply reply_memWf | apply MemWf.ite | apply MemWf.foldl | split)
theorem peerAnswer_memWf (op : Nat) (d : Dev) (hd : MemWf d) : MemWf (peerAnswer op d) := by
  unfold peerAnswer
  try dsimp only
  with_reducible repeat' (first | assumption | intro _ | apply devCount_memWf | apply finishReq_memWf | apply mirrorResponse_memWf | apply receive_memWf | (refine receive_memWf_eq (by assumption) ?_) | apply MemWf.ite | apply MemWf.foldl | split)
theorem responseDeadline_memWf (id : Nat) (d : Dev) (hd : MemWf d) : MemWf (responseDeadline id d) := by
  unfold responseDeadline
  try dsimp only
  with_reducible repeat' (first | assumption | intro _ | apply finishReq_memWf | apply MemWf.ite | apply MemWf.foldl | split)
theorem mdata_memWf (d : Dev) (p : Nat) (m : Msg) (tag : Nat) (bs : List Byte) (hd : MemWf d) : MemWf (mdata d p m tag bs) := by
  unfold mdata
  try dsimp only
  with_reducible repeat' (first | assumption | intro _ | apply inject_memWf | apply reply_memWf | apply MemWf.ite)
theorem mreadTaken_memWf (d : Dev) (hd : MemWf d) : MemWf (mreadTaken d) := by
  unfold mreadTaken
  try dsimp only
  with_reducible repeat' (first | assumption | intro _ | apply mdata_memWf | apply mgmtRead_memWf | (refine mgmtRead_memWf_eq (by assumption) ?_) | apply receiveAt_memWf | (refine receiveAt_memWf_eq (by assumption) ?_) | apply MemWf.ite | apply MemWf.foldl | split)
theorem mwriteTaken_memWf (d : Dev) (hd : MemWf d) : MemWf (mwriteTaken d) := by
  unfold mwriteTaken
  try dsimp only
  with_reducible repeat' (first | assumption | intro _ | apply Dev_free_memWf | (refine Dev_free_memWf_eq (by assumption) ?_) | apply mdata_memWf | apply mgmtWrite_memWf | (refine mgmtWrite_memWf_eq (by assumption) ?_) | apply receiveAt_memWf | (refine receiveAt_memWf_eq (by assumption) ?_) | apply MemWf.ite | apply MemWf.foldl | split)
theorem mdataTaken_memWf (d : Dev) (hd : MemWf d) : MemWf (mdataTaken d) := by
  unfold mdataTaken
  try dsimp only
  with_reducible repeat' (first | assumption | intro _ | apply devCount_memWf | apply probeAnswer_memWf | apply receive_memWf | (refine receive_memWf_eq (by assumption) ?_) | apply MemWf.ite | apply MemWf.foldl | split)

end Sys2Proof.Machine
end

