-- ==== Sys2Proof/Laws/MemWfCluster.lean ====
section
/-! SUPPORT. The device's memory keeps its canonical form (strictly rising addresses, no byte equal to what an unlisted one
reads as): one lemma for each operation of the model that answers a device, here for a cluster's fetch, syllables, vector and matrix units, memory operations and thread groups. -/

namespace Sys2Proof.Machine

/-! ## Fetch -/

theorem bufferLines_memWf (d : Dev) (l : Nat) (das : List Nat) (hd : MemWf d) : MemWf (bufferLines d l das) := by
  unfold bufferLines
  try dsimp only
  with_reducible repeat' (first | assumption | intro _ | apply updCl_memWf | apply MemWf.ite | apply MemWf.foldl | apply MemWf.foldl2 | apply MemWf.foldl1 | apply MemWf.foldl22 | split)

/-! ## Traps -/

theorem accrue_memWf (d : Dev) (l c : Nat) (hd : MemWf d) : MemWf (accrue d l c) := by
  unfold accrue
  try dsimp only
  with_reducible repeat' (first | assumption | intro _ | apply rset_memWf | apply rsetB_memWf | apply updCtx_memWf | apply MemWf.ite)
theorem saveGroup_memWf (d : Dev) (l c : Nat) (hd : MemWf d) : MemWf (saveGroup d l c) := by
  unfold saveGroup
  try dsimp only
  with_reducible repeat' (first | assumption | intro _ | apply onLanes_memWf | apply rset_memWf | apply setPcT_memWf | apply setTpc_memWf | apply MemWf.ite | apply MemWf.foldl | split)
theorem writeEntry_memWf (d : Dev) (l c : Nat) (r : EntryRegs) (t : Trap) (lost : Bool) (hd : MemWf d) : MemWf (writeEntry d l c r t lost) := by
  unfold writeEntry
  try dsimp only
  with_reducible repeat' (first | assumption | intro _ | apply rset_memWf)
theorem goHandler_memWf (d : Dev) (l c : Nat) (vec : Word) (hd : MemWf d) : MemWf (goHandler d l c vec) := by
  unfold goHandler
  try dsimp only
  with_reducible repeat' (first | assumption | intro _ | apply Dev_free_memWf | (refine Dev_free_memWf_eq (by assumption) ?_) | apply accrue_memWf | apply rset_memWf | apply rsetB_memWf | apply rsetF_memWf | apply updCl_memWf | apply updCtx_memWf | apply MemWf.ite | apply MemWf.foldl | split | refine MemWf.mk (MemWf.out ?_))
theorem openHandler_memWf (d : Dev) (l c lvl : Nat) (hd : MemWf d) : MemWf (openHandler d l c lvl) := by
  unfold openHandler
  try dsimp only
  with_reducible repeat' (first | assumption | intro _ | apply updCtx_memWf | apply MemWf.ite)
theorem takeTrap_memWf (d : Dev) (l c : Nat) (t : Trap) (isUnit : Bool) (hd : MemWf d) : MemWf (takeTrap d l c t isUnit) := by
  unfold takeTrap
  try dsimp only
  with_reducible repeat' (first | assumption | intro _ | apply clusterReset_memWf | apply goHandler_memWf | apply lvCause_memWf | apply openHandler_memWf | apply reportThird_memWf | apply rset_memWf | apply saveGroup_memWf | apply updCtx_memWf | apply writeEntry_memWf | apply MemWf.ite)
theorem applyTpend_memWf (d : Dev) (l c : Nat) (hd : MemWf d) : MemWf (applyTpend d l c) := by
  unfold applyTpend
  try dsimp only
  with_reducible repeat' (first | assumption | intro _ | apply rset_memWf | apply updCtx_memWf | apply MemWf.ite | apply MemWf.foldl)
theorem resumeAt_memWf (d : Dev) (l c : Nat) (addr btgt : Word) (ds : Bool) (hd : MemWf d) : MemWf (resumeAt d l c addr btgt ds) := by
  unfold resumeAt
  try dsimp only
  with_reducible repeat' (first | assumption | intro _ | apply onLanes_memWf | apply rsetB_memWf | apply updCtx_memWf | apply MemWf.ite)
theorem doTret_memWf (d : Dev) (l c lvl : Nat) (hd : MemWf d) : MemWf (doTret d l c lvl) := by
  unfold doTret
  try dsimp only
  with_reducible repeat' (first | assumption | intro _ | apply applyTpend_memWf | apply resumeAt_memWf | apply rset_memWf | apply rsetB_memWf | apply rsetF_memWf | apply updCtx_memWf | apply MemWf.ite)
theorem parkCtx_memWf (d : Dev) (l c : Nat) (p : Park) (hd : MemWf d) : MemWf (parkCtx d l c p) := by
  unfold parkCtx
  try dsimp only
  with_reducible repeat' (first | assumption | intro _ | apply accrue_memWf | apply updCl_memWf | apply updCtx_memWf)

/-! ## Tiles -/

theorem tZeroAll_memWf (d : Dev) (l t : Nat) (hd : MemWf d) : MemWf (tZeroAll d l t) := by
  unfold tZeroAll
  try dsimp only
  with_reducible repeat' (first | assumption | intro _ | apply updCl_memWf)
theorem tSet_memWf (d : Dev) (l t ty owner rows cols : Nat) (hd : MemWf d) : MemWf (tSet d l t ty owner rows cols) := by
  unfold tSet
  try dsimp only
  with_reducible repeat' (first | assumption | intro _ | apply rset_memWf)
theorem tRelease_memWf (d : Dev) (l t : Nat) (hd : MemWf d) : MemWf (tRelease d l t) := by
  unfold tRelease
  try dsimp only
  with_reducible repeat' (first | assumption | intro _ | apply rsetB_memWf | apply MemWf.ite)
theorem tDeclare_memWf (d : Dev) (l t ty owner rows cols : Nat) (hd : MemWf d) : MemWf (tDeclare d l t ty owner rows cols) := by
  unfold tDeclare
  try dsimp only
  with_reducible repeat' (first | assumption | intro _ | apply tRelease_memWf | apply tSet_memWf | apply tZeroAll_memWf | apply MemWf.ite)
theorem tstateWrite_memWf (d : Dev) (l o : Nat) (v : Word) (hd : MemWf d) : MemWf (tstateWrite d l o v) := by
  unfold tstateWrite
  try dsimp only
  with_reducible repeat' (first | assumption | intro _ | apply rset_memWf | apply tDeclare_memWf | apply tRelease_memWf | apply tSet_memWf | apply MemWf.ite)
theorem tPutRow_memWf (d : Dev) (l t r : Nat) (v : BitVec 512) (hd : MemWf d) : MemWf (tPutRow d l t r v) := by
  unfold tPutRow
  try dsimp only
  with_reducible repeat' (first | assumption | intro _ | apply updCl_memWf)
theorem tPut_memWf (d : Dev) (l t ty r c v : Nat) (hd : MemWf d) : MemWf (tPut d l t ty r c v) := by
  unfold tPut
  try dsimp only
  with_reducible repeat' (first | assumption | intro _ | apply tPutRow_memWf | apply MemWf.ite | apply MemWf.foldl | split)

/-! ## Retire -/

theorem setcApply_memWf (d : Dev) (l c o : Nat) (v : Word) (hd : MemWf d) : MemWf (setcApply d l c o v) := by
  unfold setcApply
  try dsimp only
  with_reducible repeat' (first | assumption | intro _ | apply mmErr_memWf | apply regWrite_memWf | apply rset_memWf | apply startMask_memWf | apply stopMask_memWf | apply tstateWrite_memWf | apply updCtx_memWf | apply MemWf.ite | apply MemWf.foldl | split)
theorem shadowAfter_memWf (before : List Modes) (d : Dev) (l c : Nat) (hd : MemWf d) : MemWf (shadowAfter before d l c) := by
  unfold shadowAfter
  try dsimp only
  with_reducible repeat' (first | assumption | intro _ | apply updCtx_memWf | apply MemWf.ite | apply MemWf.foldl)
theorem doSetc_memWf (d : Dev) (l c o : Nat) (v : Word) (hd : MemWf d) : MemWf (doSetc d l c o v) := by
  unfold doSetc
  try dsimp only
  with_reducible repeat' (first | assumption | intro _ | apply setcApply_memWf | apply shadowAfter_memWf)
theorem acquireAt_memWf (d : Dev) (l scope : Nat) (hd : MemWf d) : MemWf (acquireAt d l scope) := by
  unfold acquireAt
  try dsimp only
  with_reducible repeat' (first | assumption | intro _ | apply l1Clear_memWf | apply rsetF_memWf | apply updCl_memWf | apply updQ_memWf | apply MemWf.ite)
theorem cleanCluster_memWf (d : Dev) (l : Nat) (hd : MemWf d) : MemWf (cleanCluster d l) := by
  unfold cleanCluster
  try dsimp only
  with_reducible repeat' (first | assumption | intro _ | apply ccPut_memWf | apply cleanLineNow_memWf | apply MemWf.ite | apply MemWf.foldl)
theorem doStore_memWf (d : Dev) (l c : Nat) (mere : Bool) (a n v : Nat) (hd : MemWf d) : MemWf (doStore d l c mere a n v) := by
  unfold doStore
  try dsimp only
  with_reducible repeat' (first | assumption | intro _ | apply clusterStore_memWf | apply mereWrite_memWf | apply mgmtWrite_memWf | (refine mgmtWrite_memWf_eq (by assumption) ?_) | apply MemWf.ite | apply MemWf.foldl | split)
theorem doPref_memWf (d : Dev) (l c hint da : Nat) (hd : MemWf d) : MemWf (doPref d l c hint da) := by
  unfold doPref
  try dsimp only
  with_reducible repeat' (first | assumption | intro _ | apply newReq_memWf | apply MemWf.ite | apply MemWf.foldl | apply MemWf.foldl2 | apply MemWf.foldl1 | apply MemWf.foldl22 | split)
theorem addCopy_memWf (d : Dev) (l c : Nat) (w : List Word) (md : Modes) (hd : MemWf d) : MemWf (addCopy d l c w md) := by
  unfold addCopy
  try dsimp only
  with_reducible repeat' (first | assumption | intro _ | apply refreshCpstat_memWf | apply updCl_memWf)
theorem applyEff_memWf (l c : Nat) (b : WB) (p : Dev × Next) (e : Eff) (hp : MemWf p.1) : MemWf (applyEff l c b p e).1 := by
  unfold applyEff
  try dsimp only
  with_reducible repeat' (first | assumption | intro _ | apply acquireAt_memWf | apply addCopy_memWf | apply doPref_memWf | apply doSetc_memWf | apply doStore_memWf | apply rset_memWf | apply rsetB_memWf | apply sendEvents_memWf | apply updCl_memWf | apply updCtx_memWf | apply MemWf.ite | apply MemWf.foldl | split)
theorem applyEff_memWf_eq {l c : Nat} {b : WB} {p : Dev × Next} {e : Eff} {dd : Dev} {r1}  (h : applyEff l c b p e = (dd, r1)) (hp : MemWf p.1) : MemWf dd := by
  have g := applyEff_memWf l c b p e hp
  rw [h] at g
  exact g
theorem loopEnd_memWf (d : Dev) (l c : Nat) (addr : Word) (n : Nat) (hd : MemWf d) : MemWf (loopEnd d l c addr n).1 := by
  induction n generalizing d with
  | zero => exact hd
  | succ n ih =>
    unfold loopEnd
    split
    · split
      · dsimp only
        split
        · exact rset_memWf _ _ _ hd
        · exact ih _ (rsetB_memWf _ _ _ _ (rset_memWf _ _ _ hd))
      · exact hd
    · exact hd
theorem loopEnd_memWf_eq {d : Dev} {l c : Nat} {addr : Word} {n : Nat} {e : Dev} {r} (h : loopEnd d l c addr n = (e, r)) (hd : MemWf d) :
    MemWf e := by
  have g := loopEnd_memWf d l c addr n hd
  rw [h] at g
  exact g
theorem enqueue_memWf (d : Dev) (l c : Nat) (o : QOp) (hd : MemWf d) : MemWf (enqueue d l c o) := by
  unfold enqueue
  try dsimp only
  with_reducible repeat' (first | assumption | intro _ | apply updCtx_memWf)
theorem tickShadow_memWf (d : Dev) (l c : Nat) (hd : MemWf d) : MemWf (tickShadow d l c) := by
  unfold tickShadow
  try dsimp only
  with_reducible repeat' (first | assumption | intro _ | apply onLanes_memWf | apply setTpc_memWf | apply updCtx_memWf | apply MemWf.ite | apply MemWf.foldl | split)
theorem advance_memWf (d : Dev) (l c : Nat) (b : WB) (next : Word) (dl : Option Delay) (hd : MemWf d) : MemWf (advance d l c b next dl) := by
  unfold advance
  try dsimp only
  with_reducible repeat' (first | assumption | intro _ | apply onLanes_memWf | apply setPcT_memWf | apply updCtx_memWf | apply MemWf.ite | apply MemWf.foldl | split)
theorem retireBundle_memWf (d : Dev) (l c : Nat) (hd : MemWf d) : MemWf (retireBundle d l c) := by
  unfold retireBundle
  try dsimp only
  with_reducible repeat' (first | assumption | intro _ | apply advance_memWf | apply applyEff_memWf | (refine applyEff_memWf_eq (by assumption) ?_) | apply doTret_memWf | apply enqueue_memWf | apply loopEnd_memWf | (refine loopEnd_memWf_eq (by assumption) ?_) | apply tickShadow_memWf | apply updCl_memWf | apply updCtx_memWf | apply MemWf.ite | apply MemWf.foldl | apply MemWf.foldl2 | apply MemWf.foldl1 | apply MemWf.foldl22 | split)
theorem retire_memWf (d : Dev) (l c : Nat) (hd : MemWf d) : MemWf (retire d l c) := by
  unfold retire
  try dsimp only
  with_reducible repeat' (first | assumption | intro _ | apply retireBundle_memWf | apply settleReset_memWf)
theorem retireIf_memWf (d : Dev) (l c : Nat) (hd : MemWf d) : MemWf (retireIf d l c) := by
  unfold retireIf
  try dsimp only
  with_reducible repeat' (first | assumption | intro _ | apply retire_memWf | apply MemWf.ite)
theorem setSyl_memWf (d : Dev) (l c slot : Nat) (st : SylSt) (eff : List Eff) (hd : MemWf d) : MemWf (setSyl d l c slot st eff) := by
  unfold setSyl
  try dsimp only
  with_reducible repeat' (first | assumption | intro _ | apply updCtx_memWf)
theorem failSyl_memWf (d : Dev) (l c slot : Nat) (t : Trap) (hd : MemWf d) : MemWf (failSyl d l c slot t) := by
  unfold failSyl
  try dsimp only
  with_reducible repeat' (first | assumption | intro _ | apply setSyl_memWf)

/-! ## Records -/

theorem clusterTlb_memWf (d : Dev) (l : Nat) (e : Tlb) (hd : MemWf d) : MemWf (clusterTlb d l e) := by
  unfold clusterTlb
  try dsimp only
  with_reducible repeat' (first | assumption | intro _ | apply Dev_choose_memWf | (refine Dev_choose_memWf_eq (by assumption) ?_) | apply updCl_memWf)
theorem quarterTlb_memWf (d : Dev) (q : Nat) (e : Tlb) (hd : MemWf d) : MemWf (quarterTlb d q e) := by
  unfold quarterTlb
  try dsimp only
  with_reducible repeat' (first | assumption | intro _ | apply Dev_choose_memWf | (refine Dev_choose_memWf_eq (by assumption) ?_) | apply updQ_memWf)
theorem dropReplicas_memWf (d : Dev) (k : AccKind) (r : AccRes) (hd : MemWf d) : MemWf (dropReplicas d k r) := by
  unfold dropReplicas
  try dsimp only
  with_reducible repeat' (first | assumption | intro _ | apply updTract_memWf | apply MemWf.ite | apply MemWf.foldl | split)
theorem accessQ_memWf (d : Dev) (l : Nat) (md : Modes) (va : Word) (k : AccKind) (hd : MemWf d) : MemWf (accessQ d l md va k).2 := by
  unfold accessQ
  try dsimp only
  with_reducible repeat' (first | assumption | intro _ | apply clusterTlb_memWf | apply dropReplicas_memWf | apply MemWf.ite | apply MemWf.foldl | split)
theorem accessQ_memWf_eq {d : Dev} {l : Nat} {md : Modes} {va : Word} {k : AccKind} {dd : Dev} {r1}  (h : accessQ d l md va k = (r1, dd)) (hd : MemWf d) : MemWf dd := by
  have g := accessQ_memWf d l md va k hd
  rw [h] at g
  exact g
theorem joinRecord_memWf {d : Dev} {q : Nat} {va : Word} {kind acc level asid : Nat} {dev : Word} {first : Nat} {e : Dev} {a} (h : joinRecord d q va kind acc level asid dev first = some (a, e)) (hd : MemWf d) : MemWf e := by
  unfold joinRecord at h
  try dsimp only at h
  repeat' split at h
  all_goals first | cases h; done | skip
  all_goals (cases h)
  all_goals (with_reducible repeat' (first | assumption | intro _ | apply refreshOpen_memWf | apply updQ_memWf | apply MemWf.ite | apply MemWf.foldl | (refine MemWf.mk ?_; refine MemWf.out ?_; first | assumption | intro _ | apply refreshOpen_memWf | apply updQ_memWf | apply MemWf.ite | apply MemWf.foldl) | split))
theorem faultCtx_memWf (d : Dev) (l c : Nat) (va : Word) (kind acc level asid : Nat) (dev : Word) (vec : Bool) (hd : MemWf d) : MemWf (faultCtx d l c va kind acc level asid dev vec) := by
  unfold faultCtx
  try dsimp only
  with_reducible repeat' (first | assumption | intro _ | (refine joinRecord_memWf (e := _) (by assumption) ?_) | apply parkCtx_memWf | apply updCl_memWf | apply updCtx_memWf | apply updQ_memWf | apply MemWf.ite | apply MemWf.foldl | split)
theorem faultCopy_memWf (d : Dev) (l id : Nat) (va : Word) (kind acc level asid : Nat) (dev : Word) (hd : MemWf d) : MemWf (faultCopy d l id va kind acc level asid dev) := by
  unfold faultCopy
  try dsimp only
  with_reducible repeat' (first | assumption | intro _ | (refine joinRecord_memWf (e := _) (by assumption) ?_) | apply setCopy_memWf | apply updQ_memWf | apply MemWf.ite | apply MemWf.foldl | split)

/-! ## Pipeline -/

theorem settleOne_memWf (l : Nat) (p : Dev × Nat) (c : Nat) (hp : MemWf p.1) : MemWf (settleOne l p c).1 := by
  unfold settleOne
  try dsimp only
  with_reducible repeat' (first | assumption | intro _ | apply retire_memWf | apply setSyl_memWf | apply MemWf.ite | apply MemWf.foldl | split)
theorem settleOne_memWf_eq {l : Nat} {p : Dev × Nat} {c : Nat} {dd : Dev} {r1}  (h : settleOne l p c = (dd, r1)) (hp : MemWf p.1) : MemWf dd := by
  have g := settleOne_memWf l p c hp
  rw [h] at g
  exact g
theorem settle_memWf (d : Dev) (l : Nat) (hd : MemWf d) : MemWf (settle d l) := by
  unfold settle
  try dsimp only
  with_reducible repeat' (first | assumption | intro _ | apply settleOne_memWf | (refine settleOne_memWf_eq (by assumption) ?_) | apply MemWf.ite | apply MemWf.foldl | apply MemWf.foldl2 | apply MemWf.foldl1)
theorem issueCtx_memWf (d : Dev) (l c : Nat) (hd : MemWf d) : MemWf (issueCtx d l c) := by
  unfold issueCtx
  try dsimp only
  with_reducible repeat' (first | assumption | intro _ | apply bufferLines_memWf | apply faultCtx_memWf | apply rset_memWf | apply updCtx_memWf | apply MemWf.ite | apply MemWf.foldl | split)
theorem issueAll_memWf (d : Dev) (l : Nat) (cs : List Nat) (hd : MemWf d) : MemWf (issueAll d l cs) := by
  unfold issueAll
  try dsimp only
  with_reducible repeat' (first | assumption | intro _ | apply issueCtx_memWf | apply updCtx_memWf | apply MemWf.ite | apply MemWf.foldl)
theorem bundleIssue_memWf (l : Nat) (d : Dev) (hd : MemWf d) : MemWf (bundleIssue l d) := by
  unfold bundleIssue
  try dsimp only
  with_reducible repeat' (first | assumption | intro _ | apply issueAll_memWf | apply MemWf.ite | apply MemWf.foldl | split)
theorem packedIssue_memWf (l groups : Nat) (d : Dev) (hd : MemWf d) : MemWf (packedIssue l groups d) := by
  unfold packedIssue
  try dsimp only
  with_reducible repeat' (first | assumption | intro _ | apply issueAll_memWf | apply MemWf.ite | apply MemWf.foldl | split)
theorem bundleRetire_memWf (l c : Nat) (d : Dev) (hd : MemWf d) : MemWf (bundleRetire l c d) := by
  unfold bundleRetire
  try dsimp only
  with_reducible repeat' (first | assumption | intro _ | apply retireIf_memWf | apply settle_memWf | apply MemWf.ite | apply MemWf.foldl | split)
theorem fillCode_memWf (d : Dev) (l da v : Nat) (hd : MemWf d) : MemWf (fillCode d l da v) := by
  unfold fillCode
  try dsimp only
  with_reducible repeat' (first | assumption | intro _ | apply Dev_choose_memWf | (refine Dev_choose_memWf_eq (by assumption) ?_) | apply updCl_memWf | apply MemWf.ite | apply MemWf.foldl | split)
theorem icacheRemote_memWf (d : Dev) (l c la : Nat) (t : Target) (attr : Nat) (hd : MemWf d) :
    MemWf (icacheFill.icacheRemote d l c la t attr) := by
  unfold icacheFill.icacheRemote
  repeat' (first | with_reducible assumption | intro _ | with_reducible apply updCtx_memWf | with_reducible apply dropReq_memWf | with_reducible apply fillCode_memWf | with_reducible apply newReq_memWf | with_reducible apply MemWf.ite | with_reducible apply MemWf.foldl | (with_reducible refine MemWf.mk ?_; with_reducible refine MemWf.out ?_; first | with_reducible assumption | with_reducible apply updCtx_memWf | with_reducible apply dropReq_memWf | with_reducible apply fillCode_memWf | with_reducible apply newReq_memWf) | split)
theorem icacheFill_memWf (l c : Nat) (d : Dev) (hd : MemWf d) : MemWf (icacheFill l c d) := by
  unfold icacheFill
  repeat' (first | with_reducible assumption | intro _ | with_reducible apply updCtx_memWf | with_reducible apply homeNote_memWf | with_reducible apply fillCode_memWf | with_reducible apply icacheRemote_memWf | with_reducible apply MemWf.ite | with_reducible apply MemWf.foldl | (with_reducible refine MemWf.mk ?_; with_reducible refine MemWf.out ?_; first | with_reducible assumption | with_reducible apply updCtx_memWf | with_reducible apply homeNote_memWf | with_reducible apply fillCode_memWf | with_reducible apply icacheRemote_memWf) | split)
theorem clearDeferred_memWf (d : Dev) (l c : Nat) (t : Trap) (hd : MemWf d) : MemWf (clearDeferred d l c t) := by
  unfold clearDeferred
  try dsimp only
  with_reducible repeat' (first | assumption | intro _ | apply updCtx_memWf)
theorem trapEntry_memWf (l c : Nat) (d : Dev) (hd : MemWf d) : MemWf (trapEntry l c d) := by
  unfold trapEntry
  try dsimp only
  with_reducible repeat' (first | assumption | intro _ | apply clearDeferred_memWf | apply settle_memWf | apply takeTrap_memWf | apply MemWf.ite | apply MemWf.foldl | split)
theorem interruptEntry_memWf (l c : Nat) (d : Dev) (hd : MemWf d) : MemWf (interruptEntry l c d) := by
  unfold interruptEntry
  try dsimp only
  with_reducible repeat' (first | assumption | intro _ | apply settle_memWf | apply takeTrap_memWf | apply MemWf.ite | apply MemWf.foldl | split)
theorem contextStart_memWf (ag : Agent) (l mask : Nat) (d : Dev) (hd : MemWf d) : MemWf (contextStart ag l mask d) := by
  unfold contextStart
  try dsimp only
  with_reducible repeat' (first | assumption | intro _ | apply mgmtWrite_memWf)
theorem contextStop_memWf (ag : Agent) (l mask : Nat) (d : Dev) (hd : MemWf d) : MemWf (contextStop ag l mask d) := by
  unfold contextStop
  try dsimp only
  with_reducible repeat' (first | assumption | intro _ | apply mgmtWrite_memWf | (refine mgmtWrite_memWf_eq (by assumption) ?_) | apply settle_memWf)
theorem contextEnd_memWf (l c : Nat) (d : Dev) (hd : MemWf d) : MemWf (contextEnd l c d) := by
  unfold contextEnd
  try dsimp only
  with_reducible repeat' (first | assumption | intro _ | apply discardBundle_memWf | apply endContext_memWf | apply settle_memWf | apply MemWf.ite)

/-! ## Scalar -/

theorem onSyl_memWf (l c slot : Nat) (op : Op) (p : SylSt → Bool) (k : WB → Syl → Ctx → Dev) (d : Dev)
    (hk : ∀ b y x, MemWf (k b y x)) (hd : MemWf d) : MemWf (onSyl l c slot op p k d) := by
  unfold onSyl
  split
  · exact hk _ _ _
  · exact hd
theorem doneReg_memWf (d : Dev) (l c slot : Nat) (w : Syllable) (v : Word) (hd : MemWf d) : MemWf (doneReg d l c slot w v) := by
  unfold doneReg
  try dsimp only
  with_reducible repeat' (first | assumption | intro _ | apply setSyl_memWf)
theorem aluSyl_memWf (l c slot : Nat) (d : Dev) (hd : MemWf d) : MemWf (aluSyl l c slot d) := by
  unfold aluSyl
  try dsimp only
  with_reducible repeat' (first | assumption | intro _ | apply doneReg_memWf | apply onSyl_memWf)
theorem addsSyl_memWf (l c slot : Nat) (d : Dev) (hd : MemWf d) : MemWf (addsSyl l c slot d) := by
  unfold addsSyl
  try dsimp only
  with_reducible repeat' (first | assumption | intro _ | apply doneReg_memWf | apply failSyl_memWf | apply onSyl_memWf | apply MemWf.ite)
theorem mulSyl_memWf (l c : Nat) (d : Dev) (hd : MemWf d) : MemWf (mulSyl l c d) := by
  unfold mulSyl
  try dsimp only
  with_reducible repeat' (first | assumption | intro _ | apply doneReg_memWf | apply onSyl_memWf)
theorem takeDivider_memWf (l c : Nat) (op : Op) (d : Dev) (hd : MemWf d) : MemWf (takeDivider l c op d) := by
  unfold takeDivider
  try dsimp only
  with_reducible repeat' (first | assumption | intro _ | apply onSyl_memWf | apply setSyl_memWf | apply updCl_memWf | apply MemWf.ite)
theorem finishFloat_memWf (d : Dev) (l c : Nat) (md : Modes) (w : Syllable) (r : Word × Nat) (hd : MemWf d) : MemWf (finishFloat d l c md w r) := by
  unfold finishFloat
  try dsimp only
  with_reducible repeat' (first | assumption | intro _ | apply failSyl_memWf | apply setSyl_memWf | apply MemWf.ite)
theorem floatSyl_memWf (l c : Nat) (op : Op) (d : Dev) (hd : MemWf d) : MemWf (floatSyl l c op d) := by
  unfold floatSyl
  try dsimp only
  with_reducible repeat' (first | assumption | intro _ | apply finishFloat_memWf | apply onSyl_memWf)
theorem finishDivide_memWf (d : Dev) (l c : Nat) (b : WB) (y : Syl) (x : Ctx) (hd : MemWf d) : MemWf (finishDivide d l c b y x) := by
  unfold finishDivide
  try dsimp only
  with_reducible repeat' (first | assumption | intro _ | apply doneReg_memWf | apply failSyl_memWf | apply MemWf.ite)
theorem divideComplete_memWf (l : Nat) (d : Dev) (hd : MemWf d) : MemWf (divideComplete l d) := by
  unfold divideComplete
  try dsimp only
  with_reducible repeat' (first | assumption | intro _ | apply finishDivide_memWf | apply finishFloat_memWf | apply onSyl_memWf | apply updCl_memWf | apply MemWf.ite | apply MemWf.foldl | split)
theorem askSector_memWf (d : Dev) (l c da : Nat) (t : Target) (attr : Nat) (hd : MemWf d) : MemWf (askSector d l c da t attr) := by
  unfold askSector
  try dsimp only
  with_reducible repeat' (first | assumption | intro _ | apply newReq_memWf | apply setSyl_memWf | apply MemWf.ite)
theorem loadSyl_memWf (l c : Nat) (d : Dev) (hd : MemWf d) : MemWf (loadSyl l c d) := by
  unfold loadSyl
  try dsimp only
  with_reducible repeat' (first | assumption | intro _ | apply accessQ_memWf | (refine accessQ_memWf_eq (by assumption) ?_) | apply askSector_memWf | apply clusterRead_memWf | (refine clusterRead_memWf_eq (by assumption) ?_) | apply doneReg_memWf | apply failSyl_memWf | apply faultCtx_memWf | apply mgmtRead_memWf | (refine mgmtRead_memWf_eq (by assumption) ?_) | apply onSyl_memWf | apply setSyl_memWf | apply MemWf.ite | apply MemWf.foldl | split)
theorem takeSector_memWf (d : Dev) (l id : Nat) (r : Req) (hd : MemWf d) : MemWf (takeSector d l id r) := by
  unfold takeSector
  try dsimp only
  with_reducible repeat' (first | assumption | intro _ | apply clusterFill_memWf | apply dropReq_memWf)
theorem scalarLoadReturn_memWf (l c : Nat) (d : Dev) (hd : MemWf d) : MemWf (scalarLoadReturn l c d) := by
  unfold scalarLoadReturn
  try dsimp only
  with_reducible repeat' (first | assumption | intro _ | apply clusterRead_memWf | (refine clusterRead_memWf_eq (by assumption) ?_) | apply doneReg_memWf | apply dropReq_memWf | apply failSyl_memWf | apply setSyl_memWf | apply takeSector_memWf | apply MemWf.ite | apply MemWf.foldl | split)
theorem storeSyl_memWf (l c : Nat) (d : Dev) (hd : MemWf d) : MemWf (storeSyl l c d) := by
  unfold storeSyl
  try dsimp only
  with_reducible repeat' (first | assumption | intro _ | apply accessQ_memWf | (refine accessQ_memWf_eq (by assumption) ?_) | apply failSyl_memWf | apply faultCtx_memWf | apply onSyl_memWf | apply setSyl_memWf | apply MemWf.ite | apply MemWf.foldl | split)
theorem getcSyl_memWf (l c : Nat) (d : Dev) (hd : MemWf d) : MemWf (getcSyl l c d) := by
  unfold getcSyl
  try dsimp only
  with_reducible repeat' (first | assumption | intro _ | apply doneReg_memWf | apply onSyl_memWf | apply setSyl_memWf | apply MemWf.ite | apply MemWf.foldl | split)
theorem setcSyl_memWf (l c : Nat) (d : Dev) (hd : MemWf d) : MemWf (setcSyl l c d) := by
  unfold setcSyl
  try dsimp only
  with_reducible repeat' (first | assumption | intro _ | apply failSyl_memWf | apply onSyl_memWf | apply setSyl_memWf | apply split_memWf | apply MemWf.ite)
theorem sevtSyl_memWf (l c : Nat) (d : Dev) (hd : MemWf d) : MemWf (sevtSyl l c d) := by
  unfold sevtSyl
  try dsimp only
  with_reducible repeat' (first | assumption | intro _ | apply onSyl_memWf | apply setSyl_memWf)
theorem waitEvent_memWf (l c : Nat) (op : Op) (d : Dev) (hd : MemWf d) : MemWf (waitEvent l c op d) := by
  unfold waitEvent
  try dsimp only
  with_reducible repeat' (first | assumption | intro _ | apply onSyl_memWf | apply setSyl_memWf | apply settle_memWf | apply updCl_memWf)
theorem tallyAtLeast_memWf (d : Dev) (l : Nat) (v : Word) (hd : MemWf d) : MemWf (tallyAtLeast d l v) := by
  unfold tallyAtLeast
  try dsimp only
  with_reducible repeat' (first | assumption | intro _ | apply rset_memWf | apply MemWf.ite)
theorem wtalReached_memWf (l c : Nat) (d : Dev) (hd : MemWf d) : MemWf (wtalReached l c d) := by
  unfold wtalReached
  try dsimp only
  with_reducible repeat' (first | assumption | intro _ | apply onSyl_memWf | apply settle_memWf | apply tallyAtLeast_memWf)
theorem eventDelivery_memWf (i : Nat) (d : Dev) (hd : MemWf d) : MemWf (eventDelivery i d) := by
  unfold eventDelivery
  try dsimp only
  with_reducible repeat' (first | assumption | intro _ | apply rset_memWf | apply settle_memWf | apply updCl_memWf | apply MemWf.ite | apply MemWf.foldl | split | refine MemWf.mk (MemWf.out ?_))
theorem tallyCompareMatch_memWf (l c : Nat) (d : Dev) (hd : MemWf d) : MemWf (tallyCompareMatch l c d) := by
  unfold tallyCompareMatch
  try dsimp only
  with_reducible repeat' (first | assumption | intro _ | apply settle_memWf | apply tallyAtLeast_memWf | apply MemWf.ite)
theorem branchSyl_memWf (d : Dev) (l c : Nat) (b : WB) (isCall : Bool) (taken : Bool) (tgt : Word) (hd : MemWf d) : MemWf (branchSyl d l c b isCall taken tgt) := by
  unfold branchSyl
  try dsimp only
  with_reducible repeat' (first | assumption | intro _ | apply Dev_free_memWf | (refine Dev_free_memWf_eq (by assumption) ?_) | apply setSyl_memWf | apply MemWf.ite | apply MemWf.foldl | split)
theorem brSyl_memWf (l c : Nat) (d : Dev) (hd : MemWf d) : MemWf (brSyl l c d) := by
  unfold brSyl
  try dsimp only
  with_reducible repeat' (first | assumption | intro _ | apply branchSyl_memWf | apply onSyl_memWf)
theorem jrSyl_memWf (l c : Nat) (d : Dev) (hd : MemWf d) : MemWf (jrSyl l c d) := by
  unfold jrSyl
  try dsimp only
  with_reducible repeat' (first | assumption | intro _ | apply branchSyl_memWf | apply onSyl_memWf)
theorem bcSyl_memWf (l c : Nat) (d : Dev) (hd : MemWf d) : MemWf (bcSyl l c d) := by
  unfold bcSyl
  try dsimp only
  with_reducible repeat' (first | assumption | intro _ | apply onSyl_memWf | apply setSyl_memWf)
theorem loopSyl_memWf (l c : Nat) (d : Dev) (hd : MemWf d) : MemWf (loopSyl l c d) := by
  unfold loopSyl
  try dsimp only
  with_reducible repeat' (first | assumption | intro _ | apply failSyl_memWf | apply faultCtx_memWf | apply onSyl_memWf | apply setSyl_memWf | apply MemWf.ite | apply MemWf.foldl | split)
theorem oneEff_memWf (l c : Nat) (op : Op) (e : Syl → Eff) (d : Dev) (hd : MemWf d) : MemWf (oneEff l c op e d) := by
  unfold oneEff
  try dsimp only
  with_reducible repeat' (first | assumption | intro _ | apply onSyl_memWf | apply setSyl_memWf)
theorem vsetvlSyl_memWf (l c : Nat) (d : Dev) (hd : MemWf d) : MemWf (vsetvlSyl l c d) := by
  unfold vsetvlSyl
  try dsimp only
  with_reducible repeat' (first | assumption | intro _ | apply onSyl_memWf | apply setSyl_memWf)
theorem tretSyl_memWf (l c : Nat) (d : Dev) (hd : MemWf d) : MemWf (tretSyl l c d) := by
  unfold tretSyl
  try dsimp only
  with_reducible repeat' (first | assumption | intro _ | apply onSyl_memWf | apply setSyl_memWf | apply MemWf.ite)
/-- The device that a frame operation's running result holds. -/
def Units.dev : Units → Dev
  | .stop d => d
  | .go d _ _ => d
theorem saveUnit_memWf (l c : Nat) (b : WB) (base : Word) (u : Units) (e : Nat × List Byte) (hu : MemWf u.dev) :
    MemWf (saveUnit l c b base u e).dev := by
  unfold saveUnit
  split
  · exact hu
  · rename_i d effs got
    extract_lets a r d'
    have hd' : MemWf d' := accessQ_memWf _ _ _ _ _ hu
    clear_value d'
    repeat' split
    all_goals first | exact hd' | exact failSyl_memWf _ _ _ _ _ hd' | exact setSyl_memWf _ _ _ _ _ _ hd' | exact faultCtx_memWf _ _ _ _ _ _ _ _ _ _ hd'
theorem Units.foldl_memWf {β : Type} (f : Units → β → Units) (hf : ∀ u x, MemWf u.dev → MemWf (f u x).dev) (xs : List β) (u : Units)
    (hu : MemWf u.dev) : MemWf (xs.foldl f u).dev := by
  induction xs generalizing u with
  | nil => exact hu
  | cons x xs ih => exact ih _ (hf u x hu)
theorem ifsaveSyl_memWf (l c : Nat) (d : Dev) (hd : MemWf d) : MemWf (ifsaveSyl l c d) := by
  unfold ifsaveSyl
  refine onSyl_memWf _ _ _ _ _ _ _ (fun b y x => ?_) hd
  extract_lets a us
  clear_value a us
  split
  · exact failSyl_memWf _ _ _ _ _ hd
  · have g := Units.foldl_memWf (saveUnit l c b a) (fun u e h => saveUnit_memWf l c b a u e h) ((List.range us.length).zip us) (.go d [] []) hd
    revert g
    generalize ((List.range us.length).zip us).foldl (saveUnit l c b a) (.go d [] []) = r
    intro g
    cases r with
    | stop e => exact g
    | go e effs got => exact setSyl_memWf _ _ _ _ _ _ g
theorem loadUnit_memWf (l c : Nat) (b : WB) (base : Word) (u : Units) (i : Nat) (hu : MemWf u.dev) :
    MemWf (loadUnit l c b base u i).dev := by
  unfold loadUnit
  split
  · exact hu
  · rename_i d effs got
    extract_lets a r d'
    have hd' : MemWf d' := accessQ_memWf _ _ _ _ _ hu
    clear_value d'
    repeat' split
    all_goals first | exact hd' | exact failSyl_memWf _ _ _ _ _ hd' | exact setSyl_memWf _ _ _ _ _ _ hd' | exact faultCtx_memWf _ _ _ _ _ _ _ _ _ _ hd' | (rename_i h _; have g := clusterRead_memWf_eq h hd'; exact failSyl_memWf _ _ _ _ _ g) | (rename_i h _; exact clusterRead_memWf_eq h hd') | (rename_i h; exact askSector_memWf _ _ _ _ _ _ (clusterRead_memWf_eq h hd'))
theorem ifloadSyl_memWf (l c : Nat) (d : Dev) (hd : MemWf d) : MemWf (ifloadSyl l c d) := by
  unfold ifloadSyl
  refine onSyl_memWf _ _ _ _ _ _ _ (fun b y x => ?_) hd
  extract_lets a bad
  have hbad : ∀ e o, MemWf e → MemWf (bad e o) := fun e o h => failSyl_memWf _ _ _ _ _ h
  clear_value a bad
  split
  · exact failSyl_memWf _ _ _ _ _ hd
  · have g := loadUnit_memWf l c b a (.go d [] []) 0 hd
    revert g
    generalize loadUnit l c b a (.go d [] []) 0 = r
    intro g
    cases r with
    | stop e => exact g
    | go e effs hs =>
      dsimp only
      have ge : MemWf e := g
      split
      · exact hbad _ _ ge
      · have g2 := Units.foldl_memWf (loadUnit l c b a) (fun u i h => loadUnit_memWf l c b a u i h) ((List.range (numAt (hs.headD []) 0 2 + numAt (hs.headD []) 2 2)).map (· + 1)) (.go e [] hs) ge
        revert g2
        generalize ((List.range (numAt (hs.headD []) 0 2 + numAt (hs.headD []) 2 2)).map (· + 1)).foldl (loadUnit l c b a) (.go e [] hs) = r
        intro g2
        cases r with
        | stop e => exact g2
        | go e effs us =>
          dsimp only
          split
          · exact hbad _ _ g2
          · exact setSyl_memWf _ _ _ _ _ _ g2

/-! ## Vector -/

theorem setVHead_memWf (d : Dev) (l c : Nat) (o : QOp) (hd : MemWf d) : MemWf (setVHead d l c o) := by
  unfold setVHead
  try dsimp only
  with_reducible repeat' (first | assumption | intro _ | apply updCtx_memWf)
theorem refreshPend_memWf (d : Dev) (l c : Nat) (hd : MemWf d) : MemWf (refreshPend d l c) := by
  unfold refreshPend
  try dsimp only
  with_reducible repeat' (first | assumption | intro _ | apply updCtx_memWf)
theorem unitFault_memWf (d : Dev) (l c : Nat) (isX : Bool) (t : Trap) (hd : MemWf d) : MemWf (unitFault d l c isX t) := by
  unfold unitFault
  try dsimp only
  with_reducible repeat' (first | assumption | intro _ | apply accrue_memWf | apply refreshPend_memWf | apply updCl_memWf | apply updCtx_memWf | apply MemWf.ite)
theorem vectorOpStart_memWf (l : Nat) (d : Dev) (hd : MemWf d) : MemWf (vectorOpStart l d) := by
  unfold vectorOpStart
  try dsimp only
  with_reducible repeat' (first | assumption | intro _ | apply updCl_memWf | apply MemWf.ite | apply MemWf.foldl | split)
theorem vGroups_memWf (l n : Nat) (op : Op) (d : Dev) (hd : MemWf d) : MemWf (vGroups l n op d) := by
  unfold vGroups
  try dsimp only
  with_reducible repeat' (first | assumption | intro _ | apply rset_memWf | apply setCtx_memWf | apply setVHead_memWf | apply unitFault_memWf | apply MemWf.ite | apply MemWf.foldl | apply MemWf.foldl2 | apply MemWf.foldl1 | apply MemWf.foldl22 | split)
theorem vWhole_memWf (l : Nat) (op : Op) (k : Ctx → QOp → Ctx × Option (Bool × Nat × Word)) (d : Dev) (hd : MemWf d) : MemWf (vWhole l op k d) := by
  unfold vWhole
  try dsimp only
  with_reducible repeat' (first | assumption | intro _ | apply setCtx_memWf | apply updCl_memWf | apply MemWf.ite | apply MemWf.foldl | split)
theorem vReduce_memWf (l : Nat) (op : Op) (d : Dev) (hd : MemWf d) : MemWf (vReduce l op d) := by
  unfold vReduce
  try dsimp only
  with_reducible repeat' (first | assumption | intro _ | apply setVHead_memWf | apply unitFault_memWf | apply vWhole_memWf | apply MemWf.ite | apply MemWf.foldl | split)
theorem vectorOpComplete_memWf (l : Nat) (d : Dev) (hd : MemWf d) : MemWf (vectorOpComplete l d) := by
  unfold vectorOpComplete
  try dsimp only
  with_reducible repeat' (first | assumption | intro _ | apply accrue_memWf | apply acquireAt_memWf | apply refreshPend_memWf | apply rset_memWf | apply updCl_memWf | apply updCtx_memWf | apply MemWf.ite | apply MemWf.foldl | split)
theorem summaryArrival_memWf (l : Nat) (d : Dev) (hd : MemWf d) : MemWf (summaryArrival l d) := by
  unfold summaryArrival
  try dsimp only
  with_reducible repeat' (first | assumption | intro _ | apply refreshPend_memWf | apply rset_memWf | apply updCl_memWf | apply updCtx_memWf | apply MemWf.ite | apply MemWf.foldl | split)

/-! ## VMem -/

theorem elemAccess_memWf (d : Dev) (l : Nat) (x : Ctx) (o : QOp) (i : Nat) (hd : MemWf d) : MemWf (elemAccess d l x o i).2 := by
  unfold elemAccess
  try dsimp only
  with_reducible repeat' (first | assumption | intro _ | apply accessQ_memWf | (refine accessQ_memWf_eq (by assumption) ?_) | apply MemWf.ite | apply MemWf.foldl | apply MemWf.foldl2)
theorem elemAccess_memWf_eq {d : Dev} {l : Nat} {x : Ctx} {o : QOp} {i : Nat} {dd : Dev} {r1}  (h : elemAccess d l x o i = (r1, dd)) (hd : MemWf d) : MemWf dd := by
  have g := elemAccess_memWf d l x o i hd
  rw [h] at g
  exact g
theorem gotField_memWf (d : Dev) (l c i f v : Nat) (hd : MemWf d) : MemWf (gotField d l c i f v) := by
  unfold gotField
  try dsimp only
  with_reducible repeat' (first | assumption | intro _ | apply updCtx_memWf)
theorem needField_memWf (d : Dev) (l c i f g da : Nat) (t : Target) (attr : Nat) (hd : MemWf d) : MemWf (needField d l c i f g da t attr) := by
  unfold needField
  try dsimp only
  with_reducible repeat' (first | assumption | intro _ | apply newReq_memWf | apply updCtx_memWf | apply MemWf.ite)
theorem loadField_memWf (d : Dev) (l c g i f w : Nat) (r : AccRes) (hd : MemWf d) : MemWf (loadField d l c g i f w r) := by
  unfold loadField
  try dsimp only
  with_reducible repeat' (first | assumption | intro _ | apply clusterRead_memWf | (refine clusterRead_memWf_eq (by assumption) ?_) | apply gotField_memWf | apply mgmtRead_memWf | (refine mgmtRead_memWf_eq (by assumption) ?_) | apply needField_memWf | apply MemWf.ite | apply MemWf.foldl | split)
theorem storeField_memWf (d : Dev) (l c w v : Nat) (r : AccRes) (hd : MemWf d) : MemWf (storeField d l c w v r) := by
  unfold storeField
  try dsimp only
  with_reducible repeat' (first | assumption | intro _ | apply clusterStore_memWf | apply mereWrite_memWf | apply mgmtWrite_memWf | (refine mgmtWrite_memWf_eq (by assumption) ?_) | apply MemWf.ite | apply MemWf.foldl | split)
theorem redField_memWf (d : Dev) (l c op w v : Nat) (va : Word) (r : AccRes) (hd : MemWf d) : MemWf (redField d l c op w v va r) := by
  unfold redField
  try dsimp only
  with_reducible repeat' (first | assumption | intro _ | apply deferMC_memWf | apply flushSector_memWf | apply mereWrite_memWf | apply newReq_memWf | apply MemWf.ite | apply MemWf.foldl | split)
theorem atomicLane_memWf (d : Dev) (l c op w i : Nat) (o : QOp) (va : Word) (r : AccRes) (hd : MemWf d) : MemWf (atomicLane d l c op w i o va r) := by
  unfold atomicLane
  try dsimp only
  with_reducible repeat' (first | assumption | intro _ | apply deferMC_memWf | apply flushSector_memWf | apply mereWrite_memWf | apply newReq_memWf | apply updCtx_memWf | apply MemWf.ite | apply MemWf.foldl | split)
theorem doElem_memWf (d : Dev) (l c : Nat) (o : QOp) (i : Nat) (rs : List (Word × AccRes)) (hd : MemWf d) : MemWf (doElem d l c o i rs) := by
  unfold doElem
  try dsimp only
  with_reducible repeat' (first | assumption | intro _ | apply atomicLane_memWf | apply loadField_memWf | apply redField_memWf | apply storeField_memWf | apply MemWf.ite | apply MemWf.foldl | apply MemWf.foldl2 | apply MemWf.foldl1 | apply MemWf.foldl22 | split)
theorem memEnter_memWf (l c : Nat) (o : QOp) (m : MRun) (i : Nat) (hm : MemWf m.d) : MemWf (memEnter l c o m i).d := by
  unfold memEnter
  split
  · exact hm
  · split
    · exact hm
    · split
      rename_i h
      have g := elemAccess_memWf_eq h hm
      split
      · exact g
      · exact doElem_memWf _ _ _ _ _ _ g
theorem memEnter_foldl_memWf (l c : Nat) (o : QOp) (xs : List Nat) (m : MRun) (hm : MemWf m.d) :
    MemWf (xs.foldl (memEnter l c o) m).d := by
  induction xs generalizing m with
  | nil => exact hm
  | cons x xs ih => exact ih _ (memEnter_memWf l c o m x hm)
theorem memRun_memWf (l n : Nat) (op : Op) (d : Dev) (hd : MemWf d) : MemWf (memRun l n op d) := by
  unfold memRun
  split
  · rename_i c x o _
    split
    · exact hd
    · dsimp only
      have g := memEnter_foldl_memWf l c o (upTo o.pos (min (memTotal o) ((o.pos / memE o + n) * memE o))) ⟨d, none, none, []⟩ hd
      revert g
      generalize (upTo o.pos (min (memTotal o) ((o.pos / memE o + n) * memE o))).foldl (memEnter l c o) ⟨d, none, none, []⟩ = m
      intro g
      repeat' (first | with_reducible assumption | intro _ | with_reducible apply setVHead_memWf | with_reducible apply updCtx_memWf | with_reducible apply updCl_memWf | with_reducible apply faultCtx_memWf | with_reducible apply rset_memWf | with_reducible apply unitFault_memWf | with_reducible apply MemWf.ite | with_reducible apply MemWf.foldl | (with_reducible refine MemWf.mk ?_; with_reducible refine MemWf.out ?_; first | with_reducible assumption | with_reducible apply setVHead_memWf | with_reducible apply updCtx_memWf | with_reducible apply updCl_memWf | with_reducible apply faultCtx_memWf | with_reducible apply rset_memWf | with_reducible apply unitFault_memWf) | split)
  · exact hd
theorem memGroups_memWf (l n : Nat) (op : Op) (d : Dev) (hd : MemWf d) : MemWf (memGroups l n op d) := by
  unfold memGroups
  try dsimp only
  with_reducible repeat' (first | assumption | intro _ | apply memRun_memWf | apply settleReset_memWf)
theorem orphanReqs_memWf (d : Dev) (l c : Nat) (hd : MemWf d) : MemWf (orphanReqs d l c) := by
  unfold orphanReqs
  try dsimp only
  with_reducible repeat' (first | assumption | intro _ | apply MemWf.ite | apply MemWf.foldl | split | refine MemWf.mk (MemWf.out ?_))
theorem arriveElems_memWf (d : Dev) (l c : Nat) (o : QOp) (rs : List Req) (is : List Nat) (hd : MemWf d) : MemWf (arriveElems d l c o rs is).1 := by
  unfold arriveElems
  try dsimp only
  with_reducible repeat' (first | assumption | intro _ | apply updCtx_memWf | apply MemWf.ite | apply MemWf.foldl | apply MemWf.foldl2 | apply MemWf.foldl1 | apply MemWf.foldl22 | split)
theorem arriveElems_memWf_eq {d : Dev} {l c : Nat} {o : QOp} {rs : List Req} {is : List Nat} {dd : Dev} {r1}  (h : arriveElems d l c o rs is = (dd, r1)) (hd : MemWf d) : MemWf dd := by
  have g := arriveElems_memWf d l c o rs is hd
  rw [h] at g
  exact g
theorem arriveAtomics_memWf (d : Dev) (l c : Nat) (o : QOp) (rs : List (Nat × Req)) (hd : MemWf d) : MemWf (arriveAtomics d l c o rs).1 := by
  unfold arriveAtomics
  try dsimp only
  with_reducible repeat' (first | assumption | intro _ | apply deferMC_memWf | apply dropReq_memWf | apply updCtx_memWf | apply MemWf.ite | apply MemWf.foldl | apply MemWf.foldl2 | apply MemWf.foldl1 | apply MemWf.foldl22 | split)
theorem arriveAtomics_memWf_eq {d : Dev} {l c : Nat} {o : QOp} {rs : List (Nat × Req)} {dd : Dev} {r1}  (h : arriveAtomics d l c o rs = (dd, r1)) (hd : MemWf d) : MemWf dd := by
  have g := arriveAtomics_memWf d l c o rs hd
  rw [h] at g
  exact g
theorem memStopAt_memWf (d : Dev) (l c i : Nat) (t : Trap) (hd : MemWf d) : MemWf (memStopAt d l c i t) := by
  unfold memStopAt
  try dsimp only
  with_reducible repeat' (first | assumption | intro _ | apply orphanReqs_memWf | apply rset_memWf | apply unitFault_memWf | apply updCtx_memWf)
theorem loadGroupArrival_memWf (l c g : Nat) (d : Dev) (hd : MemWf d) : MemWf (loadGroupArrival l c g d) := by
  unfold loadGroupArrival
  try dsimp only
  with_reducible repeat' (first | assumption | intro _ | apply arriveAtomics_memWf | (refine arriveAtomics_memWf_eq (by assumption) ?_) | apply arriveElems_memWf | (refine arriveElems_memWf_eq (by assumption) ?_) | apply clusterFill_memWf | apply dropReq_memWf | apply memStopAt_memWf | apply updCtx_memWf | apply MemWf.ite | apply MemWf.foldl | apply MemWf.foldl2 | apply MemWf.foldl1 | apply MemWf.foldl22 | split)
theorem vectorWalkResume_memWf (l : Nat) (d : Dev) (hd : MemWf d) : MemWf (vectorWalkResume l d) := by
  unfold vectorWalkResume
  try dsimp only
  with_reducible repeat' (first | assumption | intro _ | apply faultCtx_memWf | apply updCl_memWf | apply updCtx_memWf | apply MemWf.ite | apply MemWf.foldl | split)

/-! ## Matrix -/

theorem setupDeclare_memWf (d : Dev) (l c : Nat) (o : QOp) (hd : MemWf d) : MemWf (setupDeclare d l c o) := by
  unfold setupDeclare
  try dsimp only
  with_reducible repeat' (first | assumption | intro _ | apply tDeclare_memWf | apply MemWf.ite | apply MemWf.foldl | split)
theorem setXHead_memWf (d : Dev) (l c : Nat) (o : QOp) (hd : MemWf d) : MemWf (setXHead d l c o) := by
  unfold setXHead
  try dsimp only
  with_reducible repeat' (first | assumption | intro _ | apply updCtx_memWf)
theorem groupTile_memWf (d : Dev) (l c : Nat) (o : QOp) (isLoad : Bool) (hd : MemWf d) : MemWf (groupTile d l c o isLoad) := by
  unfold groupTile
  try dsimp only
  with_reducible repeat' (first | assumption | intro _ | apply onLanes_memWf | apply tPut_memWf | apply updCtx_memWf | apply MemWf.ite)
theorem matrixOpStart_memWf (l : Nat) (d : Dev) (hd : MemWf d) : MemWf (matrixOpStart l d) := by
  unfold matrixOpStart
  try dsimp only
  with_reducible repeat' (first | assumption | intro _ | apply groupTile_memWf | apply setupDeclare_memWf | apply unitFault_memWf | apply updCl_memWf | apply updCtx_memWf | apply MemWf.ite | apply MemWf.foldl | split)
theorem xopaGroup_memWf (d : Dev) (l c : Nat) (o : QOp) (g : Nat) (hd : MemWf d) : MemWf (xopaGroup d l c o g) := by
  unfold xopaGroup
  try dsimp only
  with_reducible repeat' (first | assumption | intro _ | apply tPut_memWf | apply updCtx_memWf | apply MemWf.ite | apply MemWf.foldl | apply MemWf.foldl2 | apply MemWf.foldl1)
theorem xUnits_memWf (l n : Nat) (op : Op) (size : QOp → Nat) (bad : Dev → Nat → QOp → Nat → Option Word)
    (unit : Dev → Nat → Nat → QOp → Nat → Dev) (d : Dev) (hu : ∀ e l c o i, MemWf e → MemWf (unit e l c o i)) (hd : MemWf d) :
    MemWf (xUnits l n op size bad unit d) := by
  unfold xUnits
  split
  · split
    · exact hd
    · rename_i c x o _ _
      dsimp only
      generalize hr : (List.range n).foldl _ _ = r
      have g : MemWf r.d := by
        rw [← hr]
        clear hr
        generalize List.range n = xs
        have : ∀ (a : XRun), MemWf a.d → MemWf (xs.foldl (fun (r : XRun) _ =>
            if r.err.isSome ∨ xTotal o ≤ r.pos then r
            else match bad r.d l o (r.pos / size o) with
              | some v => { r with err := some (mcheck 2 v) }
              | none => { r with d := unit r.d l c o (r.pos / size o), pos := (r.pos / size o + 1) * size o }) a).d := by
          induction xs with
          | nil => exact fun a h => h
          | cons y ys ih =>
            intro a h
            refine ih _ ?_
            dsimp only
            split
            · exact h
            · split
              · exact h
              · exact hu _ _ _ _ _ h
        exact this _ hd
      split
      · exact rset_memWf _ _ _ (unitFault_memWf _ _ _ _ _ (setXHead_memWf _ _ _ _ g))
      · exact setXHead_memWf _ _ _ _ g
  · exact hd
theorem xopaRun_memWf (l n : Nat) (d : Dev) (hd : MemWf d) : MemWf (xopaRun l n d) := by
  unfold xopaRun
  try dsimp only
  with_reducible repeat' (first | assumption | intro _ | apply xUnits_memWf | apply xopaGroup_memWf)
theorem xWhole_memWf (l : Nat) (op : Op) (k : Dev → Nat → QOp → Dev) (d : Dev) (hk : ∀ e c o, MemWf e → MemWf (k e c o)) (hd : MemWf d) :
    MemWf (xWhole l op k d) := by
  unfold xWhole
  split
  · exact MemWf.ite hd (updCtx_memWf _ _ _ _ (hk _ _ _ hd))
  · exact hd
theorem tzeroRun_memWf (l : Nat) (d : Dev) (hd : MemWf d) : MemWf (tzeroRun l d) := by
  unfold tzeroRun
  try dsimp only
  with_reducible repeat' (first | assumption | intro _ | apply tDeclare_memWf | apply xWhole_memWf)
theorem trelRun_memWf (l : Nat) (d : Dev) (hd : MemWf d) : MemWf (trelRun l d) := by
  unfold trelRun
  try dsimp only
  with_reducible repeat' (first | assumption | intro _ | apply tRelease_memWf | apply xWhole_memWf)
theorem srNext_memWf (d : Dev) (l : Nat) (hd : MemWf d) : MemWf (srNext d l).2 := by
  unfold srNext
  try dsimp only
  with_reducible repeat' (first | assumption | intro _ | apply rset_memWf)
theorem srNext_memWf_eq {d : Dev} {l : Nat} {dd : Dev} {r1}  (h : srNext d l = (r1, dd)) (hd : MemWf d) : MemWf dd := by
  have g := srNext_memWf d l hd
  rw [h] at g
  exact g
theorem srDraws_memWf (d : Dev) (l : Nat) (sto : Bool) (n : Nat) (hd : MemWf d) : MemWf (srDraws d l sto n).2 := by
  unfold srDraws
  try dsimp only
  with_reducible repeat' (first | assumption | intro _ | apply srNext_memWf | (refine srNext_memWf_eq (by assumption) ?_) | apply MemWf.ite | apply MemWf.foldl | apply MemWf.foldl2 | apply MemWf.foldl1 | apply MemWf.foldl22 | split)
theorem srDraws_memWf_eq {d : Dev} {l : Nat} {sto : Bool} {n : Nat} {dd : Dev} {r1}  (h : srDraws d l sto n = (r1, dd)) (hd : MemWf d) : MemWf dd := by
  have g := srDraws_memWf d l sto n hd
  rw [h] at g
  exact g
theorem putScales_memWf (d : Dev) (l f : Nat) (o : QOp) (i : Nat) (ss : List Nat) (hd : MemWf d) : MemWf (putScales d l f o i ss) := by
  unfold putScales
  try dsimp only
  with_reducible repeat' (first | assumption | intro _ | apply mereWrite_memWf | apply MemWf.ite | apply MemWf.foldl)
theorem tldRow_memWf (d : Dev) (l ty : Nat) (o : QOp) (i : Nat) (hd : MemWf d) : MemWf (tldRow d l ty o i).2.2.2 := by
  unfold tldRow
  try dsimp only
  with_reducible repeat' (first | assumption | intro _ | apply srDraws_memWf | (refine srDraws_memWf_eq (by assumption) ?_) | apply MemWf.ite | apply MemWf.foldl | apply MemWf.foldl2 | apply MemWf.foldl1 | apply MemWf.foldl22 | split)
theorem tldRow_memWf_eq {d : Dev} {l ty : Nat} {o : QOp} {i : Nat} {dd : Dev} {r1} {r2} {r3} (h : tldRow d l ty o i = (r1, r2, r3, dd)) (hd : MemWf d) : MemWf dd := by
  have g := tldRow_memWf d l ty o i hd
  rw [h] at g
  exact g
theorem tldUnit_memWf (d : Dev) (l c : Nat) (o : QOp) (i : Nat) (hd : MemWf d) : MemWf (tldUnit d l c o i) := by
  unfold tldUnit
  try dsimp only
  with_reducible repeat' (first | assumption | intro _ | apply putScales_memWf | apply tPut_memWf | apply tldRow_memWf | (refine tldRow_memWf_eq (by assumption) ?_) | apply updCtx_memWf | apply MemWf.ite | apply MemWf.foldl)
theorem tldRun_memWf (l n : Nat) (d : Dev) (hd : MemWf d) : MemWf (tldRun l n d) := by
  unfold tldRun
  try dsimp only
  with_reducible repeat' (first | assumption | intro _ | apply tldUnit_memWf | apply xUnits_memWf)
theorem tstUnit_memWf (d : Dev) (l c : Nat) (o : QOp) (i : Nat) (hd : MemWf d) : MemWf (tstUnit d l c o i) := by
  unfold tstUnit
  try dsimp only
  with_reducible repeat' (first | assumption | intro _ | apply mereWrite_memWf | apply putScales_memWf | apply srDraws_memWf | (refine srDraws_memWf_eq (by assumption) ?_) | apply updCtx_memWf | apply MemWf.ite)
theorem tstRun_memWf (l n : Nat) (d : Dev) (hd : MemWf d) : MemWf (tstRun l n d) := by
  unfold tstRun
  try dsimp only
  with_reducible repeat' (first | assumption | intro _ | apply tstUnit_memWf | apply xUnits_memWf)
theorem taccUnit_memWf (d : Dev) (l c : Nat) (o : QOp) (i : Nat) (hd : MemWf d) : MemWf (taccUnit d l c o i) := by
  unfold taccUnit
  try dsimp only
  with_reducible repeat' (first | assumption | intro _ | apply tPut_memWf | apply updCtx_memWf | apply MemWf.ite | apply MemWf.foldl | apply MemWf.foldl2 | apply MemWf.foldl1)
theorem taccRun_memWf (l n : Nat) (d : Dev) (hd : MemWf d) : MemWf (taccRun l n d) := by
  unfold taccRun
  try dsimp only
  with_reducible repeat' (first | assumption | intro _ | apply taccUnit_memWf | apply xUnits_memWf)
theorem matrixOpComplete_memWf (l : Nat) (d : Dev) (hd : MemWf d) : MemWf (matrixOpComplete l d) := by
  unfold matrixOpComplete
  try dsimp only
  with_reducible repeat' (first | assumption | intro _ | apply accrue_memWf | apply refreshPend_memWf | apply rset_memWf | apply updCl_memWf | apply updCtx_memWf | apply MemWf.ite | apply MemWf.foldl | split)
theorem clTstateWrite_memWf (l c : Nat) (d : Dev) (hd : MemWf d) : MemWf (clTstateWrite l c d) := by
  unfold clTstateWrite
  try dsimp only
  with_reducible repeat' (first | assumption | intro _ | apply onSyl_memWf | apply retireIf_memWf | apply setSyl_memWf | apply settle_memWf | apply MemWf.ite)
theorem resizeMere_memWf (d : Dev) (l w : Nat) (hd : MemWf d) : MemWf (resizeMere d l w) := by
  unfold resizeMere
  try dsimp only
  with_reducible repeat' (first | assumption | intro _ | apply cleanLineNow_memWf | apply rsetF_memWf | apply updCl_memWf | apply MemWf.ite | apply MemWf.foldl)
theorem clMereResize_memWf (l c : Nat) (d : Dev) (hd : MemWf d) : MemWf (clMereResize l c d) := by
  unfold clMereResize
  try dsimp only
  with_reducible repeat' (first | assumption | intro _ | apply onSyl_memWf | apply resizeMere_memWf | apply retireIf_memWf | apply setSyl_memWf | apply settle_memWf | apply MemWf.ite)

/-! ## Fences -/

theorem releaseClean_memWf (d : Dev) (l ord scope : Nat) (hd : MemWf d) : MemWf (releaseClean d l ord scope) := by
  unfold releaseClean
  try dsimp only
  with_reducible repeat' (first | assumption | intro _ | apply cleanCluster_memWf | apply MemWf.ite)
theorem failStoreErr_memWf (d : Dev) (l c : Nat) (a : Word) (hd : MemWf d) : MemWf (failStoreErr d l c a) := by
  unfold failStoreErr
  try dsimp only
  with_reducible repeat' (first | assumption | intro _ | apply failSyl_memWf | apply updCtx_memWf)
theorem fenceSyl_memWf (l c : Nat) (d : Dev) (hd : MemWf d) : MemWf (fenceSyl l c d) := by
  unfold fenceSyl
  try dsimp only
  with_reducible repeat' (first | assumption | intro _ | apply onSyl_memWf | apply setSyl_memWf)
theorem amoSyl_memWf (l c : Nat) (d : Dev) (hd : MemWf d) : MemWf (amoSyl l c d) := by
  unfold amoSyl
  try dsimp only
  with_reducible repeat' (first | assumption | intro _ | apply accessQ_memWf | (refine accessQ_memWf_eq (by assumption) ?_) | apply failStoreErr_memWf | apply failSyl_memWf | apply faultCtx_memWf | apply flushSector_memWf | apply mereWrite_memWf | apply newReq_memWf | apply onSyl_memWf | apply releaseClean_memWf | apply setSyl_memWf | apply MemWf.ite | apply MemWf.foldl | split)
theorem atomicReturn_memWf (l c : Nat) (d : Dev) (hd : MemWf d) : MemWf (atomicReturn l c d) := by
  unfold atomicReturn
  try dsimp only
  with_reducible repeat' (first | assumption | intro _ | apply dropReq_memWf | apply failSyl_memWf | apply retireIf_memWf | apply setSyl_memWf | apply settle_memWf | apply MemWf.ite | apply MemWf.foldl | split)
theorem fenceComplete_memWf (l c : Nat) (d : Dev) (hd : MemWf d) : MemWf (fenceComplete l c d) := by
  unfold fenceComplete
  try dsimp only
  with_reducible repeat' (first | assumption | intro _ | apply amoSyl_memWf | apply failStoreErr_memWf | apply onSyl_memWf | apply releaseClean_memWf | apply retireIf_memWf | apply setSyl_memWf | apply settle_memWf | apply MemWf.ite | apply MemWf.foldl | split)

/-! ## Thread -/

theorem threadGroups_memWf (l n : Nat) (d : Dev) (hd : MemWf d) : MemWf (threadGroups l n d) := by
  unfold threadGroups
  try dsimp only
  with_reducible repeat' (first | assumption | intro _ | apply rset_memWf | apply setCtx_memWf | apply setVHead_memWf | apply unitFault_memWf | apply MemWf.ite | apply MemWf.foldl | apply MemWf.foldl2 | apply MemWf.foldl1 | apply MemWf.foldl22 | split)
theorem threadAtomics_memWf (l n : Nat) (d : Dev) (hd : MemWf d) : MemWf (threadAtomics l n d) := by
  unfold threadAtomics
  try dsimp only
  with_reducible repeat' (first | assumption | intro _ | apply memGroups_memWf | apply releaseClean_memWf | apply unitFault_memWf | apply updCtx_memWf | apply MemWf.ite | apply MemWf.foldl | split)
theorem threadBranchOp_memWf (l : Nat) (d : Dev) (hd : MemWf d) : MemWf (threadBranchOp l d) := by
  unfold threadBranchOp
  try dsimp only
  with_reducible repeat' (first | assumption | intro _ | apply Dev_free_memWf | (refine Dev_free_memWf_eq (by assumption) ?_) | apply setCtx_memWf | apply MemWf.ite | apply MemWf.foldl | split | refine MemWf.mk (MemWf.out ?_))
theorem threadResolve_memWf (l c : Nat) (d : Dev) (hd : MemWf d) : MemWf (threadResolve l c d) := by
  unfold threadResolve
  try dsimp only
  with_reducible repeat' (first | assumption | intro _ | apply updCtx_memWf | apply vectorOpComplete_memWf | apply MemWf.ite | apply MemWf.foldl | split)

/-! ## Groups -/

theorem yieldThreads_memWf (d : Dev) (l c act : Nat) (hd : MemWf d) : MemWf (yieldThreads d l c act) := by
  unfold yieldThreads
  try dsimp only
  with_reducible repeat' (first | assumption | intro _ | apply updCtx_memWf)
theorem gyield_memWf (l c : Nat) (d : Dev) (hd : MemWf d) : MemWf (gyield l c d) := by
  unfold gyield
  try dsimp only
  with_reducible repeat' (first | assumption | intro _ | apply retire_memWf | apply settle_memWf | apply yieldThreads_memWf | apply MemWf.ite | apply MemWf.foldl | split)
theorem releaseColl_memWf (d : Dev) (l c : Nat) (a : Word) (hd : MemWf d) : MemWf (releaseColl d l c a) := by
  unfold releaseColl
  try dsimp only
  with_reducible repeat' (first | assumption | intro _ | apply onLanes_memWf | apply rset_memWf | apply setSt_memWf | apply updCtx_memWf | apply MemWf.ite | apply MemWf.foldl | split)
theorem checkColls_memWf (d : Dev) (l c : Nat) (hd : MemWf d) : MemWf (checkColls d l c) := by
  unfold checkColls
  try dsimp only
  with_reducible repeat' (first | assumption | intro _ | apply releaseColl_memWf | apply updCtx_memWf | apply MemWf.ite | apply MemWf.foldl | split)
theorem texit_memWf (l c : Nat) (d : Dev) (hd : MemWf d) : MemWf (texit l c d) := by
  unfold texit
  try dsimp only
  with_reducible repeat' (first | assumption | intro _ | apply checkColls_memWf | apply onLanes_memWf | apply retire_memWf | apply rset_memWf | apply setSt_memWf | apply settle_memWf | apply updCtx_memWf | apply MemWf.ite | apply MemWf.foldl | split)
theorem freeW_memWf (d : Dev) (l c : Nat) (hd : MemWf d) : MemWf (freeW d l c) := by
  unfold freeW
  try dsimp only
  with_reducible repeat' (first | assumption | intro _ | apply tickShadow_memWf | apply updCtx_memWf)
theorem retireThreads_memWf (d : Dev) (l c : Nat) (b : WB) (m : Nat) (hd : MemWf d) : MemWf (retireThreads d l c b m) := by
  unfold retireThreads
  try dsimp only
  with_reducible repeat' (first | assumption | intro _ | apply onLanes_memWf | apply setTpc_memWf)
theorem collLoop_memWf (d : Dev) (l c : Nat) (b : WB) (m : Nat) (hd : MemWf d) : MemWf (collLoop d l c b m) := by
  unfold collLoop
  have g := loopEnd_memWf d l c b.addr 2 hd
  split
  rename_i h
  have g := loopEnd_memWf_eq h hd
  split
  · exact onLanes_memWf _ _ _ (fun _ _ h => setPcT_memWf _ _ _ _ _ h) g
  · exact g
theorem splitFault_memWf (d : Dev) (l c : Nat) (b : WB) (tval : Nat) (hd : MemWf d) : MemWf (splitFault d l c b tval) := by
  unfold splitFault
  try dsimp only
  with_reducible repeat' (first | assumption | intro _ | apply releaseColl_memWf | apply updCtx_memWf)
theorem arrive_memWf (d : Dev) (l c : Nat) (b : WB) (m : Nat) (mask : Option Nat) (hd : MemWf d) : MemWf (arrive d l c b m mask) := by
  unfold arrive
  try dsimp only
  with_reducible repeat' (first | assumption | intro _ | apply onLanes_memWf | apply retireThreads_memWf | apply setTpc_memWf | apply updCtx_memWf | apply MemWf.ite)
theorem finishColl_memWf (d : Dev) (l c m : Nat) (a seq : Word) (hd : MemWf d) : MemWf (finishColl d l c m a seq) := by
  unfold finishColl
  try dsimp only
  with_reducible repeat' (first | assumption | intro _ | apply onLanes_memWf | apply setTpc_memWf | apply updCtx_memWf)
theorem perform_memWf (d : Dev) (l c : Nat) (op : Op) (b : WB) (w : Syllable) (m : Nat) (hd : MemWf d) : MemWf (perform d l c op b w m) := by
  unfold perform
  try dsimp only
  with_reducible repeat' (first | assumption | intro _ | apply enqueue_memWf | apply updCtx_memWf | apply MemWf.ite | apply MemWf.foldl | split)
theorem collective_memWf (op : Op) (l c : Nat) (d : Dev) (hd : MemWf d) : MemWf (collective op l c d) := by
  unfold collective
  try dsimp only
  with_reducible repeat' (first | assumption | intro _ | apply arrive_memWf | apply checkColls_memWf | apply collLoop_memWf | apply finishColl_memWf | apply freeW_memWf | apply perform_memWf | apply retireThreads_memWf | apply settle_memWf | apply splitFault_memWf | apply updCtx_memWf | apply MemWf.ite | apply MemWf.foldl | split)
theorem gbarTry_memWf (d : Dev) (l blk : Nat) (hd : MemWf d) : MemWf (gbarTry d l blk) := by
  unfold gbarTry
  try dsimp only
  with_reducible repeat' (first | assumption | intro _ | apply acquireAt_memWf | apply finishColl_memWf | apply MemWf.ite | apply MemWf.foldl | apply MemWf.foldl2 | apply MemWf.foldl1 | apply MemWf.foldl22 | split)
theorem gbarLoop_memWf (d : Dev) (l c : Nat) (b : WB) (m : Nat) (hd : MemWf d) : MemWf (gbarLoop d l c b m) := by
  unfold gbarLoop
  split
  rename_i h
  have g := loopEnd_memWf_eq h hd
  split
  · exact g
  · exact updCtx_memWf _ _ _ _ g
theorem gbar_memWf (l c : Nat) (d : Dev) (hd : MemWf d) : MemWf (gbar l c d) := by
  unfold gbar
  try dsimp only
  with_reducible repeat' (first | assumption | intro _ | apply arrive_memWf | apply checkColls_memWf | apply freeW_memWf | apply gbarLoop_memWf | apply gbarTry_memWf | apply settle_memWf | apply splitFault_memWf | apply MemWf.ite | apply MemWf.foldl | split)

end Sys2Proof.Machine
end

