-- ==== Sys2Proof/Laws/MemWfUnits.lean ====
section
/-! SUPPORT. The device's memory keeps its canonical form (strictly rising addresses, no byte equal to what an unlisted one
reads as): one lemma for each operation of the model that answers a device, here for the copies, the caches' maintenance, the walks, the twin, the faults and the board. -/

namespace Sys2Proof.Machine

/-! ## Copies -/

theorem copySyl_memWf (l c : Nat) (d : Dev) (hd : MemWf d) : MemWf (copySyl l c d) := by
  unfold copySyl
  try dsimp only
  with_reducible repeat' (first | assumption | intro _ | apply failSyl_memWf | apply onSyl_memWf | apply setSyl_memWf | apply MemWf.ite | apply MemWf.foldl | split)
theorem sideFill_memWf (d : Dev) (l da v : Nat) (bad : Bool) (hd : MemWf d) : MemWf (sideFill d l da v bad) := by
  unfold sideFill
  try dsimp only
  with_reducible repeat' (first | assumption | intro _ | apply rsetF_memWf | apply updCl_memWf | apply MemWf.ite | apply MemWf.foldl | split)
theorem copyStop_memWf (d : Dev) (l id : Nat) (cp : Copy) (cause : Nat) (a : Word) (hd : MemWf d) : MemWf (copyStop d l id cp cause a) := by
  unfold copyStop
  try dsimp only
  with_reducible repeat' (first | assumption | intro _ | apply setCopy_memWf)
theorem copyBlocked_memWf {d : Dev} {l id : Nat} {cp : Copy} {k : AccKind} {a : Word} {r : AccRes} {e : Dev}  (h : copyBlocked d l id cp k a r = some e) (hd : MemWf d) : MemWf e := by
  unfold copyBlocked at h
  try dsimp only at h
  repeat' split at h
  all_goals first | cases h; done | skip
  all_goals (cases h)
  all_goals (with_reducible repeat' (first | assumption | intro _ | apply copyStop_memWf | apply faultCopy_memWf | apply MemWf.ite | apply MemWf.foldl | (refine MemWf.mk ?_; refine MemWf.out ?_; first | assumption | intro _ | apply copyStop_memWf | apply faultCopy_memWf | apply MemWf.ite | apply MemWf.foldl) | split))
theorem mereWriteMask_memWf (d : Dev) (l off n m v : Nat) (hd : MemWf d) : MemWf (mereWriteMask d l off n m v) := by
  unfold mereWriteMask
  try dsimp only
  with_reducible repeat' (first | assumption | intro _ | apply mereWrite_memWf | apply MemWf.ite | apply MemWf.foldl)
theorem copyWrite_memWf (d : Dev) (l id : Nat) (cp : Copy) (u : CUnit) (v : Nat) (hd : MemWf d) : MemWf (copyWrite d l id cp u v) := by
  unfold copyWrite
  try dsimp only
  with_reducible repeat' (first | assumption | intro _ | apply accessQ_memWf | (refine accessQ_memWf_eq (by assumption) ?_) | apply ccAlloc_memWf | (refine ccAlloc_memWf_eq (by assumption) ?_) | apply ccPut_memWf | (refine copyBlocked_memWf (e := _) (by assumption) ?_) | apply flushSector_memWf | apply mereWriteMask_memWf | apply newReq_memWf | apply promote_memWf | apply setCopy_memWf | apply MemWf.ite | apply MemWf.foldl | split)
theorem copyRead_memWf (d : Dev) (l id : Nat) (cp : Copy) (u : CUnit) (hd : MemWf d) : MemWf (copyRead d l id cp u) := by
  unfold copyRead
  try dsimp only
  with_reducible repeat' (first | assumption | intro _ | apply Dev_free_memWf | (refine Dev_free_memWf_eq (by assumption) ?_) | apply accessQ_memWf | (refine accessQ_memWf_eq (by assumption) ?_) | apply clusterRead_memWf | (refine clusterRead_memWf_eq (by assumption) ?_) | (refine copyBlocked_memWf (e := _) (by assumption) ?_) | apply copyStop_memWf | apply copyWrite_memWf | apply newReq_memWf | apply MemWf.ite | apply MemWf.foldl | split | refine MemWf.mk (MemWf.out ?_))
theorem copyPrefetch_memWf (d : Dev) (l id : Nat) (cp : Copy) (u : CUnit) (hd : MemWf d) : MemWf (copyPrefetch d l id cp u) := by
  unfold copyPrefetch
  try dsimp only
  with_reducible repeat' (first | assumption | intro _ | apply accessQ_memWf | (refine accessQ_memWf_eq (by assumption) ?_) | apply newReq_memWf | apply setCopy_memWf | apply MemWf.ite | apply MemWf.foldl | split)
theorem copyBegin_memWf (d : Dev) (l id : Nat) (hd : MemWf d) : MemWf (copyBegin d l id) := by
  unfold copyBegin
  try dsimp only
  with_reducible repeat' (first | assumption | intro _ | apply accessQ_memWf | (refine accessQ_memWf_eq (by assumption) ?_) | (refine copyBlocked_memWf (e := _) (by assumption) ?_) | apply copyPrefetch_memWf | apply copyRead_memWf | apply setCopy_memWf | apply MemWf.ite | apply MemWf.foldl | split)
theorem copyStart_memWf (l : Nat) (d : Dev) (hd : MemWf d) : MemWf (copyStart l d) := by
  unfold copyStart
  try dsimp only
  with_reducible repeat' (first | assumption | intro _ | apply copyBegin_memWf | apply setCopy_memWf | apply MemWf.ite | apply MemWf.foldl | split)
theorem copySectorReturn_memWf (l id : Nat) (d : Dev) (hd : MemWf d) : MemWf (copySectorReturn l id d) := by
  unfold copySectorReturn
  try dsimp only
  with_reducible repeat' (first | assumption | intro _ | apply clusterFill_memWf | apply clusterRead_memWf | (refine clusterRead_memWf_eq (by assumption) ?_) | apply copyBegin_memWf | apply copyStop_memWf | apply copyWrite_memWf | apply dropReq_memWf | apply setCopy_memWf | apply sideFill_memWf | apply MemWf.ite | apply MemWf.foldl | split)
theorem warrSettle_memWf (d : Dev) (l c : Nat) (hd : MemWf d) : MemWf (warrSettle d l c) := by
  unfold warrSettle
  try dsimp only
  with_reducible repeat' (first | assumption | intro _ | apply onSyl_memWf | apply retireIf_memWf | apply setSyl_memWf | apply settle_memWf | apply MemWf.ite)
theorem warrSyl_memWf (l c : Nat) (d : Dev) (hd : MemWf d) : MemWf (warrSyl l c d) := by
  unfold warrSyl
  try dsimp only
  with_reducible repeat' (first | assumption | intro _ | apply onSyl_memWf | apply setSyl_memWf | apply warrSettle_memWf)
theorem endCopy_memWf (d : Dev) (l id : Nat) (cp : Copy) (hd : MemWf d) : MemWf (endCopy d l id cp) := by
  unfold endCopy
  try dsimp only
  with_reducible repeat' (first | assumption | intro _ | apply refreshCpstat_memWf | apply rset_memWf | apply updCl_memWf | apply warrSettle_memWf)
theorem copyFinish_memWf (l id : Nat) (d : Dev) (hd : MemWf d) : MemWf (copyFinish l id d) := by
  unfold copyFinish
  try dsimp only
  with_reducible repeat' (first | assumption | intro _ | apply endCopy_memWf | apply MemWf.ite | apply MemWf.foldl | split)
theorem captureCopy_memWf (d : Dev) (l : Nat) (cp : Copy) (cause : Nat) (a : Word) (hd : MemWf d) : MemWf (captureCopy d l cp cause a) := by
  unfold captureCopy
  try dsimp only
  with_reducible repeat' (first | assumption | intro _ | apply rset_memWf | apply MemWf.ite)
theorem copyFail_memWf (l id : Nat) (d : Dev) (hd : MemWf d) : MemWf (copyFail l id d) := by
  unfold copyFail
  try dsimp only
  with_reducible repeat' (first | assumption | intro _ | apply captureCopy_memWf | apply endCopy_memWf | apply updCtx_memWf | apply MemWf.ite | apply MemWf.foldl | split)

/-! ## Caches -/

theorem goStack_memWf (d : Dev) (id : Nat) (hd : MemWf d) : MemWf (goStack d id) := by
  unfold goStack
  try dsimp only
  with_reducible repeat' (first | assumption | intro _ | apply updReq_memWf)
theorem quarterRequest_memWf (id : Nat) (d : Dev) (hd : MemWf d) : MemWf (quarterRequest id d) := by
  unfold quarterRequest
  try dsimp only
  with_reducible repeat' (first | assumption | intro _ | apply finishReq_memWf | apply goOut_memWf | apply goStack_memWf | apply homeWrite_memWf | apply MemWf.ite | apply MemWf.foldl | split)
theorem prefetchFill_memWf (id : Nat) (d : Dev) (hd : MemWf d) : MemWf (prefetchFill id d) := by
  unfold prefetchFill
  try dsimp only
  with_reducible repeat' (first | assumption | intro _ | apply dropReq_memWf | apply sideFill_memWf | apply MemWf.ite | apply MemWf.foldl | split)
theorem sidePromote_memWf (l da : Nat) (d : Dev) (hd : MemWf d) : MemWf (sidePromote l da d) := by
  unfold sidePromote
  try dsimp only
  with_reducible repeat' (first | assumption | intro _ | apply promote_memWf | apply sideDrop_memWf | apply MemWf.ite | apply MemWf.foldl | split)
theorem prefSyl_memWf (l c : Nat) (d : Dev) (hd : MemWf d) : MemWf (prefSyl l c d) := by
  unfold prefSyl
  try dsimp only
  with_reducible repeat' (first | assumption | intro _ | apply accessQ_memWf | (refine accessQ_memWf_eq (by assumption) ?_) | apply onSyl_memWf | apply setSyl_memWf | apply updQ_memWf | apply MemWf.ite | apply MemWf.foldl | split)
theorem ccMaintain_memWf (d : Dev) (l op key : Nat) (x : Sline) (hd : MemWf d) : MemWf (ccMaintain d l op key x) := by
  unfold ccMaintain
  try dsimp only
  with_reducible repeat' (first | assumption | intro _ | apply ccPut_memWf | apply cleanLineNow_memWf | apply MemWf.ite)
theorem maintain_memWf (d : Dev) (l op level lo hi : Nat) (hd : MemWf d) : MemWf (maintain d l op level lo hi) := by
  unfold maintain
  try dsimp only
  with_reducible repeat' (first | assumption | intro _ | apply ccMaintain_memWf | apply qcMaintain_memWf | apply rsetF_memWf | apply updCl_memWf | apply MemWf.ite | apply MemWf.foldl | apply MemWf.foldl2 | apply MemWf.foldl1 | apply MemWf.foldl22 | split)
theorem cmoSkip_memWf (d : Dev) (l : Nat) (hd : MemWf d) : MemWf (cmoSkip d l) := by
  unfold cmoSkip
  try dsimp only
  with_reducible repeat' (first | assumption | intro _ | apply rsetB_memWf)
theorem cmoPages_memWf (l : Nat) (md : Modes) (op level : Nat) (base : Word) (len n : Nat) (d : Dev) (p : Nat) (hd : MemWf d) :
    MemWf (cmoPages l md op level base len n d p).1 := by
  induction n generalizing d p with
  | zero => exact hd
  | succ n ih =>
    unfold cmoPages
    have g := accessQ_memWf d l md (base + BitVec.ofNat 64 p) .rd hd
    dsimp only
    split
    · exact hd
    · split
      · exact ih _ _ hd
      · split
        · exact g
        · exact ih _ _ g
        · exact ih _ _ (maintain_memWf _ _ _ _ _ _ g)
        · exact ih _ _ (cmoSkip_memWf _ _ g)
theorem cmoPages_memWf_eq {l : Nat} {md : Modes} {op level : Nat} {base : Word} {len n : Nat} {d : Dev} {p : Nat} {e : Dev} {r}
    (h : cmoPages l md op level base len n d p = (e, r)) (hd : MemWf d) : MemWf e := by
  have g := cmoPages_memWf l md op level base len n d p hd
  rw [h] at g
  exact g
theorem cmoSyl_memWf (l c : Nat) (d : Dev) (hd : MemWf d) : MemWf (cmoSyl l c d) := by
  unfold cmoSyl
  try dsimp only
  with_reducible repeat' (first | assumption | intro _ | apply cmoPages_memWf | (refine cmoPages_memWf_eq (by assumption) ?_) | apply onSyl_memWf | apply setSyl_memWf | apply MemWf.ite)
theorem cmoswSyl_memWf (l c : Nat) (d : Dev) (hd : MemWf d) : MemWf (cmoswSyl l c d) := by
  unfold cmoswSyl
  try dsimp only
  with_reducible repeat' (first | assumption | intro _ | apply ccMaintain_memWf | apply onSyl_memWf | apply qcMaintain_memWf | apply setSyl_memWf | apply updCl_memWf | apply MemWf.ite | apply MemWf.foldl | split)
theorem maintenanceComplete_memWf (l c : Nat) (d : Dev) (hd : MemWf d) : MemWf (maintenanceComplete l c d) := by
  unfold maintenanceComplete
  try dsimp only
  with_reducible repeat' (first | assumption | intro _ | apply onSyl_memWf | apply retireIf_memWf | apply setSyl_memWf | apply settle_memWf | apply MemWf.ite | apply MemWf.foldl | split)
theorem icInvall_memWf (l c : Nat) (d : Dev) (hd : MemWf d) : MemWf (icInvall l c d) := by
  unfold icInvall
  try dsimp only
  with_reducible repeat' (first | assumption | intro _ | apply rsetB_memWf | apply setSyl_memWf | apply updCl_memWf | apply MemWf.ite | apply MemWf.foldl | split)
theorem icInvallComplete_memWf (l : Nat) (d : Dev) (hd : MemWf d) : MemWf (icInvallComplete l d) := by
  unfold icInvallComplete
  try dsimp only
  with_reducible repeat' (first | assumption | intro _ | apply retireIf_memWf | apply rsetB_memWf | apply setSyl_memWf | apply settle_memWf | apply updCl_memWf | apply MemWf.ite | apply MemWf.foldl | apply MemWf.foldl2 | apply MemWf.foldl1 | apply MemWf.foldl22 | split)
theorem icEnable_memWf (l c : Nat) (d : Dev) (hd : MemWf d) : MemWf (icEnable l c d) := by
  unfold icEnable
  try dsimp only
  with_reducible repeat' (first | assumption | intro _ | apply setSyl_memWf | apply MemWf.ite | apply MemWf.foldl | split)

/-! ## Translation -/

theorem walkReq_memWf (d : Dev) (q i : Nat) (w : Walk) (kind : ReqKind) (a n v : Nat) (t : Target) (hd : MemWf d) : MemWf (walkReq d q i w kind a n v t) := by
  unfold walkReq
  try dsimp only
  with_reducible repeat' (first | assumption | intro _ | apply newReq_memWf)
theorem leafUpdate_memWf (d : Dev) (q i : Nat) (w : Walk) (a e e' : Nat) (hd : MemWf d) : MemWf (leafUpdate d q i w a e e').2 := by
  unfold leafUpdate
  try dsimp only
  with_reducible repeat' (first | assumption | intro _ | apply atomApply_memWf | (refine atomApply_memWf_eq (by assumption) ?_) | apply mgmtWrite_memWf | (refine mgmtWrite_memWf_eq (by assumption) ?_) | apply walkReq_memWf | apply MemWf.ite | apply MemWf.foldl | split)
theorem leafUpdate_memWf_eq {d : Dev} {q i : Nat} {w : Walk} {a e e' : Nat} {dd : Dev} {r1}  (h : leafUpdate d q i w a e e' = (r1, dd)) (hd : MemWf d) : MemWf dd := by
  have g := leafUpdate_memWf d q i w a e e' hd
  rw [h] at g
  exact g
theorem waiterReady_memWf (d : Dev) (wt : Waiter) (hd : MemWf d) : MemWf (waiterReady d wt) := by
  unfold waiterReady
  try dsimp only
  with_reducible repeat' (first | assumption | intro _ | apply setSyl_memWf | apply updCtx_memWf | apply MemWf.ite | apply MemWf.foldl | split)
theorem waiterFault_memWf (d : Dev) (asid kind level : Nat) (wt : Waiter) (hd : MemWf d) : MemWf (waiterFault d asid kind level wt) := by
  unfold waiterFault
  try dsimp only
  with_reducible repeat' (first | assumption | intro _ | apply cmoSkip_memWf | apply faultCopy_memWf | apply faultCtx_memWf | apply setSyl_memWf | apply updCtx_memWf | apply MemWf.ite | apply MemWf.foldl | split)
theorem walkOver_memWf (d : Dev) (q i : Nat) (hd : MemWf d) : MemWf (walkOver d q i) := by
  unfold walkOver
  try dsimp only
  with_reducible repeat' (first | assumption | intro _ | apply refreshBusy_memWf | apply rinc_memWf | apply updQ_memWf | apply wfdSettle_memWf)
theorem walkFaulted_memWf (d : Dev) (q i : Nat) (w : Walk) (kind level : Nat) (hd : MemWf d) : MemWf (walkFaulted d q i w kind level) := by
  unfold walkFaulted
  try dsimp only
  with_reducible repeat' (first | assumption | intro _ | apply waiterFault_memWf | apply waiterReady_memWf | apply walkOver_memWf | apply MemWf.ite | apply MemWf.foldl)
theorem walkFilled_memWf (d : Dev) (q i : Nat) (w : Walk) (pa lo : Nat) (wr us ex dirty : Bool) (hd : MemWf d) : MemWf (walkFilled d q i w pa lo wr us ex dirty) := by
  unfold walkFilled
  try dsimp only
  with_reducible repeat' (first | assumption | intro _ | apply clusterTlb_memWf | apply quarterTlb_memWf | apply waiterReady_memWf | apply walkOver_memWf | apply MemWf.ite | apply MemWf.foldl)
theorem walkTake_memWf (d : Dev) (q i : Nat) (w : Walk) (hd : MemWf d) : MemWf (walkTake d q i w).1 := by
  unfold walkTake
  try dsimp only
  with_reducible repeat' (first | assumption | intro _ | apply dropReq_memWf | apply updQ_memWf | apply MemWf.ite | apply MemWf.foldl | apply MemWf.foldl2 | apply MemWf.foldl1)
theorem walkTake_memWf_eq {d : Dev} {q i : Nat} {w : Walk} {dd : Dev} {r1}  (h : walkTake d q i w = (dd, r1)) (hd : MemWf d) : MemWf dd := by
  have g := walkTake_memWf d q i w hd
  rw [h] at g
  exact g
/-- The device that a table read's outcome holds. -/
def TRead.dev : TRead → Dev
  | .val _ d => d
  | .wait d => d
  | .fail d => d
theorem tableRead_memWf (d : Dev) (q i : Nat) (w : Walk) (a : Nat) (hd : MemWf d) : MemWf (tableRead d q i w a).dev := by
  unfold tableRead
  extract_lets n
  clear_value n
  split
  · exact hd
  · split
    · exact hd
    · split
      · exact hd
      · split
        · exact hd
        · rename_i o _ _
          have g := mgmtRead_memWf d .surveyor o n hd
          revert g
          generalize mgmtRead d .surveyor o n = p
          intro g
          obtain ⟨v, e⟩ := p
          cases v <;> exact g
        · split
          · extract_lets _ bad e
            have he : MemWf e := homeNote_memWf _ _ _ _ _ hd
            clear_value e bad
            split
            · exact he
            · exact he
          · split
            · exact hd
            · exact walkReq_memWf _ _ _ _ _ _ _ _ _ hd
/-- The device that a walk's outcome holds. -/
def WRes.dev : WRes → Dev
  | .wait d => d
  | .fault d _ _ => d
  | .leaf d .. => d
theorem walkLevels_memWf (q i : Nat) (w : Walk) (n : Nat) (d : Dev) (table : Nat) (wr us ex : Bool) (hd : MemWf d) :
    MemWf (walkLevels q i w n d table wr us ex).dev := by
  induction n generalizing d table wr us ex with
  | zero => exact hd
  | succ n ih =>
    unfold walkLevels
    dsimp only
    have g := tableRead_memWf d q i w ((table + wfBytes d * bitsOf w.va.toNat (wfLo d n) (wfIdx d n)) % 2 ^ 64) hd
    revert g
    generalize tableRead d q i w ((table + wfBytes d * bitsOf w.va.toNat (wfLo d n) (wfIdx d n)) % 2 ^ 64) = r
    intro g
    cases r with
    | wait e => exact g
    | fail e => exact g
    | val v e =>
      dsimp only
      have ge : MemWf e := g
      repeat' split
      all_goals first | exact ge | exact ih _ _ _ _ _ (updQ_memWf _ _ _ ge)
theorem walkGo_memWf (d : Dev) (q i : Nat) (w : Walk) (hd : MemWf d) : MemWf (walkGo d q i w).dev := by
  unfold walkGo
  dsimp only
  repeat' split
  all_goals first | exact hd | exact walkLevels_memWf _ _ _ _ _ _ _ _ _ hd
theorem walkComplete_memWf (q i : Nat) (d : Dev) (hd : MemWf d) : MemWf (walkComplete q i d) := by
  unfold walkComplete
  split
  · exact hd
  · rename_i w _
    dsimp only
    have g := walkGo_memWf (walkTake d q i w).1 q i (walkTake d q i w).2 (walkTake_memWf _ _ _ _ hd)
    revert g
    generalize walkGo (walkTake d q i w).1 q i (walkTake d q i w).2 = r
    intro g
    cases r with
    | wait e => exact g
    | fault e k l => exact walkFaulted_memWf _ _ _ _ _ _ g
    | leaf e pa lo x a l wr us ex =>
      have ge : MemWf e := g
      dsimp only
      repeat' (first | with_reducible assumption | intro _ | with_reducible apply walkFaulted_memWf | with_reducible apply walkFilled_memWf | with_reducible apply leafUpdate_memWf | with_reducible apply MemWf.ite | with_reducible apply MemWf.foldl | (with_reducible refine MemWf.mk ?_; with_reducible refine MemWf.out ?_; first | with_reducible assumption | with_reducible apply walkFaulted_memWf | with_reducible apply walkFilled_memWf | with_reducible apply leafUpdate_memWf) | split)
theorem tlbMiss_memWf (l : Nat) (item : Item) (d : Dev) (hd : MemWf d) : MemWf (tlbMiss l item d) := by
  unfold tlbMiss
  try dsimp only
  with_reducible repeat' (first | assumption | intro _ | apply clusterTlb_memWf | apply updQ_memWf | apply waiterReady_memWf | apply MemWf.ite | apply MemWf.foldl | split)
theorem walkStart_memWf (q : Nat) (d : Dev) (hd : MemWf d) : MemWf (walkStart q d) := by
  unfold walkStart
  try dsimp only
  with_reducible repeat' (first | assumption | intro _ | apply refreshBusy_memWf | apply updQ_memWf | apply MemWf.ite | apply MemWf.foldl | split)
theorem recordSend_memWf (q i : Nat) (d : Dev) (hd : MemWf d) : MemWf (recordSend q i d) := by
  unfold recordSend
  try dsimp only
  with_reducible repeat' (first | assumption | intro _ | apply mirror_memWf | apply sendUp_memWf | apply updQ_memWf | apply MemWf.ite | apply MemWf.foldl | split)
theorem recordFreeWait_memWf (q : Nat) (d : Dev) (hd : MemWf d) : MemWf (recordFreeWait q d) := by
  unfold recordFreeWait
  try dsimp only
  with_reducible repeat' (first | assumption | intro _ | (refine joinRecord_memWf (e := _) (by assumption) ?_) | apply setCopy_memWf | apply updCtx_memWf | apply updQ_memWf | apply MemWf.ite | apply MemWf.foldl | split)
theorem invalidationComplete_memWf (d : Dev) (hd : MemWf d) : MemWf (invalidationComplete d) := by
  unfold invalidationComplete
  try dsimp only
  with_reducible repeat' (first | assumption | intro _ | apply cleanCluster_memWf | apply invDone_memWf | apply rsetB_memWf | apply MemWf.ite | apply MemWf.foldl)

/-! ## Twin -/

theorem twinMsg_memWf (d : Dev) (op : Nat) (f : Msg → Dev → Dev) (hf : ∀ m e, MemWf e → MemWf (f m e)) (hd : MemWf d) :
    MemWf (twinMsg d op f) := by
  unfold twinMsg
  split
  · rename_i h
    exact hf _ _ (receive_memWf_eq h hd)
  · rename_i h
    exact receive_memWf_eq h hd
theorem beatTaken_memWf (m : Msg) (d : Dev) (hd : MemWf d) : MemWf (beatTaken m d) := by
  unfold beatTaken
  try dsimp only
  with_reducible repeat' (first | assumption | intro _ | apply updLv_memWf)
theorem leaveTaken_memWf (m : Msg) (d : Dev) (hd : MemWf d) : MemWf (leaveTaken m d) := by
  unfold leaveTaken
  exact MemWf.ite (enterAlone_memWf _ (updLv_memWf _ _ hd)) (updLv_memWf _ _ hd)
theorem twinFault_memWf (d : Dev) (bs : List Byte) (hd : MemWf d) : MemWf (twinFault d bs) := by
  unfold twinFault
  try dsimp only
  with_reducible repeat' (first | assumption | intro _ | (refine joinRecord_memWf (e := _) (by assumption) ?_) | apply MemWf.ite | apply MemWf.foldl | split)
theorem mirrorActs_memWf (d : Dev) (key : Nat) (m : Msg) (hd : MemWf d) : MemWf (mirrorActs d key m) := by
  unfold mirrorActs
  try dsimp only
  with_reducible repeat' (first | assumption | intro _ | apply finishReq_memWf | apply twinFault_memWf | apply MemWf.ite | apply MemWf.foldl | split | refine MemWf.mk (MemWf.out ?_))
theorem mirrorTaken_memWf (d : Dev) (hd : MemWf d) : MemWf (mirrorTaken d) := by
  unfold mirrorTaken
  try dsimp only
  with_reducible repeat' (first | assumption | intro _ | apply mirrorActs_memWf | apply receive_memWf | (refine receive_memWf_eq (by assumption) ?_) | apply MemWf.ite | apply MemWf.foldl | split)
theorem confirmTaken_memWf (m : Msg) (d : Dev) (hd : MemWf d) : MemWf (confirmTaken m d) := by
  unfold confirmTaken
  try dsimp only
  with_reducible repeat' (first | assumption | intro _ | apply updRing_memWf)
theorem digestTaken_memWf (m : Msg) (d : Dev) (hd : MemWf d) : MemWf (digestTaken m d) := by
  unfold digestTaken
  try dsimp only
  with_reducible repeat' (first | assumption | intro _ | apply digCompare_memWf | apply updLv_memWf)
theorem seedTaken_memWf (m : Msg) (d : Dev) (hd : MemWf d) : MemWf (seedTaken m d) := by
  unfold seedTaken
  try dsimp only
  with_reducible repeat' (first | assumption | intro _ | apply rset_memWf | apply MemWf.ite | apply MemWf.foldl)
theorem copyMem_memWf (d : Dev) (k1 o1 k2 o2 n : Nat) (hd : MemWf d) : MemWf (copyMem d k1 o1 k2 o2 n) := copyMem_wf d k1 o1 k2 o2 n hd
theorem addReplica_memWf {d : Dev} {t k : Nat} {e : Dev} (h : addReplica d t k = some e) (hd : MemWf d) : MemWf e := by
  unfold addReplica at h
  obtain ⟨f, _, rfl⟩ := Option.map_eq_some_iff.1 h
  exact updTract_memWf _ _ _ (MemWf.foldl (qcLeave_memWf _ _ _ _ hd) (fun _ _ h => copyMem_memWf _ _ _ _ _ _ h))
theorem dropReplica_memWf (d : Dev) (t k : Nat) (hd : MemWf d) : MemWf (dropReplica d t k) := by
  unfold dropReplica
  try dsimp only
  with_reducible repeat' (first | assumption | intro _ | apply qcLeave_memWf | apply updTract_memWf)
theorem tractAct_memWf {d : Dev} {op t k : Nat} {e : Dev} (h : tractAct d op t k = some e) (hd : MemWf d) : MemWf e := by
  unfold tractAct at h
  split at h
  · exact startMove_memWf h hd
  · exact addReplica_memWf h hd
  · obtain rfl := Option.some.inj h
    exact dropReplica_memWf _ _ _ hd
  · cases h
theorem placeTaken_memWf (m : Msg) (d : Dev) (hd : MemWf d) : MemWf (placeTaken m d) := by
  unfold placeTaken
  dsimp only
  split
  · exact hd
  · cases h : tractAct d (fieldAt m.data 16 1) (fieldAt m.data 0 8 / tractLen) (fieldAt m.data 19 1) with
    | none => exact hd
    | some e => exact tractAct_memWf h hd
theorem epochAct_memWf (e : Epoch) (op t k : Nat) (keep : Bool) (he : MemWf e.1) : MemWf (epochAct e op t k keep).1 := by
  unfold epochAct
  dsimp only
  split
  · exact he
  · split
    · rename_i h
      exact rinc_memWf _ _ _ (tractAct_memWf h (MemWf.ite (sendTwin_memWf _ _ _ _ he) he))
    · exact he
theorem epochRule_memWf (rule : Epoch → Nat → Epoch) (hr : rule ∈ [ruleVacate, rulePref, ruleLocal, ruleRepl]) (e : Epoch) (t : Nat)
    (he : MemWf e.1) : MemWf (rule e t).1 := by
  simp only [List.mem_cons, List.not_mem_nil, or_false] at hr
  rcases hr with rfl | rfl | rfl | rfl
  · unfold ruleVacate
    dsimp only
    repeat' split
    all_goals first | exact he | (refine epochAct_memWf _ _ _ _ _ ?_; with_reducible refine Dev_choose_memWf _ _ ?_; exact he)
  · unfold rulePref
    dsimp only
    repeat' split
    all_goals first | exact he | exact epochAct_memWf _ _ _ _ _ he
  · unfold ruleLocal
    dsimp only
    repeat' split
    all_goals first | exact he | exact epochAct_memWf _ _ _ _ _ he
  · unfold ruleRepl
    refine MemWf.foldl1 he ?_
    intro e q he
    dsimp only
    repeat' split
    all_goals first | exact he | exact epochAct_memWf _ _ _ _ _ he
theorem epochRules_memWf (rules : List (Epoch → Nat → Epoch)) (ts : List Nat)
    (hr : ∀ r ∈ rules, ∀ (e : Epoch) (t : Nat), MemWf e.1 → MemWf (r e t).1) (e : Epoch) (he : MemWf e.1) :
    MemWf (rules.foldl (fun e rule => ts.foldl rule e) e).1 := by
  induction rules generalizing e with
  | nil => exact he
  | cons r rs ih =>
    exact ih (fun x hx => hr x (List.mem_cons_of_mem _ hx)) _
      (MemWf.foldl1 he (fun p x h => hr r (List.mem_cons_self ..) p x h))
theorem allotEpoch_memWf (d : Dev) (hd : MemWf d) : MemWf (allotEpoch d) := by
  unfold allotEpoch
  split
  · exact hd
  · refine updLv_memWf _ _ (rsetF_memWf _ _ _ _ (rinc_memWf _ _ _ (MemWf.foldl ?_ (fun _ _ h => updTract_memWf _ _ _ h))))
    split
    · exact hd
    · exact epochRules_memWf _ _ (fun r hr e t => epochRule_memWf r hr e t) _ hd
theorem syncSend_memWf (d : Dev) (hd : MemWf d) : MemWf (syncSend d) := by
  unfold syncSend
  try dsimp only
  with_reducible repeat' (first | assumption | intro _ | apply cleanCluster_memWf | apply qcCleanLine_memWf | apply sendTwin_memWf | apply updLv_memWf | apply MemWf.ite | apply MemWf.foldl | apply MemWf.foldl2 | apply MemWf.foldl1 | apply MemWf.foldl22 | split)
theorem forgetCaches_memWf (d : Dev) (hd : MemWf d) : MemWf (forgetCaches d) := by
  unfold forgetCaches
  try dsimp only
  with_reducible repeat' (first | assumption | intro _ | apply rsetF_memWf | apply updCl_memWf | apply updQ_memWf | apply MemWf.foldl)
theorem syncTaken_memWf (m : Msg) (d : Dev) (hd : MemWf d) : MemWf (syncTaken m d) := by
  have hf : MemWf (forgetCaches d) := forgetCaches_memWf d hd
  unfold syncTaken
  try dsimp only
  generalize forgetCaches d = f at hf ⊢
  with_reducible repeat' (first | assumption | intro _ | apply mwriteBytes_memWf | apply rset_memWf | apply updRing_memWf | apply MemWf.ite | apply MemWf.foldl | split | exact MemWf.mk (MemWf.out hf) | refine MemWf.mk (MemWf.out ?_))
theorem sync_memWf (d : Dev) (hd : MemWf d) : MemWf (sync d) := by
  unfold sync
  try dsimp only
  with_reducible repeat' (first | assumption | intro _ | apply syncSend_memWf | apply syncTaken_memWf | apply twinMsg_memWf | apply MemWf.ite)
theorem rejoinComplete_memWf (d : Dev) (hd : MemWf d) : MemWf (rejoinComplete d) := by
  unfold rejoinComplete
  try dsimp only
  with_reducible repeat' (first | assumption | intro _ | apply beatTimer_memWf | apply rsetB_memWf | apply sendLog_memWf | apply setFace_memWf | apply setLv_memWf | apply MemWf.ite)

/-! ## Faults -/

theorem siteEvent_memWf (d : Dev) (l cls : Nat) (hd : MemWf d) : MemWf (siteEvent d l cls) := by
  unfold siteEvent
  try dsimp only
  with_reducible repeat' (first | assumption | intro _ | apply fevent_memWf | apply MemWf.ite | apply MemWf.foldl | split)
theorem vStopAt_memWf (d : Dev) (l c : Nat) (x : Ctx) (o : QOp) (e : Nat) (t : Trap) (hd : MemWf d) : MemWf (vStopAt d l c x o e t) := by
  unfold vStopAt
  try dsimp only
  with_reducible repeat' (first | assumption | intro _ | apply rset_memWf | apply setCtx_memWf | apply setVHead_memWf | apply unitFault_memWf)
theorem residueMismatch_memWf (l c unit place : Nat) (again : Bool) (d : Dev) (hd : MemWf d) : MemWf (residueMismatch l c unit place again d) := by
  unfold residueMismatch
  try dsimp only
  with_reducible repeat' (first | assumption | intro _ | apply Dev_free_memWf | (refine Dev_free_memWf_eq (by assumption) ?_) | apply failSyl_memWf | apply rset_memWf | apply settle_memWf | apply siteEvent_memWf | apply tPut_memWf | apply taccRun_memWf | apply unitFault_memWf | apply updCl_memWf | apply vStopAt_memWf | apply xopaRun_memWf | apply MemWf.ite | apply MemWf.foldl | split)
theorem arrayEvent_memWf (d : Dev) (a : SramArray) (hd : MemWf d) : MemWf (arrayEvent d a) := by
  unfold arrayEvent
  try dsimp only
  with_reducible repeat' (first | assumption | intro _ | apply fevent_memWf | split)
theorem messageHurt_memWf (d : Dev) (p : Nat) (m : Msg) (hd : MemWf d) : MemWf (messageHurt d p m) := by
  unfold messageHurt
  try dsimp only
  with_reducible repeat' (first | assumption | intro _ | apply errorTo_memWf | apply finishReq_memWf | apply hstat_memWf | apply mdata_memWf | apply MemWf.ite | apply MemWf.foldl | split)
theorem sramEffect_memWf (pl : SramPlace) (d : Dev) (hd : MemWf d) : MemWf (sramEffect pl d) := by
  unfold sramEffect
  try dsimp only
  with_reducible repeat' (first | assumption | intro _ | apply Dev_free_memWf | (refine Dev_free_memWf_eq (by assumption) ?_) | apply accessError_memWf | apply accessQ_memWf | (refine accessQ_memWf_eq (by assumption) ?_) | apply ccPut_memWf | apply copyStop_memWf | apply deviceReset_memWf | apply failSyl_memWf | apply l1Drop_memWf | apply ledgerAsk_memWf | apply ledgerEvent_memWf | apply ledgerWrite_memWf | apply messageHurt_memWf | apply onSyl_memWf | apply oweCredits_memWf | apply qcPut_memWf | apply settle_memWf | apply updCl_memWf | apply updQ_memWf | apply vStopAt_memWf | apply MemWf.ite | apply MemWf.foldl | apply MemWf.foldl2 | apply MemWf.foldl1 | apply MemWf.foldl22 | split | refine MemWf.mk (MemWf.out ?_))
theorem sramUncorrectable_memWf (pl : SramPlace) (d : Dev) (hd : MemWf d) : MemWf (sramUncorrectable pl d) := by
  unfold sramUncorrectable
  try dsimp only
  with_reducible repeat' (first | assumption | intro _ | apply arrayEvent_memWf | apply sramEffect_memWf | apply MemWf.ite)
theorem lastingAct_memWf (d : Dev) (cls unit : Nat) (hd : MemWf d) : MemWf (lastingAct d cls unit) := by
  unfold lastingAct
  try dsimp only
  with_reducible repeat' (first | assumption | intro _ | apply ledgerAsk_memWf | apply linkReset_memWf | apply lvCause_memWf | apply mapOut_memWf | apply retireSite_memWf | apply updLed_memWf | apply updPort_memWf | apply wayDown_memWf | apply MemWf.ite)
theorem declareLasting_memWf (d : Dev) (cls unit : Nat) (hd : MemWf d) : MemWf (declareLasting d cls unit) := by
  unfold declareLasting
  try dsimp only
  with_reducible repeat' (first | assumption | intro _ | apply lastingAct_memWf | apply ledgerEvent_memWf | apply sendLog_memWf | apply updDk_memWf)
theorem faultReport_memWf (stamp : Nat) (d : Dev) (hd : MemWf d) : MemWf (faultReport stamp d) := by
  unfold faultReport
  try dsimp only
  with_reducible repeat' (first | assumption | intro _ | apply declareLasting_memWf | apply updDk_memWf | apply MemWf.ite | apply MemWf.foldl | split | refine MemWf.mk (MemWf.out ?_))

/-! ## Board -/

theorem i3cSet_memWf (off : Nat) (d : Dev) (hd : MemWf d) : MemWf (i3cSet off d) := by
  unfold i3cSet
  try dsimp only
  with_reducible repeat' (first | assumption | intro _ | apply MemWf.ite | apply MemWf.foldl | split | refine MemWf.mk (MemWf.out ?_))
theorem i3cRead_memWf (d : Dev) (hd : MemWf d) : MemWf (i3cRead d) := by
  unfold i3cRead
  try dsimp only
  with_reducible repeat' (first | assumption | intro _ | apply MemWf.ite | apply MemWf.foldl | split | refine MemWf.mk (MemWf.out ?_))
theorem i3cWrite_memWf (off : Nat) (v : Word) (d : Dev) (hd : MemWf d) : MemWf (i3cWrite off v d) := by
  unfold i3cWrite
  try dsimp only
  with_reducible repeat' (first | assumption | intro _ | apply mgmtWrite_memWf | (refine mgmtWrite_memWf_eq (by assumption) ?_) | apply MemWf.ite)
theorem scanSelect_memWf (ir : ScanIr) (out : Nat) (d : Dev) (hd : MemWf d) : MemWf (scanSelect ir out d) := by
  unfold scanSelect
  try dsimp only
  with_reducible repeat' (first | assumption | intro _ | apply darken_memWf | apply setLit_memWf | apply startProbe_memWf | apply updPort_memWf | apply MemWf.ite | apply MemWf.foldl | apply MemWf.foldl2 | apply MemWf.foldl1 | apply MemWf.foldl22 | split | refine MemWf.mk (MemWf.out ?_))
theorem scanLoad_memWf (v : List Byte) (d : Dev) (hd : MemWf d) : MemWf (scanLoad v d) := by
  unfold scanLoad
  try dsimp only
  with_reducible repeat' (first | assumption | intro _ | apply MemWf.ite | apply MemWf.foldl | split | refine MemWf.mk (MemWf.out ?_))

end Sys2Proof.Machine
end

