-- ==== Sys2Proof/Laws/Window.lean ====
section
/-!
SUPPORT. The management window: what an error changes, and when a write reaches the register it names.
-/
namespace Sys2Proof.Machine

/-- An error of the window changes the two error registers alone. -/
theorem onlyMmErr_mmErr (d : Dev) (f : Fld) (ag : Agent) (o : Nat) : onlyMmErr d (mmErr d f ag o) := by
  unfold onlyMmErr mmErr
  refine ⟨?_, ?_⟩
  · simp only []; split <;> rfl
  · intro p h1 h2
    simp only []; split <;> simp [rsetB, rget_rset_ne, h1, h2]

/-- An error of the window sets its bit. -/
theorem isSet_mmErr (d : Dev) (f : Fld) (ag : Agent) (o : Nat)
    (h : f ∈ [HB_MMERR.UNMAPPED, HB_MMERR.DORMANT, HB_MMERR.SIZE, HB_MMERR.ALIAS]) : isSet (rget (mmErr d f ag o) 0x100) f = true := by
  unfold mmErr
  simp only [rsetB, rget_rset_same]
  simp only [List.mem_cons, List.not_mem_nil, or_false] at h
  rcases h with rfl | rfl | rfl | rfl <;> exact isSet_setB_same _ _ _ rfl (by decide)

/-- An 8-byte write at a register of a block that answers, other than a site alias, reaches that register whole. -/
theorem mgmtCheck_reg {d : Dev} {ag : Agent} {o v : Nat} {m : RegMap} (ha : blkAnswers d (blkOf o).1) (h8 : o % 8 = 0)
    (hs : ∀ p, (blkOf o).1 ≠ .site p) (hp : inPlatbuf o = false) (hm : regMapOf (blkOf o).1 ((blkOf o).2 / 8 * 8) = some m) :
    mgmtCheck d ag o 8 (BitVec.ofNat 64 v) =
      .reg (cmdReg d ag o) (blkOf o).1 ((blkOf o).2 / 8 * 8) (BitVec.ofNat 64 (ones 64)) (BitVec.ofNat 64 v) := by
  unfold mgmtCheck
  have hz : Sys2Proof.Machine.sizeOk o 8 = true := by simp [Sys2Proof.Machine.sizeOk, h8]
  simp only [hz, ha.1, ha.2, hp, hm, cmdReg, Option.getD_some, writeMask]
  cases hb : (blkOf o).1 <;> simp_all

end Sys2Proof.Machine
end

