-- ==== Sys2Proof/Tests/Slice0.lean ====
section
/-!
SUPPORT. Tests: each statement's hypotheses met by a concrete state (wit_…), the commands' checks refusing an ill-formed term, and
results worked out from the spec (test_…). Instruction words are put together by hand from spec/03's and spec/04's layouts: STOP bit 31,
SLOT 30 to 28, MAJOR 27 to 22, RD 21 to 17, RA 16 to 12, RB 11 to 7.
-/
namespace Sys2Proof.Tests
set_option Elab.async false
open Sys2Proof Sys2Proof.Machine

/-- Modes of a Datum-level context in vector mode whose Mere window starts at 0x4000_0000. -/
def tMd : Modes := { Modes.empty with mbase := 0x4000_0001 }

/-- A bundle of one syllable in W, in slot A, B or M. -/
def tW (slot w : Nat) (st : SylSt) (eff : List Eff) : WB :=
  putSyl ⟨0x1000, 1, 0, tMd, false, none, none, none, none, none⟩ slot ⟨BitVec.ofNat 32 w, st, eff⟩

/-- A context with that bundle. -/
def tX (b : WB) : Ctx := { Ctx.empty with wb := some b }

/-- A cluster 0 whose context 0 is the given one. -/
def tK (x : Ctx) : Cluster := { Cluster.empty with ctx := [(0, x)] }

/-- The device after reset with a cluster 0. -/
def tD (k : Cluster) : Dev := { Dev.reset with cl := [(0, k)] }

/-- A state with no command waiting. -/
def tS (d : Dev) : State := ⟨d, []⟩

/-- A device in which one ready syllable stands in W of context 0 of cluster 0. -/
def tY (slot w : Nat) : Dev := tD (tK (tX (tW slot w .ready [])))

/-- The same with a value in a scalar register. -/
def tYr (slot w r v : Nat) : Dev := tD (tK (swrite (tX (tW slot w .ready [])) r (BitVec.ofNat 64 v)))

/-- A device with registers of the window written. -/
def tRegs (d : Dev) (rs : List (Nat × Nat)) : Dev := rs.foldl (fun d e => rset d e.1 (BitVec.ofNat 64 e.2)) d

/-- A device whose window 0 gives device addresses from 0x8000_0000 to stack 0 from its start, to be read, written and executed. -/
def tWin (d : Dev) : Dev :=
  tRegs d [(stkOff 0 0, 0x1000_0000), (qOff 0 0x2000, 0x8000_0000), (qOff 0 0x2008, 0x1000_0000), (qOff 0 0x2018, 0x300)]

/-! ### Witnesses: ScalarCompute -/

theorem wit_ScalarCompute_alu : (sylFor (tY 0 0x0002_2180) 0 0 0 .alu isReady).isSome = true := by decide
theorem wit_ScalarCompute_adds : (sylFor (tY 0 0x0002_2191) 0 0 0 .adds isReady).isSome = true := by decide
theorem wit_ScalarCompute_mul : (sylFor (tY 0 0x0802_2180) 0 0 0 .mul isReady).isSome = true := by decide
theorem wit_ScalarCompute_fadd : (sylFor (tY 0 0x0902_21C4) 0 0 0 .fadd isReady).isSome = true := by decide
theorem wit_ScalarCompute_fminimum : (sylFor (tY 0 0x0982_21C0) 0 0 0 .fminimum isReady).isSome = true := by decide
theorem wit_ScalarCompute_fcmp : (sylFor (tY 0 0x0A02_21C0) 0 0 0 .fcmp isReady).isSome = true := by decide
theorem wit_ScalarCompute_fclass : (sylFor (tY 0 0x09C2_2041) 0 0 0 .fclass isReady).isSome = true := by decide
theorem wit_ScalarCompute_fcvt : (sylFor (tY 0 0x0A42_2244) 0 0 0 .fcvt isReady).isSome = true := by decide
theorem wit_ScalarCompute_div : (sylFor (tY 0 0x084A_6381) 0 0 0 .div isReady).isSome = true ∧
    (getCl (tY 0 0x084A_6381) 0).divOwner = none := by decide
theorem wit_ScalarCompute_fdiv : (sylFor (tY 0 0x0902_21C7) 0 0 0 .fdiv isReady).isSome = true ∧
    (getCl (tY 0 0x0902_21C7) 0).divOwner = none := by decide
def tDivide : Dev := tD { tK (tX (tW 0 0x084A_6381 .divide [])) with divOwner := some 0 }
theorem wit_ScalarCompute_divideComplete : (getCl tDivide 0).divOwner = some 0 ∧
    (sylFor tDivide 0 0 0 .div (· == .divide)).isSome = true := by decide

/-! ### Witnesses: ScalarMemory -/

theorem wit_ScalarMemory_misaligned : (sylFor (tYr 2 0x2102_2000 2 2) 0 0 2 .load isReady).isSome = true ∧
    (memAddr (getCtx (tYr 2 0x2102_2000 2 2) 0 0) 0x2102_2000).toNat % (memSize (majorOf 0x2102_2000)).1 ≠ 0 := by decide

/-- LD s8, 16(s30), spec/04's own example 0xA191_E010, with s30 at the start of a Mere of one way. -/
def tLd : Dev := tRegs (tYr 2 0xA191_E010 30 0x4000_0000) [(clOff 0 0x500, 1)]
theorem wit_ScalarMemory_loadMere : (sylFor tLd 0 0 2 .load isReady).isSome = true ∧
    (memAddr (getCtx tLd 0 0) 0xA191_E010).toNat % 8 = 0 ∧
    access tLd 0 tMd (memAddr (getCtx tLd 0 0) 0xA191_E010) .rd = .mere 0x10 ∧ mereBad tLd 0 0x10 8 = false := by decide

def tLdL1 : Dev :=
  let d := tWin (tYr 2 0xA191_E010 30 0x8000_0000)
  updCl d 0 (fun k => { k with l1 := [(0, ⟨0x8000_0000 / 64, 7⟩)] })
theorem wit_ScalarMemory_loadL1 : (sylFor tLdL1 0 0 2 .load isReady).isSome = true ∧
    access tLdL1 0 tMd (memAddr (getCtx tLdL1 0 0) 0xA191_E010) .rd = .ok 0x8000_0010 (.stack 0 0x10) 3 ∧
    (l1Find tLdL1 0 0x8000_0010).isSome = true := by decide

/-- A read request for that load, answered. -/
def tReq (k : ReqKind) : Req :=
  { cl := 0, ctx := 0, src := .scalar 0, kind := k, da := 0x8000_0000, tgt := .stack 0 0, qcache := false, len := 64, mask := ones 64, data := 0,
    stage := .done, out := 5, status := 0, elem := 0x8000_0010 }
def tLdReq : Dev := { tD (tK (tX (tW 2 0xA191_E010 (.req 1) []))) with reqs := [(1, tReq .read)] }
theorem wit_ScalarMemory_loadReturn : (getCtx tLdReq 0 0).wb = some (tW 2 0xA191_E010 (.req 1) []) ∧
    Tab.find? tLdReq.reqs 1 = some (tReq .read) ∧ majorOf 0xA191_E010 ≤ 0x06 := by decide

theorem wit_ScalarMemory_storeMisaligned : (sylFor (tYr 2 0x2282_2000 2 2) 0 0 2 .store isReady).isSome = true ∧
    (memAddr (getCtx (tYr 2 0x2282_2000 2 2) 0 0) 0x2282_2000).toNat % (memSize (majorOf 0x2282_2000)).1 ≠ 0 := by decide

/-- SD s1, 0(s2) into the Mere, and to a stack. -/
def tSd : Dev := tRegs (tYr 2 0x22C2_2000 2 0x4000_FFF8) [(clOff 0 0x500, 1)]
theorem wit_ScalarMemory_storeMere : (sylFor tSd 0 0 2 .store isReady).isSome = true ∧
    access tSd 0 tMd (memAddr (getCtx tSd 0 0) 0x22C2_2000) .wr = .mere 0xFFF8 := by decide
def tSdWin : Dev := tWin (tYr 2 0x22C2_2000 2 0x8FFF_FFF8)
theorem wit_ScalarMemory_storeStack : (sylFor tSdWin 0 0 2 .store isReady).isSome = true ∧
    access tSdWin 0 tMd (memAddr (getCtx tSdWin 0 0) 0x22C2_2000) .wr = .ok 0x8FFF_FFF8 (.stack 0 0xFFF_FFF8) 3 := by decide

/-- AMOADD of 64 bits on the Mere: SZ 0b11, ORD and SCOPE 0. -/
def tAmo : Dev := tRegs (tYr 2 0x2482_2060 2 0x4000_0000) [(clOff 0 0x500, 1)]
theorem wit_ScalarMemory_amo : (sylFor tAmo 0 0 2 .amo isReady).isSome = true ∧
    access tAmo 0 tMd (sread (getCtx tAmo 0 0) 2) .wr = .mere 0 ∧ mereBad tAmo 0 0 8 = false ∧
    othersDone (tW 2 0x2482_2060 .ready []) = true ∧ fORD 0x2482_2060 = 0 := by decide
def tAmoReq : Dev := { tD (tK (tX (tW 2 0x2482_2060 (.req 1) []))) with reqs := [(1, tReq (.atomic 2 3 0))] }
theorem wit_ScalarMemory_amoReturn : (getCtx tAmoReq 0 0).wb = some (tW 2 0x2482_2060 (.req 1) []) ∧
    Tab.find? tAmoReq.reqs 1 = some (tReq (.atomic 2 3 0)) := by decide

/-! ### Witnesses: ScalarControl, ScalarWaits -/

theorem wit_ScalarControl_getc : (sylFor (tY 1 0x1802_0040) 0 0 1 .getc isReady).isSome = true ∧
    (clusterReg (selOff 0 0 (fSEL 0x1802_0040) - clOff 0 0)).isSome = true := by decide
/-- SETC of CL_FCSR of the context's own set (SEL 0x1_0040). -/
theorem wit_ScalarControl_setc : (sylFor (tY 1 0x1843_0040) 0 0 1 .setc isReady).isSome = true ∧ tMd.gm = false ∧
    (let r := selOff 0 0 (fSEL 0x1843_0040) - clOff 0 0; r ≠ 0x500 ∧ ¬(0x480 ≤ r ∧ r < 0x4C0) ∧ r ≠ 0x700) := by decide
theorem wit_ScalarControl_sevt : (sylFor (tY 1 0x1880_2180) 0 0 1 .sevt isReady).isSome = true := by decide
theorem wit_ScalarControl_vsetvl : (sylFor (tY 1 0x1942_2000) 0 0 1 .vsetvl isReady).isSome = true := by decide
theorem wit_ScalarControl_br : (sylFor (tY 1 0x1C00_0010) 0 0 1 .br isReady).isSome = true ∧ majorOf 0x1C00_0010 ≠ 0x31 := by decide
theorem wit_ScalarControl_bc : (sylFor (tY 1 0x1C82_0010) 0 0 1 .bc isReady).isSome = true := by decide
theorem wit_ScalarControl_jr : (sylFor (tY 1 0x1CC2_0000) 0 0 1 .jr isReady).isSome = true ∧ majorOf 0x1CC2_0000 ≠ 0x34 := by decide
theorem wit_ScalarControl_loop : (sylFor (tYr 1 0x1D42_0004 1 3) 0 0 1 .loop isReady).isSome = true ∧
    sread (getCtx (tYr 1 0x1D42_0004 1 3) 0 0) (fRD 0x1D42_0004) ≠ 0 ∧
    isSet (rget (tYr 1 0x1D42_0004 1 3) (csOff 0 0 0)) CL_LSTAT.ACT0 = false ∧
    isSet (rget (tYr 1 0x1D42_0004 1 3) (csOff 0 0 0)) CL_LSTAT.ACT1 = false := by decide
theorem wit_ScalarControl_effects : (sylFor (tY 1 0x1D80_0000) 0 0 1 .lbrk isReady).isSome = true ∧
    (sylFor (tY 1 0x1DC0_0000) 0 0 1 .fenceI isReady).isSome = true ∧
    (sylFor (tY 1 0x1980_0007) 0 0 1 .trap isReady).isSome = true ∧
    (sylFor (tY 1 0x19C0_0000) 0 0 1 .tack isReady).isSome = true := by decide
theorem wit_ScalarControl_tret : (sylFor (tY 1 0x1A00_0000) 0 0 1 .tret isReady).isSome = true ∧
    unitsIdle (tY 1 0x1A00_0000) 0 0 = true := by decide

theorem wit_ScalarWaits_wevt : (sylFor (tY 1 0x18C2_2000) 0 0 1 .wevt isReady).isSome = true ∧
    (sylFor (tY 1 0x1902_2180) 0 0 1 .wtal isReady).isSome = true := by decide
def tWtal : Dev := tD (tK (swrite (tX (tW 1 0x1902_2180 .held [])) 2 5))
theorem wit_ScalarWaits_tally : (sylFor tWtal 0 0 1 .wtal (· == .held)).isSome = true ∧
    (rget tWtal (clOff 0 0x40)).toNat < (sread (getCtx tWtal 0 0) (fRA 0x1902_2180)).toNat := by decide
def tCmp : Dev := rset (tD (tK Ctx.empty)) (dtOff 0 0 0x58) (setB (setF 0 DT_TCMP.VALUE 9) DT_TCMP.EN true)
theorem wit_ScalarWaits_compare : isSet (rget tCmp (dtOff 0 0 0x58)) DT_TCMP.EN = true ∧
    (rget tCmp (clOff 0 0x40)).toNat < (BitVec.ofNat 64 (getF (rget tCmp (dtOff 0 0 0x58)) DT_TCMP.VALUE)).toNat := by decide
def tEvent : Dev := { tD (tK Ctx.empty) with events := [(0, 6)] }
theorem wit_ScalarWaits_event : tEvent.events[0]? = some (0, 6) ∧ (getCl tEvent 0).dormant = false ∧
    (getQ tEvent (quarterOf tEvent 0)).held = false := by decide
/-- FENCE with ORD 0b11 at SCOPE 0. -/
theorem wit_ScalarWaits_fence : (sylFor (tY 2 0x2800_0018) 0 0 2 .fence isReady).isSome = true := by decide
def tFence : Dev := tD (tK (tX (tW 2 0x2800_0018 .held [])))
theorem wit_ScalarWaits_fenceComplete : (sylFor tFence 0 0 2 .fence (· == .held)).isSome = true ∧
    fenceReady tFence 0 0 (fORD 0x2800_0018) (fSCOPE 0x2800_0018) = true ∧
    releaseErr tFence 0 0 (fORD 0x2800_0018) (fSCOPE 0x2800_0018) = none := by decide
theorem wit_ScalarWaits_warr : (sylFor (tY 2 0x2880_2000) 0 0 2 .warr isReady).isSome = true := by decide

/-! ### Witnesses: IssueRetireTrap, MaintenanceSyllables -/

/-- The words of a code line, the first at its start. -/
def tLine (a : Nat) (ws : List Nat) : Line := ⟨a / 64, BitVec.ofNat 512 (ofBytes (ws.flatMap (toBytes 4)))⟩

/-- Contexts of cluster 0 that run, in the window of stack 0, with a line of code at 0x8000_0000 in their line buffers. -/
def tRun (mask : Nat) (x : Ctx) (ws : List Nat) : Dev :=
  tRegs (tWin (tD { Cluster.empty with ctx := [(0, x), (1, x)], lbuf := [tLine 0x8000_0000 ws] })) [(clOff 0 0x60, mask)]

/-- A context about to issue at 0x8000_0000. -/
def tGo : Ctx := { Ctx.empty with pc := 0x8000_0000, cur := tMd }
def tIssue : Dev := tRun 1 tGo [0x8002_2180]
theorem wit_IssueRetireTrap_issue : tIssue.replat = none ∧ chooseCtx tIssue 0 = some 0 := by decide +kernel

/-- Two contexts in group mode, each with its own thread active at the same THREAD_ALU syllable (V slot, major 0x00, stop bit). -/
def tGm : Ctx := { tGo with cur := { tMd with gm := true } }
def tPack : Dev := tRegs (tRun 3 tGm [0xB002_2180])
  [(csOff 0 0 0x48, 0x81), (csOff 0 1 0x48, 0x81), (csOff 0 0 0x50, 1), (csOff 0 1 0x50, 2), (csOff 0 0 0x60, 1), (csOff 0 1 0x60, 2),
   (clOff 0 0x2000, 0x8000_0000), (clOff 0 0x2208, 0x8000_0000)]
theorem wit_IssueRetireTrap_packed : tPack.replat = none ∧ chooseCtx tPack 0 = some 0 ∧
    packOk tPack 0 (filterUpto 8 (fun c => (3 : Nat).testBit c)) = true := by decide +kernel

def tDone : Dev := tD (tK (tX (tW 0 0x0002_2180 .done [.sreg 1 9])))
theorem wit_IssueRetireTrap_retire : (getCtx tDone 0 0).wb = some (tW 0 0x0002_2180 .done [.sreg 1 9]) ∧
    ownRetire (tW 0 0x0002_2180 .done [.sreg 1 9]) = false ∧ complete tDone 0 0 = true := by decide
def tMiss : Dev := tRegs (tWin (tD (tK tGo))) [(clOff 0 0x60, 1)]
theorem wit_IssueRetireTrap_fill : wantCode tMiss 0 0 = some (0x8000_0000, tMd) ∧
    (match fetchWords tMiss 0 tMd 5 0x8000_0000 [] with | .line da (.stack k off) _ => da == 0x8000_0000 && k == 0 && off == 0 | _ => false) = true := by
  decide +kernel

/-- A running context with a trap due, and one with a pending interrupt. -/
def tTrap : Dev := tRegs (tD (tK { Ctx.empty with swtrap := some 7, pc := 0x1004 })) [(clOff 0 0x60, 1)]
theorem wit_IssueRetireTrap_trap : running tTrap 0 0 = true ∧ (getCtx tTrap 0 0).stop = false ∧ (getCtx tTrap 0 0).park = none ∧
    unitsStop tTrap 0 0 = true ∧ atBoundary tTrap 0 0 = true ∧ dueTrap tTrap 0 0 = some (⟨0x12, 7⟩, false) := by decide +kernel
def tIrq : Dev := tRegs (tD (tK Ctx.empty))
  [(clOff 0 0x60, 1), (dtOff 0 0 0x40, 0x20), (dtOff 0 0 0x48, 0x20), (dtOff 0 0 0, ((setB (setF 0 DT_STATUS.PLEV 3) DT_STATUS.IE true).toNat))]
theorem wit_IssueRetireTrap_interrupt : running tIrq 0 0 = true ∧ (getCtx tIrq 0 0).stop = false ∧ (getCtx tIrq 0 0).park = none ∧
    unitsStop tIrq 0 0 = true ∧ atBoundary tIrq 0 0 = true ∧ (getCtx tIrq 0 0).swtrap = none ∧ (getCtx tIrq 0 0).ufault = none ∧
    (getCtx tIrq 0 0).dmc = none ∧ (getCtx tIrq 0 0).dcf = none ∧ takeable tIrq 0 0 = some (5, false) := by decide +kernel
def tEnd : Dev := tRegs (tD (tK { Ctx.empty with stop := true })) [(clOff 0 0x60, 1)]
theorem wit_IssueRetireTrap_end : running tEnd 0 0 = true ∧ (getCtx tEnd 0 0).stop = true ∧ atBoundary tEnd 0 0 = true ∧
    (getCtx tEnd 0 0).vq = [] ∧ (getCtx tEnd 0 0).xq = [] ∧ (getCl tEnd 0).summ = [] := by decide +kernel

def tPref : Dev := tWin (tYr 2 0x28C0_2000 2 0x8000_0040)
theorem wit_MaintenanceSyllables_pref : (sylFor tPref 0 0 2 .pref isReady).isSome = true ∧
    access tPref 0 tMd (memAddr (getCtx tPref 0 0) 0x28C0_2000) .rd = .ok 0x8000_0040 (.stack 0 0x40) 3 := by decide
/-- CMO at level 1, operation 2, of no bytes. -/
theorem wit_MaintenanceSyllables_cmo : (sylFor (tY 2 0x2924_2180) 0 0 2 .cmo isReady).isSome = true ∧
    cmoPos ⟨0x2924_2180, .ready, []⟩ = 0 ∧
    (cmoPages 0 tMd 2 1 (sread (getCtx (tY 2 0x2924_2180) 0 0) 2) (sread (getCtx (tY 2 0x2924_2180) 0 0) 3).toNat
      (ceilDiv (sread (getCtx (tY 2 0x2924_2180) 0 0) 3).toNat 4096 + 1) (tY 2 0x2924_2180) 0).2.2 = false := by decide +kernel
theorem wit_MaintenanceSyllables_cmosw : (sylFor (tY 2 0x2960_2000) 0 0 2 .cmosw isReady).isSome = true ∧ fld 0x2960_2000 18 2 = 0 := by
  decide
def tCmoHeld : Dev := tD (tK (tX (tW 2 0x2924_2180 .held [])))
theorem wit_MaintenanceSyllables_complete : (sylFor tCmoHeld 0 0 2 .cmo (· == .held)).isSome = true ∧ tCmoHeld.reqs = [] := by decide
/-- SETC s1 to CL_ICCTL (SEL 0x0700), with INVALL (bit 1) or without. -/
def tIc (v : Nat) : Dev := tD (tK (swrite (tX (tW 1 0x1842_0700 .fixed [])) 1 (BitVec.ofNat 64 v)))
theorem wit_MaintenanceSyllables_icacheInvall : (icWrite (tIc 3) 0 0).isSome = true ∧ isSet 3 CL_ICCTL.INVALL = true := by decide
theorem wit_MaintenanceSyllables_icacheInvallComplete :
    rbit (rsetB (tIc 3) (clOff 0 0x700) CL_ICCTL.BUSY true) (clOff 0 0x700) CL_ICCTL.BUSY = true := by decide
theorem wit_MaintenanceSyllables_icacheEnable : (icWrite (tIc 1) 0 0).isSome = true ∧ isSet 1 CL_ICCTL.INVALL = false := by decide
/-- SETC s1 to CL_MERE (SEL 0x0500), held until the Mere is quiet. -/
def tResize : Dev := tD (tK (tX (tW 1 0x1842_0500 .held [])))
theorem wit_MaintenanceSyllables_resize : (sylFor tResize 0 0 1 .setc (· == .held)).isSome = true ∧
    selOff 0 0 (fSEL 0x1842_0500) = clOff 0 0x500 ∧ mereQuiet tResize 0 0 = true := by decide
/-- SETC s1 to CL_TSTATE of the last tile (SEL 0x04B8). -/
def tTile : Dev := tD (tK (tX (tW 1 0x1842_04B8 .fixed [])))
theorem wit_MaintenanceSyllables_tstate : (sylFor tTile 0 0 1 .setc (· == .fixed)).isSome = true ∧
    (let o := selOff 0 0 (fSEL 0x1842_04B8)
     0x480 ≤ o - clOff 0 0 ∧ o - clOff 0 0 < 0x4C0 ∧ tileNamed tTile 0 ((o - clOff 0 0 - 0x480) / 8) = false) := by decide
theorem wit_MaintenanceSyllables_ifMisaligned : (sylFor (tYr 2 0x2C00_2000 2 8) 0 0 2 .ifsave isReady).isSome = true ∧
    (sylFor (tYr 2 0x2C40_2000 2 8) 0 0 2 .ifload isReady).isSome = true ∧
    (memAddr (getCtx (tYr 2 0x2C00_2000 2 8) 0 0) 0x2C00_2000).toNat % 64 ≠ 0 := by decide
def tIfsave : Dev := tRegs (tYr 2 0x2C00_2000 2 0x4000_0000) [(clOff 0 0x500, 1)]
theorem wit_MaintenanceSyllables_ifsave : (sylFor tIfsave 0 0 2 .ifsave isReady).isSome = true ∧
    (let a := memAddr (getCtx tIfsave 0 0) 0x2C00_2000
     let us := recordUnits (getCtx tIfsave 0 0).heldD
     a.toNat % 64 = 0 ∧
     (match ((List.range us.length).zip us).foldl (saveUnit 0 0 (tW 2 0x2C00_2000 .ready []) a) (.go tIfsave [] []) with
      | .go _ _ _ => true | .stop _ => false) = true) := by decide +kernel
def tIfload : Dev := tRegs (tYr 2 0x2C40_2000 2 0x4000_0000) [(clOff 0 0x500, 1)]
theorem wit_MaintenanceSyllables_ifload : (sylFor tIfload 0 0 2 .ifload isReady).isSome = true ∧
    (let a := memAddr (getCtx tIfload 0 0) 0x2C40_2000
     a.toNat % 64 = 0 ∧
     (match loadUnit 0 0 (tW 2 0x2C40_2000 .ready []) a (.go tIfload [] []) 0 with
      | .go _ _ hs => badRecord tMd hs == none && numAt (hs.headD []) 0 2 + numAt (hs.headD []) 2 2 == 0 | .stop _ => false) = true) := by
  decide +kernel

/-! ### Witnesses: ThreadGroups -/

/-- A queued operation at its start: thread operations in group mode. -/
def tQ (w vcfg : Nat) : QOp := ⟨false, 0x1000, BitVec.ofNat 32 w, { tMd with gm := true }, BitVec.ofNat 64 vcfg, [], 0xFF, 0, false⟩

/-- A cluster whose vector unit has context 0's first operation. -/
def tU (o : QOp) : Dev := tD { tK { Ctx.empty with vq := [o] } with vrun := some 0 }

theorem wit_ThreadGroups_alu : (vHead (tU (tQ 0x3002_2180 0)) 0).isSome = true ∧ qopOp (tQ 0x3002_2180 0) = some .talu ∧
    ((upTo 0 8).foldl (threadLane (tU (tQ 0x3002_2180 0)) 0 0 (tQ 0x3002_2180 0)) ⟨{ Ctx.empty with vq := [tQ 0x3002_2180 0] }, 0, false, none⟩).stop.isNone
      = true := by decide +kernel
theorem wit_ThreadGroups_load : (vHead (tU (tQ 0x3602_2000 0)) 0).isSome = true ∧ qopOp (tQ 0x3602_2000 0) = some .tload := by decide
theorem wit_ThreadGroups_atomic : (vHead (tU (tQ 0x3902_2060 0)) 0).isSome = true ∧ qopOp (tQ 0x3902_2060 0) = some .tatomic ∧
    (fORD 0x3902_2060).testBit 1 = false := by decide
theorem wit_ThreadGroups_tbc : (vHead (tU (tQ 0x3C00_0010 0)) 0).isSome = true ∧ qopOp (tQ 0x3C00_0010 0) = some .tbc ∧
    (getCtx (tU (tQ 0x3C00_0010 0)) 0 0).vp.fin = false := by decide
def tResolve : Dev := tD (tK { Ctx.empty with delay := some ⟨false, 0, 1, [], true⟩ })
theorem wit_ThreadGroups_resolve : (getCl tResolve 0).vrun = none ∧ (getCtx tResolve 0 0).delay = some ⟨false, 0, 1, [], true⟩ ∧
    branchQueued (getCtx tResolve 0 0) = false := by decide

/-- A group of one thread at a bundle of one V or X syllable, whose mask register s3 holds the given threads. -/
def tGrp (isX : Bool) (w mask : Nat) : Dev :=
  let syl : Syllable := BitVec.ofNat 32 w
  let v : Option Syllable := if isX then none else some syl
  let xx : Option Syllable := if isX then some syl else none
  let b : WB := ⟨0x1000, 1, 1, { tMd with gm := true }, false, none, none, none, v, xx⟩
  tRegs (tD (tK (swrite (tX b) 3 (BitVec.ofNat 64 mask)))) [(clOff 0 0x2000, 0x1000), (csOff 0 0 0x50, 1), (csOff 0 0 0x48, 0x81)]
theorem wit_ThreadGroups_texit : (ownBundle (tGrp false 0x3D00_0000 0) 0 0 .texit).isSome = true := by decide
theorem wit_ThreadGroups_gyield : (ownBundle (tGrp false 0x3D40_0000 0) 0 0 .gyield).isSome = true := by decide
theorem wit_ThreadGroups_collectiveEmpty :
    (ownBundle (tGrp false 0x3D82_2180 0) 0 0 .gvote).isSome = true ∧ (ownBundle (tGrp false 0x3DC2_2180 0) 0 0 .gshfl).isSome = true ∧
    (ownBundle (tGrp true 0x4E00_0060 0) 0 0 .gxld).isSome = true ∧ (ownBundle (tGrp true 0x4E40_0060 0) 0 0 .gxst).isSome = true ∧
    (getCtx (tGrp false 0x3D82_2180 0) 0 0).vq = [] ∧ (getCtx (tGrp false 0x3D82_2180 0) 0 0).ufault = none ∧
    issueMask (getCtx (tGrp false 0x3D82_2180 0) 0 0) .gvote 0x3D82_2180 = 0 ∧
    issueMask (getCtx (tGrp true 0x4E00_0060 0) 0 0) .gxld 0x4E00_0060 = 0 := by decide +kernel
theorem wit_ThreadGroups_collective :
    let d := tGrp false 0x3D82_2180 1
    let b := (getCtx d 0 0).wb.getD (tW 0 0 .done [])
    (ownBundle d 0 0 .gvote).isSome = true ∧ issueMask (getCtx d 0 0) .gvote 0x3D82_2180 = 1 ∧ splitters d 0 0 1 b.addr = 0 ∧
    maskDiffers (getCtx d 0 0) b.addr 1 = false ∧ waitingAt (arrive d 0 0 b 1 (some 1)) 0 0 b.addr &&& 1 = 1 := by decide +kernel
theorem wit_ThreadGroups_gbar :
    let d := tGrp false 0x3E00_0000 0
    (ownBundle d 0 0 .gbar).isSome = true ∧ glive d 0 0 = 1 ∧ splitters d 0 0 1 0x1000 = 0 := by decide +kernel

/-! ### Witnesses: VectorUnit, VectorMemory -/

/-- A queued vector operation. The configurations: 8 elements of SEW 64 as binary64, and of SEW 8. -/
def tV (w vcfg : Nat) : QOp := { tQ w vcfg with md := tMd, ops := [0, 0], act := 1 }
def v64 : Nat := 0x0C08
def v8 : Nat := 0x0008 + 6 * 0x4000
/-- The operation stands first for the vector unit. -/
def vAt (w vcfg : Nat) (op : Op) : Bool := (vHead (tU (tV w vcfg)) 0).isSome && qopOp (tV w vcfg) == some op

def tVs : Dev := tRegs (tD (tK { Ctx.empty with vq := [tV 0x3010_1100 v64] })) [(clOff 0 0x60, 1)]
theorem wit_VectorUnit_start : (getCl tVs 0).vrun = none ∧ unitPick tVs 0 (vStartable tVs 0) (getCl tVs 0).vwait = some 0 ∧
    (getCtx tVs 0 0).vp.yield = none := by decide +kernel
/-- Elements enter without a trap. -/
def vEnters (w vcfg : Nat) : Bool :=
  let o := tV w vcfg
  let hi := min (cfgVl o.vcfg) ((o.pos / groupElems o + 1) * groupElems o)
  ((upTo o.pos hi).foldl (vEnter o) ⟨getCtx (tU o) 0 0, 0, false, none⟩).stop.isNone
theorem wit_VectorUnit_vadd : vAt 0x3010_1100 v64 .vadd = true ∧ vEnters 0x3010_1100 v64 = true := by decide +kernel
theorem wit_VectorUnit_vfadd : vAt 0x3410_1100 v64 .vfadd = true ∧ vEnters 0x3410_1100 v64 = true := by decide +kernel
theorem wit_VectorUnit_vsadd : vAt 0x30D0_1100 v64 .vsadd = true ∧ vEnters 0x30D0_1100 v64 = true := by decide +kernel
theorem wit_VectorUnit_vcmp : vAt 0x3602_1100 v64 .vcmp = true ∧ vEnters 0x3602_1100 v64 = true := by decide +kernel
theorem wit_VectorUnit_vcvt : vAt 0x3510_1200 v64 .vcvt = true ∧ vEnters 0x3510_1200 v64 = true := by decide +kernel
theorem wit_VectorUnit_whole : vAt 0x3802_1100 v64 .vmand = true ∧ vAt 0x3A10_1004 v8 .vpack = true ∧ vAt 0x3A10_1005 v8 .vunpack = true ∧
    vAt 0x3842_1000 v64 .vmpop = true ∧ vAt 0x3A10_1040 v64 .vcompress = true ∧ vAt 0x3A10_1041 v64 .vexpand = true ∧
    vAt 0x3A10_1102 v64 .vperm = true ∧ vAt 0x3B10_1100 v64 .vmatch = true ∧ vAt 0x3B50_1100 v64 .vmerge = true ∧
    (getCtx (tU (tV 0x3802_1100 v64)) 0 0).vp.fin = false := by decide +kernel
theorem wit_VectorUnit_vredsum : vAt 0x3902_1000 v64 .vredsum = true ∧ majorOf 0x3902_1000 = 0x24 ∧ fRD 0x3902_1000 ≠ 0 := by decide +kernel
theorem wit_VectorUnit_vfredosum : vAt 0x3942_1001 v64 .vfredosum = true ∧ majorOf 0x3942_1001 ≠ 0x24 ∧ fRD 0x3942_1001 ≠ 0 ∧
    (ERes.float (tV 0x3942_1001 v64).md (vFloatRed (getCtx (tU (tV 0x3942_1001 v64)) 0 0) (tV 0x3942_1001 v64))).trap = none := by
  decide +kernel
theorem wit_VectorUnit_summary : (getCl (tD { tK Ctx.empty with summ := [⟨0, false, 5, 3⟩] }) 0).summ = [⟨0, false, 5, 3⟩] := by decide
def tVfin : Dev := tU { tV 0x3010_1100 v64 with pos := 8 }
theorem wit_VectorUnit_complete : (vHead tVfin 0).isSome = true ∧ isWhole { tV 0x3010_1100 v64 with pos := 8 } = false ∧
    vTotal { tV 0x3010_1100 v64 with pos := 8 } ≤ 8 ∧ (getCtx tVfin 0 0).vp.waiting = [] ∧ (getCtx tVfin 0 0).vp.fault = none := by
  decide +kernel

/-- Elements of a memory operation enter, in the Mere of one way at 0x4000_0000. -/
def memEnters (w : Nat) : Bool :=
  let o := { tV w v64 with ops := [0x4000_0000, 8] }
  let x := { Ctx.empty with vq := [o], v := [(1, BitVec.ofNat 4096 (ofBytes ((List.replicate 8 (toBytes 8 0x4000_0000)).flatten)))] }
  let d := tRegs (tD { tK x with vrun := some 0 }) [(clOff 0 0x500, 1)]
  let hi := min (memTotal o) ((o.pos / memE o + 1) * memE o)
  ((upTo o.pos hi).foldl (memEnter 0 0 o) ⟨d, none, none, []⟩).why.isNone
theorem wit_VectorMemory_enter : (vAt 0x3C10_1000 v64 .vld && vAt 0x3C90_1000 v64 .vlseg && vAt 0x3E10_1100 v64 .vldx &&
      vAt 0x3E50_1100 v64 .vstx && vAt 0x3E90_1100 v64 .vstxr) = true ∧
    (memEnters 0x3C10_1000 && memEnters 0x3C90_1000 && memEnters 0x3E10_1100 && memEnters 0x3E50_1100 && memEnters 0x3E90_1100) = true ∧
    (getCtx (tU (tV 0x3C10_1000 v64)) 0 0).vp.fault = none := by decide +kernel
def tArrive : Dev := tD (tK { Ctx.empty with vq := [tV 0x3C10_1000 v64], vp := { Prog.empty with waiting := [0] } })
theorem wit_VectorMemory_arrival : (getCtx tArrive 0 0).vq = [tV 0x3C10_1000 v64] ∧ (getCtx tArrive 0 0).vp.waiting = [0] ∧
    reqsOf tArrive 0 = [] := by decide +kernel
def tResumeV : Dev := tRegs (tD (tK { Ctx.empty with vq := [tV 0x3C10_1000 v64], vp := { Prog.empty with yield := some .ready } })) [(clOff 0 0x60, 1)]
theorem wit_VectorMemory_resume : (getCl tResumeV 0).vrun = none ∧
    unitPick tResumeV 0 (vStartable tResumeV 0) (getCl tResumeV 0).vwait = some 0 ∧
    (getCtx tResumeV 0 0).vp.yield = some .ready := by decide +kernel

/-! ### Witnesses: MatrixUnit -/

/-- A queued matrix operation on tile 0. -/
def tXq (w : Nat) : QOp := { tV w 0 with isX := true, ops := [0, 0, 0] }
def tXd (o : QOp) (setup fin : Bool) : Dev :=
  tRegs (tD { tK { Ctx.empty with xq := [o], xp := { Prog.empty with setup := setup, fin := fin } } with xrun := some 0 }) [(clOff 0 0x500, 1)]
/-- TZERO of tile 0 with 4 rows and 2 columns of binary32: R - 1 in [18:13], C - 1 in [12:9] (R253). -/
def tZero : QOp := tXq 0x4280_6200
def tXs : Dev := tRegs (tD (tK { Ctx.empty with xq := [tZero] })) [(clOff 0 0x60, 1)]
theorem wit_MatrixUnit_start : (getCl tXs 0).xrun = none ∧ unitPick tXs 0 (xStartable tXs 0) (getCl tXs 0).xwait = some 0 ∧
    (getCtx tXs 0 0).xq = [tZero] ∧ opX tZero.md.gm tZero.syl ≠ some .gxld ∧ opX tZero.md.gm tZero.syl ≠ some .gxst ∧
    setupFault (updCl tXs 0 (fun k => { k with xrun := some 0 })) 0 0 tZero = none := by decide +kernel
theorem wit_MatrixUnit_groups :
    ((xHead (tXd (tXq 0x4000_0000) true false) 0).isSome && qopOp (tXq 0x4000_0000) == some .xopa &&
      (xopaErr (tXd (tXq 0x4000_0000) true false) 0 (tXq 0x4000_0000) 0).isNone) = true ∧
    ((xHead (tXd (tXq 0x4200_0000) true false) 0).isSome && qopOp (tXq 0x4200_0000) == some .tld &&
      (imgErr (tXd (tXq 0x4200_0000) true false) 0 0 (tXq 0x4200_0000) 0).isNone) = true ∧
    ((xHead (tXd (tXq 0x4240_0000) true false) 0).isSome && qopOp (tXq 0x4240_0000) == some .tst &&
      (tstErr (tXd (tXq 0x4240_0000) true false) 0 (tXq 0x4240_0000) 0).isNone) = true ∧
    ((xHead (tXd (tXq 0x4300_0000) true false) 0).isSome && qopOp (tXq 0x4300_0000) == some .tacc &&
      (taccErr (tXd (tXq 0x4300_0000) true false) 0 (tXq 0x4300_0000) 0).isNone) = true := by decide +kernel
theorem wit_MatrixUnit_declare : (xHead (tXd tZero true false) 0).isSome = true ∧ qopOp tZero = some .tzero ∧
    (getCtx (tXd tZero true false) 0 0).xp.setup = true ∧ (getCtx (tXd tZero true false) 0 0).xp.fin = false ∧
    (xHead (tXd (tXq 0x42C0_0000) true false) 0).isSome = true ∧ qopOp (tXq 0x42C0_0000) = some .trel := by decide +kernel
theorem wit_MatrixUnit_complete : (xHead (tXd tZero true true) 0).isSome = true ∧ tZero.fault = false ∧
    (getCtx (tXd tZero true true) 0 0).xp.setup = true ∧ (getCtx (tXd tZero true true) 0 0).xp.fin = true ∧
    opX tZero.md.gm tZero.syl = some .tzero := by decide +kernel

/-! ### Witnesses: CopyEngine, CacheUnits -/

theorem wit_CopyEngine_copy : (sylFor (tY 2 0x2840_4000) 0 0 2 .copy isReady).isSome = true ∧ fRA 0x2840_4000 % 4 = 0 ∧
    descBad ((List.range 4).map (fun i => sread (getCtx (tY 2 0x2840_4000) 0 0) (fRA 0x2840_4000 + i))) = false := by decide

/-- A copy (kind 0) of 64 bytes between stack addresses. -/
def tCp (kind : Nat) : Copy := copyOf 0 [0x8000_0000, 0x8000_1000, BitVec.ofNat 64 (64 + kind * 2 ^ 48), 0]
def tCd (cp : Copy) : Dev := tD { tK Ctx.empty with copies := [(1, cp)] }
theorem wit_CopyEngine_start :
    (List.find? (fun e : Nat × Copy => !e.2.active && e.2.park.isNone && e.2.fail.isNone && !e.2.done) (getCl (tCd (tCp 0)) 0).copies).isSome
      = true ∧ activeCopies (getCl (tCd (tCp 0)) 0) < 8 := by decide
theorem wit_CopyEngine_again : Tab.find? (getCl (tCd (tCp 0)) 0).copies 1 = some (tCp 0) ∧ copyOut (tCd (tCp 0)) 0 1 = none := by decide
def tCr (k : ReqKind) : Req := { tReq k with src := .copy 1 }
def tCrd (k : ReqKind) : Dev := { tCd (tCp 0) with reqs := [(5, tCr k)] }
theorem wit_CopyEngine_return : copyOut (tCrd .read) 0 1 = some (5, tCr .read) ∧ copyOut (tCrd .write) 0 1 = some (5, tCr .write) ∧
    (copyNext (tCp 0)).isSome = true ∧ cpKind (tCp 0) ≠ 1 := by decide +kernel
theorem wit_CopyEngine_finish : Tab.find? (getCl (tCd { tCp 0 with done := true }) 0).copies 1 = some { tCp 0 with done := true } := by decide
theorem wit_CopyEngine_fail :
    Tab.find? (getCl (tCd { tCp 0 with fail := some (3, 0x8000_0000) }) 0).copies 1 = some { tCp 0 with fail := some (3, 0x8000_0000) } := by decide

/-- A request of the given kind on its way to the quarter of stack 0, which holds sector 0 of its line or not. -/
def tQr (k : ReqKind) : Req := { tReq k with stage := .toQuarter }
def tQd (k : ReqKind) (held : Bool) (mask : Nat) : Dev :=
  let d := { Dev.reset with reqs := [(1, { tQr k with mask := mask })] }
  let d := updQ d 0 (fun u => { u with qc := if held then [(qcBase 0x8000_0000, ⟨0x8000_0000 / 512, 1, 0, 0, 0⟩)] else [] })
  rsetF d (qOff 0 0x100) QT_QWAY.ON 1
/-- Is it found so? -/
def tHeld (d : Dev) : Bool := match qcFind d 0 0x8000_0000 with | some (_, ln) => slHit ln 0 64 | none => false
theorem wit_CacheUnits_held : Tab.find? (tQd .read true (ones 64)).reqs 1 = some (tQr .read) ∧
    reqBlocked (tQd .read true (ones 64)) 1 (tQr .read) = false ∧ (getQ (tQd .read true (ones 64)) 0).held = false ∧
    tHeld (tQd .read true (ones 64)) = true ∧ tHeld (tQd .write true (ones 64)) = true := by decide +kernel
theorem wit_CacheUnits_missing : tHeld (tQd .read false (ones 64)) = false ∧ tHeld (tQd .write false (ones 64)) = false ∧
    (tQr .write).status = 0 ∧ (tQr .write).len = 64 ∧ (tQr .write).mask = ones 64 ∧
    qcTakes (tQd .write false (ones 64)) 0 0x8000_0000 = true ∧ tHeld (tQd .write false 1) = false ∧ (1 : Nat) ≠ ones 64 := by decide +kernel
def tPf : Req := { tReq .read with src := .prefetch 0 }
def tPfd : Dev := { tD (tK Ctx.empty) with reqs := [(1, tPf)] }
theorem wit_CacheUnits_prefetch : Tab.find? tPfd.reqs 1 = some tPf ∧ tPf.src = .prefetch 0 ∧ tPf.stage = .done ∧
    sectorHeld (dropReq tPfd 1) 0 tPf.da = false := by decide +kernel
def tSide : Dev := tD { tK Ctx.empty with side := [⟨0x8000_0000 / 512, 1, 0, 0, 0⟩] }
theorem wit_CacheUnits_promote : (sideFind tSide 0 0x8000_0000).isSome = true ∧ hasCC tSide 0 = true := by decide +kernel
def tWay (on drain : Nat) : Dev := rsetF (rsetF Dev.reset (qOff 3 0x100) QT_QWAY.ON on) (qOff 3 0x100) QT_QWAY.DRAIN drain
theorem wit_CacheUnits_ways : wayBit (tWay 0x8000 0) 3 15 QT_QWAY.ON = true ∧ wayBit (tWay 0x8000 0) 3 15 QT_QWAY.DRAIN = false ∧
    wayBit (tWay 0x8000 0x8000) 3 15 QT_QWAY.DRAIN = true ∧ wayBit (tWay 0 0) 3 15 QT_QWAY.ON = false ∧
    (getQ (tWay 0x8000 0x8000) 3).upAfter.contains 15 = false := by decide +kernel

/-! ### Witnesses: TranslationUnits, TranslationControl -/

/-- A load that waits for a translation of 0x1000 in address space 0. -/
def tMissX : Ctx := tX (tW 2 0xA191_E010 (.walking 0x1000 0) [])
def tWt : Waiter := ⟨.ctx 0 0, 0x1000, 0, false⟩
def tTlb : Tlb := { asid := 0, vpn := 1, frame := 0x8_0000, lg := 12, wr := true, us := true, ex := true, dirty := true }
def tWalk : Walk := { asid := 0, va := 0x1000, acc := 0, user := false, who := [], got := [], bad := [] }
theorem wit_TranslationUnits_hit :
    let d := updQ (tD (tK tMissX)) 0 (fun u => { u with tlb := [tTlb] })
    itemNeed d 0 (.scalar 0) = some (tWt, 0) ∧ alreadyWaits (getQ d 0) tWt = false ∧ d.wfdPend = [] ∧
    quarterHit d 0 0 0x1000 false .rd = some tTlb := by decide +kernel
theorem wit_TranslationUnits_joinsWalk :
    let d := updQ (tD (tK tMissX)) 0 (fun u => { u with walks := [(3, tWalk)] })
    itemNeed d 0 (.scalar 0) = some (tWt, 0) ∧ alreadyWaits (getQ d 0) tWt = false ∧ quarterHit d 0 0 0x1000 false .rd = none ∧
    (List.find? (fun e : Nat × Walk => e.2.asid == 0 && e.2.va.toNat / 4096 == tWt.va.toNat / 4096) (getQ d 0).walks).isSome = true := by
  decide +kernel
theorem wit_TranslationUnits_queued :
    let d := tD (tK tMissX)
    itemNeed d 0 (.scalar 0) = some (tWt, 0) ∧ quarterHit d 0 0 0x1000 false .rd = none ∧ (getQ d 0).walks = [] ∧
    (getQ d 0).missq.length < 512 := by decide +kernel
theorem wit_TranslationUnits_start :
    let d := updQ Dev.reset 3 (fun u => { u with missq := [tWalk] })
    (getQ d 3).missq = [tWalk] ∧ findUpto 16 (fun i => (Tab.find? (getQ d 3).walks i).isNone) = some 0 ∧ d.wfdPend = [] := by decide +kernel
/-- A format of four levels of 9 bits and 8-byte entries without flags, its root in page 1; every entry of the walk is there. -/
def tFmt : Dev := tRegs Dev.reset
  [(qOff 0 0x1000, (regOf [(TR_WFD0.LEVELS, 4), (TR_WFD0.ENTRY8, 1), (TR_WFD0.IDX, 0x9999), (TR_WFD0.PA_LO, 12), (TR_WFD0.PA_W, 40),
      (TR_WFD0.PA_SH, 12)])), (qOff 0 0x1040, (regOf [(TR_ASROOT.VALID, 1), (TR_ASROOT.ROOT, 1)]))]
def tGot : Walk := { tWalk with got := [(0x1000, 0x2000), (0x2000, 0x3000), (0x3000, 0x4000), (0x4008, 0x8000_5000)] }
theorem wit_TranslationUnits_leaf :
    let d := updQ tFmt 1 (fun u => { u with walks := [(0, tGot)] })
    let p := walkTake d 1 0 tGot
    Tab.find? (getQ d 1).walks 0 = some tGot ∧
    (match walkGo p.1 1 0 p.2 with
     | .leaf d pa _ e _ _ wr us ex => pa == 0x8000_5000 && wr && us && ex && flagIn d 3 e true && flagIn d 4 e true
     | _ => false) = true := by decide +kernel
theorem wit_TranslationUnits_fault :
    let d := updQ Dev.reset 0 (fun u => { u with walks := [(15, tWalk)] })
    let p := walkTake d 0 15 tWalk
    Tab.find? (getQ d 0).walks 15 = some tWalk ∧ (match walkGo p.1 0 15 p.2 with | .fault _ k _ => k == 0x08 | _ => false) = true := by
  decide +kernel
def tRec : FRec := { va := 0x1000, kind := 1, access := 0, level := 3, asid := 0, waiters := 1, dev := 0, first := 0, sent := false }
theorem wit_TranslationUnits_send :
    let d := rsetB (updQ Dev.reset 0 (fun u => { u with recs := [(1023, tRec)] })) (landOff 0) HB_SESSTAT.OPEN true
    Tab.find? (getQ d 0).recs 1023 = some tRec ∧ silent d = false ∧ hostReachable d = true := by decide +kernel
def tPark : Park := { tag := none, fault := ⟨7, 0x1000⟩, access := 0, kind := 1, level := 3, dev := 0, vec := false }
theorem wit_TranslationUnits_freeWait :
    let d := updQ (tD (tK { Ctx.empty with park := some tPark })) 0 (fun u => { u with recWait := [.ctx 0 0] })
    (getQ d 0).recWait = [.ctx 0 0] ∧ (getCtx d 0 0).park = some tPark ∧
    (joinRecord (updQ d 0 (fun u => { u with recWait := [] })) 0 0x1000 1 0 3 0 0 (firstCtx 0 0)).isSome = true := by decide +kernel

theorem wit_TranslationControl_inv :
    blkUnmapped Dev.reset (.quarter 0) = false ∧ blkAsleep Dev.reset (.quarter 0) = false ∧
    rbit Dev.reset invStat TR_INVSTAT.BUSY = false ∧
    getF (cmdWord Dev.reset .host (qOff 0 0x1100) (regOf [(TR_INV.OP, 1)])) TR_INV.OP = 1 ∧
    getF (cmdWord Dev.reset .host (qOff 0 0x1100) (regOf [(TR_INV.OP, 2), (TR_INV.ASID, 15)])) TR_INV.OP = 2 ∧
    getF (cmdWord Dev.reset .host (qOff 0 0x1100) (regOf [(TR_INV.OP, 3), (TR_INV.ASID, 15)])) TR_INV.OP = 3 := by decide +kernel
theorem wit_TranslationControl_complete : rbit (rsetB Dev.reset invStat TR_INVSTAT.BUSY true) invStat TR_INVSTAT.BUSY = true ∧
    accessesOut (rsetB Dev.reset invStat TR_INVSTAT.BUSY true) = false := by decide +kernel
theorem wit_TranslationControl_format : blkOf (qOff 3 0x10B8) = (.quarter 3, 0x10B8) ∧
    Sys2Proof.Machine.sizeOk (qOff 3 0x10B8) 8 = true ∧ blkUnmapped Dev.reset (.quarter 3) = false ∧ blkAsleep Dev.reset (.quarter 3) = false ∧
    (quarterReg (0x10B8 / 8 * 8)).isSome = true := by decide +kernel
theorem wit_TranslationControl_resume :
    getF (cmdWord Dev.reset .host (qOff 0 0x1180) (regOf [(TR_RESUME.TAG, 4095), (TR_RESUME.ACTION, 1)])) TR_RESUME.ACTION = 1 ∧
    getF (cmdWord Dev.reset .host (qOff 0 0x1180) (regOf [(TR_RESUME.TAG, 0), (TR_RESUME.ACTION, 2)])) TR_RESUME.ACTION = 2 := by
  decide +kernel

/-! ### Witnesses: TractMoves, StackRequests, StackUpkeep -/

theorem wit_TractMoves_go :
    rbit (cmdParts Dev.reset .host (suOff 0x1020) (regOf [(SU_TRACTCTL.GO, 1)])) (suOff 0x1020) SU_TRACTCTL.BUSY = false := by decide +kernel
/-- MIGRATE is operation 1 and ADVISE operation 2 in byte 16 of the tract command's four words. -/
def tTc (op : Nat) : TractCmd := { words := [0x8000_0000, 1, BitVec.ofNat 64 op, 0], ring := none, started := false, todo := [], done := 0 }
theorem wit_TractMoves_ops : tcByte (tTc 1).words 0x10 = 1 ∧ (tTc 1).started = false ∧ tcByte (tTc 2).words 0x10 = 2 ∧
    ({ Dev.reset with tractCmd := some (tTc 1) }).tractCmd = some (tTc 1) := by decide +kernel
def tMove : Dev := { tWin Dev.reset with tracts := [(0x400, { Tract.home with moving := some (0, 1, 0x20_0000) })] }
theorem wit_TractMoves_chunk : (getTract tMove 0x400).moving.isSome = true ∧ (getTract (moveChunk tMove 0x400) 0x400).moving.isSome = true := by
  decide +kernel
theorem wit_TractMoves_epoch : ({ Dev.reset with plat := { Plat.none with allot := true } } : Dev).plat.allot = true := by decide

def tStReq (k : ReqKind) : Req := { tReq k with stage := .toStack }
def tAdm (off : Nat) (k : ReqKind) : Dev := { tRegs Dev.reset [(stkOff 0 0, 0x1000)] with reqs := [(1, { tStReq k with tgt := .stack 0 off })] }
/-- A request within the stack, and one at its end. -/
theorem wit_StackRequests_admit : Tab.find? (tAdm 0 .read).reqs 1 = some { tStReq .read with tgt := .stack 0 0 } ∧
    rbit (tAdm 0 .read) (stkOff 0 0x18) MS_STAT.SR = false ∧ inMotion (tAdm 0 .read) 0 0 = false ∧ (getQ (tAdm 0 .read) 0).held = false ∧
    writeAhead (tAdm 0 .read) 1 { tStReq .read with tgt := .stack 0 0 } = false ∧
    stackLen (tAdm 0 .read) 0 = 0x1000 ∧ inMotion (tAdm 0x1000 .read) 0 0x1000 = false := by decide +kernel
def tFin (k : ReqKind) : Dev := { Dev.reset with reqs := [(1, { tReq k with stage := .admitted 0 })] }
theorem wit_StackRequests_complete : mayFinish (tFin .read) { tReq .read with stage := .admitted 0 } = true ∧
    mayFinish (tFin .write) { tReq .write with stage := .admitted 0 } = true ∧
    mayFinish (tFin (.atomic 2 8 0)) { tReq (.atomic 2 8 0) with stage := .admitted 0 } = true ∧
    mayFinish (tFin (.red 0 4)) { tReq (.red 0 4) with stage := .admitted 0 } = true ∧
    mayFinish (tFin (.swap 8 0)) { tReq (.swap 8 0) with stage := .admitted 0 } = true := by decide +kernel

/-- Channel 15 of stack 23, in service. -/
def tMap : Dev := domSet (rsetF Dev.reset (stkOff 23 8) MS_CHAN.INSVC 0xFFFF) (domStack 23) true
theorem wit_StackUpkeep_mapout : blkUnmapped tMap (.stack 23) = false ∧ blkAsleep tMap (.stack 23) = false ∧
    (let o := stkOff 23 0x10
     let m : RegMap := { cmdReg tMap .host o with fs := (cmdReg tMap .host o).fs.filter (fun x => x.acc == .wo) }
     let v := regOf [(MS_CTL.CHAN, 15), (MS_CTL.MAPOUT, 1), (MS_CTL.SCRUB, rgetF tMap o MS_CTL.SCRUB)]
     let d1 := cmdParts tMap .host o v
     let w := m.writeVal (BitVec.ofNat 64 (ones 64)) (BitVec.ofNat 64 v) (rget d1 o)
     let d := rset d1 o (w &&& ~~~ m.woMask)
     getF w MS_CTL.MAPOUT = 1 ∧ getF w MS_CTL.CHAN = 15 ∧ (inService d 23).contains 15 = true ∧ (getStk d 23).removing = none ∧
     (getStk d 23).waiting = []) := by decide +kernel
def tRestripe (m : Nat) : Dev := tRegs (updStk Dev.reset 2 (fun s => { s with removing := some 3 })) [(stkOff 2 0, 0x20000), (stkOff 2 0x20, m)]
theorem wit_StackUpkeep_restripe : (getStk (tRestripe 0) 2).removing = some 3 ∧
    (rget (tRestripe 0) (stkOff 2 0x20)).toNat < stackLen (tRestripe 0) 2 ∧
    stackLen (tRestripe 0x20000) 2 ≤ (rget (tRestripe 0x20000) (stkOff 2 0x20)).toNat := by decide +kernel
theorem wit_StackUpkeep_scrub : rbit (tRestripe 0) (stkOff 2 0x10) MS_CTL.SCRUB = true ∧ stackLen (tRestripe 0) 2 ≠ 0 ∧
    rbit (tRestripe 0) (stkOff 2 0x18) MS_STAT.SR = false := by decide +kernel
theorem wit_StackUpkeep_selfRefresh : rbit Dev.reset (stkOff 0 0x18) MS_STAT.SR = false ∧
    rbit (rsetB Dev.reset (stkOff 0 0x18) MS_STAT.SR true) (stkOff 0 0x18) MS_STAT.SR = true := by decide +kernel

/-! ### Witnesses: LinkTraffic, LinkTraining, PeerMessages -/

/-- The device with port `p` in a state of training (3 is UP). -/
def tPort (d : Dev) (p st : Nat) : Dev := rsetF d (portOff p 0) SL_PSTAT.STATE st
/-- A message from device 2 to device 1. -/
def tMsg (vc op addr : Nat) (data : List Byte) : Msg :=
  { vc := vc, op := op, src := 2, dst := 1, tag := 7, hops := 1, cls := 0, addr := addr, data := data }
/-- A booted device 1 with that message taken from port 0. -/
def tIn (d : Dev) (m : Msg) : Dev := { d with booted := true, plat := { d.plat with loaded := true, self := 1 }, inbox := [(0, m)] }
/-- The message is received where `ok` takes it. -/
def tGets (d : Dev) (ok : Msg → Bool) : Bool := (receive d ok).1.isSome

/-- An idle flit with the sequence number that the port expects, and the same with a byte of its CRC changed. -/
def tFlit (seq : Nat) : List Byte := flitBytes (List.replicate 56 0) (trailer seq 0 false true 0 0 0)
theorem wit_LinkTraffic_flit : portUp (tPort Dev.reset 11 3) 11 = true ∧ (tFlit 0).length = 64 ∧
    fieldAt (tFlit 0) 60 4 = crc32c ((tFlit 0).take 60) ∧ bitsOf (fieldAt (tFlit 0) 56 4) 0 12 = (getPort (tPort Dev.reset 11 3) 11).rxSeq ∧
    (fieldAt (tFlit 0) 56 4).testBit 24 = false ∧ bitsOf (fieldAt (tFlit 5) 56 4) 0 12 ≠ (getPort (tPort Dev.reset 11 3) 11).rxSeq ∧
    fieldAt ((tFlit 0).take 63 ++ [0xFF]) 60 4 ≠ crc32c (((tFlit 0).take 63 ++ [0xFF]).take 60) := by decide +kernel
def tSent : Dev := updPort (tPort Dev.reset 0 3) 0 (fun x => { x with sent := [⟨0, [], true, 0, 0, 0⟩] })
theorem wit_LinkTraffic_retry : portUp tSent 0 = true ∧ (getPort tSent 0).sent ≠ [] := by decide +kernel
/-- Device 9's messages leave by port 2, with credits of every channel. -/
def tOut : Dev :=
  let d := tPort { Dev.reset with plat := { Plat.none with routes := List.replicate 16 0xF2 }, outbox := [⟨0, none, { tMsg 0 1 0 [] with dst := 9 }⟩] } 2 3
  setCredits d 2 0 0 16
theorem wit_LinkTraffic_start : portUp tOut 2 = true ∧ pickVc tOut 2 = some 0 ∧ (headOf tOut 2 0).isSome = true ∧
    portUp (tPort Dev.reset 2 3) 2 = true ∧ pickVc (tPort Dev.reset 2 3) 2 = none := by decide +kernel
theorem wit_LinkTraffic_forward :
    let m := { tMsg 0 1 0 [] with dst := 9, hops := 29 }
    let d := tIn tOut m
    (takeFirst (goesOn d 0) d.inbox).isSome = true ∧ m.hops < 30 ∧
    (routePort d m.dst).isSome = true := by decide +kernel
theorem wit_LinkTraffic_relay :
    let d := tPort (tIn { Dev.reset with plat := { Plat.none with roles := [0, 0, 0, 0, 0, 0, 0, 0, 0, 0, 3, 0] } } (tMsg 3 0x2B 0 [])) 10 3
    (takeFirst (fun e => isMe d e.2.dst && e.2.vc == 3 && decide (0x20 ≤ e.2.op)) d.inbox).isSome = true ∧ landPort d = some 10 := by
  decide +kernel
theorem wit_LinkTraffic_stuck : tOut.outbox.any (fun o => outPort tOut o == some 2 && o.msg.vc == 0) = true := by decide +kernel

theorem wit_LinkTraining_states : portState (tPort Dev.reset 11 2) 11 ∈ [2, 3, 4] ∧ portState (tPort Dev.reset 11 3) 11 ∈ [2, 3, 4] ∧
    portState (tPort Dev.reset 11 4) 11 ∈ [2, 3, 4] ∧ portState (tPort Dev.reset 11 5) 11 ∈ [2, 5] := by decide +kernel
theorem wit_LinkTraining_roles :
    let d := tPort { Dev.reset with plat := { Plat.none with roles := [1] } } 0 2
    portState d 0 ∈ [2, 5] ∧ rolesPair (portRole d 0) 1 = true ∧ rolesPair (portRole d 0) 2 = false := by decide +kernel
theorem wit_LinkTraining_lit : lit (rsetB Dev.reset (laserOff 3) DK_LASER.LIT true) 3 = true := by decide +kernel
theorem wit_LinkTraining_probe :
    let d (n : Nat) := setProbe { Dev.reset with plat := { Plat.none with roles := [1] } } 0 n
    probeStep (d 1) 0 = 1 ∧ mayLight (d 1) 0 = true ∧ probeStep (d 2) 0 = 2 ∧ probeStep (d 3) 0 ∈ [3, 4] ∧ probeStep (d 4) 0 ∈ [3, 4] := by
  decide +kernel

/-- READ of 64 bytes and WRITE of 4, in the window and outside it. -/
def tPeer (m : Msg) : Dev := tIn (tWin Dev.reset) m
theorem wit_PeerMessages_read :
    let m (a : Nat) := tMsg 0 1 a (toBytes 8 64)
    let d := (receive (tPeer (m 0x8000_0000)) (fun m => m.vc == 0 && m.op == 1 && reqOk m)).2
    (tPeer (m 0)).replat = none ∧ tGets (tPeer (m 0x8000_0000)) (fun m => m.vc == 0 && m.op == 1 && reqOk m) = true ∧
    fieldAt (m 0).data 0 2 % 4096 = 64 ∧ peerRange d 0x8000_0000 64 false = true ∧ (hreadParts d 0x8000_0000 64).2.1 = false ∧
    peerRange d 0 64 false = false := by decide +kernel
theorem wit_PeerMessages_write :
    let m (a : Nat) := tMsg 0 2 a (toBytes 4 9)
    let d := (receive (tPeer (m 0x8000_0000)) (fun m => m.vc == 0 && m.op == 2 && reqOk m)).2
    tGets (tPeer (m 0x8000_0000)) (fun m => m.vc == 0 && m.op == 2 && reqOk m) = true ∧ peerRange d 0x8000_0000 4 true = true ∧
    peerRange d 0 4 true = false := by decide +kernel
/-- ATOMIC and SCATRED of 64 bits (SZ 3) on a stack. -/
theorem wit_PeerMessages_atomic :
    let m := tMsg 0 3 0x8000_0008 (toBytes 8 0x0302 ++ toBytes 8 5 ++ toBytes 8 0)
    let d := (receive (tPeer m) (fun m => m.vc == 0 && m.op == 3 && reqOk m)).2
    tGets (tPeer m) (fun m => m.vc == 0 && m.op == 3 && reqOk m) = true ∧ replayed d m = none ∧
    peerTarget d m.addr true = some (.stack 0 8) ∧ m.addr % szLen (fieldAt m.data 1 1) = 0 := by decide +kernel
theorem wit_PeerMessages_scatred :
    let m := tMsg 0 4 0x8000_0008 (toBytes 8 0x0300 ++ toBytes 8 5)
    let d := (receive (tPeer m) (fun m => m.vc == 0 && m.op == 4 && reqOk m)).2
    tGets (tPeer m) (fun m => m.vc == 0 && m.op == 4 && reqOk m) = true ∧ replayed d m = none ∧
    peerTarget d m.addr true = some (.stack 0 8) ∧ m.addr % szLen (fieldAt m.data 1 1) = 0 := by decide +kernel
/-- DATA that answers a read under way, ACK, OLD and ERROR that answer nothing. -/
def tRemote : Req := { tReq .read with stage := .remote, tgt := .peer 2 0, tag := 7 }
theorem wit_PeerMessages_responses :
    let m := tMsg 1 1 0 (List.replicate 64 0)
    let d := (receive (tIn { Dev.reset with reqs := [(1, tRemote)] } m) (fun m => m.vc == 1 && m.op == 1 && rspOk m)).2
    tGets (tIn Dev.reset m) (fun m => m.vc == 1 && m.op == 1 && rspOk m) = true ∧ (peerReqOf d m).isSome = true ∧ answerFits m tRemote = true ∧
    tGets (tIn Dev.reset (tMsg 1 2 0 [])) (fun m => m.vc == 1 && m.op == 2 && rspOk m) = true ∧
    tGets (tIn Dev.reset (tMsg 1 3 0 (toBytes 8 0))) (fun m => m.vc == 1 && m.op == 3 && rspOk m) = true ∧
    tGets (tIn Dev.reset (tMsg 1 4 0 (toBytes 8 0))) (fun m => m.vc == 1 && m.op == 4 && rspOk m) = true ∧
    (peerReqOf (receive (tIn Dev.reset (tMsg 1 4 0 (toBytes 8 0))) (fun m => m.vc == 1 && m.op == 4 && rspOk m)).2 (tMsg 1 4 0 (toBytes 8 0))).isNone
      = true := by decide +kernel
theorem wit_PeerMessages_management :
    (receiveAt (tIn Dev.reset (tMsg 5 1 0x100 [])) (fun m => m.vc == 5 && m.op == 1 && mgtOk m)).1.isSome = true ∧
    (receiveAt (tIn Dev.reset (tMsg 5 2 0x100 (toBytes 8 1))) (fun m => m.vc == 5 && m.op == 2 && mgtOk m)).1.isSome = true ∧
    tGets (tIn Dev.reset (tMsg 5 3 0 (toBytes 8 1))) (fun m => m.vc == 5 && m.op == 3 && mgtOk m) = true := by decide +kernel
theorem wit_PeerMessages_badTransit :
    let d := tIn { Dev.reset with plat := { Plat.none with loaded := true, self := 3 } } { tMsg 7 1 0 [] with dst := 9 }
    (takeFirst (fun e => !isMe d e.2.dst && !msgFits e.2) d.inbox).isSome = true ∧
    (takeFirst (fun e => !isMe Dev.reset e.2.dst && !msgFits e.2) (tIn Dev.reset (tMsg 0 9 0 [])).inbox).isNone = true := by decide +kernel
theorem wit_PeerMessages_bad : tGets (tIn Dev.reset (tMsg 0 9 0 [])) (fun m => !accepts (tIn Dev.reset (tMsg 0 9 0 [])) m) = true := by
  decide +kernel
theorem wit_PeerMessages_deadline : Tab.find? ({ Dev.reset with reqs := [(1, tRemote)] } : Dev).reqs 1 = some tRemote ∧ tRemote.stage = .remote := by
  decide


/-! ### Witnesses: SessionCommands, HostCommands -/

/-- A downward message from host partner 2 to a booted device 1. -/
def tHost (op addr : Nat) (data : List Byte) : Msg := tMsg 3 op addr data
/-- The device with a session open. -/
def tSess (d : Dev) : Dev := rsetB d (landOff 0) HB_SESSTAT.OPEN true
/-- The message, as SOPEN to ATTEST take theirs. -/
def tTakes (d : Dev) (m : Msg) : Bool := tGets (tIn d m) (fun x => x.vc == 3 && x.op == m.op && hostLenOk x)
/-- The device after the message is taken. -/
def tAfter (d : Dev) (m : Msg) : Dev := (receive (tIn d m) (fun x => x.vc == 3 && x.op == m.op && hostLenOk x)).2

def tSopen : Msg := tHost 1 0 (List.replicate 32 9 ++ [0])
theorem wit_SessionCommands_sopen :
    let d := tAfter { Dev.reset with dyke := { Dev.reset.dyke with owner := some (List.replicate 48 3) } } tSopen
    writesPending (tIn Dev.reset tSopen) = false ∧
    tTakes { Dev.reset with dyke := { Dev.reset.dyke with owner := some (List.replicate 48 3) } } tSopen = true ∧
    lvState d ≠ 1 ∧ lvState d ≠ 5 ∧ sessOpen d = false ∧ rbit d (landOff 0) HB_SESSTAT.OPENING = false ∧ lockedOut d 0 = false ∧
    keyOf d (fieldAt tSopen.data 32 1) = some (List.replicate 48 3) ∧ paired d = false ∧ tSopen.op = 1 := by decide +kernel
/-- A device whose opening waits for the host's proof, and its state once a proof is taken from the inbox. -/
def tOpening : Dev := { Dev.reset with booted := true, plat := { Dev.reset.plat with loaded := true, self := 1 }, sess := { Sess.none with stage := 2 } }
def tProof (bs : List Byte) : Msg := tHost 2 0 bs
/-- A message of 48 bytes is taken, whatever they are. -/
theorem sprove_taken (bs : List Byte) (h : bs.length = 48) :
    receive { tOpening with inbox := [(0, tProof bs)] } (fun x => x.vc == 3 && x.op == 2 && hostLenOk x) =
      (some (tProof bs), oweCredits tOpening 0 (tProof bs)) := by
  have hl : hostLenOk (tProof bs) = true := by show (bs.length == 48) = true; rw [h]; rfl
  refine receive_eq (d := { tOpening with inbox := [(0, tProof bs)] }) rfl ?_ rfl
  simp only [takeOrdered, hl]; rfl
theorem wit_SessionCommands_sprove :
    ∃ m d, writesPending { tOpening with inbox := [(0, m)] } = false ∧
      receive { tOpening with inbox := [(0, m)] } (fun x => x.vc == 3 && x.op == 2 && hostLenOk x) = (some m, d) ∧ m.op = 2 ∧
      d.sess.stage = 2 ∧ m.data = Config.hmac384 d.sess.key (sessInput d 0x48) :=
  ⟨tProof (Config.hmac384 [] (sessInput tOpening 0x48)), _, rfl, sprove_taken _ (Machine.length_toBytes ..), rfl, rfl, rfl⟩
theorem wit_SessionCommands_sproveTimeout : ({ Dev.reset with sess := { Sess.none with stage := 2 } } : Dev).sess.stage = 2 := rfl
theorem wit_SessionCommands_sclose : tTakes (tSess Dev.reset) (tHost 3 0 []) = true ∧ sessOpen (tAfter (tSess Dev.reset) (tHost 3 0 [])) = true ∧
    writesPending (tIn (tSess Dev.reset) (tHost 3 0 [])) = false := by decide +kernel
theorem wit_SessionCommands_relaydown : tTakes (tSess Dev.reset) (tHost 0x0C 0 []) = true ∧
    sessOpen (tAfter (tSess Dev.reset) (tHost 0x0C 0 [])) = true := by decide +kernel
theorem wit_SessionCommands_close :
    let v := regOf [(HB_SESSCTL.CLOSE, 1)]
    getF (cmdWord (tSess Dev.reset) .host (landOff 8) v) HB_SESSCTL.CLOSE = 1 ∧
    sessOpen (cmdDev (tSess Dev.reset) .host (landOff 8) v) = true := by decide +kernel
theorem wit_SessionCommands_ledger :
    let w : LWrite := { slot := 0, tries := 0, bytes := [0xFF, 0xFF], reasons := [] }
    let d : Dev := { Dev.reset with dyke := { Dev.reset.dyke with writing := some w } }
    d.dyke.writing = some w ∧ fbytes d (slotAt w.slot) w.bytes.length = w.bytes := by decide +kernel

/-- A device in a session whose window 0 maps stack 0. -/
def tServes : Dev :=
  let d := tSess (tWin Dev.reset)
  { d with regs := Tab.insert d.regs 0x700 0 }
theorem wit_HostCommands_hread :
    let m (n : Nat) := tHost 4 0x8000_0000 (toBytes 8 n)
    let d := tAfter tServes (m 2048)
    writesPending (tIn tServes (m 1)) = false ∧ tTakes tServes (m 1) = true ∧ tTakes tServes (m 2048) = true ∧ hostServed d (m 2048) = true ∧
    fieldAt (m 1).data 0 2 % 4096 = 1 ∧ fieldAt (m 2048).data 0 2 % 4096 = 2048 ∧ recovery d = false ∧ rangeOk d 0x8000_0000 2048 false = true ∧
    (hreadParts d 0x8000_0000 64).2.1 = false ∧ rangeOk d 0x8000_0000 1 false = true := by decide +kernel
theorem wit_HostCommands_hwrite :
    let m := tHost 5 0x8000_0000 [1, 2, 3]
    tTakes tServes m = true ∧ hostServed (tAfter tServes m) m = true ∧ recovery (tAfter tServes m) = false ∧
    rangeOk (tAfter tServes m) 0x8000_0000 3 true = true := by decide +kernel
theorem wit_HostCommands_hmread :
    let m := tHost 6 0x100 []
    tTakes tServes m = true ∧ m.addr % 8 = 0 ∧ (mgmtRead (tAfter tServes m) .host 0x100 8).1.isSome = true := by decide +kernel
theorem wit_HostCommands_hmwrite :
    let m := tHost 7 0x100 (toBytes 8 1)
    tTakes tServes m = true ∧ m.addr % 8 = 0 ∧ hostServed (tAfter tServes m) m = true := by decide +kernel
theorem wit_HostCommands_doorbell :
    let m (n : Nat) := tHost 8 0 [BitVec.ofNat 8 n, 1, 0, 0, 5, 0, 0, 0]
    tTakes tServes (m 15) = true ∧ fieldAt (m 15).data 0 1 = 15 ∧ fieldAt (m 15).data 1 1 = 1 ∧ recovery (tAfter tServes (m 15)) = false := by
  decide +kernel
theorem wit_HostCommands_attest :
    let m := tHost 9 0 (List.replicate 32 4 ++ [0])
    tTakes Dev.reset m = true ∧ hostServed (tAfter Dev.reset m) m = true ∧ (tAfter Dev.reset m).attest = none ∧
    fieldAt m.data 32 1 = 0 := by decide +kernel
theorem wit_HostCommands_report : silent Dev.reset = false ∧ ({ Dev.reset with attest := some ([], 0, 0) } : Dev).attest = some ([], 0, 0) := by
  decide +kernel
/-- A read of 8 bytes of host memory under way with tag 7. -/
def tHostReq (k : ReqKind) : Req := { tReq k with stage := .remote, tgt := .host 0x40, tag := 7, len := 8 }
theorem wit_HostCommands_hdata :
    let d : Dev := tSess { Dev.reset with reqs := [(1, tHostReq .read)] }
    let m := tHost 0x0A 0 (toBytes 8 6)
    tTakes d m = true ∧ sessOpen (tAfter d m) = true ∧ hostReqOf (tAfter d m) m.tag = some (1, tHostReq .read) ∧
    m.data.length = (tHostReq .read).len := by decide +kernel
theorem wit_HostCommands_hresp :
    let d : Dev := tSess { Dev.reset with reqs := [(1, tHostReq .write)] }
    let m := tHost 0x0B 0 (toBytes 9 0)
    tTakes d m = true ∧ sessOpen (tAfter d m) = true ∧ hostReqOf (tAfter d m) m.tag = some (1, tHostReq .write) ∧
    (tHostReq .write).kind ≠ .read := by decide +kernel
theorem wit_HostCommands_deadline :
    Tab.find? ({ Dev.reset with reqs := [(1, tHostReq .read)] } : Dev).reqs 1 = some (tHostReq .read) ∧
    (tHostReq .read).stage = .remote ∧ (tHostReq .read).tgt = .host 0x40 := by decide


/-! ### Witnesses: RingCommands -/

/-- Ring 3 of a booted device in session runs with 16 slots (SQ at 0x8000_0000, SQLOC as given) and one command to fetch. -/
def tRing (loc : Nat) : Dev :=
  let d := { tServes with booted := true }
  tRegs d [(ringOff 3 0, 0x8000_0000), (ringOff 3 8, 0x8000_0000),
    (ringOff 3 0x10, regOf [(RING_CTL.EN, 1), (RING_CTL.SQLOC, loc), (RING_CTL.SQSZ, 4), (RING_CTL.CQSZ, 4)]), (ringOff 3 0x18, regOf [(RING_PTR.SQTAIL, 1)])]
theorem wit_RingCommands_fetch :
    (∀ loc ∈ [0, 1], let d := tRing loc
      ringRuns d 3 = true ∧ (getRing d 3).fetching = none ∧ rptr d 3 RING_PTR.SQHEAD ≠ rptr d 3 RING_PTR.SQTAIL ∧
      (getRing d 3).cmds.length < 8 ∧ cqFull d 3 = false ∧ rbit d (ringOff 3 0x10) RING_CTL.SQLOC = (loc == 1)) ∧
    (hubRead (tRing 1) (rgetF (tRing 1) (ringOff 3 0) RING_BASE.ADDR * 64) 64).1.isSome = true := by decide +kernel

/-- A command whose bytes begin with the opcode, its flags 0 and its arguments from byte 8 on. -/
def tCmd (op : Nat) (args : List Byte) : RCmd :=
  { idx := 5, bytes := toBytes 8 op ++ args ++ List.replicate (56 - args.length) 0, head := 1, began := false, pos := 0, wait := none,
    chosen := 0, res := none, drop := false }
/-- Ring 3 with that command next; cluster 0 stands on site 0. -/
def tNext (c : RCmd) : Dev :=
  let d := updRing (tRing 1) 3 (fun r => { r with cmds := [c] })
  { d with plat := { d.plat with loaded := true, self := 1, siteOf := [(0, 0)] } }
theorem wit_RingCommands_plain :
    ∀ e ∈ [(0, ([] : List Byte)), (2, [0, 0, 0xFF]), (3, [1, 0, 0, 0]), (4, List.replicate 24 0), (5, []), (7, [])],
      let c := tCmd e.1 e.2
      nextCmd (tNext c) 3 = some c ∧ cmdOk c = true ∧ cOp c = e.1 ∧ (siteOfCl (setCmd (tNext c) 3 { c with began := true }) 0).isSome = true ∧
      (getRing (tNext c) 3).cmds.find? (fun c => c.began && cOp c == 4 && c.res.isNone) = none ∧ (tNext c).tractCmd = none ∧
      (tNext c).tractEnd = none := by decide +kernel
/-- START of cluster 0 in Work 0, and with the Surveyor's choice. -/
theorem wit_RingCommands_start :
    let c := tCmd 1 [0, 0, 1, 0]
    nextCmd (tNext c) 3 = some c ∧ cmdOk c = true ∧ cArg c 3 1 = 0 ∧ cArg c 0 2 = 0 ∧ (siteOfCl (tNext c) 0).isSome = true := by
  decide +kernel
theorem wit_RingCommands_startChosen :
    let c := tCmd 1 ([0xFF, 0xFF, 1, 1] ++ List.replicate 4 0 ++ [0xFF, 0xFF, 0xFF, 0xFF, 0xFF, 0xFF, 0xFF, 0xFF])
    let d := tNext c
    let d := { d with plat := { d.plat with allot := true } }
    nextCmd d 3 = some c ∧ cmdOk c = true ∧ cArg c 3 1 = 1 ∧ cArg c 0 2 = 0xFFFF ∧ (choose d 3 c).1.isSome = true := by decide +kernel
theorem wit_RingCommands_replat :
    let c := tCmd 6 [3, 1]
    let d := setCmd (tNext c) 3 { c with began := true }
    nextCmd (tNext c) 3 = some c ∧ cmdOk c = true ∧ rbit d 0x310 HB_PLATSTAT.BUSY = false ∧ rbit d 0x718 HB_FWSTAT.BUSY = false ∧
    cArg c 0 1 = 3 ∧ cArg c 1 1 = 1 := by decide +kernel
theorem wit_RingCommands_complete :
    let c := { tCmd 0 [] with began := true, res := some (0, 0) }
    let d := postSettle (tNext c)
    (getRing d 3).cmds.find? (fun x => x.idx == 5) = some c ∧ cmdOk c = true ∧ cmdResult d 3 c = some (0, 0) ∧ c.drop = false ∧
    cqFull d 3 = false ∧ cOp c = 0 := by decide +kernel


/-! ### Witnesses: ReductionEngine -/

/-- Reduction 1 of a booted device, armed, of two members: table at 0x8000_0000, source at 0x8000_1000, destination at 0x8000_2000, 128
bytes, both deadlines set. -/
def tRed (busy : Nat) : Dev :=
  let d := tWin Dev.reset
  tRegs { d with booted := true, plat := { d.plat with loaded := true, self := 1 } }
    [(rdOff 1 0, regOf [(RD_CFG.ARM, 1), (RD_CFG.P, 2)]), (rdOff 1 0x8, 0x8000_0000), (rdOff 1 0x10, 0x8000_1000), (rdOff 1 0x18, 0x8000_2000),
     (rdOff 1 0x20, 128), (rdOff 1 0x28, regOf [(RD_DEADLINE.BUCKET, 1), (RD_DEADLINE.RESULT, 1)]), (rdOff 1 0x50, busy)]
/-- The same, busy in step 0 with its members, device 2 and itself. -/
def tStep : Dev := updRed (tRed 1) 1 (fun _ => { Red.empty with members := [0x8000_0001, 0x8000_0002] })

theorem wit_ReductionEngine_start : rdBusy (tRed 0) 1 = false ∧ rdLen (tRed 0) 1 = 128 ∧ rdP (tRed 0) 1 = 2 ∧ rdNB (tRed 0) 1 ≤ 65535 ∧
    (hubRead (tRed 0) (rdAddr (tRed 0) 1 0x8) (4 * rdP (tRed 0) 1)).1.isSome = true := by decide +kernel
theorem wit_ReductionEngine_busy : rdBusy tStep 1 = true ∧ getF (BitVec.ofNat 64 128) RD_FILL.ADD ≠ 0 := by decide +kernel
theorem wit_ReductionEngine_own :
    let d := updRed tStep 1 (fun x => { x with own := [0] })
    (getRed d 1).own.find? (fun b => (takeBkt d 1 (rdStep d 1) b).isSome) = some 0 ∧
    (match takeBkt d 1 (rdStep d 1) 0 with
     | some (x, d) => ((List.range (bktChunks d 1 0)).foldl (ownChunk 1 0) (some x, d)).1.isSome
     | none => false) = true := by decide +kernel
/-- A CONTRIB of chunk 0 of bucket 0 from slot 1, in step 0. -/
def tContrib (op : Nat) (data : List Byte) : Msg := { tMsg 2 op 0x11 data with tag := 0 }
def tRdGets (m : Msg) : Bool := tGets { tStep with inbox := [(0, m)] } (fun x => rdAccepts { tStep with inbox := [(0, m)] } x && x.op == m.op)
def tRdAfter (m : Msg) : Dev := (receive { tStep with inbox := [(0, m)] } (fun x => rdAccepts { tStep with inbox := [(0, m)] } x && x.op == m.op)).2
theorem wit_ReductionEngine_contrib : tStep.store.length < 2048 ∧ tRdGets (tContrib 1 (List.replicate 132 0)) = true := by decide +kernel
theorem wit_ReductionEngine_contribPlace :
    let d := { tStep with store := [tContrib 1 (List.replicate 132 0)] }
    d.store.find? (fun m => mRid m == 1 && (placeContrib d m).isSome) = some (tContrib 1 (List.replicate 132 0)) ∧
    (placeContrib { d with store := d.store.erase (tContrib 1 (List.replicate 132 0)) } (tContrib 1 (List.replicate 132 0))).isSome = true := by
  decide +kernel
theorem wit_ReductionEngine_messages :
    ∀ m ∈ [tContrib 2 (List.replicate 128 0), tContrib 3 [1], tContrib 4 []],
      tRdGets m = true ∧ stepClass (tRdAfter m) m = 1 ∧ rdBusy (tRdAfter m) (mRid m) = true ∧ silent (tRdAfter m) = false ∧
      (m.op = 3 → ofBytes m.data ≠ 0) := by decide +kernel
theorem wit_ReductionEngine_bucketDeadline :
    let x : Bkt := { rid := 1, step := 0, bucket := 0, acc := [], seen := [], expired := false, complete := false }
    let d := { tStep with bkts := [x] }
    findBkt d 1 (rdStep d 1) 0 = some x ∧ rgetF d (rdOff 1 0x28) RD_DEADLINE.BUCKET ≠ 0 ∧ silent d = false ∧ rdMute d 1 = false := by
  decide +kernel
theorem wit_ReductionEngine_resultDeadline :
    let d := rsetF tStep (rdOff 1 0x48) RD_PROG.FILLED 128
    rdBusy d 1 = true ∧ rgetF d (rdOff 1 0x28) RD_DEADLINE.RESULT ≠ 0 ∧ silent d = false ∧ rdLen d 1 ≤ rdFilled d 1 := by decide +kernel


/-! ### Witnesses: PairForming, PairMessages -/

/-- A booted device 1 of a Levee whose twin is device 2, its state given (1 FORMING, 2 PAIRED, 3 SOLE, 4 OUT). -/
def tLv (st : Nat) : Dev :=
  let d := setLv (tWin Dev.reset) st
  { d with booted := true, plat := { d.plat with loaded := true, levee := true, self := 1, twinId := 2, twinPort := 4 } }
/-- A message of the twin is taken, as its command takes it. -/
def tTwin (st op addr : Nat) (data : List Byte) : Dev := { tLv st with inbox := [(4, tMsg 4 op addr data)] }
def tTwinTakes (d : Dev) (op : Nat) : Bool := tGets d (fun m => m.vc == 4 && m.op == op && twinLenOk m && m.src == d.plat.twinId)
theorem wit_PairForming_states : lvState (tLv 1) = 1 ∧ lvState (tLv 2) ≠ 0 ∧ paired (tLv 2) = true := by decide +kernel
theorem wit_PairForming_hello : tTwinTakes (tTwin 1 1 0 (List.replicate 64 0)) 1 = true ∧
    lvState (receive (tTwin 1 1 0 (List.replicate 64 0)) (fun m => m.vc == 4 && m.op == 1 && twinLenOk m && m.src == 2)).2 = 1 := by
  decide +kernel
theorem wit_PairForming_others : tTwinTakes (tTwin 2 2 0 (toBytes 8 0)) 2 = true ∧ tTwinTakes (tTwin 2 9 0 [1]) 9 = true := by decide +kernel
theorem wit_PairForming_probe : (updLv (tLv 3) (fun v => { v with probe := 1 })).lv.probe = 1 ∧
    (updLv (tLv 3) (fun v => { v with probe := 2 })).lv.probe = 2 := by decide +kernel
theorem wit_PairForming_fallOut : (updLv (tLv 2) (fun v => { v with cause := some 1 })).lv.cause = some 1 ∧
    lvState (updLv (tLv 2) (fun v => { v with cause := some 1 })) = 2 := by decide +kernel

/-- A MIRROR of a READ that came from device 9, and its MIRRORD. -/
def tMirror : Dev :=
  { tLv 2 with inbox := [(4, tMsg 4 3 0 (toBytes 16 (hdrNat { tMsg 0 1 0x8000_0000 (toBytes 8 64) with src := 9 }))),
                         (4, tMsg 4 4 0 (toBytes 8 64))] }
theorem wit_PairMessages_mirror : tTwinTakes tMirror 3 = true ∧
    tTwinTakes (receive tMirror (fun m => m.vc == 4 && m.op == 3 && twinLenOk m && m.src == tMirror.plat.twinId)).2 4 = true ∧
    (receive tMirror (fun m => m.vc == 4 && m.op == 3 && twinLenOk m && m.src == tMirror.plat.twinId)).2.mirrored.length < 4096 := by
  decide +kernel
theorem wit_PairMessages_takes : tTwinTakes (tTwin 2 5 0 (toBytes 8 0)) 5 = true ∧ tTwinTakes (tTwin 2 6 0 (toBytes 16 0)) 6 = true ∧
    tTwinTakes (tTwin 2 7 0 (List.replicate 32 0)) 7 = true ∧ fieldAt (List.replicate 32 (0 : Byte)) 16 1 ≠ 0xFF ∧
    tTwinTakes (tTwin 2 8 0 (toBytes 8 77)) 8 = true := by decide +kernel
theorem wit_PairMessages_digest :
    let o := suOff 0x1120
    let v := regOf [(SU_LVDIGCTL.GO, 1), (SU_LVDIGCTL.TAG, rgetF (tLv 2) o SU_LVDIGCTL.TAG)]
    let d := rset (rset (tLv 2) (suOff 0x1110) 0x8000_0000) (suOff 0x1118) 0x40
    getF (cmdWord d .host o v) SU_LVDIGCTL.GO = 1 ∧ rbit (cmdDev d .host o v) digOff SU_LVDIGSTAT.BUSY = false ∧
    0x40 % 64 = 0 ∧ rangeLocal d 0x8000_0000 0x40 = true := by decide +kernel
theorem wit_PairMessages_digestTimeout : rbit (rsetB (tLv 2) digOff SU_LVDIGSTAT.BUSY true) digOff SU_LVDIGSTAT.BUSY = true := by
  decide +kernel
theorem wit_PairMessages_rejoin :
    let v := regOf [(SU_LVCTL.REJOIN, 1)]
    let d := tPort (updLv (tLv 3) (fun v => { v with farState := 4 })) 4 3
    getF (cmdWord d .host (suOff 0x1108) v) SU_LVCTL.REJOIN = 1 ∧
    (let e := cmdDev d .host (suOff 0x1108) v
     lvState e = 3 ∧ e.lv.farState = 4 ∧ e.lv.farShort = false ∧ portUp e e.plat.twinPort = true ∧ anyRunning e = false ∧
     anyCopy e = false ∧ anyReduction e = false ∧ e.tractCmd = none ∧ rbit e lvOff SU_LVSTAT.REJOIN = false) ∧
    lvState (cmdDev (tLv 2) .host (suOff 0x1108) v) ≠ 3 := by decide +kernel
theorem wit_PairMessages_sync :
    let d := rsetB (tLv 3) lvOff SU_LVSTAT.REJOIN true
    rbit d lvOff SU_LVSTAT.REJOIN = true ∧ lvState d = 3 ∧ lvState (tLv 4) ≠ 3 ∧
    tTwinTakes (tTwin 4 10 (2 ^ 55) [0]) 10 = true ∧
    (updLv (tLv 4) (fun v => { v with farState := 2 })).lv.farState = 2 ∧ lvState (updLv (tLv 4) (fun v => { v with farState := 2 })) = 4 := by
  decide +kernel
theorem wit_PairMessages_complete :
    let d := updLv (rsetB (tLv 3) lvOff SU_LVSTAT.REJOIN true) (fun v => { v with syncPos := 0x1000_0000 })
    lvState d = 3 ∧ rbit d lvOff SU_LVSTAT.REJOIN = true ∧ d.lv.syncPos ≠ 0 ∧ syncItem d d.lv.syncPos = none := by decide +kernel


/-! ### Witnesses: FaultHandling -/

/-- An ADD (a syllable with a residue check) ready in slot A. -/
theorem wit_FaultHandling_residue :
    let d := tY 0 0x8002_2180
    (getCtx d 0 0).wb = some (tW 0 0x8002_2180 .ready []) ∧ getSyl (tW 0 0x8002_2180 .ready []) 0 = some ⟨0x8002_2180, .ready, []⟩ ∧
    sylOp tMd.gm (rget d (csOff 0 0 0x70)) 0x8002_2180 = some .alu ∧ checkedSyl .alu 0x8002_2180 = true := by decide +kernel
theorem wit_FaultHandling_vector :
    let o := tV 0x3010_1100 v64
    (vHead (tU o) 0).isSome = true ∧ qopOp o = some .vadd ∧ checkedV .vadd o.syl = true ∧
    vStops (getCtx (tU o) 0 0) o 0 = true ∧ vStops (getCtx (tU o) 0 0) o 7 = true ∧ vStops (getCtx (tU o) 0 0) o 8 = false := by decide +kernel
theorem wit_FaultHandling_matrix :
    (∀ o ∈ [{ tXq 0x4000_0000 with ops := [1, 1, 1] }, tXq 0x4300_0000], (xHead (tXd o true false) 0).isSome = true ∧ (getCtx (tXd o true false) 0 0).xp.setup = true ∧
      o.pos < xTotal o ∧ o.fault = false) ∧ qopOp { tXq 0x4000_0000 with ops := [1, 1, 1] } = some .xopa ∧ qopOp (tXq 0x4300_0000) = some .tacc := by decide +kernel
theorem wit_FaultHandling_sram :
    (∀ t r, t < 8 → r < 64 → sramMet Dev.reset (.tile 0 t r) = true) ∧ sramMet Dev.reset (.tile 0 8 0) = false ∧
    sramMet { Dev.reset with booted := true } .hub = true ∧ sramMet (tY 0 0x8002_2180) (.sreg 0 0 0) = true := by
  refine ⟨fun t r ht hr => decide_eq_true ⟨ht, hr⟩, ?_, ?_, ?_⟩ <;> decide +kernel
theorem wit_FaultHandling_report : ({ Dev.reset with fevents := [(2, 7)] } : Dev).fevents = [(2, 7)] := rfl
theorem wit_FaultHandling_ledger :
    let d := ledgerAsk Dev.reset .lcmd
    d.dyke.want ≠ [] ∧ d.dyke.writing = none := by decide +kernel
theorem wit_FaultHandling_erased : slotOfSeq 1 % 4 = 0 ∧ ferased Dev.reset (slotAt (slotOfSeq ((Dev.reset.dyke.led.seq + 1) % 2 ^ 32))) 1024 = true := by
  decide +kernel
theorem wit_FaultHandling_erase :
    let d := updLed Dev.reset (fun r => { r with seq := 7 })
    sectorInUse d 4 = false ∧ slotAt 4 = 0x48_1000 ∧
    (if (d.dyke.led.seq + 1) % 2 = 0 then d.dyke.led.seq + 1 else d.dyke.led.seq + 2) / 2 % 64 = 4 := by decide +kernel
theorem wit_FaultHandling_lcmd : ∀ op ∈ [1, 2, 3, 4, 5, 6, 7],
    getF (BitVec.ofNat 64 (regOf [(HB_LCMD.OP, op)])) HB_LCMD.OP = op ∧
    (updDk Dev.reset (fun k => { k with lcmd := some (regOf [(HB_LCMD.OP, op)], 0) })).dyke.lcmd = some (regOf [(HB_LCMD.OP, op)], 0) := by
  decide +kernel


/-! ### Witnesses: PowerCommands -/

/-- A device whose sites 0 and 1 are in group 3, which plat flags allow to be switched off by itself after 5 idle units. -/
def tPowGrp : Dev :=
  { Dev.reset with plat := { Plat.none with loaded := true, domGroup := [3, 3], siteOf := [(0, 0)],
                                            groups := [[], [], [], [0, 3, 5, 0]] } }
theorem wit_PowerCommands_tick : tPowGrp.plat.loaded = true ∧ tPowGrp.hub.standby = false := by decide +kernel
theorem wit_PowerCommands_ceiling : 1000 ≤ (capsNow Dev.reset).1 ∧ (∀ q, q < 4 → [95, 95, 95, 95].getD q 0 ≤ (capsNow Dev.reset).2) ∧
    100 ≤ (capsNow Dev.reset).1 := by decide +kernel
theorem wit_PowerCommands_throttle :
    100 ≤ ({ Dev.reset with power := { Dev.reset.power with floorFor := 100 } } : Dev).power.floorFor ∧
    Dev.reset.power.within = 0 ∧ 100 ≤ ({ Dev.reset with power := { Dev.reset.power with within := 100 } } : Dev).power.within := by
  decide +kernel
theorem wit_PowerCommands_group : ∀ op ∈ [1, 2, 3, 4],
    ({ Dev.reset with hub := { Dev.reset.hub with pwr := some (op, 3, true), savedDom := some [] } } : Dev).hub.pwr = some (op, 3, true) := by
  decide
theorem wit_PowerCommands_idle : (groupFlags tPowGrp 3).testBit 0 = true ∧ (groupFlags tPowGrp 3).testBit 1 = true ∧ groupIdle tPowGrp 3 ≠ 0 ∧
    (groupClusters tPowGrp 3).any (fun l => !clusterIdle tPowGrp l) = false ∧
    (groupDoms tPowGrp 3).any (fun n => decide (896 ≤ n ∧ n < 920) && stackUsed tPowGrp (n - 896)) = false := by decide +kernel
theorem wit_PowerCommands_wake : siteOfCl tPowGrp 0 = some 0 ∧ tPowGrp.hub.standby = false := by decide +kernel
theorem wit_PowerCommands_quarter :
    let d := (List.range 15).foldl (fun d w => rset d (0x800 + 8 * w) 0) Dev.reset
    quarterOff d 0 = true ∧ (getQ d 0).dormant = false ∧ (getQ (updQ d 3 (fun u => { u with dormant := true })) 3).dormant = true := by
  decide +kernel
theorem wit_PowerCommands_standby :
    let busy (d : Dev) := anyRunning d || anyCopy d || anyReduction d || d.tractCmd.isSome ||
      (List.range 24).any (fun k => rbit d (stkOff k 0x18) MS_STAT.RESTRIPE)
    busy tPowGrp = false ∧ busy (tRegs tPowGrp [(clOff 0 0x60, 1)]) = true := by decide +kernel


/-! ### Witnesses: ResetCommands, FirmwareAndPlat -/

theorem wit_ResetCommands_requests :
    let w (op : Nat) := cmdWord tServes .host 0x600 (regOf [(HB_RSTCMD.OP, op), (HB_RSTCMD.QUARTER, 3), (HB_RSTCMD.CLUSTER, 0)])
    (∀ op ∈ [1, 2, 3], getF (w op) HB_RSTCMD.OP = op) ∧ getF (w 2) HB_RSTCMD.QUARTER = 3 ∧
    recovery (cmdDev tServes .host 0x600 (regOf [(HB_RSTCMD.OP, 1)])) = false := by decide +kernel
theorem wit_ResetCommands_cluster :
    let d := { tServes with plat := { tServes.plat with siteOf := [(0, 0)] } }
    let v := regOf [(HB_RSTCMD.OP, 3), (HB_RSTCMD.CLUSTER, 0)]
    recovery (cmdDev d .host 0x600 v) = false ∧ (siteOfCl (cmdDev d .host 0x600 v) (getF (cmdWord d .host 0x600 v) HB_RSTCMD.CLUSTER)).isSome
      = true := by decide +kernel
theorem wit_ResetCommands_release :
    let d := updQ Dev.reset 2 (fun u => { u with held := true })
    (getQ d 2).held = true ∧ (getQ d 2).vcoreHeld = false := by decide +kernel
theorem wit_ResetCommands_complete : stackWrites Dev.reset 0 = false ∧ (getQ Dev.reset (quarterOf Dev.reset 0)).held = false := by decide +kernel
/-- A bank with nothing in the flash does not check. -/
theorem fwCheck_erased (d : Dev) (b : Nat) (h : d.flash = []) (hb : b < 2) : fwCheck d b = 1 := by
  have h0 : fieldAt (fbytes d (bankAt b) 64) 0 4 ≠ 0x57464C4A := by
    have e : fbytes d (bankAt b) 64 = fbytes { Dev.reset with flash := [] } (bankAt b) 64 := by
      simp only [fbytes, fbyte, h]
    rw [e]
    match b, hb with
    | 0, _ => decide +kernel
    | 1, _ => decide +kernel
  simp only [fwCheck, h0, ne_eq, not_false_eq_true, true_or, if_true]
theorem fwPick_erased (d : Dev) (o : Nat) (v : Word) (h : d.flash = []) : fwPick (rset d o v) = none := by
  simp only [fwPick, fwCheck_erased (rset d o v) 0 h (by decide), fwCheck_erased (rset d o v) 1 h (by decide)]
/-- What BOOT begins with. -/
def tBoot : Dev :=
  showKeys (showLedger (ledgerAsk (updLed (readLedger (rsetB { Dev.reset with booted := true } 0x200 HB_CLKSTAT.REFOK true))
    (fun r => { r with boots := (r.boots + 1) % 2 ^ 32 })) .boot))
/-- With an erased flash neither bank can be booted. -/
theorem wit_ResetCommands_boot : Dev.reset.holds = [] ∧ Dev.reset.booted = false ∧
    fwPick (rset tBoot 0x700 (setF (setF (rget tBoot 0x700) HB_BOOTSTAT.ERRA (fwCheck tBoot 0)) HB_BOOTSTAT.ERRB (fwCheck tBoot 1)))
      = none := by
  have hf : tBoot.flash = [] := by decide +kernel
  exact ⟨rfl, rfl, fwPick_erased tBoot _ _ hf⟩
/-- A bank that checks is picked; that one does rests on the signatures, which the model leaves open. -/
theorem wit_ResetCommands_bootBank (d : Dev) (h : fwCheck d 1 = 0) : (fwPick d).isSome = true := by
  unfold fwPick
  cases fwCheck d 0 <;> simp only [h] <;> (try split) <;> rfl
theorem wit_ResetCommands_holds : Dev.reset.holds.contains .clock = false ∧ Dev.reset.holds.contains .thermal = false ∧
    ({ Dev.reset with holds := [.clock, .thermal] } : Dev).holds.contains .clock = true ∧
    ({ Dev.reset with holds := [.clock, .thermal] } : Dev).holds.contains .thermal = true := by decide +kernel
theorem wit_ResetCommands_vcore : (getQ Dev.reset 3).vcoreHeld = false ∧
    (getQ (updQ Dev.reset 3 (fun u => { u with vcoreHeld := true })) 3).vcoreHeld = true := by decide +kernel

/-- The device booted, with all domains on. -/
def tLive : Dev := { tServes with booted := true, plat := { tServes.plat with loaded := true, siteOf := [(0, 0)] } }
theorem wit_FirmwareAndPlat_write : blkUnmapped tLive (blkOf (qOff 0 0x2000)).1 = false ∧ blkAsleep tLive (blkOf (qOff 0 0x2000)).1 = false ∧
    Sys2Proof.Machine.sizeOk (qOff 0 0x2000) 8 = true ∧ (regMapOf (blkOf (qOff 0 0x2000)).1 0x2000).isSome = true ∧
    inPlatbuf (qOff 0 0x2000) = false := by decide +kernel
theorem wit_FirmwareAndPlat_fw :
    bankRuns tServes 1 = false ∧ stageImage (rsetF tServes 0x308 HB_PLATLEN.LEN 4) ≠ [] ∧ 0 % 256 = 0 ∧ 0 + 4 ≤ 0x20_0000 ∧
    (∀ op ∈ [1, 2, 3], getF (BitVec.ofNat 64 (regOf [(HB_FWCMD.OP, op), (HB_FWCMD.BANK, 1)])) HB_FWCMD.OP = op ∧
      getF (BitVec.ofNat 64 (regOf [(HB_FWCMD.OP, op), (HB_FWCMD.BANK, 1)])) HB_FWCMD.BANK = 1) := by decide +kernel
theorem wit_FirmwareAndPlat_plat :
    (∀ p ∈ [(1, 0), (2, 0), (3, 1)], getF (cmdWord tServes .host 0x300 (regOf [(HB_PLATCMD.OP, p.1), (HB_PLATCMD.SLOT, p.2)])) HB_PLATCMD.OP = p.1) ∧
    rbit tServes 0x310 HB_PLATSTAT.BUSY = false ∧ rbit tServes 0x718 HB_FWSTAT.BUSY = false := by decide +kernel
theorem wit_FirmwareAndPlat_quiesced : ({ Dev.reset with replat := some ⟨[], 0, true⟩ } : Dev).reqs.all (fun e => e.2.stage == .done) = true ∧
    anyCopy { Dev.reset with replat := some ⟨[], 0, true⟩ } = false := by decide +kernel


/-! ### Witnesses: EmptyQueueIdles, the management window, AccessCodes -/

theorem wit_EmptyQueueIdles : State.reset.pending = [] := rfl
/-- A reserved range, an unmapped cluster's block, and an offset of the hub's block at which no register stands. -/
theorem wit_UnmappedAccess : blkUnmapped Dev.reset (blkOf (clOff 799 0)).1 = true ∧ clOff 799 0 % 8 = 0 ∧
    blkAsleep Dev.reset (blkOf 0xF8).1 = false ∧ inPlatbuf 0xF8 = false ∧ (∀ p, (blkOf 0xF8).1 ≠ .site p) ∧
    regMapOf (blkOf 0xF8).1 ((blkOf 0xF8).2 / 8 * 8) = none := by
  refine ⟨by decide +kernel, by decide, by decide +kernel, by decide, ?_, by decide +kernel⟩
  intro p h
  have e : (blkOf 0xF8).1 = .hub := by decide +kernel
  rw [e] at h; cases h
/-- Cluster 0, on site 0, with its domain off. -/
def tSleep : Dev :=
  { rset (tD Cluster.empty) 0x800 0 with plat := { Plat.none with loaded := true, siteOf := [(0, 0)] } }
theorem wit_DormantAccess : blkUnmapped tSleep (blkOf (clOff 0 0x60)).1 = false ∧ blkAsleep tSleep (blkOf (clOff 0 0x60)).1 = true ∧
    clOff 0 0x60 % 8 = 0 ∧ (clOff 0 0x60 + 4) % 4 = 0 ∧ (blkOf (clOff 0 0x60)).1 = .cluster 0 := by decide +kernel
theorem wit_AliasAccess : (blkOf 0x0500_0060).1 = .site 0 ∧ blkAsleep (rset Dev.reset 0x800 1) (.site 0) = false ∧
    (regMapOf (.site 0) ((blkOf 0x0500_0060).2 / 8 * 8)).isSome = true := by decide +kernel
theorem wit_WindowErrorCapture : getF (rget Dev.reset 0x100) ⟨0, 4⟩ = 0 ∧ getF (rget (rsetB Dev.reset 0x100 HB_MMERR.SIZE true) 0x100) ⟨0, 4⟩ ≠ 0 := by
  decide +kernel
/-- A register with fields of each kind of access. -/
theorem wit_AccessCodes : regMapOf .hub 0x100 = some mapHBMMERR ∧ (∃ x ∈ mapHBMMERR.fs, x.acc = .w1c) ∧
    (∀ x ∈ mapHBMMERR.fs, 63 < x.f.lo ∨ x.f.lo + x.f.w ≤ 63) := by decide +kernel


/-! ### Witnesses: IntegerResults, MultiplyHalves, DivideResults, FclassResult -/

theorem wit_IntegerResults : (sylFor (tY 0 0x0002_2180) 0 0 0 .alu isReady).isSome = true ∧ majorOf 0x0002_2180 = 0x00 ∧
    fOP 0x0002_2180 ≤ 0x15 ∧ (sylFor (tY 0 0x0042_2180) 0 0 0 .alu isReady).isSome = true ∧ majorOf 0x0042_2180 = 1 ∧
    (sylFor (tY 1 0x1282_2001) 0 0 1 .alu isReady).isSome = true ∧ majorOf 0x1282_2001 = 10 ∧
    (sylFor (tY 0 0x0802_2180) 0 0 0 .mul isReady).isSome = true ∧ fOP 0x0802_2180 = 0 := by decide
theorem wit_MultiplyHalves : ∀ w ∈ [0x0802_2180, 0x0802_2181, 0x0802_2182, 0x0802_21C2],
    (sylFor (tY 0 w) 0 0 0 .mul isReady).isSome = true ∧ fOP (BitVec.ofNat 32 w) ≤ 2 := by decide
/-- A division of the most negative number by minus one, or of a number by zero, under way, with traps or without. -/
def tDiv (md : Modes) (p q : Nat) : Dev :=
  let x := tX { tW 0 0x084A_6381 .divide [] with md := md }
  tD { tK (swrite (swrite x 6 (BitVec.ofNat 64 p)) 7 (BitVec.ofNat 64 q)) with divOwner := some 0 }
theorem wit_DivideResults : (getCl (tDiv tMd 9 0) 0).divOwner = some 0 ∧
    (sylFor (tDiv tMd 9 0) 0 0 0 .div (· == .divide)).isSome = true ∧ sread (getCtx (tDiv tMd 9 0) 0 0) 7 = 0#64 ∧
    sread (getCtx (tDiv tMd 9 4) 0 0) 7 ≠ 0#64 ∧
    (sylFor (tDiv { tMd with idz := true, iov := true } 9 0) 0 0 0 .div (· == .divide)).isSome = true := by decide
theorem wit_FclassResult : ∀ w ∈ [0x09C2_2001, 0x09C2_2021, 0x09C2_2041],
    (sylFor (tY 0 w) 0 0 0 .fclass isReady).isSome = true ∧ majorOf (BitVec.ofNat 32 w) = 0x27 ∧ fFN (BitVec.ofNat 32 w) = 1 ∧
    fFMT (BitVec.ofNat 32 w) ≤ 2 := by decide


/-! ### Witnesses: the frames -/

/-- A bundle of an ADD and a STORE of 8 bytes to the Mere, both done. -/
def tDoneW (es : List Eff) : Dev := tD (tK (tX (tW 0 0x8002_2180 .done es)))
theorem wit_RetireScalarFrame :
    let b := tW 0 0x8002_2180 .done [.sreg 1 5, .sreg 0 7, .fflags 3, .sreg 1 6]
    let d := tDoneW [.sreg 1 5, .sreg 0 7, .fflags 3, .sreg 1 6]
    (getCtx d 0 0).wb = some b ∧ ownRetire b = false ∧ complete d 0 0 = true ∧ b.md.gm = false ∧ b.v = none ∧ b.x = none ∧
    (getCl d 0).evq = [] ∧ (getCtx d 0 0).shadow = [] ∧
    (b.a.map Syl.eff).getD [] ++ (b.b.map Syl.eff).getD [] ++ (b.m.map Syl.eff).getD [] = [.sreg 1 5, .sreg 0 7, .fflags 3, .sreg 1 6] := by
  decide
theorem wit_MereStoreFrame :
    let b := tW 2 0xA282_2000 .done [.store true 16 8 0x0102_0304_0506_0708]
    let d := tD (tK (tX b))
    (getCtx d 0 0).wb = some b ∧ ownRetire b = false ∧ complete d 0 0 = true ∧ b.md.gm = false ∧ b.v = none ∧ b.x = none ∧
    (getCl d 0).evq = [] ∧ (getCtx d 0 0).shadow = [] ∧
    (b.a.map Syl.eff).getD [] ++ (b.b.map Syl.eff).getD [] ++ (b.m.map Syl.eff).getD [] = [.store true 16 8 0x0102_0304_0506_0708] := by
  decide
theorem wit_StackWriteFrame : sectorBad Dev.reset 0 64 = false ∧ sectorBad { Dev.reset with badMem := [(memKey 0 64 / 64, 5)] } 0 64 = true ∧
    Memory.wf Dev.reset.mem = true := by decide +kernel


/-! ### Witnesses: MessageRoundTrip, LedgerRecordRoundTrip, TrapEntrySaves, PrivilegeAtDecode, VectorAddResult -/

theorem wit_MessageRoundTrip : let m := { tMsg 7 63 (2 ^ 57 - 1) (List.replicate 57 0xA5) with dst := 16383, src := 16383, tag := 65535, hops := 31, cls := 1 }
    m.dst < 2 ^ 14 ∧ m.src < 2 ^ 14 ∧ m.vc < 8 ∧ m.op < 64 ∧ m.data.length < 4096 ∧ m.tag < 2 ^ 16 ∧ m.hops < 32 ∧ m.cls < 2 ∧
    m.addr < 2 ^ 57 ∧ (List.replicate 56 (0 : Byte)).length = 56 := by decide
def tLed : Led :=
  { Led.empty with seq := 2 ^ 32 - 1, retired := [5, 65535], fails := 3, chanmap := [(0, 7), (23, 0xFFFF)], wayoff := [(3, 1)],
                   events := [(15, 1 :: List.replicate 15 0)] }
theorem wit_LedgerRecordRoundTrip : tLed.totals.length = 5 ∧ (∀ n ∈ tLed.totals, n < 2 ^ 32) ∧ Tab.wf 0 tLed.chanmap = true ∧
    (∀ e ∈ tLed.chanmap, e.1 < 24 ∧ e.2 < 2 ^ 16) ∧ Tab.wf 0 tLed.wayoff = true ∧ (∀ e ∈ tLed.wayoff, e.1 < 4 ∧ e.2 < 2 ^ 16) ∧
    Tab.wf (List.replicate 16 0) tLed.events = true ∧ (∀ e ∈ tLed.events, e.1 < 16 ∧ e.2.length = 16) ∧ tLed.retired.length ≤ 64 ∧
    (∀ n ∈ tLed.retired, n < 2 ^ 16) ∧ tLed.seq < 2 ^ 32 ∧ tLed.select < 2 ^ 8 ∧ tLed.evhead < 2 ^ 8 ∧ tLed.platFloor < 2 ^ 64 ∧
    tLed.fwFloor < 2 ^ 64 ∧ tLed.sessCtr < 2 ^ 64 ∧ tLed.boots < 2 ^ 32 := by decide
theorem wit_LedgerRecordRoundTrip_bad : fieldAt [1] 0x200 4 ≠ crc32c (([1] : List Byte).take 0x200) := by decide +kernel
/-- An illegal syllable stands in W of context 0, which runs at Work level. -/
def tTrapW : Dev :=
  tRegs (tD (tK { tX (tW 0 0x8002_2180 (.faulted ⟨4, 0x8002_2180⟩) []) with pc := 0x1000 })) [(clOff 0 0x60, 1), (dtOff 0 0 0, 0)]
theorem wit_TrapEntrySaves :
    let t : Trap := ⟨4, 0x8002_2180⟩
    running tTrapW 0 0 = true ∧ (getCtx tTrapW 0 0).stop = false ∧ (getCtx tTrapW 0 0).park = none ∧ unitsStop tTrapW 0 0 = true ∧
    atBoundary tTrapW 0 0 = true ∧ dueTrap tTrapW 0 0 = some (t, false) ∧ (getCl tTrapW 0).evq = [] ∧
    rbit tTrapW (csOff 0 0 0x48) CL_GCTL.MODE = false ∧ causeOf t < 0x80 ∧ causeOf t ≠ 9 ∧ toSupervisor tTrapW 0 0 (causeOf t) = false ∧
    isSet (rget tTrapW (dtOff 0 0 0)) DT_STATUS.ENTRY = false ∧ isSet (rget tTrapW (dtOff 0 0 0)) DT_STATUS.DOUBLE = false ∧
    rgetF tTrapW (dtOff 0 0 0) DT_STATUS.PLEV ≠ 2 := by decide +kernel
theorem wit_PrivilegeAtDecode : ∀ e ∈ [(Op.tack, 0x99C0_0000, 1), (.tret, 0x9A00_0000, 1), (.ifsave, 0xAC00_2000, 3), (.ifload, 0xAC40_2000, 3),
    (.cmosw, 0xA964_2000, 3)], sylOp false 0 (BitVec.ofNat 32 e.2.1) = some e.1 ∧ stopBit (BitVec.ofNat 32 e.2.1) = true ∧
    isLoopLast Dev.reset 0 0 0x1000 = false := by decide +kernel
/-- VADD of v1 and v2 into v1, and of v1 and a scalar. -/
theorem wit_VectorAddResult : (vHead (tU (tV 0x3002_1100 v64)) 0).isSome = true ∧ qopOp (tV 0x3002_1100 v64) = some .vadd ∧
    baseMajor (tV 0x3002_1100 v64).syl = 0 ∧ vOPX (tV 0x3002_1100 v64).syl = 0 ∧ fRD (tV 0x3002_1100 v64).syl = fRA (tV 0x3002_1100 v64).syl ∧
    fRD (tV 0x3002_1100 v64).syl + 1 ≤ fRB (tV 0x3002_1100 v64).syl := by decide +kernel

/-! ### Witness: MemoryStaysCanonical -/

/-- A write of zeros to a sector that holds two bytes waits at its stack, its completion in the queue. -/
def tKeeps : State := ⟨{ tFin .write with mem := [(3, 7), (70, 9)] }, [.stackRequestComplete 1]⟩
theorem wit_MemoryStaysCanonical : MemOk tKeeps ∧
    ∃ t, step tKeeps = .next t ∧ Tab.wf 0 t.dev.mem = true ∧ t.dev.mem.map Prod.fst = [70] ∧ t.pending = [] :=
  ⟨rfl, _, rfl, by decide +kernel, by decide +kernel, rfl⟩


/-! ### Witnesses: the statements whose hypotheses are bounds or lists alone -/

theorem wit_ResetRegisters : 799 < 800 ∧ 7 < 8 ∧ 23 < 24 ∧ 11 < 12 := by decide
theorem wit_ExecutionFrame : Instr.alu 0 0 0 ∈ [Instr.alu 0 0 0, .fence 0 0] := by decide
theorem wit_BoardCommands :
    (Instr.idcode, ScanIr.idcode, 0x1802_46B7, (none : Option (List Byte))) ∈ [(Instr.idcode, ScanIr.idcode, 0x1802_46B7, none)] := by decide

/-! ### The checks of WellFormed, each refusing an ill-formed term -/

theorem test_wf_cluster : WellFormed (.mul 799 7) = true ∧ WellFormed (.mul 800 0) = false := by decide
theorem test_wf_context : WellFormed (.bundleRetire 0 8) = false := by decide
theorem test_wf_slot : WellFormed (.alu 0 0 2) = true ∧ WellFormed (.alu 0 0 3) = false := by decide
theorem test_wf_quarter : WellFormed (.vcoreUndervoltage 3 0) = true ∧ WellFormed (.vcoreUndervoltage 4 0) = false := by decide
theorem test_wf_temperature : WellFormed (.qtRateUpdate 0 1 1 255) = true ∧ WellFormed (.qtRateUpdate 0 1 1 256) = false := by decide
theorem test_wf_access : WellFormed (.registerWrite .host 0 4 0) = true ∧ WellFormed (.registerWrite .host 0 2 0) = false := by decide
theorem test_wf_agent : WellFormed (.registerWrite (.cluster 800) 0 8 0) = false ∧ WellFormed (.registerWrite (.peer 16384) 0 8 0) = false := by
  decide
theorem test_wf_slotOfFlash : WellFormed (.replatFromFlash .host 1) = true ∧ WellFormed (.replatFromFlash .host 2) = false := by decide
theorem test_wf_mask : WellFormed (.packedIssue 0 255) = true ∧ WellFormed (.packedIssue 0 256) = false := by decide
theorem test_wf_port : WellFormed (.messageStart 11) = true ∧ WellFormed (.messageStart 12) = false := by decide
theorem test_wf_flit : WellFormed (.flitReceive 0 (List.replicate 64 0)) = true ∧ WellFormed (.flitReceive 0 [0]) = false := by decide
theorem test_wf_ring : WellFormed (.nop 15) = true ∧ WellFormed (.nop 16) = false := by decide
theorem test_wf_reduction : WellFormed (.ownShareConverted 3) = true ∧ WellFormed (.ownShareConverted 4) = false := by decide
theorem test_wf_array : WellFormed (.sramSingleBitCorrect (.site 831 15)) = true ∧ WellFormed (.sramSingleBitCorrect (.site 832 0)) = false ∧
    WellFormed (.sramSingleBitCorrect (.way 3 16 0)) = false ∧ WellFormed (.sramSingleBitCorrect (.hub 0x4000)) = false := by decide
theorem test_wf_place : WellFormed (.sramUncorrectable (.tile 0 7 63)) = true ∧ WellFormed (.sramUncorrectable (.tile 0 8 0)) = false ∧
    WellFormed (.sramUncorrectable (.bucket 4)) = false ∧ WellFormed (.sramUncorrectable (.vreg 0 0 512)) = false := by decide
theorem test_wf_unit : WellFormed (.residueMismatch 0 0 3 0 false) = true ∧ WellFormed (.residueMismatch 0 0 4 0 false) = false := by decide
theorem test_wf_bank : WellFormed (.flashSectorErase 1) = true ∧ WellFormed (.flashSectorErase 2) = false := by decide

/-! ### Encodings and results that the spec works out -/

/-- spec/01: logical cluster 37 has its block at 0x0125_0000 and its CL_TALLY at 0x0125_0040; stack 21's block starts at 0x0A54_0000. -/
theorem test_blocks : clOff 37 0x40 = 0x0125_0040 ∧ stkOff 21 0 = 0x0A54_0000 ∧ blkOf 0x0125_0040 = (.cluster 37, 0x40) ∧
    blkOf 0x0A54_0000 = (.stack 21, 0) := by decide
/-- spec/04: DIVU s5, s6, s7 in slot A and LD s8, 16(s30) in slot M. -/
theorem test_decode_bundle : slotOf 0x084A_6381 = 0 ∧ opAB true 0x084A_6381 = some .div ∧ fOP 0x084A_6381 = 1 ∧ fRD 0x084A_6381 = 5 ∧
    fRA 0x084A_6381 = 6 ∧ fRB 0x084A_6381 = 7 ∧ stopBit 0x084A_6381 = false ∧ slotOf 0xA191_E010 = 2 ∧ opM 0xA191_E010 = some .load ∧
    majorOf 0xA191_E010 = 6 ∧ fRD 0xA191_E010 = 8 ∧ fRA 0xA191_E010 = 30 ∧ stopBit 0xA191_E010 = true := by decide
/-- spec/10: XOPA.KV4.B32 t1, s2, s6 is 0xC008_8DB8. -/
theorem test_decode_xopa : slotOf 0xC008_8DB8 = 4 ∧ opX false 0xC008_8DB8 = some .xopa ∧ stopBit 0xC008_8DB8 = true ∧
    xCodeA 0xC008_8DB8 = 7 ∧ xBlk 0xC008_8DB8 = true ∧ xBX 0xC008_8DB8 = 0 := by decide
/-- spec/04: FCLASS of -0, a positive subnormal, -infinity, a quiet NaN, a signalling NaN with sign 1 (binary32). -/
theorem test_fclass : classF fmt32 0x8000_0000 = 0x21 ∧ classF fmt32 1 = 0x02 ∧ classF fmt32 0xFF80_0000 = 0x28 ∧
    classF fmt32 0x7FC0_0000 = 0x10 ∧ classF fmt32 0xFF80_0001 = 0x70 := by decide
/-- spec/07, worked conversions from binary32: of 0.3 and of 300. -/
theorem test_convert : (∀ t ∈ [(fmtKV16, 1, 0x3E9A, flNX), (fmtKV8W, 1, 0x39, flNX), (fmtKV8E, 1, 0x32, flNX), (fmtKV8E, 3, 0x31, flNX),
      (fmtKV6, 1, 0x05, flNX), (fmtKV4, 1, 0x1, flUF + flNX)],
      packF t.1 t.2.1 0 false (decodeF fmt32 0x3E99_999A) = (t.2.2.1, t.2.2.2)) ∧
    (∀ t ∈ [(fmtKV8W, false, 0x61, flNX), (fmtKV8E, true, 0x7E, flOF + flNX), (fmtKV8E, false, 0x7F, flNV), (fmtKV6, false, 0x1F, flOF + flNX)],
      packF t.1 1 0 t.2.1 (decodeF fmt32 0x4396_0000) = (t.2.2.1, t.2.2.2)) := by decide +kernel
theorem test_convertEdge : packF fmtKV8E 1 0 false (.fin false 232 0) = (0x7E, flNX) ∧ packF fmtKV8E 1 0 false (.fin false 233 0) = (0x7F, flNV) ∧
    packF fmtKV4 1 0 false (.fin true 0 0) = (0x8, 0) := by decide +kernel
/-- spec/07: one stochastic conversion of 0.3 to KV8E from CL_SRSTATE 1. -/
theorem test_stochastic : srStep 1 = 0x4082_2041 ∧ srDraw (srStep 1) = 0 ∧
    packF fmtKV8E 6 (srDraw (srStep 1)) false (decodeF fmt32 0x3E99_999A) = (0x32, flNX) := by decide +kernel
/-- spec/07: the block scales of blocks A and B in KVB4, with B's first four elements (2, -1, 0.5, 4). -/
theorem test_blockScale :
    (blockConvert 7 1 false [] ([0x3E00_0000, 0x3F40_0000].map (decodeF fmt32))).1 = 0x7C ∧
    (let b := [8, -4, 2, 16, 24].map ofIntV
     (blockConvert 7 1 false (List.replicate 5 0) b).1 = 0x81 ∧ (blockConvert 7 1 false (List.replicate 5 0) b).2.1 = [0x4, 0xA, 0x1, 0x6, 0x7]) := by decide +kernel
/-- spec/08: VSSRA of 10 and of -10 by 2 in the four rounding modes, and VSMUL in Q15. -/
theorem test_fixed : (List.range 4).map (fun m => fxRound m 2 true 10) = [2, 3, 2, 2] ∧
    (List.range 4).map (fun m => fxRound m 2 true (-10)) = [-2, -3, -2, -3] ∧
    (List.range 4).map (fun m => fxRound m 2 true (-6)) = [-2, -2, -1, -2] := by decide +kernel
/-- spec/10: x times y added to -1 in one rounding. -/
theorem test_fused : packF fmt64 1 0 false
    (fmaV 1 (decodeF fmt64 0x3FF0_0000_0000_0001) (decodeF fmt64 0x3FEF_FFFF_FFFF_FFFF) (decodeF fmt64 0xBFF0_0000_0000_0000)).1
      = (0x3C9F_FFFF_FFFF_FFFE, 0) := by decide +kernel
/-- spec/17 R392: the header of a write of 2,048 bytes from device 5 to device 9, after its first forwarding. -/
theorem test_header : let m : Msg := { vc := 0, op := 2, src := 5, dst := 9, tag := 0x123, hops := 0, cls := 0, addr := 0x40_0000_0000, data := List.replicate 2048 0 }
    hdrNat m % 2 ^ 64 = 0x0247_0001_0001_4009 ∧ hdrNat m / 2 ^ 64 = 0x0000_2000_0000_0000 ∧ flitsFor 2048 = 37 := by decide +kernel
/-- spec/18: SOPEN to device 6 through landing device 4. -/
theorem test_sopenHeader : let m : Msg := { vc := 3, op := 1, src := 4, dst := 6, tag := 1, hops := 1, cls := 0, addr := 0, data := List.replicate 33 0 }
    hdrNat m % 2 ^ 64 = 0x0002_0420_B001_0006 ∧ hdrNat m / 2 ^ 64 = 2 ∧ flitsFor 33 = 1 := by decide +kernel
/-- spec/21: class 1 events of site 37 counted under a window of 256 units of 2^20 ticks. -/
theorem test_window :
    (windowOf 256 (1310 * 2 ^ 20) ([1000, 1100, 1300, 1310].map (· * 2 ^ 20))).length = 3 ∧
    (windowOf 256 (1330 * 2 ^ 20) ([1100, 1300, 1310, 1330].map (· * 2 ^ 20))).length = 4 ∧
    (windowOf 256 (1300 * 2 ^ 20) ([1000, 1100, 1300].map (· * 2 ^ 20))).length = 2 := by decide +kernel
/-- spec/13: device address 0x12_3456_7A40 in the cluster cache falls in set 0x3D, in the quarter cache in slice 0xD, set 0xB3. -/
theorem test_sets : ccBase 0x12_3456_7A40 / 16 = 0x3D ∧ qcBase 0x12_3456_7A40 / 16 = 0xD * 256 + 0xB3 ∧ 0x12_3456_7A40 / 64 % 8 = 1 := by
  decide

/-- The elements of a vector register, each of `w` bits. -/
def tVec (w : Nat) (xs : List Nat) : BitVec 4096 := BitVec.ofNat 4096 (xs.reverse.foldl (fun a x => a * 2 ^ w + x) 0)
/-- spec/08: VFREDSUM and VFREDOSUM of 2^53, seven ones, -2^53 and three ones (binary64, VL 12) give 9 and 3. -/
def tSums : Ctx :=
  { Ctx.empty with v := [(2, tVec 64 [0x4340_0000_0000_0000, 0x3FF0_0000_0000_0000, 0x3FF0_0000_0000_0000, 0x3FF0_0000_0000_0000,
      0x3FF0_0000_0000_0000, 0x3FF0_0000_0000_0000, 0x3FF0_0000_0000_0000, 0x3FF0_0000_0000_0000, 0xC340_0000_0000_0000,
      0x3FF0_0000_0000_0000, 0x3FF0_0000_0000_0000, 0x3FF0_0000_0000_0000])] }
def tSumOp (opx : Nat) : QOp := { tV (0x3942_2000 + opx) 0x0C0C with md := { tMd with rm := 1 } }
theorem test_sums : (vFloatRed tSums (tSumOp 0)).1 = 0x4022_0000_0000_0000 ∧ (vFloatRed tSums (tSumOp 1)).1 = 0x4008_0000_0000_0000 := by
  decide +kernel
/-- spec/08: VMATCH of two sorted lists of eight: mask 0x4A, and s[RD] 0x0000_0003_0008_0007. -/
def tLists : Ctx :=
  { Ctx.empty with v := [(1, tVec 32 [3, 7, 9, 12, 20, 25, 31, 40]), (2, tVec 32 [5, 7, 12, 13, 14, 26, 31, 33])] }
theorem test_match :
    let o := tV (0x3B00_0000 + 1 * 0x2_0000 + 2 * 0x1000 + 3 * 0x80) 0x0808
    cfgVl o.vcfg = 8 ∧ (vMatchOp tLists o).2 = some (false, 3, 0x0000_0003_0008_0007) := by decide +kernel
theorem test_merge : mergeRun true 8 [3, 7, 9, 12, 20, 25, 31, 40] [5, 7, 12, 13, 14, 26, 31, 33] = ([3, 5, 7, 9, 12, 13, 14, 20], 5, 5) := by
  decide

end Sys2Proof.Tests
end

section
/-!
PROOF. The management window (spec/01 R25 to R31): what a read and a REGISTER_WRITE answer in each case of the checks, what an
error captures, and from these the statements O37 to O40.
-/
namespace Sys2Proof.Machine

/-! ### The registers HB_MMERR and HB_MMERR_ADDR (R31) -/

/-- A register with one of its bits written reads as its old value with that bit. -/
@[simp] theorem rget_rsetB_same (d : Dev) (o : Nat) (f : Fld) (b : Bool) : rget (rsetB d o f b) o = setB (rget d o) f b :=
  rget_rset_same d o _

/-- A bit written in one register leaves every other register. -/
theorem rget_rsetB_ne (d : Dev) {o p : Nat} (f : Fld) (b : Bool) (h : p ≠ o) : rget (rsetB d o f b) p = rget d p :=
  rget_rset_ne d _ h

/-- An error that finds HB_MMERR[3:0] clear is captured. -/
theorem mmErr_of_clear {d : Dev} (h : getF (rget d 0x100) ⟨0, 4⟩ = 0) (f : Fld) (ag : Agent) (o : Nat) :
    mmErr d f ag o =
      rsetB (rset d 0x108 (setF (setF 0 HB_MMERR_ADDR.OFFSET o) HB_MMERR_ADDR.SOURCE (agentCode ag))) 0x100 f true := by
  simp [mmErr, h]

/-- An error that finds one of HB_MMERR[3:0] set is an overrun. -/
theorem mmErr_of_held {d : Dev} (h : getF (rget d 0x100) ⟨0, 4⟩ ≠ 0) (f : Fld) (ag : Agent) (o : Nat) :
    mmErr d f ag o = rsetB (rsetB d 0x100 HB_MMERR.OVERRUN true) 0x100 f true := by
  simp [mmErr, h]

/-- What a captured error leaves in HB_MMERR_ADDR, field by field. -/
theorem mmErr_captures {d : Dev} (h : getF (rget d 0x100) ⟨0, 4⟩ = 0) (f : Fld) (ag : Agent) (o : Nat) :
    getF (rget (mmErr d f ag o) 0x108) HB_MMERR_ADDR.OFFSET = o % 2 ^ 28 ∧
      getF (rget (mmErr d f ag o) 0x108) HB_MMERR_ADDR.SOURCE = agentCode ag % 2 ^ 16 := by
  rw [mmErr_of_clear h, rget_rsetB_ne _ _ _ (by decide), rget_rset_same]
  constructor
  · rw [getF_setF_ne _ _ _ _ (.inr (by decide)), getF_setF_same _ _ _ (by decide)]
    rfl
  · rw [getF_setF_same _ _ _ (by decide)]
    rfl

/-- Settles O40, by the two cases of the capture (R31): HB_MMERR[3:0] clear, or one of them held. The codes of a peer and of the
board are the model's choice (log entry 31). -/
theorem windowErrorCapture : Obligations.WindowErrorCapture := by
  intro d ag o f _ ho
  refine ⟨onlyMmErr_mmErr d f ag o, fun hclear => ?_, fun hheld => ?_⟩
  · obtain ⟨hoff, hsrc⟩ := mmErr_captures hclear f ag o
    refine ⟨hoff.trans (Nat.mod_eq_of_lt ho), hsrc, ?_⟩
    rw [mmErr_of_clear hclear, rget_rsetB_same, rget_rset_ne _ _ (by decide)]
  · rw [mmErr_of_held hheld, rget_rsetB_same, rget_rsetB_same]
    exact ⟨by rw [rget_rsetB_ne _ _ _ (by decide), rget_rsetB_ne _ _ _ (by decide)], rfl⟩

/-! ### The map of the window and the power of its blocks -/

/-- HB_PLATBUF stands in the hub's block, so no other block reaches it. -/
theorem blkOf_of_inPlatbuf {o : Nat} (h : inPlatbuf o = true) : blkOf o = (.hub, o) := by
  have ho : o < 0x0010_0000 := by
    have := of_decide_eq_true h
    omega
  exact if_pos ho

/-- An offset in a physical site's block lies outside HB_PLATBUF. -/
theorem inPlatbuf_of_site {o p : Nat} (h : (blkOf o).1 = .site p) : inPlatbuf o = false := by
  refine Bool.eq_false_iff.mpr fun hb => ?_
  rw [blkOf_of_inPlatbuf hb] at h
  cases h

/-- Whether a domain is on does not rest on HB_MMERR or HB_MMERR_ADDR. -/
theorem domOn_of_onlyMmErr {d d' : Dev} (h : onlyMmErr d d') (n : Nat) : domOn d' n = domOn d n := by
  unfold domOn
  rw [h.2 (domOff n) (by unfold domOff; omega) (by unfold domOff; omega)]

/-- An error of the window wakes no block and puts none to sleep (R28). -/
theorem blkAsleep_of_onlyMmErr {d d' : Dev} (h : onlyMmErr d d') (b : Blk) : blkAsleep d' b = blkAsleep d b := by
  have hdom := domOn_of_onlyMmErr h
  have hcl : d'.cl = d.cl := (congrArg Dev.cl h.1 :)
  have hq : d'.quarters = d.quarters := (congrArg Dev.quarters h.1 :)
  have hplat : d'.plat = d.plat := (congrArg Dev.plat h.1 :)
  cases b <;> simp only [blkAsleep, siteOfCl, logicalOf, getCl, getQ, hdom, hcl, hq, hplat]

/-! ### A management read, by the cases of R25 to R28 -/

/-- Four or eight bytes at their natural alignment are a size that the window takes (R25). -/
theorem sizeOk_of_aligned {o n : Nat} (h : n = 4 ∧ o % 4 = 0 ∨ n = 8 ∧ o % 8 = 0) : sizeOk o n = true := by
  rcases h with ⟨rfl, ha⟩ | ⟨rfl, ha⟩ <;> simp [sizeOk, ha]

section Access
variable {d : Dev} {o n : Nat}

theorem mgmtRead_of_unmapped (hz : sizeOk o n = true) (hu : blkUnmapped d (blkOf o).1 = true) (ag : Agent) :
    mgmtRead d ag o n = (some 0, mmErr d HB_MMERR.UNMAPPED ag o) := by
  simp [mgmtRead, hz, hu]

theorem mgmtRead_of_noRegister (hz : sizeOk o n = true) (ha : blkAsleep d (blkOf o).1 = false) (hp : inPlatbuf o = false)
    (hm : regMapOf (blkOf o).1 ((blkOf o).2 / 8 * 8) = none) (ag : Agent) :
    mgmtRead d ag o n = (some 0, mmErr d HB_MMERR.UNMAPPED ag o) := by
  simp [mgmtRead, hz, ha, hp, hm]

theorem mgmtRead_of_asleep (hn : n = 4 ∧ o % 4 = 0 ∨ n = 8 ∧ o % 8 = 0) (hu : blkUnmapped d (blkOf o).1 = false)
    (ha : blkAsleep d (blkOf o).1 = true) (ag : Agent) :
    mgmtRead d ag o n = (some (BitVec.ofNat 64 (2 ^ (8 * n) - 1)), mmErr d HB_MMERR.DORMANT ag o) := by
  have hz := sizeOk_of_aligned hn
  rcases hn with ⟨rfl, -⟩ | ⟨rfl, -⟩ <;> simp [mgmtRead, hz, hu, ha, ones]

/-- The value that a read returns does not rest on who reads (R29). -/
theorem mgmtRead_value_agent (d : Dev) (ag b : Agent) (o n : Nat) : (mgmtRead d ag o n).1 = (mgmtRead d b o n).1 := by
  unfold mgmtRead
  simp only [apply_ite Prod.fst]
  cases regMapOf (blkOf o).1 ((blkOf o).2 / 8 * 8) <;> rfl

/-! ### A management write, by the cases of R25 to R29 -/

/-- Does R29 let the agent write in the block: it is no physical site's, or the agent is the Surveyor or the Dykereeve? -/
def mayWrite (ag : Agent) (b : Blk) : Prop := (∀ p, b ≠ .site p) ∨ ag = .surveyor ∨ ag = .dykereeve

theorem mgmtCheck_of_unmapped (hz : sizeOk o n = true) (hu : blkUnmapped d (blkOf o).1 = true) (ag : Agent) (v : Word) :
    mgmtCheck d ag o n v = .ignored (mmErr d HB_MMERR.UNMAPPED ag o) := by
  simp [mgmtCheck, hz, hu]

/-- A write to a physical site's block by another agent than the Surveyor and the Dykereeve (R29). -/
theorem mgmtCheck_of_aliasRefused {p : Nat} {ag : Agent} (hz : sizeOk o n = true) (hb : (blkOf o).1 = .site p)
    (hs : ag ≠ .surveyor) (hk : ag ≠ .dykereeve) (v : Word) :
    mgmtCheck d ag o n v = .ignored (mmErr d HB_MMERR.ALIAS ag o) := by
  simp [mgmtCheck, hz, hb, hs, hk, blkUnmapped]

/-- The checks that are left once a block is mapped and R29 lets the agent write in it: sleep (R28), the staging buffer, and a
register at the offset. -/
theorem mgmtCheck_of_mayWrite {ag : Agent} (hz : sizeOk o n = true) (hu : blkUnmapped d (blkOf o).1 = false)
    (hw : mayWrite ag (blkOf o).1) (v : Word) :
    mgmtCheck d ag o n v =
      if blkAsleep d (blkOf o).1 then .ignored (mmErr d HB_MMERR.DORMANT ag o)
      else if inPlatbuf o then .buf { d with platbuf := Tab.setRun 0 d.platbuf (o - 0x4_0000) (toBytes n v.toNat) }
      else (regMapOf (blkOf o).1 ((blkOf o).2 / 8 * 8)).elim (.ignored (mmErr d HB_MMERR.UNMAPPED ag o)) (fun m =>
        .reg (agentMap d ag (blkOf o).1 ((blkOf o).2 / 8 * 8) m) (blkOf o).1 ((blkOf o).2 / 8 * 8)
          (writeMask o n v).1 (writeMask o n v).2) := by
  unfold mgmtCheck
  generalize blkOf o = e at hu hw ⊢
  obtain ⟨b, r⟩ := e
  dsimp only at hu ⊢
  cases regMapOf b (r / 8 * 8) <;> cases b with
  | site p =>
    have hag : ag = .surveyor ∨ ag = .dykereeve := hw.resolve_left (fun h => h p rfl)
    rcases hag with rfl | rfl <;> simp [hz, hu]
  | _ => simp [hz, hu]

theorem mgmtCheck_of_asleep {ag : Agent} (hz : sizeOk o n = true) (hw : mayWrite ag (blkOf o).1)
    (hu : blkUnmapped d (blkOf o).1 = false) (ha : blkAsleep d (blkOf o).1 = true) (v : Word) :
    mgmtCheck d ag o n v = .ignored (mmErr d HB_MMERR.DORMANT ag o) := by
  rw [mgmtCheck_of_mayWrite hz hu hw, if_pos ha]

theorem mgmtCheck_of_noRegister {ag : Agent} (hz : sizeOk o n = true) (hw : mayWrite ag (blkOf o).1)
    (ha : blkAsleep d (blkOf o).1 = false) (hp : inPlatbuf o = false)
    (hm : regMapOf (blkOf o).1 ((blkOf o).2 / 8 * 8) = none) (v : Word) :
    mgmtCheck d ag o n v = .ignored (mmErr d HB_MMERR.UNMAPPED ag o) := by
  cases hu : blkUnmapped d (blkOf o).1 with
  | true => exact mgmtCheck_of_unmapped hz hu ag v
  | false => simp [mgmtCheck_of_mayWrite hz hu hw, ha, hp, hm]

/-- A write by the Surveyor or the Dykereeve at a register of an awake physical site (R29). -/
theorem mgmtCheck_of_site {p : Nat} {ag : Agent} {m : RegMap} (hz : sizeOk o n = true) (hb : (blkOf o).1 = .site p)
    (hw : ag = .surveyor ∨ ag = .dykereeve) (ha : blkAsleep d (.site p) = false)
    (hm : regMapOf (.site p) ((blkOf o).2 / 8 * 8) = some m) (v : Word) :
    mgmtCheck d ag o n v =
      .reg (agentMap d ag (.site p) ((blkOf o).2 / 8 * 8) m) (.site p) ((blkOf o).2 / 8 * 8) (writeMask o n v).1 (writeMask o n v).2 := by
  have hu : blkUnmapped d (blkOf o).1 = false := by rw [hb]; rfl
  simp [mgmtCheck_of_mayWrite hz hu (.inr hw), hb, ha, inPlatbuf_of_site hb, hm]

end Access

/-! ### REGISTER_WRITE -/

theorem exec_registerWrite (s : State) (ag : Agent) (o n : Nat) (v : Word) :
    exec (.registerWrite ag o n v) s = .next (s.withDev (mgmtWrite s.dev ag o n v).2) := rfl

theorem exec_registerWrite_of_ignored {s : State} {ag : Agent} {o n : Nat} {v : Word} {d : Dev}
    (h : mgmtCheck s.dev ag o n v = .ignored d) : exec (.registerWrite ag o n v) s = .next (s.withDev d) := by
  simp only [exec_registerWrite, mgmtWrite, h]

theorem exec_registerWrite_of_reg {s : State} {ag : Agent} {o n : Nat} {v : Word} {m : RegMap} {b : Blk} {r : Nat} {mask w : Word}
    (h : mgmtCheck s.dev ag o n v = .reg m b r mask w) :
    exec (.registerWrite ag o n v) s = .next (s.withDev (mgmtApply s.dev ag m b r (o / 8 * 8) mask w)) := by
  simp only [exec_registerWrite, mgmtWrite, h]

/-! ### The statements -/

/-- Settles O37: an unmapped block (R27) and an awake block's offset without a register (the model's choice, log entry 74) are
answered alike. -/
theorem unmappedAccess : Obligations.UnmappedAccess := by
  intro s ag o n v hn hcase
  have hz := sizeOk_of_aligned hn
  have hset := isSet_mmErr s.dev HB_MMERR.UNMAPPED ag o (by decide)
  have honly := onlyMmErr_mmErr s.dev HB_MMERR.UNMAPPED ag o
  have hread : mgmtRead s.dev ag o n = (some 0, mmErr s.dev HB_MMERR.UNMAPPED ag o) := by
    rcases hcase with hu | ⟨ha, hp, -, hm⟩
    · exact mgmtRead_of_unmapped hz hu ag
    · exact mgmtRead_of_noRegister hz ha hp hm ag
  have hwrite : mgmtCheck s.dev ag o n v = .ignored (mmErr s.dev HB_MMERR.UNMAPPED ag o) := by
    rcases hcase with hu | ⟨ha, hp, hsite, hm⟩
    · exact mgmtCheck_of_unmapped hz hu ag v
    · exact mgmtCheck_of_noRegister hz (.inl hsite) ha hp hm v
  rw [hread]
  exact ⟨rfl, honly, hset, _, exec_registerWrite_of_ignored hwrite, honly, hset⟩

/-- Settles O38: the error is all that a sleeping block's access leaves, and no error wakes a block. -/
theorem dormantAccess : Obligations.DormantAccess := by
  intro s ag o n v hn hu ha
  have hset := isSet_mmErr s.dev HB_MMERR.DORMANT ag o (by decide)
  have honly := onlyMmErr_mmErr s.dev HB_MMERR.DORMANT ag o
  have hsleeps : blkAsleep (mmErr s.dev HB_MMERR.DORMANT ag o) (blkOf o).1 = true := by
    rw [blkAsleep_of_onlyMmErr honly, ha]
  rw [mgmtRead_of_asleep hn hu ha]
  refine ⟨rfl, honly, hset, hsleeps, fun hw => ?_⟩
  have hwrite := mgmtCheck_of_asleep (sizeOk_of_aligned hn) hw hu ha v
  exact ⟨_, exec_registerWrite_of_ignored hwrite, honly, hset, hsleeps⟩

/-- Settles O39: the check of a write tells the agents apart, a read's value does not rest on the agent. -/
theorem aliasAccess : Obligations.AliasAccess := by
  intro s ag o n p v hn hb
  have hz := sizeOk_of_aligned hn
  refine ⟨fun hs hk => ?_, fun m hw ha hm => ?_, fun b => mgmtRead_value_agent s.dev ag b o n⟩
  · have hwrite := mgmtCheck_of_aliasRefused (d := s.dev) hz hb hs hk v
    exact ⟨_, exec_registerWrite_of_ignored hwrite, onlyMmErr_mmErr .., isSet_mmErr _ _ _ _ (by decide)⟩
  · exact exec_registerWrite_of_reg (mgmtCheck_of_site hz hb hw ha hm v)

end Sys2Proof.Machine
end

section
/-!
SUPPORT. The integer operations of spec/04 R87 in two readings: the model's, on the integers that registers stand for, and the
statements', on words of 32 or 64 bits.
-/
namespace Sys2Proof.Machine

/-! ### Words of `n` bits and the integers they stand for -/

/-- The signed value of the low `n` bits is that of the `n`-bit word. -/
theorem sgn_eq_toInt (n x : Nat) : sgn n x = (BitVec.ofNat n x).toInt := by
  rw [BitVec.toInt_eq_msb_cond, BitVec.msb_eq_getLsbD_last, BitVec.getLsbD, BitVec.toNat_ofNat]
  rcases n with _ | n
  · simp [sgn, Nat.mod_one]
  · simp [sgn]

/-- The low `n` bits of an integer are those of the `n`-bit word. -/
theorem wrap_eq_toNat (n : Nat) (i : Int) : wrap n i = (BitVec.ofInt n i).toNat := (BitVec.toNat_ofInt i).symm

theorem sext64_eq_signExtend (n x : Nat) : sext64 n x = (BitVec.ofNat n x).signExtend 64 := by
  rw [sext64, sgn_eq_toInt, BitVec.signExtend]

theorem sval_eq_toInt (n : Nat) (a : Word) : sval n a = (a.setWidth n).toInt := by
  rw [sval, sgn_eq_toInt, BitVec.ofNat_toNat]

/-- A result is the `n`-bit word of its integer, sign-extended (R87). -/
theorem wres_eq_signExtend (n : Nat) (i : Int) : wres n i = (BitVec.ofInt n i).signExtend 64 := by
  unfold wres
  split
  · next h => rw [h, BitVec.signExtend_eq]
  · rw [sext64_eq_signExtend, wrap_eq_toNat, BitVec.ofNat_toNat, BitVec.setWidth_eq]

/-- The immediate of forms I and M, as a word (R85). -/
theorem ofInt_fIMM12 (w : Syllable) : BitVec.ofInt 64 (fIMM12 w) = (BitVec.ofNat 12 (fld w 0 12)).signExtend 64 := by
  rw [fIMM12, sgn_eq_toInt, BitVec.signExtend]

/-- The width that an operation computes on (R87). -/
def opWidth (w32 : Bool) : Nat := if w32 then 32 else 64

/-- The part of a register that an operation reads (R87). -/
def operand (w32 : Bool) (a : Word) : BitVec (opWidth w32) := a.setWidth (opWidth w32)

theorem sval_eq_operand (w32 : Bool) (a : Word) : sval (if w32 then 32 else 64) a = (operand w32 a).toInt := sval_eq_toInt _ a

theorem mod_eq_operand (w32 : Bool) (a : Word) : a.toNat % 2 ^ (if w32 then 32 else 64) = (operand w32 a).toNat := by
  rw [operand, BitVec.toNat_setWidth, opWidth]

/-- A shift amount lies in the low bits of the operand's part. -/
theorem mod_width_eq_operand (w32 : Bool) (b : Word) : b.toNat % (if w32 then 32 else 64) = (operand w32 b).toNat % opWidth w32 := by
  cases w32
  · simp [operand, opWidth]
  · simp [operand, opWidth]

/-- An operation on the part that is read, sign-extended, is the operation on whole words or its W variant (R87). -/
theorem signExtend_operand (f : ∀ {n : Nat}, BitVec n → BitVec n → BitVec n) (w32 : Bool) (a b : Word) :
    (f (operand w32 a) (operand w32 b)).signExtend 64 =
      if w32 then (f (a.setWidth 32) (b.setWidth 32)).signExtend 64 else f a b := by
  cases w32
  · show (f (a.setWidth 64) (b.setWidth 64)).signExtend 64 = f a b
    rw [BitVec.signExtend_eq, BitVec.setWidth_eq, BitVec.setWidth_eq]
  · rfl

theorem intResult_eq_operand (op : Nat) (w32 : Bool) (a b : Word) :
    intResult op w32 a b = (intSpec op (operand w32 a) (operand w32 b)).signExtend 64 :=
  (signExtend_operand (intSpec op) w32 a b).symm

/-! ### Each operation on integers against the operation on words -/

/-- A power of two is the same number in both types. -/
theorem natCast_two_pow (k : Nat) : ((2 ^ k : Nat) : Int) = 2 ^ k := Int.natCast_pow 2 k

section
variable {n : Nat} (x y : BitVec n)

theorem ofInt_add_toInt : BitVec.ofInt n (x.toInt + y.toInt) = x + y := by
  rw [BitVec.ofInt_add, BitVec.ofInt_toInt, BitVec.ofInt_toInt]

theorem ofInt_sub_toInt : BitVec.ofInt n (x.toInt - y.toInt) = x - y := by
  rw [Int.sub_eq_add_neg, BitVec.ofInt_add, BitVec.ofInt_neg, BitVec.ofInt_toInt, BitVec.ofInt_toInt, BitVec.sub_eq_add_neg]

theorem ofInt_mul_toInt : BitVec.ofInt n (x.toInt * y.toInt) = x * y := by
  rw [BitVec.ofInt_mul, BitVec.ofInt_toInt, BitVec.ofInt_toInt]

theorem ofInt_toNat : BitVec.ofInt n x.toNat = x := by
  rw [BitVec.ofInt_natCast, BitVec.ofNat_toNat, BitVec.setWidth_eq]

theorem ofInt_and_toNat : BitVec.ofInt n (x.toNat &&& y.toNat : Nat) = x &&& y := by
  rw [← BitVec.toNat_and, ofInt_toNat]

theorem ofInt_or_toNat : BitVec.ofInt n (x.toNat ||| y.toNat : Nat) = x ||| y := by
  rw [← BitVec.toNat_or, ofInt_toNat]

theorem ofInt_xor_toNat : BitVec.ofInt n (x.toNat ^^^ y.toNat : Nat) = x ^^^ y := by
  rw [← BitVec.toNat_xor, ofInt_toNat]

theorem ofInt_andNot_toNat : BitVec.ofInt n (x.toNat &&& (y.toNat ^^^ ones n) : Nat) = x &&& ~~~y := by
  rw [ones, ← BitVec.toNat_allOnes, ← BitVec.toNat_xor, BitVec.xor_allOnes, ofInt_and_toNat]

theorem ofInt_shiftLeft_toNat (k : Nat) : BitVec.ofInt n (x.toNat <<< k : Nat) = x <<< k := by
  rw [BitVec.ofInt_natCast]
  exact BitVec.eq_of_toNat_eq (by rw [BitVec.toNat_ofNat, BitVec.toNat_shiftLeft])

theorem ofInt_shiftRight_toNat (k : Nat) : BitVec.ofInt n (x.toNat >>> k : Nat) = x >>> k := by
  rw [← BitVec.toNat_ushiftRight, ofInt_toNat]

theorem ofInt_div_toInt (k : Nat) : BitVec.ofInt n (x.toInt / 2 ^ k) = x.sshiftRight k := by
  rw [BitVec.sshiftRight_eq, Int.shiftRight_eq_div_pow, natCast_two_pow]

theorem ofInt_rotate_toNat (k : Nat) :
    BitVec.ofInt n (x.toNat >>> (k % n) ||| x.toNat <<< (n - k % n) : Nat) = x.rotateRight (k % n) := by
  rw [BitVec.rotateRight_def, Nat.mod_mod, BitVec.ofInt_natCast, BitVec.ofNat_or, ← BitVec.ofInt_natCast, ← BitVec.ofInt_natCast,
    ofInt_shiftRight_toNat, ofInt_shiftLeft_toNat]

theorem ofInt_min_toInt : BitVec.ofInt n (min x.toInt y.toInt) = if x.slt y then x else y := by
  have hdef : min x.toInt y.toInt = if x.toInt < y.toInt then x.toInt else y.toInt := by split <;> omega
  rw [hdef, apply_ite (BitVec.ofInt n), BitVec.ofInt_toInt, BitVec.ofInt_toInt]
  simp only [BitVec.slt_eq_decide, decide_eq_true_eq]

theorem ofInt_max_toInt : BitVec.ofInt n (max x.toInt y.toInt) = if x.slt y then y else x := by
  have hdef : max x.toInt y.toInt = if x.toInt < y.toInt then y.toInt else x.toInt := by split <;> omega
  rw [hdef, apply_ite (BitVec.ofInt n), BitVec.ofInt_toInt, BitVec.ofInt_toInt]
  simp only [BitVec.slt_eq_decide, decide_eq_true_eq]

theorem ofInt_min_toNat : BitVec.ofInt n (min x.toNat y.toNat : Nat) = if x.ult y then x else y := by
  have hdef : min x.toNat y.toNat = if x.toNat < y.toNat then x.toNat else y.toNat := by split <;> omega
  rw [hdef, apply_ite (fun k : Nat => BitVec.ofInt n k), ofInt_toNat, ofInt_toNat]
  simp only [BitVec.ult_eq_decide, decide_eq_true_eq]

theorem ofInt_max_toNat : BitVec.ofInt n (max x.toNat y.toNat : Nat) = if x.ult y then y else x := by
  have hdef : max x.toNat y.toNat = if x.toNat < y.toNat then y.toNat else x.toNat := by split <;> omega
  rw [hdef, apply_ite (fun k : Nat => BitVec.ofInt n k), ofInt_toNat, ofInt_toNat]
  simp only [BitVec.ult_eq_decide, decide_eq_true_eq]

end

/-! ### Counts -/

/-- The length of a list's front on which `p` holds, from the place where `p` first fails. -/
theorem length_takeWhile_range {n m : Nat} {p : Nat → Bool} (hm : m ≤ n) (hfront : ∀ i < m, p i = true)
    (hstop : m < n → p m = false) : ((List.range n).takeWhile p).length = m := by
  obtain ⟨k, rfl⟩ := Nat.exists_eq_add_of_le hm
  rw [List.range_add, List.takeWhile_append_of_pos (by simpa using hfront), List.length_append, List.length_range]
  rcases k with _ | k
  · simp
  · simp [List.range_succ_eq_map, hstop (by omega)]

/-- A number's bits below its length end with a set one. -/
theorem bitLen_spec (x : Nat) : (∀ i, bitLen x ≤ i → x.testBit i = false) ∧ (0 < bitLen x → x.testBit (bitLen x - 1) = true) := by
  unfold bitLen
  split
  · next h => simp [h]
  · next h =>
    refine ⟨fun i hi => Nat.testBit_lt_two_pow ((Nat.log2_lt h).mp (by omega)), fun _ => ?_⟩
    simpa using Nat.testBit_log2 h

theorem bitLen_le {n x : Nat} (hx : x < 2 ^ n) : bitLen x ≤ n := by
  unfold bitLen
  split
  · omega
  · next h => exact (Nat.log2_lt h).mpr hx

/-- CLZ counts the clear bits from the top (R87). -/
theorem clzN_eq_takeWhile {n : Nat} (x : BitVec n) :
    clzN n x.toNat = ((List.range n).takeWhile (fun i => !x.getMsbD i)).length := by
  obtain ⟨habove, htop⟩ := bitLen_spec x.toNat
  have hlen := bitLen_le x.isLt
  rw [clzN, Nat.mod_eq_of_lt x.isLt]
  refine (length_takeWhile_range (by omega) (fun i hi => ?_) fun hlt => ?_).symm
  · have := habove (n - 1 - i) (by omega)
    simp [BitVec.getMsbD, BitVec.getLsbD, this]
  · have := htop (by omega)
    have e : n - 1 - (n - bitLen x.toNat) = bitLen x.toNat - 1 := by omega
    simp [BitVec.getMsbD, BitVec.getLsbD, e, this, hlt]

/-- CTZ counts the clear bits from the bottom (R87). -/
theorem ctzN_eq_takeWhile {n : Nat} (x : BitVec n) :
    ctzN n x.toNat = ((List.range n).takeWhile (fun i => !x.getLsbD i)).length := by
  rw [ctzN, lowBit, findUpto]
  cases h : (List.range n).find? (fun i => x.toNat.testBit i) with
  | none =>
    exact (length_takeWhile_range (Nat.le_refl n) (List.find?_range_eq_none.mp h) (fun hn => absurd hn (Nat.lt_irrefl n))).symm
  | some m =>
    obtain ⟨hset, hmem, hclear⟩ := List.find?_range_eq_some.mp h
    refine (length_takeWhile_range (Nat.le_of_lt (List.mem_range.mp hmem)) hclear fun _ => ?_).symm
    simpa [BitVec.getLsbD] using hset

/-- CPOP counts the set bits. -/
theorem popc_eq_countP {n : Nat} (x : BitVec n) : popc n x.toNat = (List.range n).countP (fun i => x.getLsbD i) :=
  List.countP_eq_length_filter.symm

/-- A compare's result, 1 or 0, is the same in both widths. -/
theorem bool_eq_signExtend (w32 c : Bool) :
    (if c then 1 else 0 : Word) = (if c then 1 else 0 : BitVec (opWidth w32)).signExtend 64 := by
  revert w32 c
  decide

theorem beq_toNat {n : Nat} (x y : BitVec n) : (x.toNat == y.toNat) = (x == y) := by
  rw [Bool.eq_iff_iff, beq_iff_eq, beq_iff_eq, BitVec.toNat_inj]

/-- The ALU's result is that of the operation on words (R87). -/
theorem aluCompute_eq_intResult (op : Nat) (hop : op ≤ 0x15) (w32 : Bool) (a b : Word) :
    (aluCompute op w32 a b).1 = intResult op w32 a b := by
  rw [intResult_eq_operand]
  unfold aluCompute
  simp only [sval_eq_operand, mod_eq_operand, mod_width_eq_operand, wres_eq_signExtend]
  generalize operand w32 a = x
  generalize operand w32 b = y
  match op, hop with
  | 0x00, _ => exact congrArg (BitVec.signExtend 64) (ofInt_add_toInt x y)
  | 0x01, _ => exact congrArg (BitVec.signExtend 64) (ofInt_sub_toInt x y)
  | 0x02, _ => exact congrArg (BitVec.signExtend 64) (ofInt_and_toNat x y)
  | 0x03, _ => exact congrArg (BitVec.signExtend 64) (ofInt_or_toNat x y)
  | 0x04, _ => exact congrArg (BitVec.signExtend 64) (ofInt_xor_toNat x y)
  | 0x05, _ => exact congrArg (BitVec.signExtend 64) (ofInt_andNot_toNat x y)
  | 0x06, _ => exact congrArg (BitVec.signExtend 64) (ofInt_shiftLeft_toNat x _)
  | 0x07, _ => exact congrArg (BitVec.signExtend 64) (ofInt_shiftRight_toNat x _)
  | 0x08, _ => exact congrArg (BitVec.signExtend 64) (ofInt_div_toInt x _)
  | 0x09, _ => exact congrArg (BitVec.signExtend 64) (ofInt_rotate_toNat x _)
  | 0x0A, _ => exact beq_toNat x y ▸ bool_eq_signExtend w32 _
  | 0x0B, _ => exact bool_eq_signExtend w32 _
  | 0x0C, _ => exact bool_eq_signExtend w32 _
  | 0x0D, _ => exact congrArg (BitVec.signExtend 64) (ofInt_min_toInt x y)
  | 0x0E, _ => exact congrArg (BitVec.signExtend 64) (ofInt_max_toInt x y)
  | 0x0F, _ => exact congrArg (BitVec.signExtend 64) (ofInt_min_toNat x y)
  | 0x10, _ => exact congrArg (BitVec.signExtend 64) (ofInt_max_toNat x y)
  | 0x11, _ => exact congrArg (BitVec.signExtend 64) (ofInt_add_toInt x y)
  | 0x12, _ => exact congrArg (BitVec.signExtend 64) (ofInt_sub_toInt x y)
  | 0x13, _ => exact congrArg (BitVec.signExtend 64) ((BitVec.ofInt_natCast _ _).trans (congrArg _ (clzN_eq_takeWhile x)))
  | 0x14, _ => exact congrArg (BitVec.signExtend 64) ((BitVec.ofInt_natCast _ _).trans (congrArg _ (ctzN_eq_takeWhile x)))
  | 0x15, _ => exact congrArg (BitVec.signExtend 64) ((BitVec.ofInt_natCast _ _).trans (congrArg _ (popc_eq_countP x)))
  | op + 0x16, h => omega

end Sys2Proof.Machine
end

section
/-!
PROOF. The scalar results of spec/04: the integer operations (R87), the halves of the product (R89) and FCLASS (R98), from which
the statements O42, O43 and O45.
-/
namespace Sys2Proof.Machine

/-! ### The commands on a ready syllable -/

section
variable {s : State} {l c slot : Nat} {b : WB} {y : Syl}

/-- A syllable that completes with a result for its register has that effect and nothing else differs (R60). -/
theorem doneReg_eq_withSyl {d : Dev} {op : Op} {p : SylSt → Bool} (h : sylFor d l c slot op p = some (b, y)) (w : Syllable) (v : Word) :
    doneReg d l c slot w v = withSyl d l c slot b y .done [.sreg (fRD w) v] :=
  setSyl_eq h rfl _ _

theorem exec_alu_of_ready (h : sylFor s.dev l c slot .alu isReady = some (b, y)) :
    exec (.alu l c slot) s = .next (s.withDev (withSyl s.dev l c slot b y .done
      [.sreg (fRD y.word) (aluResult (getCtx s.dev l c) y.word)])) := by
  rw [← doneReg_eq_withSyl h]
  exact congrArg (fun d => Host.Outcome.next (s.withDev d)) (onSyl_some h _)

theorem exec_mul_of_ready (h : sylFor s.dev l c 0 .mul isReady = some (b, y)) :
    exec (.mul l c) s = .next (s.withDev (withSyl s.dev l c 0 b y .done
      [.sreg (fRD y.word) (mulCompute (fOP y.word) (fW y.word)
        (sread (getCtx s.dev l c) (fRA y.word)) (sread (getCtx s.dev l c) (fRB y.word))).1])) := by
  rw [← doneReg_eq_withSyl h]
  exact congrArg (fun d => Host.Outcome.next (s.withDev d)) (onSyl_some h _)

theorem exec_fclass_of_ready (h : sylFor s.dev l c 0 .fclass isReady = some (b, y)) :
    exec (.fclass l c) s = .next (s.withDev
      (finishFloat s.dev l c b.md y.word (floatResult b.md (getCtx s.dev l c) y.word))) :=
  congrArg (fun d => Host.Outcome.next (s.withDev d)) (onSyl_some h _)

end

theorem aluResult_of_register {w : Syllable} (hm : majorOf w = 0x00) (hop : fOP w ≤ 0x15) (x : Ctx) :
    aluResult x w = intResult (fOP w) (fW w) (sread x (fRA w)) (sread x (fRB w)) := by
  rw [← aluCompute_eq_intResult _ hop]
  simp only [aluResult, hm, if_true]

/-- The immediate forms, in the order of R86. -/
theorem aluResult_of_immediate {w : Syllable} (hlo : 1 ≤ majorOf w) (hhi : majorOf w ≤ 10) (x : Ctx) :
    aluResult x w = intSpec (immAlu (majorOf w - 1)) (sread x (fRA w)) ((BitVec.ofNat 12 (fld w 0 12)).signExtend 64) := by
  have himm : ∀ k < 10, immAlu k ≤ 0x15 := by decide
  have hop := himm (majorOf w - 1) (by omega)
  rw [← ofInt_fIMM12]
  refine Eq.trans ?_ (aluCompute_eq_intResult _ hop false _ _)
  simp only [aluResult, if_neg (show majorOf w ≠ 0x00 by omega), if_pos hhi]

/-! ### Products -/

/-- The upper of an integer's two lowest digits, in base `a`. -/
theorem upperDigit_toNat (i : Int) {a : Nat} (ha : 0 < a) : (i % (a * a : Nat)).toNat / a % a = (i / a % a).toNat := by
  have hpos : (0 : Int) < a := Int.natCast_pos.mpr ha
  have hsq : ((a * a : Nat) : Int) ≠ 0 := Int.natCast_ne_zero.mpr (Nat.mul_ne_zero (Nat.ne_of_gt ha) (Nat.ne_of_gt ha))
  apply Int.ofNat_inj.mp
  rw [Int.natCast_emod, Int.natCast_ediv, Int.toNat_of_nonneg (Int.emod_nonneg _ hsq),
    Int.toNat_of_nonneg (Int.emod_nonneg _ (Int.ne_of_gt hpos)), Int.natCast_mul, Int.emod_def i, Int.mul_assoc,
    Int.sub_mul_ediv_left _ _ (Int.ne_of_gt hpos), Int.sub_mul_emod_self_left]

/-- Bits [2n - 1 : n] of an integer's double word. -/
theorem extractLsb'_ofInt {n m : Nat} (hm : m = n + n) (i : Int) :
    (BitVec.ofInt m i).extractLsb' n n = BitVec.ofInt n (i / 2 ^ n) := by
  subst hm
  apply BitVec.eq_of_toNat_eq
  rw [BitVec.extractLsb'_toNat, BitVec.toNat_ofInt, BitVec.toNat_ofInt, Nat.shiftRight_eq_div_pow]
  rw [← natCast_two_pow, Nat.pow_add, upperDigit_toNat i (Nat.two_pow_pos n)]

/-- The high half of the signed product (R89). -/
theorem ofInt_mulHigh_toInt {n m : Nat} (hm : m = n + n) (x y : BitVec n) :
    BitVec.ofInt n (x.toInt * y.toInt / 2 ^ n) = (x.signExtend m * y.signExtend m).extractLsb' n n := by
  rw [← extractLsb'_ofInt hm, BitVec.ofInt_mul, BitVec.signExtend, BitVec.signExtend]

/-- The high half of the unsigned product (R89). -/
theorem ofInt_mulHigh_toNat {n m : Nat} (hm : m = n + n) (x y : BitVec n) :
    BitVec.ofInt n (x.toNat * y.toNat / 2 ^ n : Nat) = (x.setWidth m * y.setWidth m).extractLsb' n n := by
  rw [← BitVec.ofNat_toNat m x, ← BitVec.ofNat_toNat m y, ← BitVec.ofInt_natCast, ← BitVec.ofInt_natCast, ← BitVec.ofInt_mul,
    extractLsb'_ofInt hm]
  push_cast
  rfl

/-- MUL, MULH and MULHU on words of `n` bits (R89): the low half of the product, bits [2n - 1 : n] of the signed one, and those of
the unsigned one. -/
def mulSpec {n : Nat} (op : Nat) (x y : BitVec n) : BitVec n :=
  if op = 0 then x * y
  else if op = 1 then (x.signExtend (n + n) * y.signExtend (n + n)).extractLsb' n n
  else (x.setWidth (n + n) * y.setWidth (n + n)).extractLsb' n n

theorem mulCompute_eq_mulSpec (op : Nat) (hop : op ≤ 2) (w32 : Bool) (a b : Word) :
    (mulCompute op w32 a b).1 = (mulSpec op (operand w32 a) (operand w32 b)).signExtend 64 := by
  unfold mulCompute
  simp only [sval_eq_operand, mod_eq_operand, wres_eq_signExtend]
  match op, hop with
  | 0, _ => exact congrArg (BitVec.signExtend 64) (ofInt_mul_toInt _ _)
  | 1, _ => exact congrArg (BitVec.signExtend 64) (ofInt_mulHigh_toInt rfl _ _)
  | 2, _ => exact congrArg (BitVec.signExtend 64) (ofInt_mulHigh_toNat rfl _ _)
  | op + 3, h => omega

/-- Settles O43: each of the three results is the word of an integer product or of its upper part. -/
theorem multiplyHalves : Obligations.MultiplyHalves := by
  intro s l c b y h p q u v r hop
  rw [exec_mul_of_ready h, mulCompute_eq_mulSpec _ hop, signExtend_operand (mulSpec (fOP y.word))]
  simp only [mulSpec, apply_ite (BitVec.signExtend 64), r, u, v, p, q]

/-! ### Division -/

/-- The W variant of a division, with or without a quotient, gives a result of 32 bits. -/
theorem divCompute_W_eq_wres (op : Nat) (a b : Word) : ∃ i, (divCompute op true a b).1 = wres 32 i := by
  have hzero : (0 : Word) = wres 32 0 := by decide
  unfold divCompute
  simp only [if_true, hzero, ← apply_ite (wres 32)]
  split
  · exact ⟨_, rfl⟩
  · split
    · exact ⟨_, rfl⟩
    · split <;> exact ⟨_, rfl⟩

/-- A result of 32 bits is its low half sign-extended (R87). -/
theorem wres_eq_low_half (i : Int) : wres 32 i = ((wres 32 i).setWidth 32).signExtend 64 := by
  rw [wres_eq_signExtend, ← BitVec.signExtend_eq_setWidth_of_le (v := 32) _ (by decide)]
  generalize BitVec.ofInt 32 i = x
  have hlow : (x.signExtend 64).signExtend 32 = x := by
    rw [BitVec.signExtend, BitVec.toInt_signExtend_of_le (by decide), BitVec.ofInt_toInt]
  rw [hlow]

/-- Settles O42: the model's results on integers are those of the operations on words, in the width that the variant computes on. -/
theorem integerResults : Obligations.IntegerResults := by
  refine ⟨fun s l c slot b y h => ⟨fun hm hop => ?_, ?_⟩, fun s l c b y h hop => ?_, fun op a b => ?_⟩
  · rw [exec_alu_of_ready h, aluResult_of_register hm hop]
  · rintro k hlo hhi rfl
    rw [exec_alu_of_ready h, aluResult_of_immediate hlo hhi]
    rfl
  · rw [exec_mul_of_ready h, hop, mulCompute_eq_mulSpec 0 (by decide), signExtend_operand (mulSpec 0)]
    simp only [mulSpec, if_true, BitVec.setWidth_mul _ _ (show 32 ≤ 64 by decide)]
  · obtain ⟨i, hi⟩ := divCompute_W_eq_wres op a b
    rw [hi]
    exact wres_eq_low_half i

/-! ### FCLASS -/

section
variable {f : FFmt} {x : Nat} (hsp : f.sp = .ieee)
include hsp

/-- The top exponent stands for infinities and NaNs (R168). -/
theorem decodeF_of_top (htop : bitsOf x f.fb f.eb = 2 ^ f.eb - 1) :
    decodeF f x = if bitsOf x 0 f.fb = 0 then .inf (x.testBit (f.eb + f.fb))
      else .nan (!(bitsOf x 0 f.fb).testBit (f.fb - 1)) := by
  simp only [decodeF, hsp, beq_iff_eq.mpr htop]

/-- Every other exponent stands for a finite number (R167). -/
theorem decodeF_of_not_top (htop : bitsOf x f.fb f.eb ≠ 2 ^ f.eb - 1) :
    decodeF f x = if bitsOf x f.fb f.eb = 0 then .fin (x.testBit (f.eb + f.fb)) (bitsOf x 0 f.fb) f.qmin
      else .fin (x.testBit (f.eb + f.fb)) (2 ^ f.fb + bitsOf x 0 f.fb)
        ((bitsOf x f.fb f.eb : Int) - (f.bias : Int) - (f.fb : Int)) := by
  simp only [decodeF, hsp, beq_eq_false_iff_ne.mpr htop]

end

/-- A number's top bit is clear when the number lies in the lower half of its range. -/
theorem testBit_top_eq_false_iff {w n : Nat} (hw : 0 < w) (hn : n < 2 ^ w) : n.testBit (w - 1) = false ↔ n < 2 ^ (w - 1) := by
  have hpos := Nat.two_pow_pos (w - 1)
  have htwo : n / 2 ^ (w - 1) < 2 := by
    rw [Nat.div_lt_iff_lt_mul hpos, ← Nat.pow_succ', Nat.succ_eq_add_one, Nat.sub_add_cancel hw]
    exact hn
  rw [Nat.testBit_eq_decide_div_mod_eq, Nat.mod_eq_of_lt htwo, decide_eq_false_iff_not, ← Nat.div_eq_zero_iff_lt hpos]
  generalize n / 2 ^ (w - 1) = q at htwo ⊢
  omega

/-- The class code of an encoding is that of the value it stands for (R98). -/
theorem classF_eq_classSpec {f : FFmt} (hsp : f.sp = .ieee) (he : 0 < f.eb) (hf : 0 < f.fb) (x : Nat) :
    classF f x = classSpec f.eb f.fb x := by
  have hex : x / 2 ^ f.fb % 2 ^ f.eb = bitsOf x f.fb f.eb := by rw [bitsOf, Nat.shiftRight_eq_div_pow]
  have hfr : x % 2 ^ f.fb = bitsOf x 0 f.fb := rfl
  have hsign : (x / 2 ^ (f.eb + f.fb) % 2 = 1) = (x.testBit (f.eb + f.fb) = true) := by
    rw [Nat.testBit_eq_decide_div_mod_eq, decide_eq_true_eq]
  have htopPos : 2 ^ f.eb - 1 ≠ 0 := by
    have := Nat.one_lt_two_pow (Nat.ne_of_gt he)
    omega
  have hquiet := testBit_top_eq_false_iff hf (Nat.mod_lt x (Nat.two_pow_pos f.fb))
  rw [hfr] at hquiet
  simp only [classF, classSpec, hex, hfr, hsign]
  by_cases htop : bitsOf x f.fb f.eb = 2 ^ f.eb - 1
  · rw [decodeF_of_top hsp htop]
    by_cases hfrac : bitsOf x 0 f.fb = 0
    · simp [hfrac, htop, htopPos]
    · simp [hfrac, htop, htopPos, hquiet]
  · rw [decodeF_of_not_top hsp htop]
    by_cases hexp : bitsOf x f.fb f.eb = 0
    · simp [hexp, htopPos.symm]
    · simp [hexp, htop]

/-- The format of an FMT field, by its exponent and fraction bits (R85). -/
theorem fmtOfField_spec {k e f : Nat} (h : k = 0 ∧ e = 5 ∧ f = 10 ∨ k = 1 ∧ e = 8 ∧ f = 23 ∨ k = 2 ∧ e = 11 ∧ f = 52) :
    (fmtOfField k).sp = .ieee ∧ (fmtOfField k).eb = e ∧ (fmtOfField k).fb = f := by
  rcases h with ⟨rfl, rfl, rfl⟩ | ⟨rfl, rfl, rfl⟩ | ⟨rfl, rfl, rfl⟩ <;> decide

/-- FCLASS gives the class code and no flag (R98). -/
theorem floatResult_of_fclass {w : Syllable} (hm : majorOf w = 0x27) (hfn : fFN w = 1) (md : Modes) (x : Ctx) :
    floatResult md x w =
      (BitVec.ofNat 64 (classF (fmtOfField (fFMT w)) ((sread x (fRA w)).toNat % 2 ^ (fmtOfField (fFMT w)).width)), 0) := by
  simp [floatResult, fCompute, hm, hfn]

/-- A floating-point result without a flag traps under no mode (R100). -/
theorem finishFloat_of_noFlag {d : Dev} {l c : Nat} {op : Op} {p : SylSt → Bool} {b : WB} {y : Syl}
    (h : sylFor d l c 0 op p = some (b, y)) (md : Modes) (w : Syllable) (r : Word) :
    finishFloat d l c md w (r, 0) = withSyl d l c 0 b y .done [.sreg (fRD w) r, .fflags 0] :=
  (if_neg (by simp)).trans (setSyl_eq h rfl _ _)

/-- Settles O45: a binary format's encoding has the class of its value, and no flag means no trap. -/
theorem fclassResult : Obligations.FclassResult := by
  intro s l c b y h hm hfn e f hfmt
  obtain ⟨hsp, rfl, rfl⟩ := fmtOfField_spec hfmt
  rw [exec_fclass_of_ready h, floatResult_of_fclass hm hfn, finishFloat_of_noFlag h,
    classF_eq_classSpec hsp (by omega) (by omega)]
  rfl

end Sys2Proof.Machine
end

section
/-!
PROOF. The two encodings of the statements that round trip: a message in its flits (spec/17 R378, R380, R381) and a ledger record in
its slot (spec/21 R460), from which the statements O50 and O51.
-/
namespace Sys2Proof.Machine

/-! ### CRC-32C as a word of 32 bits (R378) -/

theorem crcByte_lt {c b : Nat} (hc : c < 2 ^ 32) (hb : b < 2 ^ 32) : crcByte c b < 2 ^ 32 := by
  refine List.foldlRecOn (motive := fun x => x < 2 ^ 32) _ _ (Nat.xor_lt_two_pow hc hb) fun x hx _ _ => ?_
  have hshift : x >>> 1 < 2 ^ 32 := by
    rw [Nat.shiftRight_eq_div_pow]
    omega
  split
  · exact Nat.xor_lt_two_pow hshift (by decide)
  · exact hshift

theorem crc32c_lt (bs : List Byte) : crc32c bs < 2 ^ 32 := by
  refine Nat.xor_lt_two_pow ?_ (by decide)
  refine List.foldlRecOn (motive := fun x => x < 2 ^ 32) _ _ (by decide) fun x hx b _ => ?_
  exact crcByte_lt hx (by omega)

/-- Four bytes spell a CRC. -/
theorem ofBytes_crc32c (bs : List Byte) : ofBytes (toBytes 4 (crc32c bs)) = crc32c bs := by
  rw [ofBytes_toBytes]
  exact Nat.mod_eq_of_lt (crc32c_lt bs)

/-! ### Flits (R378, R380) -/

theorem length_flitCut (k : Nat) (bs : List Byte) : (flitCut k bs).length = k := by
  induction k generalizing bs with
  | zero => rfl
  | succ k ih => simp [flitCut, ih]

theorem length_of_mem_flitCut {k : Nat} {bs f : List Byte} (h : f ∈ flitCut k bs) : f.length = 56 := by
  induction k generalizing bs with
  | zero => simp [flitCut] at h
  | succ k ih =>
    rcases List.mem_cons.mp h with rfl | h
    · simp only [List.length_append, List.length_take, List.length_replicate]
      omega
    · exact ih h

/-- Flits side by side hold the bytes cut, and zeros to the end of the last. -/
theorem flatten_flitCut {k : Nat} {bs : List Byte} (h : bs.length ≤ 56 * k) :
    (flitCut k bs).flatten = bs ++ List.replicate (56 * k - bs.length) 0 := by
  induction k generalizing bs with
  | zero =>
    rw [List.eq_nil_of_length_eq_zero (by omega : bs.length = 0)]
    rfl
  | succ k ih =>
    have hrest : (bs.drop 56).length ≤ 56 * k := by
      rw [List.length_drop]
      omega
    rw [flitCut, List.flatten_cons, ih hrest, List.length_drop]
    by_cases hlen : 56 ≤ bs.length
    · rw [Nat.sub_eq_zero_of_le hlen, List.replicate_zero, List.append_nil, ← List.append_assoc, List.take_append_drop]
      congr 2
      omega
    · rw [List.take_of_length_le (by omega), List.drop_of_length_le (by omega), List.nil_append, List.append_assoc,
        List.replicate_append_replicate]
      congr 2
      omega

@[simp] theorem length_hdrBytes (m : Msg) : (hdrBytes m).length = 16 := length_toBytes ..

/-- A message's flits hold its header, its payload, and zeros. -/
theorem flatten_flitsOf (m : Msg) : ∃ n, (flitsOf m).flatten = hdrBytes m ++ (m.data ++ List.replicate n 0) := by
  refine ⟨_, (flatten_flitCut ?_).trans (List.append_assoc ..)⟩
  simp only [flitsFor, ceilDiv, List.length_append, length_hdrBytes]
  omega

/-! ### The header (R381) -/

/-- A message whose fields fit the header's. -/
structure Msg.Fits (m : Msg) : Prop where
  dst : m.dst < 2 ^ 14
  src : m.src < 2 ^ 14
  vc : m.vc < 8
  op : m.op < 64
  len : m.data.length < 4096
  tag : m.tag < 2 ^ 16
  hops : m.hops < 32
  cls : m.cls < 2
  addr : m.addr < 2 ^ 57

theorem hdrNat_lt (m : Msg) : hdrNat m < 256 ^ 16 := by
  unfold hdrNat
  omega

/-- The header read back by the fields of its table, the payload followed by whatever fills the last flit. -/
theorem msgOf_hdrNat {m : Msg} (h : m.Fits) (more : List Byte) : msgOf (hdrNat m) (m.data ++ more) = m := by
  obtain ⟨hdst, hsrc, hvc, hop, hlen, htag, hhops, hcls, haddr⟩ := h
  have hlenField : hdrLen (hdrNat m) = m.data.length := by
    simp only [hdrLen, bitsOf, hdrNat, Nat.shiftRight_eq_div_pow]
    omega
  unfold msgOf
  rw [hlenField, List.take_left]
  clear hlenField
  obtain ⟨vc, op, src, dst, tag, hops, cls, addr, data⟩ := m
  simp only [bitsOf, hdrNat, Nat.shiftRight_eq_div_pow, Msg.mk.injEq, and_true] at *
  omega

/-- Settles O50: the flits' content is the header, the payload and zeros; the header read back gives every field, LEN among them,
and LEN cuts the zeros off. -/
theorem messageRoundTrip : Obligations.MessageRoundTrip := by
  refine ⟨fun m hdst hsrc hvc hop hlen htag hhops hcls haddr => ⟨fun f => length_of_mem_flitCut, ?_, ?_⟩, fun f tr hf => ?_⟩
  · exact length_flitCut ..
  · obtain ⟨n, hn⟩ := flatten_flitsOf m
    rw [hn, List.take_left' (length_hdrBytes m), List.drop_left' (length_hdrBytes m), hdrBytes, ofBytes_toBytes,
      Nat.mod_eq_of_lt (hdrNat_lt m)]
    exact msgOf_hdrNat ⟨hdst, hsrc, hvc, hop, hlen, htag, hhops, hcls, haddr⟩ _
  · have hb : (f ++ toBytes 4 tr).length = 60 := by simp [hf]
    simp only [flitBytes]
    rw [List.drop_left' hb, List.take_left' hb, ofBytes_crc32c]
    exact ⟨by simp [hf], by rw [List.append_assoc, List.take_left' hf], rfl⟩

/-! ### A sparse table is given by what its keys read as -/

section
variable {α : Type}

theorem Tab.pairwise_of_rising {b : Option Nat} {t : Tab α} (h : Tab.rising b t = true) : t.Pairwise (fun e f => e.1 < f.1) := by
  induction t generalizing b with
  | nil => exact .nil
  | cons e t ih =>
    obtain ⟨j, v⟩ := e
    have hj : Tab.rising (some j) t = true := by
      cases b with
      | none => exact h
      | some n => exact (Bool.and_eq_true_iff.mp h).2
    exact .cons (Tab.rising_above (some j) t hj j rfl) (ih hj)

theorem Tab.mem_of_find? {t : Tab α} {k : Nat} {v : α} (h : Tab.find? t k = some v) : (k, v) ∈ t := by
  induction t with
  | nil => cases h
  | cons e t ih =>
    obtain ⟨j, w⟩ := e
    simp only [Tab.find?] at h
    split at h
    · cases h
      simp_all
    · exact List.mem_cons_of_mem _ (ih h)

theorem Tab.find?_of_mem {t : Tab α} (ht : t.Pairwise (fun e f => e.1 < f.1)) {k : Nat} {v : α} (h : (k, v) ∈ t) :
    Tab.find? t k = some v := by
  induction ht with
  | nil => cases h
  | @cons e t hlt _ ih =>
    obtain ⟨j, w⟩ := e
    rcases List.mem_cons.mp h with heq | hmem
    · cases heq
      exact if_pos rfl
    · exact (if_neg (Nat.ne_of_lt (hlt _ hmem))).trans (ih hmem)

/-- Rising tables that list the same are the same: their first entries have the least key of both. -/
theorem Tab.eq_of_mem_iff {t u : Tab α} (ht : t.Pairwise (fun e f => e.1 < f.1)) (hu : u.Pairwise (fun e f => e.1 < f.1))
    (h : ∀ e, e ∈ t ↔ e ∈ u) : t = u := by
  induction ht generalizing u with
  | nil => exact (List.eq_nil_iff_forall_not_mem.mpr fun e he => List.not_mem_nil ((h e).mpr he)).symm
  | @cons a t hat _ ih =>
    cases hu with
    | nil => exact absurd ((h a).mp List.mem_cons_self) List.not_mem_nil
    | @cons b u hbu hu =>
      obtain rfl : a = b := by
        rcases List.mem_cons.mp ((h a).mp List.mem_cons_self) with hab | hab
        · exact hab
        rcases List.mem_cons.mp ((h b).mpr List.mem_cons_self) with hba | hba
        · exact hba.symm
        · exact absurd (hbu a hab) (Nat.lt_asymm (hat b hba))
      refine congrArg (a :: ·) (ih hu fun e => ⟨fun he => ?_, fun he => ?_⟩)
      · rcases List.mem_cons.mp ((h e).mp (List.mem_cons_of_mem a he)) with rfl | hmem
        · exact absurd (hat e he) (Nat.lt_irrefl e.1)
        · exact hmem
      · rcases List.mem_cons.mp ((h e).mpr (List.mem_cons_of_mem a he)) with rfl | hmem
        · exact absurd (hbu e he) (Nat.lt_irrefl e.1)
        · exact hmem

/-- What holds of every value listed and of the default holds of what a key reads as. -/
theorem Tab.get_induction {p : α → Prop} {d : α} {t : Tab α} (hd : p d) (ht : ∀ e ∈ t, p e.2) (k : Nat) : p (Tab.get d t k) := by
  unfold Tab.get
  cases h : Tab.find? t k with
  | none => exact hd
  | some v => exact ht _ (Tab.mem_of_find? h)

variable [DecidableEq α]

/-- What a canonical table lists, told from what its keys read as. -/
theorem Tab.mem_iff_get {d : α} {t : Tab α} (h : Tab.wf d t = true) (e : Nat × α) :
    e ∈ t ↔ Tab.get d t e.1 = e.2 ∧ e.2 ≠ d := by
  simp only [Tab.wf, Bool.and_eq_true, List.all_eq_true, decide_eq_true_eq] at h
  obtain ⟨hrise, hdef⟩ := h
  refine ⟨fun he => ⟨?_, hdef e he⟩, fun ⟨hget, hne⟩ => ?_⟩
  · rw [Tab.get, Tab.find?_of_mem (Tab.pairwise_of_rising hrise) he, Option.getD_some]
  · unfold Tab.get at hget
    cases hfind : Tab.find? t e.1 with
    | none => exact absurd (hfind ▸ hget).symm hne
    | some v =>
      rw [hfind, Option.getD_some] at hget
      subst hget
      exact Tab.mem_of_find? hfind

/-- Canonical tables that read alike are the same table. -/
theorem Tab.eq_of_get {d : α} {t u : Tab α} (ht : Tab.wf d t = true) (hu : Tab.wf d u = true)
    (h : ∀ k, Tab.get d t k = Tab.get d u k) : t = u := by
  have rising {x : Tab α} (hx : Tab.wf d x = true) := Tab.pairwise_of_rising (Bool.and_eq_true_iff.mp hx).1
  refine Tab.eq_of_mem_iff (rising ht) (rising hu) fun e => ?_
  rw [Tab.mem_iff_get ht, Tab.mem_iff_get hu, h]

theorem Tab.get_foldl_set (d : α) (f : Nat → α) (n k : Nat) :
    Tab.get d ((List.range n).foldl (fun t i => Tab.set d t i (f i)) []) k = if k < n then f k else d := by
  induction n with
  | zero => rfl
  | succ n ih =>
    rw [List.range_succ, List.foldl_append, List.foldl_cons, List.foldl_nil]
    by_cases hk : k = n
    · rw [hk, Tab.get_set_same, if_pos (Nat.lt_succ_self n)]
    · rw [Tab.get_set_ne d _ _ hk, ih]
      exact ite_cond_congr (propext (by omega))

/-- A canonical table with keys below `n`, built again from what they read as. -/
theorem Tab.foldl_set_get {d : α} {t : Tab α} {n : Nat} (ht : Tab.wf d t = true) (hn : ∀ e ∈ t, e.1 < n) {f : Nat → α}
    (hf : ∀ k < n, f k = Tab.get d t k) : (List.range n).foldl (fun t i => Tab.set d t i (f i)) [] = t := by
  refine Tab.eq_of_get (Tab.wf_foldl_set d id f _ [] rfl) ht fun k => ?_
  rw [Tab.get_foldl_set]
  split
  · next hk => exact hf k hk
  · next hk =>
    have hnone : Tab.find? t k = none := by
      refine Option.eq_none_iff_forall_ne_some.mpr fun v hv => hk (hn _ (Tab.mem_of_find? hv))
    rw [Tab.get, hnone, Option.getD_none]

end

/-! ### Numbers at offsets of a byte string -/

theorem fieldAt_add (bs : List Byte) (a o n : Nat) : fieldAt bs (a + o) n = fieldAt (bs.drop a) o n := by
  rw [fieldAt, fieldAt, List.drop_drop]

theorem fieldAt_append_right {as bs : List Byte} {o : Nat} (h : as.length ≤ o) (n : Nat) :
    fieldAt (as ++ bs) o n = fieldAt bs (o - as.length) n := by
  simp only [fieldAt, List.drop_append, List.drop_of_length_le h, List.nil_append]

theorem fieldAt_toBytes_append (n v : Nat) (bs : List Byte) : fieldAt (toBytes n v ++ bs) 0 n = v % 256 ^ n := by
  rw [fieldAt, List.drop_zero, List.take_left' (length_toBytes n v), ofBytes_toBytes]

theorem drop_append_right {as bs : List Byte} {o : Nat} (h : as.length ≤ o) : (as ++ bs).drop o = bs.drop (o - as.length) := by
  rw [List.drop_append, List.drop_of_length_le h, List.nil_append]

/-- `k` entries side by side. -/
def entries (k : Nat) (g : Nat → List Byte) : List Byte := ((List.range k).map g).flatten

theorem entries_succ (k : Nat) (g : Nat → List Byte) : entries (k + 1) g = entries k g ++ g k := by
  simp [entries, List.range_succ]

section
variable {k n : Nat} {g : Nat → List Byte} (hg : ∀ i < k, (g i).length = n)
include hg

theorem length_entries : (entries k g).length = n * k := by
  induction k with
  | zero => rfl
  | succ k ih => rw [entries_succ, List.length_append, ih fun i hi => hg i (by omega), hg k (by omega), Nat.mul_succ]

/-- Entries of one size lie at the multiples of that size. -/
theorem take_drop_entries {i : Nat} (hi : i < k) (bs : List Byte) : ((entries k g ++ bs).drop (n * i)).take n = g i := by
  induction k generalizing bs with
  | zero => omega
  | succ k ih =>
    have hlen := length_entries (k := k) (g := g) (n := n) fun j hj => hg j (by omega)
    rw [entries_succ, List.append_assoc]
    rcases Nat.lt_or_eq_of_le (Nat.lt_succ_iff.mp hi) with hi | rfl
    · exact ih (fun j hj => hg j (by omega)) hi _
    · rw [List.drop_left' hlen, List.take_left' (hg i (by omega))]

end

theorem length_entries_toBytes (k n : Nat) (f : Nat → Nat) : (entries k (fun i => toBytes n (f i))).length = n * k :=
  length_entries fun _ _ => length_toBytes ..

theorem fieldAt_entries_toBytes {k i : Nat} (hi : i < k) (n : Nat) (f : Nat → Nat) (bs : List Byte) :
    fieldAt (entries k (fun i => toBytes n (f i)) ++ bs) (n * i) n = f i % 256 ^ n := by
  rw [fieldAt, take_drop_entries (fun _ _ => length_toBytes ..) hi, ofBytes_toBytes]

/-! ### The layout of a record (R460) -/

/-- The event table of a record. -/
def ledEvents (r : Led) : List Byte := entries 16 (fun i => Tab.get (toBytes 16 0) r.events i)

theorem ledBytes_append (r : Led) : ledBytes r =
    toBytes 4 0x5247444C ++ (toBytes 2 1 ++ (toBytes 2 0x0204 ++ (toBytes 4 r.seq ++ (toBytes 1 r.select ++ (toBytes 1 r.evhead ++
      (toBytes 2 0 ++ (toBytes 8 r.platFloor ++ (toBytes 8 r.fwFloor ++ (toBytes 8 r.sessCtr ++ (toBytes 2 r.fails ++
      (toBytes 2 (min 64 r.retired.length) ++ (toBytes 4 r.boots ++ (entries 5 (fun i => toBytes 4 (r.totals.getD i 0)) ++
      (toBytes 4 0 ++ (entries 64 (fun i => toBytes 2 (r.retired.getD i 0)) ++
      (entries 24 (fun k => toBytes 2 (Tab.get 0 r.chanmap k)) ++ (entries 4 (fun q => toBytes 2 (Tab.get 0 r.wayoff q)) ++
      (ledEvents r ++ toBytes 4 (crc32c (ledBody r)))))))))))))))))))) := by
  simp only [ledBytes, ledBody, entries, ledEvents, List.append_assoc]

theorem length_ledEvents {r : Led} (h : ∀ i < 16, (Tab.get (toBytes 16 0) r.events i).length = 16) : (ledEvents r).length = 256 :=
  length_entries h


theorem length_ledBody {r : Led} (h : ∀ i < 16, (Tab.get (toBytes 16 0) r.events i).length = 16) : (ledBody r).length = 0x200 := by
  have hlen := congrArg List.length (ledBytes_append r)
  simp only [ledBytes, List.length_append, length_toBytes, length_entries_toBytes, length_ledEvents h] at hlen
  omega

/-- The numbers of a record that stand alone. -/
theorem fieldAt_ledBytes (r : Led) :
    fieldAt (ledBytes r) 0 4 = 0x5247444C ∧ fieldAt (ledBytes r) 4 2 = 1 ∧ fieldAt (ledBytes r) 6 2 = 0x0204 ∧
    fieldAt (ledBytes r) 8 4 = r.seq % 2 ^ 32 ∧ fieldAt (ledBytes r) 0xC 1 = r.select % 2 ^ 8 ∧
    fieldAt (ledBytes r) 0xD 1 = r.evhead % 2 ^ 8 ∧ fieldAt (ledBytes r) 0x10 8 = r.platFloor % 2 ^ 64 ∧
    fieldAt (ledBytes r) 0x18 8 = r.fwFloor % 2 ^ 64 ∧ fieldAt (ledBytes r) 0x20 8 = r.sessCtr % 2 ^ 64 ∧
    fieldAt (ledBytes r) 0x28 2 = r.fails % 2 ^ 16 ∧ fieldAt (ledBytes r) 0x2A 2 = min 64 r.retired.length % 2 ^ 16 ∧
    fieldAt (ledBytes r) 0x2C 4 = r.boots % 2 ^ 32 := by
  simp only [ledBytes_append, fieldAt_append_right, fieldAt_toBytes_append, length_toBytes, Nat.reduceLeDiff, Nat.reduceSub,
    Nat.reducePow]
  trivial

theorem drop_ledBytes_totals (r : Led) : ∃ bs, (ledBytes r).drop 0x30 = entries 5 (fun i => toBytes 4 (r.totals.getD i 0)) ++ bs := by
  simp only [ledBytes_append, drop_append_right, length_toBytes, Nat.reduceLeDiff, Nat.reduceSub, List.drop_zero]
  exact ⟨_, rfl⟩

/-- The tables of a record, from the retired sites on. -/
theorem drop_ledBytes_retired (r : Led) : (ledBytes r).drop 0x48 = entries 64 (fun i => toBytes 2 (r.retired.getD i 0)) ++
    (entries 24 (fun k => toBytes 2 (Tab.get 0 r.chanmap k)) ++ (entries 4 (fun q => toBytes 2 (Tab.get 0 r.wayoff q)) ++
      (ledEvents r ++ toBytes 4 (crc32c (ledBody r))))) := by
  simp only [ledBytes_append, drop_append_right, length_toBytes, length_entries_toBytes, Nat.reduceMul, Nat.reduceLeDiff,
    Nat.reduceSub, List.drop_zero]

theorem drop_ledBytes_chanmap (r : Led) : (ledBytes r).drop 0xC8 = entries 24 (fun k => toBytes 2 (Tab.get 0 r.chanmap k)) ++
    (entries 4 (fun q => toBytes 2 (Tab.get 0 r.wayoff q)) ++ (ledEvents r ++ toBytes 4 (crc32c (ledBody r)))) := by
  rw [show 0xC8 = 0x48 + 0x80 from rfl, ← List.drop_drop, drop_ledBytes_retired, List.drop_left' (length_entries_toBytes 64 2 _)]

theorem drop_ledBytes_wayoff (r : Led) : (ledBytes r).drop 0xF8 = entries 4 (fun q => toBytes 2 (Tab.get 0 r.wayoff q)) ++
    (ledEvents r ++ toBytes 4 (crc32c (ledBody r))) := by
  rw [show 0xF8 = 0xC8 + 0x30 from rfl, ← List.drop_drop, drop_ledBytes_chanmap, List.drop_left' (length_entries_toBytes 24 2 _)]

theorem drop_ledBytes_events (r : Led) : (ledBytes r).drop 0x100 = ledEvents r ++ toBytes 4 (crc32c (ledBody r)) := by
  rw [show 0x100 = 0xF8 + 8 from rfl, ← List.drop_drop, drop_ledBytes_wayoff, List.drop_left' (length_entries_toBytes 4 2 _)]

theorem fieldAt_ledBytes_totals (r : Led) {i : Nat} (hi : i < 5) :
    fieldAt (ledBytes r) (0x30 + 4 * i) 4 = r.totals.getD i 0 % 2 ^ 32 := by
  obtain ⟨bs, hbs⟩ := drop_ledBytes_totals r
  rw [fieldAt_add, hbs]
  exact fieldAt_entries_toBytes hi ..

theorem fieldAt_ledBytes_retired (r : Led) {i : Nat} (hi : i < 64) :
    fieldAt (ledBytes r) (0x48 + 2 * i) 2 = r.retired.getD i 0 % 2 ^ 16 := by
  rw [fieldAt_add, drop_ledBytes_retired]
  exact fieldAt_entries_toBytes hi ..

theorem fieldAt_ledBytes_chanmap {r : Led} (h : ∀ e ∈ r.chanmap, e.1 < 24 ∧ e.2 < 2 ^ 16) {k : Nat} (hk : k < 24) :
    fieldAt (ledBytes r) (0xC8 + 2 * k) 2 = Tab.get 0 r.chanmap k := by
  rw [fieldAt_add, drop_ledBytes_chanmap, fieldAt_entries_toBytes hk]
  exact Nat.mod_eq_of_lt (Tab.get_induction (p := (· < 2 ^ 16)) (by decide) (fun e he => (h e he).2) k)

theorem fieldAt_ledBytes_wayoff {r : Led} (h : ∀ e ∈ r.wayoff, e.1 < 4 ∧ e.2 < 2 ^ 16) {q : Nat} (hq : q < 4) :
    fieldAt (ledBytes r) (0xF8 + 2 * q) 2 = Tab.get 0 r.wayoff q := by
  rw [fieldAt_add, drop_ledBytes_wayoff, fieldAt_entries_toBytes hq]
  exact Nat.mod_eq_of_lt (Tab.get_induction (p := (· < 2 ^ 16)) (by decide) (fun e he => (h e he).2) q)

theorem event_ledBytes {r : Led} (h : ∀ i < 16, (Tab.get (toBytes 16 0) r.events i).length = 16) {i : Nat} (hi : i < 16) :
    ((ledBytes r).drop (0x100 + 16 * i)).take 16 = Tab.get (toBytes 16 0) r.events i := by
  rw [← List.drop_drop, drop_ledBytes_events]
  exact take_drop_entries h hi _

/-- A list of numbers below `b`, read by index from what its entries keep of it. -/
theorem map_getD_mod {xs : List Nat} {b : Nat} (h : ∀ x ∈ xs, x < b) :
    (List.range xs.length).map (fun i => xs.getD i 0 % b) = xs := by
  apply List.ext_getElem
  · simp
  · intro i _ hi
    simp [hi, Nat.mod_eq_of_lt (h _ (List.getElem_mem hi))]

/-- Bytes whose CRC is not that of the 512 before it are no record (R462). -/
theorem parseLed_of_crc_ne {bs : List Byte} (h : fieldAt bs 0x200 4 ≠ crc32c (bs.take 0x200)) : parseLed bs = none :=
  if_pos (.inr (.inr (.inr h)))

/-- Settles O51: the record's numbers stand at their offsets, its tables as entries of one size from 0x48 on; a table read entry by
entry is the table. -/
theorem ledgerRecordRoundTrip : Obligations.LedgerRecordRoundTrip := by
  refine ⟨fun r hseq hselect hevhead hplat hfw hsess hfails hretired hretiredLt hboots htotals htotalsLt hchan hchanLt hway hwayLt
    hevents heventsLt => ?_, fun bs => parseLed_of_crc_ne⟩
  have heventLen : ∀ i < 16, (Tab.get (toBytes 16 0) r.events i).length = 16 := fun i _ =>
    Tab.get_induction (p := fun v => v.length = 16) rfl (fun e he => (heventsLt e he).2) i
  have hbody := length_ledBody heventLen
  have hcrc : fieldAt (ledBytes r) 0x200 4 = crc32c ((ledBytes r).take 0x200) := by
    rw [ledBytes, List.take_left' hbody, fieldAt, List.drop_left' hbody, List.take_of_length_le (by simp), ofBytes_crc32c]
  have hretiredRead : (List.range r.retired.length).map (fun i => fieldAt (ledBytes r) (0x48 + 2 * i) 2) = r.retired :=
    (List.map_congr_left fun i hi =>
      fieldAt_ledBytes_retired r (Nat.lt_of_lt_of_le (List.mem_range.mp hi) hretired)).trans (map_getD_mod hretiredLt)
  have htotalsRead : (List.range 5).map (fun i => fieldAt (ledBytes r) (0x30 + 4 * i) 4) = r.totals :=
    (List.map_congr_left fun i hi => fieldAt_ledBytes_totals r (List.mem_range.mp hi)).trans (htotals ▸ map_getD_mod htotalsLt)
  have hchanRead := Tab.foldl_set_get hchan (fun e he => (hchanLt e he).1) fun k => fieldAt_ledBytes_chanmap hchanLt
  have hwayRead := Tab.foldl_set_get hway (fun e he => (hwayLt e he).1) fun q => fieldAt_ledBytes_wayoff hwayLt
  have heventsRead := Tab.foldl_set_get (d := toBytes 16 0) hevents (fun e he => (heventsLt e he).1) fun i => event_ledBytes heventLen
  obtain ⟨hmagic, hver, hlen, hseqAt, hselectAt, hevheadAt, hplatAt, hfwAt, hsessAt, hfailsAt, hcount, hbootsAt⟩ := fieldAt_ledBytes r
  have hcountLt : r.retired.length < 2 ^ 16 := Nat.lt_of_le_of_lt hretired (by decide)
  rw [Nat.min_eq_right hretired, Nat.mod_eq_of_lt hcountLt] at hcount
  refine ⟨by simp [ledBytes, hbody], ?_⟩
  rw [parseLed, if_neg (by simp [hmagic, hver, hlen, hcrc]), hcount, hretiredRead, htotalsRead, hchanRead, hwayRead, heventsRead,
    hseqAt, hselectAt, hevheadAt, hplatAt, hfwAt, hsessAt, hfailsAt, hbootsAt]
  simp only [Nat.mod_eq_of_lt, hseq, hselect, hevhead, hplat, hfw, hsess, hfails, hboots]

end Sys2Proof.Machine
end

section
/-!
PROOF. What every command and every step does: the command at the front acts on the device alone and keeps memory's canonical form,
from which the statements O32, O33, O34, O36 and O55.
-/
namespace Sys2Proof.Machine

/-- A command is an operation on the device that keeps memory's canonical form, and leaves the queue. -/
def ActsOnDev (i : Instr) : Prop := ∃ f : Dev → Dev, (∀ d, MemWf d → MemWf (f d)) ∧ ∀ s, exec i s = s.upd f

/-- Every command does, by the lemma of its operation. -/
theorem actsOnDev (i : Instr) : ActsOnDev i := by
  cases i with
  | referenceClockLoss => exact ⟨_, clockLoss_memWf, fun _ => rfl⟩
  | referenceClockRestored => exact ⟨_, clockBack_memWf, fun _ => rfl⟩
  | vcoreUndervoltage q mv => exact ⟨_, vcoreLow_memWf q mv, fun _ => rfl⟩
  | vcoreRecovered q mv => exact ⟨_, vcoreOk_memWf q mv, fun _ => rfl⟩
  | qtRateUpdate q rate mv tj => exact ⟨_, rateUpdate_memWf q rate mv tj, fun _ => rfl⟩
  | registerWrite ag off size v => exact ⟨_, registerWrite_memWf ag off size v, fun _ => rfl⟩
  | verifyStagingBuffer ag => exact ⟨_, cmdWrite_memWf ag _ _, fun _ => rfl⟩
  | replatFromBuffer ag => exact ⟨_, cmdWrite_memWf ag _ _, fun _ => rfl⟩
  | replatFromFlash ag _ => exact ⟨_, cmdWrite_memWf ag _ _, fun _ => rfl⟩
  | replatQuiesced => exact ⟨_, replatQuiesced_memWf, fun _ => rfl⟩
  | replatQuiesceTimeout => exact ⟨_, replatTimeout_memWf, fun _ => rfl⟩
  | bundleIssue cl => exact ⟨_, bundleIssue_memWf cl, fun _ => rfl⟩
  | packedIssue cl groups => exact ⟨_, packedIssue_memWf cl groups, fun _ => rfl⟩
  | bundleRetire cl ctx => exact ⟨_, bundleRetire_memWf cl ctx, fun _ => rfl⟩
  | alu cl ctx slot => exact ⟨_, aluSyl_memWf cl ctx slot, fun _ => rfl⟩
  | adds cl ctx slot => exact ⟨_, addsSyl_memWf cl ctx slot, fun _ => rfl⟩
  | mul cl ctx => exact ⟨_, mulSyl_memWf cl ctx, fun _ => rfl⟩
  | div cl ctx => exact ⟨_, takeDivider_memWf cl ctx .div, fun _ => rfl⟩
  | divideComplete cl => exact ⟨_, divideComplete_memWf cl, fun _ => rfl⟩
  | fadd cl ctx => exact ⟨_, floatSyl_memWf cl ctx .fadd, fun _ => rfl⟩
  | fdiv cl ctx => exact ⟨_, takeDivider_memWf cl ctx .fdiv, fun _ => rfl⟩
  | fminimum cl ctx => exact ⟨_, floatSyl_memWf cl ctx .fminimum, fun _ => rfl⟩
  | fcmp cl ctx => exact ⟨_, floatSyl_memWf cl ctx .fcmp, fun _ => rfl⟩
  | fclass cl ctx => exact ⟨_, floatSyl_memWf cl ctx .fclass, fun _ => rfl⟩
  | fcvt cl ctx => exact ⟨_, floatSyl_memWf cl ctx .fcvt, fun _ => rfl⟩
  | load cl ctx => exact ⟨_, loadSyl_memWf cl ctx, fun _ => rfl⟩
  | scalarLoadReturn cl ctx => exact ⟨_, scalarLoadReturn_memWf cl ctx, fun _ => rfl⟩
  | store cl ctx => exact ⟨_, storeSyl_memWf cl ctx, fun _ => rfl⟩
  | amo cl ctx => exact ⟨_, amoSyl_memWf cl ctx, fun _ => rfl⟩
  | atomicOldValueReturn cl ctx => exact ⟨_, atomicReturn_memWf cl ctx, fun _ => rfl⟩
  | getc cl ctx => exact ⟨_, getcSyl_memWf cl ctx, fun _ => rfl⟩
  | setc cl ctx => exact ⟨_, setcSyl_memWf cl ctx, fun _ => rfl⟩
  | sevt cl ctx => exact ⟨_, sevtSyl_memWf cl ctx, fun _ => rfl⟩
  | eventDelivery e => exact ⟨_, eventDelivery_memWf e, fun _ => rfl⟩
  | wevt cl ctx => exact ⟨_, waitEvent_memWf cl ctx .wevt, fun _ => rfl⟩
  | wtal cl ctx => exact ⟨_, waitEvent_memWf cl ctx .wtal, fun _ => rfl⟩
  | wtalTallyReached cl ctx => exact ⟨_, wtalReached_memWf cl ctx, fun _ => rfl⟩
  | br cl ctx => exact ⟨_, brSyl_memWf cl ctx, fun _ => rfl⟩
  | bc cl ctx => exact ⟨_, bcSyl_memWf cl ctx, fun _ => rfl⟩
  | jr cl ctx => exact ⟨_, jrSyl_memWf cl ctx, fun _ => rfl⟩
  | loop cl ctx => exact ⟨_, loopSyl_memWf cl ctx, fun _ => rfl⟩
  | lbrk cl ctx => exact ⟨_, oneEff_memWf cl ctx _ _, fun _ => rfl⟩
  | fenceI cl ctx => exact ⟨_, oneEff_memWf cl ctx _ _, fun _ => rfl⟩
  | instructionCacheMissFill cl ctx => exact ⟨_, icacheFill_memWf cl ctx, fun _ => rfl⟩
  | vsetvl cl ctx => exact ⟨_, vsetvlSyl_memWf cl ctx, fun _ => rfl⟩
  | fence cl ctx => exact ⟨_, fenceSyl_memWf cl ctx, fun _ => rfl⟩
  | fenceComplete cl ctx => exact ⟨_, fenceComplete_memWf cl ctx, fun _ => rfl⟩
  | copy cl ctx => exact ⟨_, copySyl_memWf cl ctx, fun _ => rfl⟩
  | copyStart cl => exact ⟨_, copyStart_memWf cl, fun _ => rfl⟩
  | copyFinish cl id => exact ⟨_, copyFinish_memWf cl id, fun _ => rfl⟩
  | copyFail cl id => exact ⟨_, copyFail_memWf cl id, fun _ => rfl⟩
  | warr cl ctx => exact ⟨_, warrSyl_memWf cl ctx, fun _ => rfl⟩
  | pref cl ctx => exact ⟨_, prefSyl_memWf cl ctx, fun _ => rfl⟩
  | cmo cl ctx => exact ⟨_, cmoSyl_memWf cl ctx, fun _ => rfl⟩
  | cmosw cl ctx => exact ⟨_, cmoswSyl_memWf cl ctx, fun _ => rfl⟩
  | maintenanceComplete cl ctx => exact ⟨_, maintenanceComplete_memWf cl ctx, fun _ => rfl⟩
  | threadAlu cl n => exact ⟨_, threadGroups_memWf cl n, fun _ => rfl⟩
  | threadLoad cl n => exact ⟨_, memGroups_memWf cl n .tload, fun _ => rfl⟩
  | threadAtomic cl n => exact ⟨_, threadAtomics_memWf cl n, fun _ => rfl⟩
  | tbc cl => exact ⟨_, threadBranchOp_memWf cl, fun _ => rfl⟩
  | threadBranchResolve cl ctx => exact ⟨_, threadResolve_memWf cl ctx, fun _ => rfl⟩
  | texit cl ctx => exact ⟨_, texit_memWf cl ctx, fun _ => rfl⟩
  | gyield cl ctx => exact ⟨_, gyield_memWf cl ctx, fun _ => rfl⟩
  | gvote cl ctx => exact ⟨_, collective_memWf .gvote cl ctx, fun _ => rfl⟩
  | gshfl cl ctx => exact ⟨_, collective_memWf .gshfl cl ctx, fun _ => rfl⟩
  | gbar cl ctx => exact ⟨_, gbar_memWf cl ctx, fun _ => rfl⟩
  | gxld cl ctx => exact ⟨_, collective_memWf .gxld cl ctx, fun _ => rfl⟩
  | gxst cl ctx => exact ⟨_, collective_memWf .gxst cl ctx, fun _ => rfl⟩
  | contextStart ag cl mask => exact ⟨_, contextStart_memWf ag cl mask, fun _ => rfl⟩
  | contextStop ag cl mask => exact ⟨_, contextStop_memWf ag cl mask, fun _ => rfl⟩
  | contextEnd cl ctx => exact ⟨_, contextEnd_memWf cl ctx, fun _ => rfl⟩
  | vectorOpStart cl => exact ⟨_, vectorOpStart_memWf cl, fun _ => rfl⟩
  | vadd cl n => exact ⟨_, vGroups_memWf cl n .vadd, fun _ => rfl⟩
  | vfadd cl n => exact ⟨_, vGroups_memWf cl n .vfadd, fun _ => rfl⟩
  | vsadd cl n => exact ⟨_, vGroups_memWf cl n .vsadd, fun _ => rfl⟩
  | vcmp cl n => exact ⟨_, vGroups_memWf cl n .vcmp, fun _ => rfl⟩
  | vmand cl => exact ⟨_, vWhole_memWf cl .vmand vMaskOp, fun _ => rfl⟩
  | vcvt cl n => exact ⟨_, vGroups_memWf cl n .vcvt, fun _ => rfl⟩
  | vpack cl => exact ⟨_, vWhole_memWf cl .vpack vPackOp, fun _ => rfl⟩
  | vunpack cl => exact ⟨_, vWhole_memWf cl .vunpack vUnpackOp, fun _ => rfl⟩
  | vmpop cl => exact ⟨_, vWhole_memWf cl .vmpop vSummaryOp, fun _ => rfl⟩
  | vredsum cl => exact ⟨_, vReduce_memWf cl .vredsum, fun _ => rfl⟩
  | vfredosum cl => exact ⟨_, vReduce_memWf cl .vfredosum, fun _ => rfl⟩
  | summaryArrival cl => exact ⟨_, summaryArrival_memWf cl, fun _ => rfl⟩
  | vcompress cl => exact ⟨_, vWhole_memWf cl .vcompress vCompressOp, fun _ => rfl⟩
  | vexpand cl => exact ⟨_, vWhole_memWf cl .vexpand vExpandOp, fun _ => rfl⟩
  | vperm cl => exact ⟨_, vWhole_memWf cl .vperm vPermOp, fun _ => rfl⟩
  | vmatch cl => exact ⟨_, vWhole_memWf cl .vmatch vMatchOp, fun _ => rfl⟩
  | vmerge cl => exact ⟨_, vWhole_memWf cl .vmerge vMergeOp, fun _ => rfl⟩
  | vld cl n => exact ⟨_, memGroups_memWf cl n .vld, fun _ => rfl⟩
  | vlseg cl n => exact ⟨_, memGroups_memWf cl n .vlseg, fun _ => rfl⟩
  | vldx cl n => exact ⟨_, memGroups_memWf cl n .vldx, fun _ => rfl⟩
  | vstx cl n => exact ⟨_, memGroups_memWf cl n .vstx, fun _ => rfl⟩
  | vstxr cl n => exact ⟨_, memGroups_memWf cl n .vstxr, fun _ => rfl⟩
  | loadGroupArrival cl ctx g => exact ⟨_, loadGroupArrival_memWf cl ctx g, fun _ => rfl⟩
  | vectorWalkResume cl => exact ⟨_, vectorWalkResume_memWf cl, fun _ => rfl⟩
  | matrixOpStart cl => exact ⟨_, matrixOpStart_memWf cl, fun _ => rfl⟩
  | xopa cl n => exact ⟨_, xopaRun_memWf cl n, fun _ => rfl⟩
  | tzero cl => exact ⟨_, tzeroRun_memWf cl, fun _ => rfl⟩
  | trel cl => exact ⟨_, trelRun_memWf cl, fun _ => rfl⟩
  | tld cl n => exact ⟨_, tldRun_memWf cl n, fun _ => rfl⟩
  | tst cl n => exact ⟨_, tstRun_memWf cl n, fun _ => rfl⟩
  | tacc cl n => exact ⟨_, taccRun_memWf cl n, fun _ => rfl⟩
  | residueMismatch cl ctx unit place again => exact ⟨_, residueMismatch_memWf cl ctx unit place again, fun _ => rfl⟩
  | sramSingleBitCorrect arr => exact ⟨_, fun d => arrayEvent_memWf d arr, fun _ => rfl⟩
  | sramUncorrectable place => exact ⟨_, sramUncorrectable_memWf place, fun _ => rfl⟩
  | trapEntry cl ctx => exact ⟨_, trapEntry_memWf cl ctx, fun _ => rfl⟩
  | interruptEntry cl ctx => exact ⟨_, interruptEntry_memWf cl ctx, fun _ => rfl⟩
  | trap cl ctx => exact ⟨_, oneEff_memWf cl ctx _ _, fun _ => rfl⟩
  | tack cl ctx => exact ⟨_, oneEff_memWf cl ctx _ _, fun _ => rfl⟩
  | tret cl ctx => exact ⟨_, tretSyl_memWf cl ctx, fun _ => rfl⟩
  | ifsave cl ctx => exact ⟨_, ifsaveSyl_memWf cl ctx, fun _ => rfl⟩
  | ifload cl ctx => exact ⟨_, ifloadSyl_memWf cl ctx, fun _ => rfl⟩
  | tallyCompareMatch cl ctx => exact ⟨_, tallyCompareMatch_memWf cl ctx, fun _ => rfl⟩
  | clMereResize cl ctx => exact ⟨_, clMereResize_memWf cl ctx, fun _ => rfl⟩
  | clTstateWrite cl ctx => exact ⟨_, clTstateWrite_memWf cl ctx, fun _ => rfl⟩
  | icacheInvall cl ctx => exact ⟨_, icInvall_memWf cl ctx, fun _ => rfl⟩
  | icacheEnableWrite cl ctx => exact ⟨_, icEnable_memWf cl ctx, fun _ => rfl⟩
  | prefetchFill id => exact ⟨_, prefetchFill_memWf id, fun _ => rfl⟩
  | sideBufferPromote cl da => exact ⟨_, sidePromote_memWf cl da, fun _ => rfl⟩
  | wayPowerDown q w => exact ⟨_, wayDown_memWf q w, fun _ => rfl⟩
  | wayDrainComplete q w => exact ⟨_, wayDrained_memWf q w, fun _ => rfl⟩
  | wayPowerUp q w => exact ⟨_, wayUp_memWf q w, fun _ => rfl⟩
  | tlbMiss cl item => exact ⟨_, tlbMiss_memWf cl item, fun _ => rfl⟩
  | walkStart q => exact ⟨_, walkStart_memWf q, fun _ => rfl⟩
  | walkComplete q w => exact ⟨_, walkComplete_memWf q w, fun _ => rfl⟩
  | faultRecordSend q w => exact ⟨_, recordSend_memWf q w, fun _ => rfl⟩
  | faultRecordFreeWait q => exact ⟨_, recordFreeWait_memWf q, fun _ => rfl⟩
  | invAllSpaces ag => exact ⟨_, cmdWrite_memWf ag _ _, fun _ => rfl⟩
  | invSpace ag _ => exact ⟨_, cmdWrite_memWf ag _ _, fun _ => rfl⟩
  | invRange ag _ => exact ⟨_, cmdWrite_memWf ag _ _, fun _ => rfl⟩
  | invalidationComplete => exact ⟨_, invalidationComplete_memWf, fun _ => rfl⟩
  | walkerFormatWrite ag off size v => exact ⟨_, walkerFormatWrite_memWf ag off size v, fun _ => rfl⟩
  | resumeRetry ag _ => exact ⟨_, cmdWrite_memWf ag _ _, fun _ => rfl⟩
  | resumeUnresolved ag _ => exact ⟨_, cmdWrite_memWf ag _ _, fun _ => rfl⟩
  | migrate => exact ⟨_, migrate_memWf, fun _ => rfl⟩
  | advise => exact ⟨_, advise_memWf, fun _ => rfl⟩
  | tractChunkMove tract => exact ⟨_, chunkMove_memWf tract, fun _ => rfl⟩
  | allotmentEpoch => exact ⟨_, allotEpoch_memWf, fun _ => rfl⟩
  | stackRequestAdmit id => exact ⟨_, stackAdmit_memWf id, fun _ => rfl⟩
  | stackRequestComplete id => exact ⟨_, stackComplete_memWf id, fun _ => rfl⟩
  | atomicUnitApply id => exact ⟨_, atomicUnit_memWf id, fun _ => rfl⟩
  | mapout ag k ch => exact ⟨_, mapoutCmd_memWf ag k ch, fun _ => rfl⟩
  | restripeChunk k => exact ⟨_, restripeChunk_memWf k, fun _ => rfl⟩
  | restripeComplete k => exact ⟨_, restripeComplete_memWf k, fun _ => rfl⟩
  | patrolScrub k => exact ⟨_, patrolScrub_memWf k, fun _ => rfl⟩
  | stackRefresh _ => exact ⟨_, fun _ => id, fun _ => rfl⟩
  | refreshRateSample k temp counts => exact ⟨_, refreshSample_memWf k temp counts, fun _ => rfl⟩
  | readTimingRetune _ _ => exact ⟨_, fun _ => id, fun _ => rfl⟩
  | selfRefreshEntry k => exact ⟨_, srEnter_memWf k, fun _ => rfl⟩
  | selfRefreshExit k temp fail => exact ⟨_, srExit_memWf k temp fail, fun _ => rfl⟩
  | flitReceive p flit => exact ⟨_, flitReceive_memWf p flit, fun _ => rfl⟩
  | flitRetryTimeout p => exact ⟨_, retryTimeout_memWf p, fun _ => rfl⟩
  | messageStart p => exact ⟨_, messageStart_memWf p, fun _ => rfl⟩
  | messageForward p => exact ⟨_, messageForward_memWf p, fun _ => rfl⟩
  | read => exact ⟨_, fun d => peerReq_memWf d 1 _ peerRead_memWf, fun _ => rfl⟩
  | write => exact ⟨_, fun d => peerReq_memWf d 2 _ peerWrite_memWf, fun _ => rfl⟩
  | atomic young => exact ⟨_, fun d => peerReq_memWf d 3 _ (peerAmo_memWf young), fun _ => rfl⟩
  | scatred young => exact ⟨_, fun d => peerReq_memWf d 4 _ (peerRed_memWf young), fun _ => rfl⟩
  | data => exact ⟨_, peerAnswer_memWf 1, fun _ => rfl⟩
  | ack => exact ⟨_, fun d hd => postSettle_memWf _ (peerAnswer_memWf 2 d hd), fun _ => rfl⟩
  | old => exact ⟨_, peerAnswer_memWf 3, fun _ => rfl⟩
  | error => exact ⟨_, fun d hd => postSettle_memWf _ (peerAnswer_memWf 4 d hd), fun _ => rfl⟩
  | mread => exact ⟨_, mreadTaken_memWf, fun _ => rfl⟩
  | mwrite => exact ⟨_, mwriteTaken_memWf, fun _ => rfl⟩
  | mdata => exact ⟨_, mdataTaken_memWf, fun _ => rfl⟩
  | badMessage => exact ⟨_, badMessage_memWf, fun _ => rfl⟩
  | responseDeadline id => exact ⟨_, responseDeadline_memWf id, fun _ => rfl⟩
  | channelStuck p vc => exact ⟨_, channelStuck_memWf p vc, fun _ => rfl⟩
  | linkReset p => exact ⟨_, linkReset_memWf p, fun _ => rfl⟩
  | linkTrainingComplete p farId farPort farRole => exact ⟨_, trainingComplete_memWf p farId farPort farRole, fun _ => rfl⟩
  | linkTrainingRetry p => exact ⟨_, trainingRetry_memWf p, fun _ => rfl⟩
  | openFibreDetect p => exact ⟨_, openFibre_memWf p, fun _ => rfl⟩
  | connectorRemoved => exact ⟨_, connectorRemoved_memWf, fun _ => rfl⟩
  | laserFault p => exact ⟨_, laserFault_memWf p, fun _ => rfl⟩
  | probeTimer p => exact ⟨_, probeTimer_memWf p, fun _ => rfl⟩
  | probeLightSeen p => exact ⟨_, probeSeen_memWf p, fun _ => rfl⟩
  | probeLightSteady p => exact ⟨_, probeSteady_memWf p, fun _ => rfl⟩
  | probeLightLost p => exact ⟨_, probeLost_memWf p, fun _ => rfl⟩
  | upwardRelay => exact ⟨_, upwardRelay_memWf, fun _ => rfl⟩
  | sopen sinceFail twinSc sameKey => exact ⟨_, fun d => hostCmd_memWf d 1 _ (sopen_memWf sinceFail twinSc sameKey), fun _ => rfl⟩
  | ledgerWriteComplete ok => exact ⟨_, ledgerComplete_memWf ok, fun _ => rfl⟩
  | sprove => exact ⟨_, fun d => hostCmd_memWf d 2 _ sprove_memWf, fun _ => rfl⟩
  | sproveTimeout => exact ⟨_, sproveTimeout_memWf, fun _ => rfl⟩
  | sclose => exact ⟨_, fun d => hostCmd_memWf d 3 _ fun _ e => endSession_memWf e (some 0), fun _ => rfl⟩
  | hbSessctlClose ag => exact ⟨_, cmdWrite_memWf ag _ _, fun _ => rfl⟩
  | hread => exact ⟨_, fun d => hostCmd_memWf d 4 _ hread_memWf, fun _ => rfl⟩
  | hwrite => exact ⟨_, fun d => hostCmd_memWf d 5 _ hwrite_memWf, fun _ => rfl⟩
  | hmread => exact ⟨_, fun d => hostCmd_memWf d 6 _ hmread_memWf, fun _ => rfl⟩
  | hmwrite => exact ⟨_, fun d => hostCmd_memWf d 7 _ hmwrite_memWf, fun _ => rfl⟩
  | doorbell => exact ⟨_, fun d => hostCmd_memWf d 8 _ doorbell_memWf, fun _ => rfl⟩
  | attest => exact ⟨_, fun d => hostCmd_memWf d 9 _ attest_memWf, fun _ => rfl⟩
  | attestReportReady => exact ⟨_, reportReady_memWf, fun _ => rfl⟩
  | hdata => exact ⟨_, hostAnswer_memWf 0x0A, fun _ => rfl⟩
  | hresp => exact ⟨_, fun d hd => postSettle_memWf _ (hostAnswer_memWf 0x0B d hd), fun _ => rfl⟩
  | hostAccessDeadline id => exact ⟨_, fun d hd => postSettle_memWf _ (hostDeadline_memWf id d hd), fun _ => rfl⟩
  | relaydown => exact ⟨_, relayDownTaken_memWf, fun _ => rfl⟩
  | ringCommandFetch n => exact ⟨_, ringFetch_memWf n, fun _ => rfl⟩
  | nop n => exact ⟨_, fun d => startCmd_memWf d n 0 _ fun c e => endCmd_memWf e n c 0 0, fun _ => rfl⟩
  | start n => exact ⟨_, ringStart_memWf n, fun _ => rfl⟩
  | stop n => exact ⟨_, ringStop_memWf n, fun _ => rfl⟩
  | event n => exact ⟨_, ringEvent_memWf n, fun _ => rfl⟩
  | move n => exact ⟨_, ringMove_memWf n, fun _ => rfl⟩
  | tract n => exact ⟨_, ringTract_memWf n, fun _ => rfl⟩
  | replat n => exact ⟨_, ringReplat_memWf n, fun _ => rfl⟩
  | ringFence n => exact ⟨_, fun d => startCmd_memWf d n 7 _ fun _ _ => id, fun _ => rfl⟩
  | commandComplete n k => exact ⟨_, commandComplete_memWf n k, fun _ => rfl⟩
  | suTractctlGo ag => exact ⟨_, cmdWrite_memWf ag _ _, fun _ => rfl⟩
  | rdStart ag _ => exact ⟨_, cmdWrite_memWf ag _ _, fun _ => rfl⟩
  | rdAbort ag _ => exact ⟨_, cmdWrite_memWf ag _ _, fun _ => rfl⟩
  | rdFill ag _ _ => exact ⟨_, cmdWrite_memWf ag _ _, fun _ => rfl⟩
  | ownShareConverted r => exact ⟨_, ownConverted_memWf r, fun _ => rfl⟩
  | contrib => exact ⟨_, takeContrib_memWf, fun _ => rfl⟩
  | contribPlace r => exact ⟨_, contribPlace_memWf r, fun _ => rfl⟩
  | result => exact ⟨_, takeResult_memWf, fun _ => rfl⟩
  | rpull => exact ⟨_, takeRpull_memWf, fun _ => rfl⟩
  | steprep => exact ⟨_, takeSteprep_memWf, fun _ => rfl⟩
  | bucketDeadline r b => exact ⟨_, bucketDeadline_memWf r b, fun _ => rfl⟩
  | resultDeadline r => exact ⟨_, resultDeadline_memWf r, fun _ => rfl⟩
  | helloTimer => exact ⟨_, helloTimer_memWf, fun _ => rfl⟩
  | hello => exact ⟨_, fun d => twinMsg_memWf d 1 _ fun m d => helloTaken_memWf d m, fun _ => rfl⟩
  | formingTimeout => exact ⟨_, formingTimeout_memWf, fun _ => rfl⟩
  | beatTimer => exact ⟨_, beatTimer_memWf, fun _ => rfl⟩
  | beat => exact ⟨_, fun d => twinMsg_memWf d 2 _ beatTaken_memWf, fun _ => rfl⟩
  | twinSilence => exact ⟨_, twinSilence_memWf, fun _ => rfl⟩
  | twinProbeDeadline => exact ⟨_, probeDeadline_memWf, fun _ => rfl⟩
  | leave => exact ⟨_, fun d => twinMsg_memWf d 9 _ leaveTaken_memWf, fun _ => rfl⟩
  | twinFallOut => exact ⟨_, twinFallOut_memWf, fun _ => rfl⟩
  | mirror => exact ⟨_, mirrorTaken_memWf, fun _ => rfl⟩
  | confirm => exact ⟨_, fun d => twinMsg_memWf d 5 _ confirmTaken_memWf, fun _ => rfl⟩
  | digest => exact ⟨_, fun d => twinMsg_memWf d 6 _ digestTaken_memWf, fun _ => rfl⟩
  | place => exact ⟨_, fun d => twinMsg_memWf d 7 _ placeTaken_memWf, fun _ => rfl⟩
  | seed => exact ⟨_, fun d => twinMsg_memWf d 8 _ seedTaken_memWf, fun _ => rfl⟩
  | sync => exact ⟨_, sync_memWf, fun _ => rfl⟩
  | rejoin ag => exact ⟨_, cmdWrite_memWf ag _ _, fun _ => rfl⟩
  | rejoinComplete => exact ⟨_, rejoinComplete_memWf, fun _ => rfl⟩
  | digestGo ag => exact ⟨_, digestGoCmd_memWf ag, fun _ => rfl⟩
  | digestTimeout => exact ⟨_, digestTimeout_memWf, fun _ => rfl⟩
  | faultEventReport stamp => exact ⟨_, faultReport_memWf stamp, fun _ => rfl⟩
  | ledgerWrite => exact ⟨_, ledgerWrite_memWf, fun _ => rfl⟩
  | flashSectorErase bank => exact ⟨_, sectorErase_memWf bank, fun _ => rfl⟩
  | clearsite => exact ⟨_, fun d => lcmdStep_memWf 1 _ d clearSite_memWf, fun _ => rfl⟩
  | clearchan => exact ⟨_, fun d => lcmdStep_memWf 2 _ d clearChan_memWf, fun _ => rfl⟩
  | setowner => exact ⟨_, fun d => lcmdStep_memWf 3 _ d setOwner_memWf, fun _ => rfl⟩
  | setpass => exact ⟨_, fun d => lcmdStep_memWf 4 _ d setPass_memWf, fun _ => rfl⟩
  | setplatkey => exact ⟨_, fun d => lcmdStep_memWf 5 _ d setPlatKey_memWf, fun _ => rfl⟩
  | clearplatkey => exact ⟨_, fun d => lcmdStep_memWf 6 _ d clearPlatKey_memWf, fun _ => rfl⟩
  | clearway => exact ⟨_, fun d => lcmdStep_memWf 7 _ d clearWay_memWf, fun _ => rfl⟩
  | powerBudgetTick other demand => exact ⟨_, budgetTick_memWf other demand, fun _ => rfl⟩
  | qvidStep q => exact ⟨_, qvidStep_memWf q, fun _ => rfl⟩
  | ceilingCheck pkg other tj => exact ⟨_, ceilingCheck_memWf pkg other tj, fun _ => rfl⟩
  | throttleStep => exact ⟨_, throttleStep_memWf, fun _ => rfl⟩
  | thermalTrip => exact ⟨_, thermalTrip_memWf, fun _ => rfl⟩
  | thermalTripClear => exact ⟨_, thermalClear_memWf, fun _ => rfl⟩
  | idlePowerDown g => exact ⟨_, idleDown_memWf g, fun _ => rfl⟩
  | clusterWake cl => exact ⟨_, clusterWake_memWf cl, fun _ => rfl⟩
  | quarterDormantEntry q => exact ⟨_, quarterSleep_memWf q, fun _ => rfl⟩
  | quarterDormantExit q => exact ⟨_, fun d => quarterWake_memWf d q, fun _ => rfl⟩
  | groupUp => exact ⟨_, groupUp_memWf, fun _ => rfl⟩
  | groupDown => exact ⟨_, groupDown_memWf, fun _ => rfl⟩
  | standby => exact ⟨_, standby_memWf, fun _ => rfl⟩
  | wake fails => exact ⟨_, wake_memWf fails, fun _ => rfl⟩
  | powerOnReset => exact ⟨_, powerOnReset_memWf, fun _ => rfl⟩
  | pinReset => exact ⟨_, pinReset_memWf, fun _ => rfl⟩
  | deviceReset ag => exact ⟨_, cmdWrite_memWf ag _ _, fun _ => rfl⟩
  | quarterReset ag _ => exact ⟨_, cmdWrite_memWf ag _ _, fun _ => rfl⟩
  | quarterResetRelease q => exact ⟨_, quarterRelease_memWf q, fun _ => rfl⟩
  | clusterReset ag _ => exact ⟨_, cmdWrite_memWf ag _ _, fun _ => rfl⟩
  | boot fails => exact ⟨_, boot_memWf fails, fun _ => rfl⟩
  | fwErase => exact ⟨_, fwErase_memWf, fun _ => rfl⟩
  | fwWrite => exact ⟨_, fwWrite_memWf, fun _ => rfl⟩
  | fwCommit => exact ⟨_, fwCommit_memWf, fun _ => rfl⟩
  | i3cSetOffset off => exact ⟨_, i3cSet_memWf off, fun _ => rfl⟩
  | i3cRead => exact ⟨_, i3cRead_memWf, fun _ => rfl⟩
  | i3cWrite off v => exact ⟨_, i3cWrite_memWf off v, fun _ => rfl⟩
  | bypass => exact ⟨_, scanSelect_memWf .bypass 0, fun _ => rfl⟩
  | idcode => exact ⟨_, scanSelect_memWf .idcode 0x1802_46B7, fun _ => rfl⟩
  | samplePreload _ v => exact ⟨_, fun d hd => scanLoad_memWf v _ (scanSelect_memWf .sample _ d hd), fun _ => rfl⟩
  | extest _ v => exact ⟨_, fun d hd => scanLoad_memWf v _ (scanSelect_memWf .extest _ d hd), fun _ => rfl⟩
  | clamp => exact ⟨_, scanSelect_memWf .clamp 0, fun _ => rfl⟩
  | highz => exact ⟨_, scanSelect_memWf .highz 0, fun _ => rfl⟩
  | vectorOpComplete cl => exact ⟨_, vectorOpComplete_memWf cl, fun _ => rfl⟩
  | matrixOpComplete cl => exact ⟨_, matrixOpComplete_memWf cl, fun _ => rfl⟩
  | copySectorReturn cl id => exact ⟨_, copySectorReturn_memWf cl id, fun _ => rfl⟩
  | quarterCacheRequest id => exact ⟨_, quarterRequest_memWf id, fun _ => rfl⟩
  | icacheInvallComplete cl => exact ⟨_, icInvallComplete_memWf cl, fun _ => rfl⟩
  | clusterResetComplete cl => exact ⟨_, clusterResetComplete_memWf cl, fun _ => rfl⟩
  | probeEnd p => exact ⟨_, probeEnd_memWf p, fun _ => rfl⟩
  | connectorSeated => exact ⟨_, connectorSeated_memWf, fun _ => rfl⟩

/-- Settles O32: the step of a queue with a front is that command's. -/
theorem stepRunsFront : Obligations.StepRunsFront := fun _ _ => rfl

/-- Settles O33: every command is an operation on the device. -/
theorem everyCommandAnswers : Obligations.EveryCommandAnswers := by
  intro i s
  obtain ⟨f, -, hf⟩ := actsOnDev i
  exact ⟨f s.dev, hf s⟩

/-- Settles O34: the step of an empty queue answers the state (log entry 3). -/
theorem emptyQueueIdles : Obligations.EmptyQueueIdles := by
  intro s hempty
  rw [step, hempty]

/-- Settles O36: reset lists nothing. -/
theorem resetEmpty : Obligations.ResetEmpty := ⟨reset_mem_wf, rfl, rfl, rfl, rfl, rfl, fun _ _ => rfl⟩

/-- Settles O55: an empty queue keeps the state, and the front command keeps memory's form. -/
theorem memoryStaysCanonical : Obligations.MemoryStaysCanonical := by
  intro s t hs hstep
  cases hqueue : s.pending with
  | nil =>
    rw [emptyQueueIdles s hqueue] at hstep
    cases hstep
    exact hs
  | cons i rest =>
    obtain ⟨f, hmem, hf⟩ := actsOnDev i
    have hexec : step s = exec i { s with pending := rest } := by
      rw [step, hqueue]
    rw [hexec, hf] at hstep
    cases hstep
    exact hmem _ hs

end Sys2Proof.Machine
end

section
/-!
PROOF. The registers at reset (spec/00 R9), from which the statement O35.
-/
namespace Sys2Proof.Machine

/-- The block of logical cluster `l` (R23). -/
theorem blkOf_clOff {l o : Nat} (hl : l < 800) (ho : o < 0x1_0000) : blkOf (clOff l o) = (.cluster l, o) := by
  have hdiv : (clOff l o - 0x0100_0000) / 0x1_0000 = l := by unfold clOff; omega
  have hmod : (clOff l o - 0x0100_0000) % 0x1_0000 = o := by unfold clOff; omega
  have hlo : 0x0100_0000 ≤ clOff l o := by unfold clOff; omega
  have hhi : clOff l o < 0x0420_0000 := by unfold clOff; omega
  rw [blkOf, if_neg (by omega), if_neg (by omega), if_neg (by omega), if_neg (by omega), if_neg (by omega), if_neg (by omega),
    if_pos hhi, hdiv, hmod]

/-- The value that a map at an offset of a cluster's block gives at reset. -/
def clusterReset? (o : Nat) : Option Word := (clusterReg o).map RegMap.reset

/-- A cluster register at reset holds its map's value, CL_SRSTATE apart (R9, R186). -/
theorem rget_reset_clOff {l o : Nat} (hl : l < 800) (ho : o < 0x1_0000) (hsr : o ≠ 0x70) {w : Word} (hw : clusterReset? o = some w) :
    rget Dev.reset (clOff l o) = w := by
  obtain ⟨m, hm, rfl⟩ := Option.map_eq_some_iff.mp hw
  show regDefault (clOff l o) = m.reset
  simp only [regDefault, blkOf_clOff hl ho, if_neg hsr, hm]

/-- The same for a register of a context's set (R103). -/
theorem rget_reset_csOff {l c o : Nat} (hl : l < 800) (hc : c < 8) (ho : o < 0x80) {w : Word}
    (hw : clusterReset? (0x1000 + 0x80 * c + o) = some w) : rget Dev.reset (csOff l c o) = w :=
  rget_reset_clOff hl (by omega) (by omega) hw

/-- The same for a trap register of a context (R376). -/
theorem rget_reset_dtOff {l c o : Nat} (hl : l < 800) (hc : c < 8) (ho : o < 0x100) {w : Word}
    (hw : clusterReset? (0x4000 + 0x100 * c + o) = some w) : rget Dev.reset (dtOff l c o) = w :=
  rget_reset_clOff hl (by omega) (by omega) hw

/-- What the register tables give a context's set and its trap registers at reset. -/
theorem clusterReset?_context : ∀ c < 8,
    clusterReset? (0x4000 + 0x100 * c + 0) = some (setF 0 DT_STATUS.PLEV 3) ∧
    clusterReset? (0x1000 + 0x80 * c + 0x40) = some (setF 0 CL_FCSR.RM 1) ∧
    clusterReset? (0x1000 + 0x80 * c + 0x70) = some (setF 0 CL_VCFG.SEW 3) ∧
    clusterReset? (0x1000 + 0x80 * c + 0x48) = some (setB 0 CL_GCTL.PACK_EN true) ∧
    ∀ o ∈ [0x08, 0x10, 0x28, 0x38, 0x48], clusterReset? (0x4000 + 0x100 * c + o) = some 0 := by
  decide

/-- Settles O35: what reset leaves unlisted reads as its register table's reset value. -/
theorem resetRegisters : Obligations.ResetRegisters := by
  refine ⟨fun l hl c hc => ⟨?_, ?_, ?_, ?_⟩, by decide, by decide, by decide, by decide, rfl⟩
  · obtain ⟨hstatus, hfcsr, hvcfg, hgctl, hzero⟩ := clusterReset?_context c hc
    have htrap : ∀ o ∈ [0x08, 0x10, 0x28, 0x38, 0x48], rget Dev.reset (dtOff l c o) = 0 := fun o ho =>
      rget_reset_dtOff hl hc ((by decide : ∀ o ∈ [0x08, 0x10, 0x28, 0x38, 0x48], o < 0x100) o ho) (hzero o ho)
    exact ⟨rget_reset_dtOff hl hc (by decide) hstatus, rget_reset_csOff hl hc (by decide) hfcsr,
      rget_reset_csOff hl hc (by decide) hvcfg, rget_reset_csOff hl hc (by decide) hgctl, htrap _ (by decide), htrap _ (by decide),
      htrap _ (by decide), htrap _ (by decide), htrap _ (by decide)⟩
  · exact rget_reset_clOff (w := 0) hl (by decide) (by decide) (by decide)
  · have hicctl := rget_reset_clOff (o := 0x700) (w := setB 0 CL_ICCTL.EN true) hl (by decide) (by decide) (by decide)
    exact (congrArg (isSet · CL_ICCTL.EN) hicctl).trans (by decide)
  · have hpfctl := rget_reset_clOff (o := 0x708) (w := setB 0 CL_PFCTL.EN true) hl (by decide) (by decide) (by decide)
    exact (congrArg (isSet · CL_PFCTL.EN) hpfctl).trans (by decide)

end Sys2Proof.Machine
end

section
/-!
PROOF. The access codes of registers, bit by bit (spec/00 R6, R7, spec/01 R26), from which the statement O41.
-/
namespace Sys2Proof.Machine

/-! ### Every register's fields lie apart -/

/-- A bit stands in a field. -/
def Fld.Has (f : Fld) (i : Nat) : Prop := f.lo ≤ i ∧ i < f.lo + f.w

/-- The fields lie apart and inside the register. -/
def fieldsApart : List RField → Bool
  | [] => true
  | x :: xs => decide (x.f.lo + x.f.w ≤ 64) && xs.all (fun y => decide (x.f.lo + x.f.w ≤ y.f.lo ∨ y.f.lo + y.f.w ≤ x.f.lo)) &&
      fieldsApart xs

/-- Where a register stands, its fields lie apart. -/
def Regular (r : Option RegMap) : Prop := r.all (fun m => fieldsApart m.fs) = true

theorem regular_ite {c : Prop} [Decidable c] {a b : Option RegMap} (ha : Regular a) (hb : Regular b) : Regular (if c then a else b) := by
  split
  · exact ha
  · exact hb

/-- Of every register of the window: its fields lie apart. -/
theorem regular_regMapOf (b : Blk) (o : Nat) : Regular (regMapOf b o) := by
  cases b
  all_goals simp only [regMapOf, hubReg, dkReg, suReg, rdReg, landReg, clusterReg, quarterReg, stackReg, portReg]
  all_goals repeat' apply regular_ite
  all_goals rfl

theorem fieldsApart_of_regMapOf {b : Blk} {o : Nat} {m : RegMap} (h : regMapOf b o = some m) : fieldsApart m.fs = true := by
  simpa [Regular, h] using regular_regMapOf b o

/-! ### Writing and reading, bit by bit -/

/-- What a write makes of a bit of a field with an access code (R6): `sel` says that the mask selects it, `v` is the bit written, `a` the
old one. -/
def Acc.writeBit (c : Acc) (sel v a : Bool) : Bool :=
  match c with
  | .rw => if sel then v else a
  | .wo => if sel then v else a
  | .ro => a
  | .w1c => a && !(sel && v)
  | .w1s => a || (sel && v)

theorem getLsbD_write_in {x : RField} {i : Nat} (hi : i < 64) (hx : x.f.Has i) (mask v a : Word) :
    (x.write mask v a).getLsbD i = x.acc.writeBit (mask.getLsbD i) (v.getLsbD i) (a.getLsbD i) := by
  have hm : x.f.mask.getLsbD i = true := (getLsbD_mask x.f i).trans (decide_eq_true ⟨hi, hx.1, hx.2⟩)
  unfold RField.write Acc.writeBit
  cases x.acc <;> simp only [BitVec.getLsbD_or, BitVec.getLsbD_and, BitVec.getLsbD_not, hm, hi, decide_true, Bool.true_and, Bool.and_true]
  case rw => cases mask.getLsbD i <;> simp
  case wo => cases mask.getLsbD i <;> simp
  case w1c => rw [Bool.and_comm (v.getLsbD i)]
  case w1s => rw [Bool.and_comm (v.getLsbD i)]

theorem getLsbD_write_out {x : RField} {i : Nat} (hx : ¬ x.f.Has i) (mask v a : Word) : (x.write mask v a).getLsbD i = a.getLsbD i := by
  have hm : x.f.mask.getLsbD i = false := (getLsbD_mask x.f i).trans (decide_eq_false fun h => hx h.2)
  have hlt : a.getLsbD i = true → i < 64 := fun h => BitVec.lt_of_getLsbD h
  unfold RField.write
  cases x.acc <;> simp only [BitVec.getLsbD_or, BitVec.getLsbD_and, BitVec.getLsbD_not, hm, Bool.and_false, Bool.or_false, Bool.not_false,
    Bool.and_true]
  case rw => simpa using hlt
  case wo => simpa using hlt
  case w1c => simpa using hlt

/-- A write leaves the bits of no field. -/
theorem getLsbD_writeVal_out {fs : List RField} {i : Nat} (h : ∀ x ∈ fs, ¬ x.f.Has i) (mask v a : Word) :
    (fs.foldl (fun a x => x.write mask v a) a).getLsbD i = a.getLsbD i := by
  induction fs generalizing a with
  | nil => rfl
  | cons y ys ih =>
    rw [List.foldl_cons, ih fun x hx => h x (List.mem_cons_of_mem _ hx), getLsbD_write_out (h y List.mem_cons_self)]

theorem getLsbD_readVal_out {fs : List RField} {i : Nat} (h : ∀ x ∈ fs, ¬ x.f.Has i) (st a : Word) :
    (fs.foldl (fun a x => if x.acc = .wo then a else setF a x.f (getF st x.f)) a).getLsbD i = a.getLsbD i := by
  induction fs generalizing a with
  | nil => rfl
  | cons y ys ih =>
    rw [List.foldl_cons, ih fun x hx => h x (List.mem_cons_of_mem _ hx)]
    split
    · rfl
    · rw [getLsbD_setF, if_neg fun hy => h y List.mem_cons_self hy.2]

/-- A list of fields that lie apart, seen from the field of one bit. -/
theorem fieldsApart_split {fs : List RField} (hfs : fieldsApart fs = true) {x : RField} (hx : x ∈ fs) {i : Nat} (hi : x.f.Has i) :
    i < 64 ∧ ∃ as bs, fs = as ++ x :: bs ∧ (∀ y ∈ as, ¬ y.f.Has i) ∧ ∀ y ∈ bs, ¬ y.f.Has i := by
  induction fs with
  | nil => cases hx
  | cons z zs ih =>
    simp only [fieldsApart, Bool.and_eq_true, decide_eq_true_eq, List.all_eq_true] at hfs
    obtain ⟨⟨hz, hapart⟩, hzs⟩ := hfs
    unfold Fld.Has at *
    rcases List.mem_cons.mp hx with rfl | hx
    · exact ⟨by omega, [], zs, rfl, by simp, fun y hy => by have := hapart y hy; omega⟩
    · have hzx := hapart x hx
      obtain ⟨hlt, as, bs, rfl, has, hbs⟩ := ih hzs hx
      refine ⟨hlt, z :: as, bs, rfl, fun y hy => ?_, hbs⟩
      rcases List.mem_cons.mp hy with rfl | hy
      · omega
      · exact has y hy

/-- A write's bit in a field is that field's (R6). -/
theorem getLsbD_writeVal_in {m : RegMap} (hm : fieldsApart m.fs = true) {x : RField} (hx : x ∈ m.fs) {i : Nat} (hi : x.f.Has i)
    (mask v st : Word) :
    (m.writeVal mask v st).getLsbD i = x.acc.writeBit (mask.getLsbD i) (v.getLsbD i) (st.getLsbD i) := by
  obtain ⟨hlt, as, bs, hfs, has, hbs⟩ := fieldsApart_split hm hx hi
  rw [RegMap.writeVal, hfs, List.foldl_append, List.foldl_cons, getLsbD_writeVal_out hbs, getLsbD_write_in hlt hi,
    getLsbD_writeVal_out has]

/-- A read's bit in a field is the stored one, but for WO fields (R6). -/
theorem getLsbD_readVal_in {m : RegMap} (hm : fieldsApart m.fs = true) {x : RField} (hx : x ∈ m.fs) {i : Nat} (hi : x.f.Has i)
    (st : Word) : (m.readVal st).getLsbD i = if x.acc = .wo then false else st.getLsbD i := by
  obtain ⟨hlt, as, bs, hfs, has, hbs⟩ := fieldsApart_split hm hx hi
  rw [RegMap.readVal, hfs, List.foldl_append, List.foldl_cons, getLsbD_readVal_out hbs]
  split
  · exact (getLsbD_readVal_out has st 0).trans BitVec.getLsbD_zero
  · obtain ⟨hlo, hhi⟩ := hi
    rw [getLsbD_setF, if_pos ⟨hlt, hlo, hhi⟩, testBit_getF, Nat.add_sub_cancel' hlo, decide_eq_true (by omega), Bool.true_and]

/-- A 4-byte write's half of the register (R26). -/
theorem writeMask_half (o : Nat) (v : Word) {i : Nat} (hi : i < 64) :
    (writeMask o 4 v).1.getLsbD i = decide (i / 32 = o / 4 % 2) ∧
      (i / 32 = o / 4 % 2 → (writeMask o 4 v).2.getLsbD i = v.getLsbD (i % 32)) := by
  have hhalf : o / 4 % 2 < 2 := Nat.mod_lt _ (by decide)
  simp only [writeMask, if_neg (show ¬ 4 = 8 by decide), BitVec.getLsbD_ofNat, Nat.testBit_shiftLeft, testBit_ones,
    Nat.testBit_mod_two_pow]
  generalize o / 4 % 2 = h at hhalf ⊢
  refine ⟨?_, fun hih => ?_⟩
  · rw [decide_eq_true hi, Bool.true_and, ← Bool.decide_and, decide_eq_decide]
    omega
  · have hpos : i - 32 * h = i % 32 := by omega
    rw [decide_eq_true hi, decide_eq_true (by omega : i ≥ 32 * h), hpos, decide_eq_true (by omega : i % 32 < 32)]
    rfl

/-- Settles O41: a register's fields lie apart, so each bit is written and read by its own field's code. -/
theorem accessCodes : Obligations.AccessCodes := by
  refine ⟨fun b o m hm mask v st => ⟨fun x hx i hlo hhi => ⟨?_, ?_⟩, fun i hout => ⟨?_, ?_⟩⟩, fun o i v hi => writeMask_half o v hi⟩
  · rw [getLsbD_writeVal_in (fieldsApart_of_regMapOf hm) hx ⟨hlo, hhi⟩]
    rfl
  · exact getLsbD_readVal_in (fieldsApart_of_regMapOf hm) hx ⟨hlo, hhi⟩ st
  · exact getLsbD_writeVal_out (fun x hx hi => by have := hout x hx; unfold Fld.Has at hi; omega) mask v st
  · exact (getLsbD_readVal_out (fun x hx hi => by have := hout x hx; unfold Fld.Has at hi; omega) st 0).trans BitVec.getLsbD_zero

end Sys2Proof.Machine
end

section
/-!
PROOF. Division (spec/04 R90), from which the statement O44.
-/
namespace Sys2Proof.Machine

/-! ### Each operation on integers against the operation on words -/

section
variable {n : Nat} (x y : BitVec n)

theorem ofInt_tdiv_toInt : BitVec.ofInt n (x.toInt.tdiv y.toInt) = x.sdiv y :=
  BitVec.eq_of_toInt_eq (by rw [BitVec.toInt_ofInt, BitVec.toInt_sdiv])

theorem ofInt_tmod_toInt : BitVec.ofInt n (x.toInt.tmod y.toInt) = x.srem y := by
  rw [← BitVec.toInt_srem, BitVec.ofInt_toInt]

theorem ofInt_udiv_toNat : BitVec.ofInt n (x.toNat / y.toNat : Nat) = x / y := by
  rw [← BitVec.toNat_udiv, ofInt_toNat]

theorem ofInt_umod_toNat : BitVec.ofInt n (x.toNat % y.toNat : Nat) = x % y := by
  rw [← BitVec.toNat_umod, ofInt_toNat]

theorem toNat_eq_zero : y.toNat = 0 ↔ y = 0#n := by
  rw [← BitVec.toNat_inj]
  simp

variable (hn : 0 < n)
include hn

theorem toInt_eq_intMin : x.toInt = -(2 ^ (n - 1)) ↔ x = BitVec.intMin n := by
  have hlt : 2 ^ (n - 1) < 2 ^ n := Nat.pow_lt_pow_right (by decide) (by omega)
  rw [← BitVec.toInt_inj, BitVec.toInt_intMin, Nat.mod_eq_of_lt hlt, natCast_two_pow]

theorem toInt_eq_neg_one : y.toInt = -1 ↔ y = BitVec.allOnes n := by
  rw [← BitVec.toInt_inj, BitVec.toInt_allOnes, if_pos hn]

/-- The quotient of the most negative value by -1 is that value again. -/
theorem sdiv_of_over (hx : x = BitVec.intMin n) (hy : y = BitVec.allOnes n) : x.sdiv y = x := by
  rw [← ofInt_tdiv_toInt, (toInt_eq_neg_one y hn).mpr hy, Int.tdiv_neg, Int.tdiv_one, BitVec.ofInt_neg, BitVec.ofInt_toInt, hx,
    BitVec.neg_intMin]

theorem srem_of_neg_one (hy : y = BitVec.allOnes n) : x.srem y = 0 := by
  rw [← ofInt_tmod_toInt, (toInt_eq_neg_one y hn).mpr hy, Int.tmod_neg, Int.tmod_one]
  rfl

end

/-! ### The divider's answer (R90) -/

theorem ofInt_neg_one {n : Nat} (hn : 0 < n) : BitVec.ofInt n (-1) = BitVec.allOnes n := by
  rw [← (toInt_eq_neg_one (BitVec.allOnes n) hn).mpr rfl, BitVec.ofInt_toInt]

theorem signExtend_zero (n : Nat) : (0 : BitVec n).signExtend 64 = 0 := by
  simp [BitVec.signExtend]

/-- A value of the part that is read is that of the whole words or of their low halves (R87). -/
theorem apply_operand {β : Type} (f : ∀ {n : Nat}, BitVec n → BitVec n → β) (w32 : Bool) (a b : Word) :
    f (operand w32 a) (operand w32 b) = if w32 then f (a.setWidth 32) (b.setWidth 32) else f a b := by
  cases w32
  · show f (a.setWidth 64) (b.setWidth 64) = f a b
    rw [BitVec.setWidth_eq, BitVec.setWidth_eq]
  · rfl

theorem wres_opWidth (w32 : Bool) (i : Int) : wres (if w32 then 32 else 64) i = (BitVec.ofInt (opWidth w32) i).signExtend 64 :=
  wres_eq_signExtend ..

theorem opWidth_pos (w32 : Bool) : 0 < opWidth w32 := by
  cases w32 <;> decide

/-- A division of words (R90): the result, whether the divisor is zero, and whether the division overflows. -/
def divAnswer {n : Nat} (op : Nat) (x y : BitVec n) : BitVec n × Bool × Bool := (divSpec op x y, y == 0, divOver op x y)

section
variable {n : Nat} (hn : 0 < n) (op : Nat) (hop : op ≤ 3) (x y : BitVec n)

/-- A zero divisor gives all ones or the dividend, and overflows nothing. -/
theorem divAnswer_zero (hn : 0 < n) : divAnswer op x 0#n = (if 2 ≤ op then x else BitVec.allOnes n, true, false) := by
  rcases Nat.lt_or_ge op 2 with h | h
  · simp [divAnswer, divSpec, divOver, Nat.ne_of_gt hn, h, Nat.not_le.mpr h]
  · simp [divAnswer, divSpec, divOver, Nat.ne_of_gt hn, h, Nat.not_lt.mpr h]

include hop

/-- An unsigned division with a divisor. -/
theorem divAnswer_unsigned (hy : y ≠ 0#n) (hodd : op % 2 = 1) :
    divAnswer op x y = (if 2 ≤ op then x % y else x / y, false, false) := by
  obtain rfl | rfl : op = 1 ∨ op = 3 := by omega
  all_goals simp [divAnswer, divSpec, divOver, hy]

/-- The signed division that has no quotient. -/
theorem divAnswer_over (hn : 0 < n) (heven : op % 2 = 0) :
    divAnswer op (BitVec.intMin n) (BitVec.allOnes n) = (if 2 ≤ op then 0 else BitVec.intMin n, false, true) := by
  obtain rfl | rfl : op = 0 ∨ op = 2 := by omega
  · simp [divAnswer, divSpec, divOver, Nat.ne_of_gt hn, sdiv_of_over _ _ hn rfl rfl]
  · simp [divAnswer, divSpec, divOver, Nat.ne_of_gt hn, srem_of_neg_one _ _ hn rfl]

/-- Every other signed division with a divisor. -/
theorem divAnswer_signed (hy : y ≠ 0#n) (heven : op % 2 = 0) (hover : ¬ (x = BitVec.intMin n ∧ y = BitVec.allOnes n)) :
    divAnswer op x y = (if 2 ≤ op then x.srem y else x.sdiv y, false, false) := by
  obtain rfl | rfl : op = 0 ∨ op = 2 := by omega
  all_goals simpa [divAnswer, divSpec, divOver, hy] using hover

end

/-- The divider's answer is that of the division on the words it computes on, its result sign-extended (R87, R90). -/
theorem divCompute_eq_divAnswer {op : Nat} (hop : op ≤ 3) (w32 : Bool) (a b : Word) :
    divCompute op w32 a b =
      Prod.map (BitVec.signExtend 64) id (divAnswer op (operand w32 a) (operand w32 b)) := by
  have hn := opWidth_pos w32
  unfold divCompute
  simp only [sval_eq_operand, mod_eq_operand, wres_opWidth, decide_eq_true_eq, beq_iff_eq]
  change (if (operand w32 b).toNat = 0 then _ else if _ then _ else
    if (operand w32 a).toInt = -(2 ^ (opWidth w32 - 1)) ∧ _ then _ else _) = _
  generalize operand w32 a = x
  generalize operand w32 b = y
  simp only [toNat_eq_zero, toInt_eq_intMin x hn, toInt_eq_neg_one y hn]
  split
  · next hy =>
    rw [hy, divAnswer_zero op x hn]
    rw [BitVec.ofInt_toInt, ofInt_neg_one hn, ← apply_ite]
    rfl
  · next hy =>
    split
    · next hodd =>
      rw [divAnswer_unsigned op hop x y hy hodd, ofInt_umod_toNat, ofInt_udiv_toNat, ← apply_ite]
      rfl
    · next heven =>
      split
      · next hover =>
        obtain ⟨rfl, rfl⟩ := hover
        rw [divAnswer_over op hop hn (by omega), BitVec.ofInt_toInt, Prod.map, apply_ite (BitVec.signExtend 64),
          signExtend_zero]
        rfl
      · next hover =>
        rw [divAnswer_signed op hop x y hy (by omega) hover, ofInt_tmod_toInt, ofInt_tdiv_toInt, ← apply_ite]
        rfl

/-! ### DIVIDE_COMPLETE -/

/-- What the divider leaves when the divide of a context completes. -/
theorem exec_divideComplete_of_div {s : State} {l c : Nat} {b : WB} {y : Syl} (howner : (getCl s.dev l).divOwner = some c)
    (h : sylFor s.dev l c 0 .div (· == .divide) = some (b, y)) :
    exec (.divideComplete l) s = .next (s.withDev
      (finishDivide (updCl s.dev l (fun k => { k with divOwner := none })) l c b y (getCtx s.dev l c))) := by
  show State.upd s (divideComplete l) = _
  simp only [State.upd, divideComplete, howner, h]
  rfl

/-- The divider's owner is no part of a context. -/
theorem getCtx_updCl_divOwner (d : Dev) (l c : Nat) (o : Option Nat) :
    getCtx (updCl d l (fun k => { k with divOwner := o })) l c = getCtx d l c := by
  simp [getCtx]

theorem finishDivide_eq {s : Dev} {l c : Nat} {b : WB} {y : Syl} {p : SylSt → Bool} (h : sylFor s l c 0 .div p = some (b, y))
    (x : Ctx) {r : Word} {zero ovf : Bool}
    (hr : divCompute (fOP y.word) (fW y.word) (sread x (fRA y.word)) (sread x (fRB y.word)) = (r, zero, ovf)) :
    let d := updCl s l (fun k => { k with divOwner := none })
    finishDivide d l c b y x = if zero ∧ b.md.idz then withSyl d l c 0 b y (.faulted ⟨0x0A, 0⟩) []
      else if ovf ∧ b.md.iov then withSyl d l c 0 b y (.faulted ⟨0x0B, 0⟩) []
      else withSyl d l c 0 b y .done [.sreg (fRD y.word) r] := by
  have hwb := congrArg Ctx.wb (getCtx_updCl_divOwner s l c none)
  simp only [finishDivide, hr, failSyl, doneReg, setSyl_eq h hwb]

/-- A divide with a zero divisor does not overflow. -/
theorem divOver_zero {n : Nat} (hn : 0 < n) (op : Nat) (x : BitVec n) : divOver op x 0#n = false :=
  congrArg (fun r => r.2.2) (divAnswer_zero op x hn)

/-- Settles O44: the divider's answer is the division of words, and its two traps exclude each other. -/
theorem divideResults : Obligations.DivideResults := by
  intro s l c b y howner h p q d w zero above hop
  have hzero : zero = (operand w q == 0) := (apply_operand (fun _ y => y == 0) w p q).symm
  have habove : above = divOver (fOP y.word) (operand w p) (operand w q) := (apply_operand (divOver (fOP y.word)) w p q).symm
  have hresult : divResult (fOP y.word) w p q = (divSpec (fOP y.word) (operand w p) (operand w q)).signExtend 64 :=
    (signExtend_operand (divSpec (fOP y.word)) w p q).symm
  have hanswer : divCompute (fOP y.word) w p q = (divResult (fOP y.word) w p q, zero, above) := by
    rw [hresult, hzero, habove]
    exact divCompute_eq_divAnswer hop w p q
  have hexcl : above = true → zero = false := fun h => by
    rw [hzero]
    refine beq_eq_false_iff_ne.mpr fun hq => ?_
    rw [habove, hq, show (0 : BitVec _) = 0#_ from rfl, divOver_zero (opWidth_pos w)] at h
    cases h
  rw [exec_divideComplete_of_div howner h, finishDivide_eq h _ hanswer]
  refine ⟨fun hz hidz => ?_, fun ha hiov => ?_, fun hz ha => ?_⟩
  · rw [if_pos ⟨hz, hidz⟩]
  · rw [if_neg (by simp [hexcl ha]), if_pos ⟨ha, hiov⟩]
  · rw [if_neg fun h => by simp [hz h.1] at h, if_neg fun h => by simp [ha h.1] at h]

end Sys2Proof.Machine
end

section
/-!
PROOF. What executes in W changes its own bundle alone (spec/03 R60): one lemma for each operation on a syllable, from which the
statement O46.
-/
namespace Sys2Proof.Machine

section
variable (l c slot : Nat) (d : Dev)

theorem onlyBundle_ite {p : Prop} [Decidable p] {s a b : Dev} (ha : OnlyBundle l c s a) (hb : OnlyBundle l c s b) :
    OnlyBundle l c s (if p then a else b) := by
  split
  · exact ha
  · exact hb

theorem onlyBundle_doneReg (w : Syllable) (v : Word) : OnlyBundle l c d (doneReg d l c slot w v) := onlyBundle_setSyl ..

theorem onlyBundle_failSyl (t : Trap) : OnlyBundle l c d (failSyl d l c slot t) := onlyBundle_setSyl ..

theorem onlyBundle_aluSyl : OnlyBundle l c d (aluSyl l c slot d) := onlyBundle_onSyl _ _ _ _ _ _ _ fun _ _ _ => onlyBundle_doneReg ..

theorem onlyBundle_addsSyl : OnlyBundle l c d (addsSyl l c slot d) :=
  onlyBundle_onSyl _ _ _ _ _ _ _ fun _ _ _ => onlyBundle_ite l c (onlyBundle_failSyl ..) (onlyBundle_doneReg ..)

theorem onlyBundle_mulSyl : OnlyBundle l c d (mulSyl l c d) := onlyBundle_onSyl _ _ _ _ _ _ _ fun _ _ _ => onlyBundle_doneReg ..

theorem onlyBundle_floatSyl (op : Op) : OnlyBundle l c d (floatSyl l c op d) :=
  onlyBundle_onSyl _ _ _ _ _ _ _ fun _ _ _ => onlyBundle_ite l c (onlyBundle_failSyl ..) (onlyBundle_setSyl ..)

theorem onlyBundle_getcSyl : OnlyBundle l c d (getcSyl l c d) := by
  refine onlyBundle_onSyl _ _ _ _ _ _ _ fun b y x => ?_
  dsimp only
  split
  · exact onlyBundle_doneReg ..
  · exact onlyBundle_setSyl ..

theorem onlyBundle_setcSyl : OnlyBundle l c d (setcSyl l c d) :=
  onlyBundle_onSyl _ _ _ _ _ _ _ fun _ _ _ => onlyBundle_ite l c (onlyBundle_failSyl ..) <|
    onlyBundle_ite l c (onlyBundle_ite l c (onlyBundle_setSyl ..) (onlyBundle_setSyl ..)) <|
      onlyBundle_ite l c (onlyBundle_setSyl ..) (onlyBundle_setSyl ..)

theorem onlyBundle_sevtSyl : OnlyBundle l c d (sevtSyl l c d) := onlyBundle_onSyl _ _ _ _ _ _ _ fun _ _ _ => onlyBundle_setSyl ..

theorem onlyBundle_vsetvlSyl : OnlyBundle l c d (vsetvlSyl l c d) := onlyBundle_onSyl _ _ _ _ _ _ _ fun _ _ _ => onlyBundle_setSyl ..

/-- A branch, and a call whose delay bundle is read, completes or waits; where nothing decodes, a free value is drawn. -/
theorem onlyBundle_branchSyl (b : WB) (isCall taken : Bool) (tgt : Word) : OnlyBundle l c d (branchSyl d l c b isCall taken tgt) := by
  unfold branchSyl
  split
  · exact onlyBundle_setSyl ..
  · dsimp only
    split
    · exact .refl ..
    · exact .refl ..
    · split
      · exact onlyBundle_setSyl ..
      · exact onlyBundle_setSyl_free ..
    · exact onlyBundle_setSyl_free ..

theorem onlyBundle_brSyl : OnlyBundle l c d (brSyl l c d) := onlyBundle_onSyl _ _ _ _ _ _ _ fun _ _ _ => onlyBundle_branchSyl ..

theorem onlyBundle_bcSyl : OnlyBundle l c d (bcSyl l c d) := onlyBundle_onSyl _ _ _ _ _ _ _ fun _ _ _ => onlyBundle_setSyl ..

theorem onlyBundle_jrSyl : OnlyBundle l c d (jrSyl l c d) := onlyBundle_onSyl _ _ _ _ _ _ _ fun _ _ _ => onlyBundle_branchSyl ..

theorem onlyBundle_oneEff (op : Op) (e : Syl → Eff) : OnlyBundle l c d (oneEff l c op e d) :=
  onlyBundle_onSyl _ _ _ _ _ _ _ fun _ _ _ => onlyBundle_setSyl ..

theorem onlyBundle_fenceSyl : OnlyBundle l c d (fenceSyl l c d) := onlyBundle_onSyl _ _ _ _ _ _ _ fun _ _ _ => onlyBundle_setSyl ..

end

/-- Settles O46, command by command. -/
theorem executionFrame : Obligations.ExecutionFrame := by
  intro s l c slot i hi
  simp only [List.mem_cons, List.not_mem_nil, or_false] at hi
  rcases hi with rfl | rfl | rfl | rfl | rfl | rfl | rfl | rfl | rfl | rfl | rfl | rfl | rfl | rfl | rfl | rfl | rfl | rfl | rfl | rfl
  · exact ⟨_, rfl, onlyBundle_aluSyl ..⟩
  · exact ⟨_, rfl, onlyBundle_addsSyl ..⟩
  · exact ⟨_, rfl, onlyBundle_mulSyl ..⟩
  · exact ⟨_, rfl, onlyBundle_floatSyl ..⟩
  · exact ⟨_, rfl, onlyBundle_floatSyl ..⟩
  · exact ⟨_, rfl, onlyBundle_floatSyl ..⟩
  · exact ⟨_, rfl, onlyBundle_floatSyl ..⟩
  · exact ⟨_, rfl, onlyBundle_floatSyl ..⟩
  · exact ⟨_, rfl, onlyBundle_getcSyl ..⟩
  · exact ⟨_, rfl, onlyBundle_setcSyl ..⟩
  · exact ⟨_, rfl, onlyBundle_sevtSyl ..⟩
  · exact ⟨_, rfl, onlyBundle_vsetvlSyl ..⟩
  · exact ⟨_, rfl, onlyBundle_brSyl ..⟩
  · exact ⟨_, rfl, onlyBundle_bcSyl ..⟩
  · exact ⟨_, rfl, onlyBundle_jrSyl ..⟩
  · exact ⟨_, rfl, onlyBundle_oneEff ..⟩
  · exact ⟨_, rfl, onlyBundle_oneEff ..⟩
  · exact ⟨_, rfl, onlyBundle_oneEff ..⟩
  · exact ⟨_, rfl, onlyBundle_oneEff ..⟩
  · exact ⟨_, rfl, onlyBundle_fenceSyl ..⟩

end Sys2Proof.Machine
end

section
/-!
PROOF. Writes to a stack (spec/15 R348): the bytes that a masked write leaves, from which the statement O49.
-/
namespace Sys2Proof.Machine

/-! ### Bytes merged under a mask -/

/-- Bit `j` of a byte mask spread over bits. -/
theorem testBit_spread (k m j : Nat) : (spread k m).testBit j = (decide (j / 8 < k) && m.testBit (j / 8)) := by
  unfold spread
  induction k with
  | zero => simp
  | succ k ih =>
    rw [List.range_succ, List.foldl_append, List.foldl_cons, List.foldl_nil]
    have hff : ((0xFF <<< (8 * k) : Nat)).testBit j = decide (j / 8 = k) := by
      rw [show (0xFF : Nat) = ones 8 from rfl, Nat.testBit_shiftLeft, testBit_ones, ← Bool.decide_and, decide_eq_decide]
      omega
    by_cases hk : j / 8 = k
    · subst hk
      split
      · next hm => simp [ih, hff, hm]
      · next hm => simp [ih, hm]
    · have hlt : decide (j / 8 < k + 1) = decide (j / 8 < k) := by
        rw [decide_eq_decide]
        omega
      rw [hlt]
      split
      · rw [Nat.testBit_or, ih, hff, decide_eq_false hk, Bool.or_false]
      · exact ih

theorem spread_lt (k m : Nat) : spread k m < 2 ^ (8 * k) := by
  refine Nat.lt_pow_two_of_testBit _ fun j hj => ?_
  rw [testBit_spread, decide_eq_false (by omega), Bool.false_and]

/-- A merge takes each byte that the mask selects from the new value, every other from the old. -/
theorem byte_mergeBytes {n i : Nat} (hi : i < n) (m old new : Nat) :
    BitVec.ofNat 8 (mergeBytes n m old new >>> (8 * i)) =
      if m.testBit i then BitVec.ofNat 8 (new >>> (8 * i)) else BitVec.ofNat 8 (old >>> (8 * i)) := by
  have hones : ones (8 * n) - spread n m = 2 ^ (8 * n) - (spread n m + 1) := by
    unfold ones
    omega
  apply BitVec.eq_of_getLsbD_eq
  intro b hb
  have hbyte : (8 * i + b) / 8 = i := by omega
  rw [apply_ite (fun x : Byte => x.getLsbD b)]
  simp only [BitVec.getLsbD_ofNat, Nat.testBit_shiftRight, mergeBytes, hones, Nat.testBit_or, Nat.testBit_and,
    Nat.testBit_two_pow_sub_succ (spread_lt n m), testBit_spread, hbyte, hi, hb, show 8 * i + b < 8 * n by omega, decide_true,
    Bool.true_and]
  cases m.testBit i <;> simp

/-- The bytes read of a stack, one by one. -/
theorem byte_mbytes {i n : Nat} (hi : i < n) (d : Dev) (k off : Nat) :
    BitVec.ofNat 8 (ofBytes (mbytes d k off n) >>> (8 * i)) = mbyte d k (off + i) := by
  have hlen : (mbytes d k off n).length = n := by simp [mbytes, Tab.getRun]
  have hbyte := getElem?_toBytes n (ofBytes (mbytes d k off n)) i hi
  have hspelled := toBytes_ofBytes (mbytes d k off n)
  rw [hlen] at hspelled
  rw [hspelled] at hbyte
  have hread : (mbytes d k off n)[i]? = some (mbyte d k (off + i)) := by
    simp [mbytes, Tab.getRun, hi, mbyte, memKey, Nat.add_assoc]
  exact Option.some.inj (hbyte.symm.trans hread)

/-! ### stackWrite -/

/-- The memory that a write of a stack leaves: a whole sector's bytes, the memory as it was where the sector is uncorrectable, or the
bytes merged. -/
theorem stackWrite_mem (d : Dev) (k off n m v : Nat) (bad : Bool) :
    (n = 64 ∧ m = 2 ^ 64 - 1) ∧ (stackWrite d k off n m v bad).mem = (mwriteBytes d k off (toBytes n v)).mem ∨
    sectorBad d k off = true ∧ ¬(n = 64 ∧ m = 2 ^ 64 - 1) ∧ (stackWrite d k off n m v bad).mem = d.mem ∨
    (stackWrite d k off n m v bad).mem = (mwriteBytes d k off (toBytes n (mergeBytes n m (ofBytes (mbytes d k off n)) v))).mem := by
  unfold stackWrite
  split
  · next h => exact .inl ⟨h, rfl⟩
  · next h =>
    split
    · next hbad =>
      refine .inr (.inl ⟨hbad, h, ?_⟩)
      dsimp only [eccCapture]
      split <;> rfl
    · refine .inr (.inr ?_)
      dsimp only
      split <;> rfl

theorem mbyte_congr {d e : Dev} (h : e.mem = d.mem) (k off : Nat) : mbyte e k off = mbyte d k off := by
  rw [mbyte, mbyte, h]

/-- A byte that a run of bytes writes. -/
theorem mbyte_mwriteBytes_toBytes {n i : Nat} (hi : i < n) (d : Dev) (k off v : Nat) :
    mbyte (mwriteBytes d k off (toBytes n v)) k (off + i) = BitVec.ofNat 8 (v >>> (8 * i)) := by
  have hlt : i < (toBytes n v).length := by simpa using hi
  rw [mbyte_mwriteBytes_in d k off i _ hlt]
  exact Option.some.inj ((List.getElem?_eq_getElem hlt).symm.trans (getElem?_toBytes n v i hi))

/-- Settles O49: the three memories that a write can leave. -/
theorem stackWriteFrame : Obligations.StackWriteFrame := by
  intro d k off n m v bad
  refine ⟨fun j a hout => ?_, fun hperf i hi => ?_, stackWrite_memWf d k off n m v bad⟩
  · rcases stackWrite_mem d k off n m v bad with ⟨-, hmem⟩ | ⟨-, -, hmem⟩ | hmem
    · rw [mbyte_congr hmem, mbyte_mwriteBytes_out _ _ _ _ _ _ (by simpa using hout)]
    · exact mbyte_congr hmem j a
    · rw [mbyte_congr hmem, mbyte_mwriteBytes_out _ _ _ _ _ _ (by simpa using hout)]
  · rw [← Nat.shiftRight_eq_div_pow]
    rcases stackWrite_mem d k off n m v bad with ⟨⟨rfl, rfl⟩, hmem⟩ | ⟨hbad, hpart, -⟩ | hmem
    · rw [mbyte_congr hmem, mbyte_mwriteBytes_toBytes hi, if_pos (by rw [Nat.testBit_two_pow_sub_one, decide_eq_true hi])]
    · exact absurd (hperf.resolve_left hpart) (by simp [hbad])
    · rw [mbyte_congr hmem, mbyte_mwriteBytes_toBytes hi, byte_mergeBytes hi, byte_mbytes hi]

end Sys2Proof.Machine
end

section
/-!
PROOF. The retirement of a vector-mode bundle without V and X operations (spec/03 R60): what it does around its effects, from which
the statements O47 and O48.
-/
namespace Sys2Proof.Machine

/-! ### What touches one context and its set of registers alone -/

/-- The devices differ in context `c` of cluster `l`, but for its vector and mask registers, and in its set of registers (R103), alone;
the lists of waits and of mode changes stay empty where they were. -/
structure CtxStep (l c : Nat) (s d : Dev) : Prop where
  regs : ∀ o, o < csOff l c 0 ∨ csOff l (c + 1) 0 ≤ o → rget d o = rget s o
  mem : d.mem = s.mem
  booted : d.booted = s.booted
  clusters : ∀ m, m ≠ l → getCl d m = getCl s m
  contexts : ∀ k, k ≠ c → getCtx d l k = getCtx s l k
  cluster : { getCl d l with ctx := [], evq := [] } = { getCl s l with ctx := [], evq := [] }
  evq : (getCl s l).evq = [] → (getCl d l).evq = []
  v : (getCtx d l c).v = (getCtx s l c).v
  m : (getCtx d l c).m = (getCtx s l c).m
  shadow : (getCtx s l c).shadow = [] → (getCtx d l c).shadow = []

section
variable {l c : Nat} {s d e : Dev}

theorem CtxStep.refl (l c : Nat) (s : Dev) : CtxStep l c s s :=
  ⟨fun _ _ => rfl, rfl, rfl, fun _ _ => rfl, fun _ _ => rfl, rfl, id, rfl, rfl, id⟩

theorem CtxStep.trans (h : CtxStep l c s d) (g : CtxStep l c d e) : CtxStep l c s e where
  regs o ho := (g.regs o ho).trans (h.regs o ho)
  mem := g.mem.trans h.mem
  booted := g.booted.trans h.booted
  clusters m hm := (g.clusters m hm).trans (h.clusters m hm)
  contexts k hk := (g.contexts k hk).trans (h.contexts k hk)
  cluster := g.cluster.trans h.cluster
  evq := g.evq ∘ h.evq
  v := g.v.trans h.v
  m := g.m.trans h.m
  shadow := g.shadow ∘ h.shadow

theorem CtxStep.inReset (h : CtxStep l c s d) : (getCl d l).inReset = (getCl s l).inReset := (congrArg Cluster.inReset h.cluster :)

theorem CtxStep.mere (h : CtxStep l c s d) : (getCl d l).mere = (getCl s l).mere := (congrArg Cluster.mere h.cluster :)

theorem CtxStep.tiles (h : CtxStep l c s d) : (getCl d l).tiles = (getCl s l).tiles := (congrArg Cluster.tiles h.cluster :)

/-- A register of the context's own set written. -/
theorem ctxStep_rset (s : Dev) {o : Nat} (ho : csOff l c 0 ≤ o) (ho' : o < csOff l (c + 1) 0) (v : Word) :
    CtxStep l c s (rset s o v) :=
  { CtxStep.refl l c s with regs := fun p hp => rget_rset_ne s v (by omega) }

/-- The context changed, its vector and mask registers and its waiting mode changes apart. -/
theorem ctxStep_updCtx (s : Dev) {f : Ctx → Ctx} (hv : (f (getCtx s l c)).v = (getCtx s l c).v)
    (hm : (f (getCtx s l c)).m = (getCtx s l c).m) (hs : (getCtx s l c).shadow = [] → (f (getCtx s l c)).shadow = []) :
    CtxStep l c s (updCtx s l c f) where
  regs _ _ := rfl
  mem := rfl
  booted := rfl
  clusters m h := getCl_setCtx_ne s c _ h
  contexts k h := getCtx_updCtx_ne s l f h
  cluster := by simp [updCtx, setCtx]
  evq h := by simp [updCtx, setCtx, h]
  v := by rw [getCtx_updCtx_same, hv]
  m := by rw [getCtx_updCtx_same, hm]
  shadow h := by rw [getCtx_updCtx_same, hs h]

/-- The list of waits changed, which stays empty. -/
theorem ctxStep_updCl_evq (s : Dev) (f : List Nat → List Nat) (hf : f [] = []) :
    CtxStep l c s (updCl s l (fun k => { k with evq := f k.evq })) := by
  have hctx (k : Nat) : getCtx (updCl s l (fun k => { k with evq := f k.evq })) l k = getCtx s l k := by simp [getCtx]
  exact ⟨fun _ _ => rfl, rfl, rfl, fun m h => getCl_updCl_ne s _ h, fun k _ => hctx k, by simp, fun h => by simp [h, hf],
    congrArg Ctx.v (hctx c), congrArg Ctx.m (hctx c), fun h => (congrArg Ctx.shadow (hctx c)).trans h⟩

end

/-- A register of a context's set lies in the set. -/
theorem csOff_own (l c : Nat) {o : Nat} (ho : o < 0x80) : csOff l c 0 ≤ csOff l c o ∧ csOff l c o < csOff l (c + 1) 0 := by
  unfold csOff clOff
  omega

theorem ctxStep_rset_csOff (l c : Nat) (s : Dev) {o : Nat} (ho : o < 0x80) (v : Word) : CtxStep l c s (rset s (csOff l c o) v) :=
  ctxStep_rset s (csOff_own l c ho).1 (csOff_own l c ho).2 v

theorem ctxStep_rset_lcount (l c i : Nat) (s : Dev) (v : Word) : CtxStep l c s (rset s (lcountOff l c i) v) :=
  ctxStep_rset_csOff l c s (by split <;> decide) v

/-- The end of a loop writes the context's set of registers alone (R69), and no part of any cluster. -/
theorem loopEnd_step (l c : Nat) (addr : Word) (n : Nat) (d : Dev) :
    CtxStep l c d (loopEnd d l c addr n).1 ∧ (loopEnd d l c addr n).1.cl = d.cl := by
  induction n generalizing d with
  | zero => exact ⟨.refl .., rfl⟩
  | succ n ih =>
    unfold loopEnd
    split
    · split
      · dsimp only
        split
        · exact ⟨ctxStep_rset_lcount .., rfl⟩
        · next i _ _ _ =>
          obtain ⟨hstep, hcl⟩ := ih (rsetB (rset d (lcountOff l c i) (rget d (lcountOff l c i) - 1)) (csOff l c 0)
            (if i = 0 then CL_LSTAT.ACT0 else CL_LSTAT.ACT1) false)
          exact ⟨((ctxStep_rset_lcount ..).trans (ctxStep_rset_csOff l c _ (by decide) _)).trans hstep, hcl⟩
      · exact ⟨.refl .., rfl⟩
    · exact ⟨.refl .., rfl⟩

theorem getCl_loopEnd (l c : Nat) (addr : Word) (n : Nat) (d : Dev) (m : Nat) : getCl (loopEnd d l c addr n).1 m = getCl d m := by
  rw [getCl, (loopEnd_step l c addr n d).2, ← getCl]

theorem getCtx_loopEnd (l c : Nat) (addr : Word) (n : Nat) (d : Dev) (m k : Nat) : getCtx (loopEnd d l c addr n).1 m k = getCtx d m k := by
  rw [getCtx, getCl_loopEnd, ← getCtx]

/-! ### The retirement around the effects -/

/-- The effects that a syllable waits with. -/
def sylEffs (y : Option Syl) : List Eff := match y with | some y => y.eff | none => []

theorem sylEffs_eq (y : Option Syl) : sylEffs y = (y.map Syl.eff).getD [] := by cases y <;> rfl

/-- The effects that a bundle's syllables wait with, in the order of their slots (R60). -/
def wEffs (b : WB) : List Eff := sylEffs b.a ++ sylEffs b.b ++ sylEffs b.m

/-- Where execution goes on before any effect is applied. -/
def startNext (b : WB) (back : Option Word) : Next := ⟨back.getD (b.addr + BitVec.ofNat 64 (4 * b.len)), none, false, none⟩

/-- The effects applied, after the loop's end. -/
def effected (d : Dev) (l c : Nat) (b : WB) : Dev × Next :=
  (wEffs b).foldl (applyEff l c b) ((loopEnd d l c b.addr 2).1, startNext b (loopEnd d l c b.addr 2).2)

/-- The delay bundle that is due after a bundle (R64, R120). -/
def delayAfter (b : WB) (dl : Option Delay) : Option Delay :=
  match dl with | some x => some x | none => if threadBranch b then some ⟨false, 0, b.act, [], true⟩ else none

/-- The bundle gone from W, the context at its next bundle. -/
def leaveW (l c : Nat) (b : WB) (p : Dev × Next) : Dev :=
  updCl (updCtx (advance p.1 l c b p.2.pc (delayAfter b p.2.delay)) l c (fun x => { x with wb := none, swtrap := p.2.swtrap })) l
    (fun k => { k with evq := k.evq.filter (· != c) })

section
variable {d : Dev} {l c : Nat} {b : WB}

/-- A bundle that enters no queue and does not return. -/
theorem retireBundle_eq (hwb : (getCtx d l c).wb = some b) (hv : b.v = none) (hx : b.x = none)
    (htret : (effected d l c b).2.tret = false) :
    retireBundle d l c = tickShadow (leaveW l c b (effected d l c b)) l c := by
  have hunfold : retireBundle d l c = if (effected d l c b).2.tret then doTret (leaveW l c b (effected d l c b)) l c b.md.plev
      else tickShadow (leaveW l c b (effected d l c b)) l c := by
    unfold retireBundle
    simp only [hwb, hv, hx, Option.bind_none]
    rfl
  rw [hunfold, htret, if_neg Bool.false_ne_true]

/-- In vector mode a context's program counter and delay are all that its advance changes. -/
theorem ctxStep_leaveW (hgm : b.md.gm = false) (p : Dev × Next) :
    CtxStep l c p.1 (leaveW l c b p) ∧ (getCtx (leaveW l c b p) l c).s = (getCtx p.1 l c).s ∧ (getCtx (leaveW l c b p) l c).wb = none := by
  have hadvance : ∃ dl pc, advance p.1 l c b p.2.pc (delayAfter b p.2.delay) =
      updCtx p.1 l c (fun x => { x with delay := dl, pc := pc }) := by
    simp only [advance, hgm]
    exact ⟨_, _, rfl⟩
  obtain ⟨dl, pc, hadv⟩ := hadvance
  unfold leaveW
  rw [hadv]
  have hmoved : CtxStep l c p.1 (updCtx p.1 l c (fun x => { x with delay := dl, pc := pc })) := ctxStep_updCtx _ rfl rfl id
  have hs : (getCtx (updCtx p.1 l c (fun x => { x with delay := dl, pc := pc })) l c).s = (getCtx p.1 l c).s := by
    rw [getCtx_updCtx_same]
  generalize updCtx p.1 l c (fun x => { x with delay := dl, pc := pc }) = d at hmoved hs
  have hleft : CtxStep l c d (updCtx d l c (fun x => { x with wb := none, swtrap := p.2.swtrap })) := ctxStep_updCtx _ rfl rfl id
  exact ⟨(hmoved.trans hleft).trans (ctxStep_updCl_evq _ _ rfl), by simpa [getCtx, updCtx, setCtx] using hs,
    by simp [getCtx, updCtx, setCtx]⟩

/-- A context without waiting mode changes counts none (R74). -/
theorem tickShadow_of_empty (h : (getCtx d l c).shadow = []) : tickShadow d l c = updCtx d l c (fun x => { x with shadow := [] }) := by
  simp [tickShadow, h]

/-- Nothing waits for an event, so nothing is settled. -/
theorem settle_of_empty (h : (getCl d l).evq = []) : settle d l = d := by
  simp [settle, h]

/-- A retirement that resets neither the device nor its cluster. -/
theorem settleReset_of_step {s : Dev} (hb : d.booted = s.booted) (hr : (getCl d l).inReset = (getCl s l).inReset) :
    settleReset s d l = d := by
  simp [settleReset, hb, hr]

end

/-- BUNDLE_RETIRE of a bundle in vector mode that enters no queue, does not return and resets nothing, in a cluster where no context
waits: the effects and what surrounds them. -/
theorem exec_bundleRetire_eq {s : State} {l c : Nat} {b : WB} (hwb : (getCtx s.dev l c).wb = some b) (hown : ownRetire b = false)
    (hcomplete : complete s.dev l c = true) (hgm : b.md.gm = false) (hv : b.v = none) (hx : b.x = none)
    (htret : (effected s.dev l c b).2.tret = false) 
    (hevq : (getCl (effected s.dev l c b).1 l).evq = []) (hshadow : (getCtx (effected s.dev l c b).1 l c).shadow = [])
    (hbooted : (effected s.dev l c b).1.booted = s.dev.booted)
    (hreset : (getCl (effected s.dev l c b).1 l).inReset = (getCl s.dev l).inReset) :
    ∃ d, exec (.bundleRetire l c) s = .next (s.withDev d) ∧ CtxStep l c (effected s.dev l c b).1 d ∧
      (getCtx d l c).s = (getCtx (effected s.dev l c b).1 l c).s ∧ (getCtx d l c).wb = none := by
  obtain ⟨hleave, hs, hw⟩ := ctxStep_leaveW (l := l) (c := c) hgm (effected s.dev l c b)
  have htick := tickShadow_of_empty (hleave.shadow hshadow)
  have hstep : CtxStep l c (effected s.dev l c b).1 (tickShadow (leaveW l c b (effected s.dev l c b)) l c) := by
    rw [htick]
    exact hleave.trans (ctxStep_updCtx _ rfl rfl fun _ => rfl)
  refine ⟨_, ?_, hstep, ?_, ?_⟩
  · have hretire : retire s.dev l c = tickShadow (leaveW l c b (effected s.dev l c b)) l c := by
      rw [retire, retireBundle_eq hwb hv hx htret]
      exact settleReset_of_step (hstep.booted.trans hbooted) (hstep.inReset.trans hreset)
    show State.upd s (bundleRetire l c) = _
    simp only [State.upd, bundleRetire, hwb, hown, retireIf, hcomplete, if_true, hretire, settle_of_empty (hstep.evq hevq),
      Bool.false_eq_true, if_false, State.withDev]
  · rw [htick, getCtx_updCtx_same]
    exact hs
  · rw [htick, getCtx_updCtx_same]
    exact hw

/-! ### Scalar results and flags (O47) -/

/-- A scalar result or flags. -/
def ScalarEff (e : Eff) : Prop := (∃ r v, e = .sreg r v) ∨ ∃ f, e = .fflags f

/-- A scalar register written (R84). -/
theorem ctxStep_swrite (l c : Nat) (s : Dev) (r : Nat) (v : Word) : CtxStep l c s (updCtx s l c (fun x => swrite x r v)) := by
  unfold swrite
  split
  · exact ctxStep_updCtx s rfl rfl id
  · exact ctxStep_updCtx s rfl rfl id

/-- What a write of one scalar register leaves in each. -/
theorem sread_swrite (x : Ctx) (r q : Nat) (v : Word) : sread (swrite x q v) r = if q = r ∧ r ≠ 0 then v else sread x r := by
  split
  · next h =>
    obtain ⟨rfl, hq⟩ := h
    exact sread_swrite_same x v hq
  · next h =>
    by_cases hr : r = 0
    · rw [hr, sread_zero, sread_zero]
    · exact sread_swrite_ne x v fun hqr => h ⟨hqr.symm, hr⟩

theorem applyEff_sreg (l c : Nat) (b : WB) (p : Dev × Next) (r : Nat) (v : Word) :
    applyEff l c b p (.sreg r v) = (updCtx p.1 l c (fun x => swrite x r v), p.2) := rfl

theorem applyEff_fflags (l c : Nat) (b : WB) (p : Dev × Next) (f : Nat) :
    applyEff l c b p (.fflags f) = (rset p.1 (csOff l c 0x40) (rget p.1 (csOff l c 0x40) ||| BitVec.ofNat 64 (f % 32)), p.2) := rfl

/-- Scalar results and flags, applied one after the other. -/
theorem applyEffs_of_scalar (l c : Nat) (b : WB) {es : List Eff} (hes : ∀ e ∈ es, ScalarEff e) (p : Dev × Next) :
    CtxStep l c p.1 (es.foldl (applyEff l c b) p).1 ∧ (es.foldl (applyEff l c b) p).2 = p.2 ∧
      ∀ r, sread (getCtx (es.foldl (applyEff l c b) p).1 l c) r = regAfter r (sread (getCtx p.1 l c) r) es := by
  induction es generalizing p with
  | nil => exact ⟨.refl .., rfl, fun _ => rfl⟩
  | cons e es ih =>
    obtain ⟨hstep, hnext, hs⟩ := ih (fun e he => hes e (List.mem_cons_of_mem _ he)) (applyEff l c b p e)
    rw [List.foldl_cons]
    rcases hes e List.mem_cons_self with ⟨q, v, rfl⟩ | ⟨f, rfl⟩
    · rw [applyEff_sreg] at hstep hnext hs ⊢
      refine ⟨(ctxStep_swrite l c p.1 q v).trans hstep, hnext, fun r => (hs r).trans ?_⟩
      rw [getCtx_updCtx_same, sread_swrite]
      rfl
    · rw [applyEff_fflags] at hstep hnext hs ⊢
      exact ⟨(ctxStep_rset_csOff l c p.1 (by decide) _).trans hstep, hnext, hs⟩

/-- Settles O47: every effect is a scalar result or flags, and what surrounds the effects writes no scalar register. -/
theorem retireScalarFrame : Obligations.RetireScalarFrame := by
  intro s l c b hwb hown hcomplete hgm hv hx hevq hshadow es hes
  have hwe : wEffs b = es := by simp only [wEffs, sylEffs_eq, es]
  have hloop := (loopEnd_step l c b.addr 2 s.dev).1
  obtain ⟨heffs, hnext, hs⟩ := applyEffs_of_scalar l c b hes ((loopEnd s.dev l c b.addr 2).1, startNext b (loopEnd s.dev l c b.addr 2).2)
  have hp : effected s.dev l c b =
      es.foldl (applyEff l c b) ((loopEnd s.dev l c b.addr 2).1, startNext b (loopEnd s.dev l c b.addr 2).2) := by rw [effected, hwe]
  have hbefore := hloop.trans heffs
  rw [← hp] at hbefore hnext hs
  obtain ⟨d, hexec, hafter, hsame, hw⟩ := exec_bundleRetire_eq hwb hown hcomplete hgm hv hx (congrArg Next.tret hnext)
    (hbefore.evq hevq) (hbefore.shadow hshadow) hbefore.booted hbefore.inReset
  have hstep := hbefore.trans hafter
  refine ⟨d, hexec, fun r => ?_, hstep.v, hstep.m, hw, fun j a => mbyte_congr hstep.mem j a, hstep.contexts, hstep.clusters,
    hstep.mere, hstep.tiles, hstep.regs⟩
  have hread : sread (getCtx d l c) r = sread (getCtx (effected s.dev l c b).1 l c) r := by simp only [sread, hsame]
  rw [hread, hs r, getCtx_loopEnd]

/-! ### A store to the Mere (O48) -/

/-- A cluster with bytes of its Mere written. -/
def mereStored (k : Cluster) (a n v : Nat) : Cluster :=
  { k with mere := Tab.setRun 0 k.mere a (toBytes n v),
           badMere := k.badMere.filter (fun e => !(decide (a ≤ e.1) && decide (e.1 < a + n))) }

theorem getCl_mereWrite_same (d : Dev) (l a n v : Nat) : getCl (mereWrite d l a n v) l = mereStored (getCl d l) a n v :=
  getCl_updCl_same ..

theorem getCtx_mereWrite (d : Dev) (l a n v k : Nat) : getCtx (mereWrite d l a n v) l k = getCtx d l k := by
  rw [getCtx, getCl_mereWrite_same, mereStored, getCtx]

/-- Settles O48: the store writes its run of bytes, and what surrounds it leaves the Mere. -/
theorem mereStoreFrame : Obligations.MereStoreFrame := by
  intro s l c a n v b hwb hown hcomplete hgm hv hx hevq hshadow hes
  have hwe : wEffs b = [.store true a n v] := by simpa only [wEffs, sylEffs_eq] using hes
  have hp : effected s.dev l c b = (mereWrite (loopEnd s.dev l c b.addr 2).1 l a n v, startNext b (loopEnd s.dev l c b.addr 2).2) := by
    rw [effected, hwe]
    rfl
  have hloop := (loopEnd_step l c b.addr 2 s.dev).1
  have hcl : getCl (effected s.dev l c b).1 l = mereStored (getCl s.dev l) a n v := by rw [hp, getCl_mereWrite_same, getCl_loopEnd]
  have hctx (k : Nat) : getCtx (effected s.dev l c b).1 l k = getCtx s.dev l k := by rw [hp, getCtx_mereWrite, getCtx_loopEnd]
  obtain ⟨d, hexec, hafter, hsame, hw⟩ := exec_bundleRetire_eq hwb hown hcomplete hgm hv hx (by rw [hp]; rfl)
    (by rw [hcl, mereStored, hevq]) (by rw [hctx, hshadow]) (by rw [hp]; exact hloop.booted) (by rw [hcl, mereStored])
  have hmere : (getCl d l).mere = Tab.setRun 0 (getCl s.dev l).mere a (toBytes n v) :=
    hafter.mere.trans (congrArg Cluster.mere hcl)
  refine ⟨d, hexec, fun o ho => ?_, fun i hi => ?_, fun r => ?_, fun j o => ?_, fun k hk => ?_, fun m hm => ?_⟩
  · rw [hmere, Tab.get_setRun_out _ _ _ _ _ (by simpa using ho)]
  · have hlt : i < (toBytes n v).length := by simpa using hi
    rw [hmere, Tab.get_setRun_in _ _ _ _ i hlt, ← Nat.shiftRight_eq_div_pow]
    exact Option.some.inj ((List.getElem?_eq_getElem hlt).symm.trans (getElem?_toBytes n v i hi))
  · simp only [sread, hsame, hctx]
  · refine (mbyte_congr hafter.mem j o).trans (mbyte_congr ?_ j o)
    rw [hp]
    exact hloop.mem
  · rw [hafter.contexts k hk, hctx]
  · rw [hafter.clusters m hm, hp]
    exact (getCl_updCl_ne _ _ hm).trans (getCl_loopEnd ..)

end Sys2Proof.Machine
end

section
/-!
PROOF. Entry to a Datum-level handler in vector mode (spec/16 R362): what it writes and what it leaves, from which the statement O52.
-/
namespace Sys2Proof.Machine

/-! ### DT_SAVE -/

/-- A choice is one of its branches. -/
theorem ite_eq_or {α : Type} {p : Prop} [Decidable p] {a b x : α} (h : ite p a b = x) : a = x ∨ b = x := by
  split at h
  · exact .inl h
  · exact .inr h

/-- The offset within a cluster's block. -/
theorem offset_of_blkOf_cluster {o m r : Nat} (h : blkOf o = (.cluster m, r)) : r = (o - 0x0100_0000) % 0x1_0000 := by
  unfold blkOf at h
  iterate 6 (rcases ite_eq_or h with h | h; · cases h)
  rcases ite_eq_or h with h | h
  · exact (congrArg Prod.snd h).symm
  iterate 8 (rcases ite_eq_or h with h | h; · cases h)
  cases h

/-- A stored value of DT_SAVE that names a level which is held is stored as it is (R362). -/
theorem fixStored_dtSave (l : Nat) {c : Nat} (hc : c < 8) (old : Word) {w : Word} (hw : getF w DT_SAVE.PLEV ≠ 2) :
    fixStored (dtOff l c 0x08) old w = w := by
  unfold fixStored
  split
  case h_1 m r hblk =>
    obtain rfl : r = 0x4000 + 0x100 * c + 0x08 := (offset_of_blkOf_cluster hblk).trans (by unfold dtOff clOff; omega)
    rw [if_neg (by omega), if_pos (by omega), show (0x4000 + 0x100 * c + 0x08 - 0x4000) % 0x100 = 0x08 by omega]
    exact if_neg hw
  case h_2 => rfl

/-- The value of DT_SAVE at entry (R362). -/
def savedWord (cause : Nat) (lost ds gm : Bool) (plev lact : Nat) : Word :=
  setF (setF (setB (setB (setF (setB 0 DT_DSAVE.LOST lost) DT_SAVE.CAUSE cause) DT_SAVE.DS ds) DT_SAVE.GM gm) DT_SAVE.PLEV plev)
    DT_SAVE.LACT lact

section
variable (cause : Nat) (lost ds gm : Bool) (plev lact : Nat)

theorem savedWord_plev : getF (savedWord cause lost ds gm plev lact) DT_SAVE.PLEV = plev % 4 := by
  rw [savedWord, getF_setF_ne _ _ _ _ (by decide), getF_setF_same _ _ _ (by decide)]; rfl

theorem savedWord_cause : getF (savedWord cause lost ds gm plev lact) DT_SAVE.CAUSE = cause % 256 := by
  rw [savedWord, getF_setF_ne _ _ _ _ (by decide), getF_setF_ne _ _ _ _ (by decide), setB, getF_setF_ne _ _ _ _ (by decide),
    setB, getF_setF_ne _ _ _ _ (by decide), getF_setF_same _ _ _ (by decide)]
  rfl

theorem savedWord_lact : getF (savedWord cause lost ds gm plev lact) DT_SAVE.LACT = lact % 4 := by
  rw [savedWord, getF_setF_same _ _ _ (by decide)]; rfl

theorem savedWord_gm : isSet (savedWord cause lost ds gm plev lact) DT_SAVE.GM = gm := by
  rw [savedWord, isSet, getF_setF_ne _ _ _ _ (by decide), getF_setF_ne _ _ _ _ (by decide), setB, getF_setF_same _ _ _ (by decide)]
  cases gm <;> rfl

end

/-! ### What touches one context and registers alone -/

/-- The devices have the same memory, the same other clusters and contexts, and the same scalar, vector and mask registers in context `c`
of cluster `l`; a cluster in which no context waits stays one. -/
structure OneCtx (l c : Nat) (s d : Dev) : Prop where
  mem : d.mem = s.mem
  clusters : ∀ m, m ≠ l → getCl d m = getCl s m
  contexts : ∀ k, k ≠ c → getCtx d l k = getCtx s l k
  evq : (getCl s l).evq = [] → (getCl d l).evq = []
  sregs : (getCtx d l c).s = (getCtx s l c).s
  vregs : (getCtx d l c).v = (getCtx s l c).v
  mregs : (getCtx d l c).m = (getCtx s l c).m

section
variable {l c : Nat} {s d e : Dev}

theorem OneCtx.refl (l c : Nat) (s : Dev) : OneCtx l c s s := ⟨rfl, fun _ _ => rfl, fun _ _ => rfl, id, rfl, rfl, rfl⟩

theorem OneCtx.trans (h : OneCtx l c s d) (g : OneCtx l c d e) : OneCtx l c s e where
  mem := g.mem.trans h.mem
  clusters m hm := (g.clusters m hm).trans (h.clusters m hm)
  contexts k hk := (g.contexts k hk).trans (h.contexts k hk)
  evq := g.evq ∘ h.evq
  sregs := g.sregs.trans h.sregs
  vregs := g.vregs.trans h.vregs
  mregs := g.mregs.trans h.mregs

theorem OneCtx.rset (h : OneCtx l c s d) (o : Nat) (v : Word) : OneCtx l c s (rset d o v) :=
  ⟨h.mem, h.clusters, h.contexts, h.evq, h.sregs, h.vregs, h.mregs⟩

theorem OneCtx.draw (h : OneCtx l c s d) (n : Nat) : OneCtx l c s { d with freeCtr := n } :=
  ⟨h.mem, h.clusters, h.contexts, h.evq, h.sregs, h.vregs, h.mregs⟩

theorem OneCtx.updCtx (h : OneCtx l c s d) {f : Ctx → Ctx} (hs : ∀ x, (f x).s = x.s := by intro; rfl)
    (hv : ∀ x, (f x).v = x.v := by intro; rfl) (hm : ∀ x, (f x).m = x.m := by intro; rfl) : OneCtx l c s (updCtx d l c f) :=
  h.trans {
    mem := rfl
    clusters := fun m h => getCl_setCtx_ne d c _ h
    contexts := fun k h => getCtx_updCtx_ne d l f h
    evq := fun h => by simp [Machine.updCtx, setCtx, h]
    sregs := by rw [getCtx_updCtx_same, hs]
    vregs := by rw [getCtx_updCtx_same, hv]
    mregs := by rw [getCtx_updCtx_same, hm] }

/-- The cluster changed outside its contexts. -/
theorem OneCtx.updCl (h : OneCtx l c s d) {f : Cluster → Cluster} (hevq : ∀ k, k.evq = [] → (f k).evq = [])
    (hctx : ∀ k, (f k).ctx = k.ctx := by intro; rfl) :
    OneCtx l c s (updCl d l f) := by
  have heq (k : Nat) : getCtx (Machine.updCl d l f) l k = getCtx d l k := by rw [getCtx, getCl_updCl_same, hctx, ← getCtx]
  exact h.trans ⟨rfl, fun m hm => getCl_updCl_ne d f hm, fun k _ => heq k, fun hq => by rw [getCl_updCl_same, hevq _ hq],
    congrArg Ctx.s (heq c), congrArg Ctx.v (heq c), congrArg Ctx.m (heq c)⟩

end

/-! ### The deferred error that is taken -/

/-- The resume point reads the registers and, of the context, what names its next bundle. -/
theorem resumePoint_setCtx (d : Dev) (l c : Nat) {x : Ctx} (hwb : x.wb = (getCtx d l c).wb) (hcur : x.cur = (getCtx d l c).cur)
    (hpc : x.pc = (getCtx d l c).pc) (hdelay : x.delay = (getCtx d l c).delay) (hgsel : x.gsel = (getCtx d l c).gsel)
    (hstarve : x.starve = (getCtx d l c).starve) (hyielded : x.yielded = (getCtx d l c).yielded)
    (hlset0 : x.lset0 = (getCtx d l c).lset0) (hlset1 : x.lset1 = (getCtx d l c).lset1) :
    resumePoint (setCtx d l c x) l c = resumePoint d l c := by
  simp only [resumePoint, nextBundle, groupSelect, yieldedMask, loopAdmits, gloopView, getCtx_setCtx_same, hwb, hcur, hpc, hdelay, hgsel,
    hstarve, hyielded, hlset0, hlset1]
  rfl

/-- The device with the deferred error taken differs in what is pending of its context alone. -/
theorem clearDeferred_eq (d : Dev) (l c : Nat) (t : Trap) :
    ∃ m a, clearDeferred d l c t = setCtx d l c { getCtx d l c with dmc := m, dcf := a } := by
  generalize hx : getCtx d l c = x
  have h (y : Ctx) : clearDeferred d l c t = setCtx d l c y ↔ setCtx d l c (if x.swtrap.isSome ∨ x.ufault.isSome then x
    else if x.dmc.isSome ∧ causeOf t = 9 then { x with dmc := none }
    else if causeOf t = 0x11 then { x with dcf := none } else x) = setCtx d l c y := by rw [← hx]; rfl
  simp only [h]
  split
  · exact ⟨x.dmc, x.dcf, rfl⟩
  split
  · exact ⟨none, x.dcf, rfl⟩
  split
  · exact ⟨x.dmc, none, rfl⟩
  · exact ⟨x.dmc, x.dcf, rfl⟩

theorem resumePoint_clearDeferred (d : Dev) (l c : Nat) (t : Trap) : resumePoint (clearDeferred d l c t) l c = resumePoint d l c := by
  obtain ⟨m, a, h⟩ := clearDeferred_eq d l c t
  rw [h]
  exact resumePoint_setCtx d l c rfl rfl rfl rfl rfl rfl rfl rfl rfl

theorem oneCtx_clearDeferred (d : Dev) (l c : Nat) (t : Trap) : OneCtx l c d (clearDeferred d l c t) := by
  obtain ⟨m, a, h⟩ := clearDeferred_eq d l c t
  rw [h]
  exact (OneCtx.refl l c d).updCtx (f := fun x => { x with dmc := m, dcf := a })

/-! ### Going to the handler -/

theorem oneCtx_accrue (d : Dev) (l c : Nat) : OneCtx l c d (accrue d l c) := by
  have h := (OneCtx.refl l c d).rset (csOff l c 0x40)
    (rget d (csOff l c 0x40) ||| BitVec.ofNat 64 (((getCtx d l c).vp.fl ||| (getCtx d l c).xp.fl) % 32))
  unfold accrue
  simp only []
  split
  · exact (h.rset _ _).updCtx
  · exact h.updCtx

theorem rget_accrue_ne (d : Dev) {l c o : Nat} (hfcsr : o ≠ csOff l c 0x40) (hflags : o ≠ clOff l (0x400 + 8 * c)) :
    rget (accrue d l c) o = rget d o := by
  simp only [accrue, rget_updCtx]
  split
  · rw [rget_rsetB_ne _ _ _ hflags, rget_rset_ne _ _ hfcsr]
  · rw [rget_rset_ne _ _ hfcsr]

/-- The units give up a context's operations, and values are drawn. -/
theorem OneCtx.dropUnits {l c : Nat} {s d : Dev} (h : OneCtx l c s d) (n : Nat) :
    OneCtx l c s { Machine.updCl d l (fun k => Machine.dropUnits k c) with freeCtr := n } :=
  (h.updCl (by intro k hk; simp [Machine.dropUnits, hk])).draw n

theorem oneCtx_goHandler (d : Dev) (l c : Nat) (vec : Word) : OneCtx l c d (goHandler d l c vec) := by
  have hregs : OneCtx l c d (rsetB (rsetF (accrue d l c) (csOff l c 0) ⟨0, 2⟩ 0) (csOff l c 0x48) CL_GCTL.MODE false) :=
    ((oneCtx_accrue d l c).rset _ _).rset _ _
  simp only [goHandler]
  generalize rsetB (rsetF (accrue d l c) (csOff l c 0) ⟨0, 2⟩ 0) (csOff l c 0x48) CL_GCTL.MODE false = e at hregs ⊢
  have hunits := (hregs.dropUnits ((updCl e l fun k => dropUnits k c).freeCtr + 65)).rset (csOff l c 0x78) 0
  exact hunits.updCtx

theorem rget_goHandler_ne (d : Dev) {l c o : Nat} (vec : Word) (hfcsr : o ≠ csOff l c 0x40) (hflags : o ≠ clOff l (0x400 + 8 * c))
    (hlstat : o ≠ csOff l c 0) (hgctl : o ≠ csOff l c 0x48) (hvse : o ≠ csOff l c 0x78) :
    rget (goHandler d l c vec) o = rget d o := by
  have h (e : Dev) (n : Nat) : rget { updCl e l (fun k => dropUnits k c) with freeCtr := n } o = rget e o := rfl
  rw [goHandler, rget_updCtx, rget_rset_ne _ _ hvse, h, rget_rsetB_ne _ _ _ hgctl, rsetF, rget_rset_ne _ _ hlstat,
    rget_accrue_ne _ hfcsr hflags]

theorem csOff_ne {l c : Nat} {a b : Nat} (h : a ≠ b) : csOff l c a ≠ csOff l c b := by
  unfold csOff clOff
  omega

theorem rgetF_goHandler_lact (d : Dev) (l c : Nat) (vec : Word) : rgetF (goHandler d l c vec) (csOff l c 0) ⟨0, 2⟩ = 0 := by
  have h (e : Dev) (n o : Nat) : rget { updCl e l (fun k => dropUnits k c) with freeCtr := n } o = rget e o := rfl
  rw [rgetF, goHandler, rget_updCtx, rget_rset_ne _ _ (csOff_ne (by decide)), h, rget_rsetB_ne _ _ _ (csOff_ne (by decide)), rsetF,
    rget_rset_same, getF_setF_same _ _ _ (by decide), Nat.zero_mod]

theorem getCtx_goHandler (d : Dev) (l c : Nat) (vec : Word) :
    (getCtx (goHandler d l c vec) l c).pc = vec ∧ (getCtx (goHandler d l c vec) l c).wb = none ∧
      (getCtx (goHandler d l c vec) l c).vq = [] ∧ (getCtx (goHandler d l c vec) l c).xq = [] := by
  simp only [goHandler, getCtx_updCtx_same, and_self]

/-! ### The trap registers -/

theorem oneCtx_writeEntry (d : Dev) (l c : Nat) (r : EntryRegs) (t : Trap) (lost : Bool) : OneCtx l c d (writeEntry d l c r t lost) :=
  ((((OneCtx.refl l c d).rset _ _).rset _ _).rset _ _).rset _ _

theorem dtOff_ne {l c : Nat} {a b : Nat} (h : a ≠ b) : dtOff l c a ≠ dtOff l c b := by
  unfold dtOff clOff
  omega

theorem rget_writeEntry_ne (d : Dev) {l c o : Nat} (t : Trap) (lost : Bool) (hsave : o ≠ dtOff l c 0x08) (hresume : o ≠ dtOff l c 0x10)
    (htval : o ≠ dtOff l c 0x18) (hbtgt : o ≠ dtOff l c 0x20) : rget (writeEntry d l c regsDT t lost) o = rget d o := by
  simp only [writeEntry, regsDT]
  rw [rget_rset_ne _ _ htval, rget_rset_ne _ _ hbtgt, rget_rset_ne _ _ hsave, rget_rset_ne _ _ hresume]

theorem rget_writeEntry_tval (d : Dev) (l c : Nat) (t : Trap) (lost : Bool) :
    rget (writeEntry d l c regsDT t lost) (dtOff l c 0x18) = t.tval := by
  simp only [writeEntry, regsDT, rget_rset_same]

theorem rget_writeEntry_resume (d : Dev) (l c : Nat) (t : Trap) (lost : Bool) :
    rget (writeEntry d l c regsDT t lost) (dtOff l c 0x10) = BitVec.ofNat 64 ((resumePoint d l c).1.toNat / 4 * 4) := by
  simp only [writeEntry, regsDT]
  rw [rget_rset_ne _ _ (dtOff_ne (by decide)), rget_rset_ne _ _ (dtOff_ne (by decide)), rget_rset_ne _ _ (dtOff_ne (by decide)),
    rget_rset_same]

theorem rget_writeEntry_save (d : Dev) (l : Nat) {c : Nat} (hc : c < 8) (t : Trap) (lost : Bool)
    (hplev : rgetF d (dtOff l c 0) DT_STATUS.PLEV ≠ 2) :
    rget (writeEntry d l c regsDT t lost) (dtOff l c 0x08) =
      savedWord (causeOf t) lost (resumePoint d l c).2.2 (rbit d (csOff l c 0x48) CL_GCTL.MODE) (rgetF d (dtOff l c 0) DT_STATUS.PLEV)
        (rgetF d (csOff l c 0) ⟨0, 2⟩) := by
  have hlt : rgetF d (dtOff l c 0) DT_STATUS.PLEV % 4 = rgetF d (dtOff l c 0) DT_STATUS.PLEV := Nat.mod_mod _ _
  simp only [writeEntry, regsDT]
  rw [rget_rset_ne _ _ (dtOff_ne (by decide)), rget_rset_ne _ _ (dtOff_ne (by decide)), rget_rset_same]
  exact fixStored_dtSave l hc _ (by rw [← savedWord, savedWord_plev, hlt]; exact hplev)

/-! ### Entry at Datum level -/

/-- DT_STATUS at Datum entry (R362): ENTRY, the level, and IFLOST where a record is lost. -/
def enteredStatus (w : Word) (held : List QOp) : Word :=
  if held ≠ [] then setB (setF (setB w DT_STATUS.ENTRY true) DT_STATUS.PLEV 3) DT_STATUS.IFLOST true
  else setF (setB w DT_STATUS.ENTRY true) DT_STATUS.PLEV 3

theorem isSet_enteredStatus (w : Word) (held : List QOp) : isSet (enteredStatus w held) DT_STATUS.ENTRY = true := by
  have h : isSet (setF (setB w DT_STATUS.ENTRY true) DT_STATUS.PLEV 3) DT_STATUS.ENTRY = true := by
    rw [isSet, getF_setF_ne _ _ _ _ (by decide), setB, getF_setF_same _ _ _ (by decide)]; rfl
  unfold enteredStatus
  split
  · rw [isSet, setB, getF_setF_ne _ _ _ _ (by decide)]; exact h
  · exact h

theorem plev_enteredStatus (w : Word) (held : List QOp) : getF (enteredStatus w held) DT_STATUS.PLEV = 3 := by
  have h : getF (setF (setB w DT_STATUS.ENTRY true) DT_STATUS.PLEV 3) DT_STATUS.PLEV = 3 := getF_setF_same _ _ _ (by decide)
  unfold enteredStatus
  split
  · rw [setB, getF_setF_ne _ _ _ _ (by decide)]; exact h
  · exact h

/-- The registers at Datum entry in vector mode. -/
def enterDatum (d : Dev) (l c : Nat) (t : Trap) : Dev :=
  rset (writeEntry d l c regsDT t false) (dtOff l c 0) (enteredStatus (rget d (dtOff l c 0)) (getCtx d l c).heldD)

theorem oneCtx_enterDatum (d : Dev) (l c : Nat) (t : Trap) : OneCtx l c d (enterDatum d l c t) := (oneCtx_writeEntry ..).rset _ _

/-- The device after Datum entry in vector mode. -/
def datumEntry (d : Dev) (l c : Nat) (t : Trap) (u : Bool) : Dev :=
  updCtx (goHandler (enterDatum d l c t) l c (rget d (dtOff l c 0x28))) l c (fun x => { x with heldD := recordOf (getCtx d l c) u })

/-- A trap of vector mode that is no machine check, taken at Datum level outside a handler of that level (R359, R362). -/
theorem takeTrap_datum {d : Dev} {l c : Nat} {t : Trap} (u : Bool) (hcause : causeOf t < 0x80) (hmc : causeOf t ≠ 9)
    (hsup : toSupervisor d l c (causeOf t) = false) (hmode : rbit d (csOff l c 0x48) CL_GCTL.MODE = false)
    (hentry : isSet (rget d (dtOff l c 0)) DT_STATUS.ENTRY = false) (hdouble : isSet (rget d (dtOff l c 0)) DT_STATUS.DOUBLE = false) :
    takeTrap d l c t u = datumEntry d l c t u := by
  have hmode' : rbit (writeEntry d l c regsDT t false) (csOff l c 0x48) CL_GCTL.MODE = false := by
    rw [rbit, rget_writeEntry_ne _ _ _ (by unfold csOff dtOff clOff; omega) (by unfold csOff dtOff clOff; omega)
      (by unfold csOff dtOff clOff; omega) (by unfold csOff dtOff clOff; omega)]
    exact hmode
  have hsave : saveGroup (writeEntry d l c regsDT t false) l c = writeEntry d l c regsDT t false := by
    rw [saveGroup]
    exact if_pos (by rw [modesNow]; simpa [rbit] using hmode')
  have hopen : openHandler (writeEntry d l c regsDT t false) l c 1 = writeEntry d l c regsDT t false :=
    if_neg (by rw [hmode']; exact Bool.false_ne_true)
  have hstatus : rget (writeEntry d l c regsDT t false) (dtOff l c 0) = rget d (dtOff l c 0) :=
    rget_writeEntry_ne _ _ _ (dtOff_ne (by decide)) (dtOff_ne (by decide)) (dtOff_ne (by decide)) (dtOff_ne (by decide))
  simp only [takeTrap, hsup, hmc, hentry, hdouble, hcause, false_and, and_false, if_true, if_false, hsave, hopen, hstatus,
    Bool.false_eq_true, BitVec.ofNat_eq_ofNat, BitVec.add_zero]
  rfl

section
variable (d : Dev) {l c : Nat} (t : Trap) (u : Bool)

theorem oneCtx_datumEntry : OneCtx l c d (datumEntry d l c t u) :=
  ((oneCtx_enterDatum d l c t).trans (oneCtx_goHandler _ l c _)).updCtx

/-- A register that Datum entry in vector mode leaves. -/
theorem rget_datumEntry_ne {o : Nat}
    (h : o ∉ [csOff l c 0x40, clOff l (0x400 + 8 * c), csOff l c 0, csOff l c 0x48, csOff l c 0x78])
    (h' : o ∉ [dtOff l c 0, dtOff l c 0x08, dtOff l c 0x10, dtOff l c 0x18, dtOff l c 0x20]) :
    rget (datumEntry d l c t u) o = rget d o := by
  simp only [List.mem_cons, List.not_mem_nil, or_false, not_or] at h h'
  obtain ⟨hfcsr, hflags, hlstat, hgctl, hvse⟩ := h
  obtain ⟨hstatus, hsave, hresume, htval, hbtgt⟩ := h'
  rw [datumEntry, rget_updCtx, rget_goHandler_ne _ _ hfcsr hflags hlstat hgctl hvse, enterDatum, rget_rset_ne _ _ hstatus,
    rget_writeEntry_ne _ _ _ hsave hresume htval hbtgt]

/-- A trap register of the context (0x4000 on) is as the entry wrote it: going to the handler leaves it. -/
theorem rget_datumEntry_dt (hc : c < 8) (r : Nat) : rget (datumEntry d l c t u) (dtOff l c r) = rget (enterDatum d l c t) (dtOff l c r) := by
  rw [datumEntry, rget_updCtx]
  refine rget_goHandler_ne _ _ ?_ ?_ ?_ ?_ ?_ <;> simp only [dtOff, csOff, clOff] <;> omega

/-- A trap register other than DT_STATUS. -/
theorem rget_datumEntry_entry (hc : c < 8) {r : Nat} (hr : r ≠ 0) :
    rget (datumEntry d l c t u) (dtOff l c r) = rget (writeEntry d l c regsDT t false) (dtOff l c r) :=
  (rget_datumEntry_dt d t u hc r).trans (rget_rset_ne _ _ (dtOff_ne hr))

theorem rget_datumEntry_status (hc : c < 8) :
    rget (datumEntry d l c t u) (dtOff l c 0) = enteredStatus (rget d (dtOff l c 0)) (getCtx d l c).heldD :=
  (rget_datumEntry_dt d t u hc 0).trans (rget_rset_same ..)

theorem rgetF_datumEntry_lact : rgetF (datumEntry d l c t u) (csOff l c 0) ⟨0, 2⟩ = 0 := by
  rw [rgetF, datumEntry, rget_updCtx]
  exact rgetF_goHandler_lact ..

theorem getCtx_datumEntry : (getCtx (datumEntry d l c t u) l c).pc = rget d (dtOff l c 0x28) ∧
    (getCtx (datumEntry d l c t u) l c).wb = none ∧ (getCtx (datumEntry d l c t u) l c).vq = [] ∧
    (getCtx (datumEntry d l c t u) l c).xq = [] := by
  simp only [datumEntry, getCtx_updCtx_same]
  exact getCtx_goHandler ..

end

/-- TRAP_ENTRY at Datum level where no context of the cluster waits. -/
theorem exec_trapEntry_datum {s : State} {l c : Nat} {t : Trap} {u : Bool} (hrun : running s.dev l c = true)
    (hstop : (getCtx s.dev l c).stop = false) (hpark : (getCtx s.dev l c).park = none) (hunits : unitsStop s.dev l c = true)
    (hbound : atBoundary s.dev l c = true) (hdue : dueTrap s.dev l c = some (t, u)) (hevq : (getCl s.dev l).evq = [])
    (htake : takeTrap (clearDeferred s.dev l c t) l c t u = datumEntry (clearDeferred s.dev l c t) l c t u) :
    exec (.trapEntry l c) s = .next (s.withDev (datumEntry (clearDeferred s.dev l c t) l c t u)) := by
  have hone := (oneCtx_clearDeferred s.dev l c t).trans (oneCtx_datumEntry _ t u)
  show State.upd s (trapEntry l c) = _
  simp only [State.upd, trapEntry, hrun, hstop, hpark, hunits, hbound, hdue, Bool.not_true, Option.isSome_none, Bool.false_eq_true,
    or_self, if_false, htake, settle_of_empty (hone.evq hevq), State.withDev]

end Sys2Proof.Machine

open Sys2Proof Sys2Proof.Machine

/-- Settles O52: the conditions select entry at Datum level, whose writes stand one after the other at registers of their own. -/
theorem trapEntrySaves : Obligations.TrapEntrySaves := by
  unfold Obligations.TrapEntrySaves
  intro s l c t u hrun hstop hpark hunits hbound hdue hevq hmode hcause hmc hsup hentry hdouble hplev hc
  have htake := takeTrap_datum (d := clearDeferred s.dev l c t) u hcause hmc hsup hmode hentry hdouble
  have hone := (oneCtx_clearDeferred s.dev l c t).trans (oneCtx_datumEntry _ t u)
  have hexec := exec_trapEntry_datum hrun hstop hpark hunits hbound hdue hevq htake
  have hresume := resumePoint_clearDeferred s.dev l c t
  have hreg (o : Nat) : rget (clearDeferred s.dev l c t) o = rget s.dev o := rfl
  generalize clearDeferred s.dev l c t = e at *
  have hsave := (rget_datumEntry_entry e t u hc (r := 0x08) (by decide)).trans
    (rget_writeEntry_save e l hc t false (by rw [rgetF, hreg]; exact hplev))
  obtain ⟨hpc, hwb, hvq, hxq⟩ := getCtx_datumEntry (l := l) (c := c) e t u
  refine ⟨_, hexec, ?_, ?_, ?_, ?_, ?_, ?_, ?_, ?_, rgetF_datumEntry_lact e t u, by rw [hpc, hreg], hwb, hvq, hxq, hone.sregs, hone.vregs,
    hone.mregs, ?_, fun _ _ => congrArg (Tab.get 0 · _) hone.mem, hone.contexts, hone.clusters⟩
  · rw [rgetF, hsave, savedWord_cause]; omega
  · rw [rgetF, hsave, savedWord_plev, rgetF, hreg]; exact Nat.mod_mod _ _
  · rw [rgetF, hsave, savedWord_lact, rgetF, hreg]; exact Nat.mod_mod _ _
  · rw [rbit, hsave, savedWord_gm, rbit, hreg]; exact hmode
  · exact (rget_datumEntry_entry e t u hc (by decide)).trans (rget_writeEntry_tval ..)
  · rw [← hresume]
    exact (rget_datumEntry_entry e t u hc (by decide)).trans (rget_writeEntry_resume ..)
  · rw [rbit, rget_datumEntry_status e t u hc, isSet_enteredStatus]
  · rw [rgetF, rget_datumEntry_status e t u hc, plev_enteredStatus]
  · intro o ho
    rw [← hreg o]
    refine rget_datumEntry_ne e t u ?_ ?_ <;>
      simp only [List.mem_cons, List.not_mem_nil, or_false, lstartOff, lendOff, lcountOff, csOff, dtOff, clOff, not_or, if_true, if_false,
        Nat.one_ne_zero] at ho ⊢ <;> omega
end

section
/-!
PROOF. Element groups of a vector addition (spec/08 R187, R192, R195, R198): elements of a register span, and the statement O54.
-/
namespace Sys2Proof.Machine

/-! ### Bits of a vector register -/

theorem testBit_vbits {n : Nat} (x : BitVec n) (lo w i : Nat) : (vbits x lo w).testBit i = (decide (i < w) && x.getLsbD (lo + i)) := by
  rw [vbits, Nat.testBit_mod_two_pow, Nat.testBit_shiftRight, BitVec.getLsbD]

theorem getLsbD_vput {n : Nat} (x : BitVec n) {lo w : Nat} (v : Nat) (h : lo + w ≤ n) (j : Nat) :
    (vput x lo w v).getLsbD j = if lo ≤ j ∧ j < lo + w then v.testBit (j - lo) else x.getLsbD j := by
  simp only [vput, BitVec.getLsbD_or, BitVec.getLsbD_and, BitVec.getLsbD_not, BitVec.getLsbD_ofNat, Nat.testBit_shiftLeft, testBit_ones,
    Nat.testBit_mod_two_pow]
  by_cases hj : lo ≤ j
  · by_cases hw : j < lo + w
    · have hn : j < n := by omega
      have hi : j - lo < w := by omega
      simp [hj, hw, hn, hi]
    · have hi : ¬ j - lo < w := by omega
      by_cases hn : j < n
      · simp [hj, hw, hn, hi]
      · simp [hw, hn, x.getLsbD_of_ge j (by omega)]
  · by_cases hn : j < n
    · simp [hj, hn]
    · simp [hj, hn, x.getLsbD_of_ge j (by omega)]

/-- A field of a register just written. -/
theorem vbits_vput_same {n : Nat} (x : BitVec n) {lo w : Nat} (v : Nat) (h : lo + w ≤ n) : vbits (vput x lo w v) lo w = v % 2 ^ w := by
  refine Nat.eq_of_testBit_eq fun i => ?_
  rw [testBit_vbits, getLsbD_vput x v h, Nat.testBit_mod_two_pow]
  by_cases hi : i < w
  · rw [if_pos (by omega), show lo + i - lo = i by omega]
  · simp [hi]

/-- A field apart from the one written. -/
theorem vbits_vput_ne {n : Nat} (x : BitVec n) {lo w : Nat} (v : Nat) (h : lo + w ≤ n) {lo' : Nat} (hne : lo' + w ≤ lo ∨ lo + w ≤ lo') :
    vbits (vput x lo w v) lo' w = vbits x lo' w := by
  refine Nat.eq_of_testBit_eq fun i => ?_
  rw [testBit_vbits, testBit_vbits, getLsbD_vput x v h]
  by_cases hi : i < w
  · rw [if_neg (by omega)]
  · simp [hi]

/-! ### Elements of a span -/

section
variable (x : Ctx) (r v : Nat) {w : Nat} (i : Nat)

/-- Element `i` of a span lies `i / (4096 / w)` registers on, at place `i % (4096 / w)` of its register. -/
theorem elem_place (hw : w ∣ 4096) : i * w / 4096 = i / (4096 / w) ∧ i * w % 4096 = i % (4096 / w) * w := by
  obtain ⟨q, hq⟩ := hw
  have hpos : 0 < w := Nat.pos_of_ne_zero (by rintro rfl; omega)
  rw [hq, Nat.mul_div_cancel_left q hpos, Nat.mul_comm w q]
  exact ⟨Nat.mul_div_mul_right _ _ hpos, Nat.mul_mod_mul_right ..⟩

theorem elemGet_eq (hw : w ∣ 4096) : elemGet x r w i = vbits (vread x (r + i / (4096 / w))) (i % (4096 / w) * w) w := by
  rw [elemGet, (elem_place i hw).1, (elem_place i hw).2]

theorem elemPut_eq (hw : w ∣ 4096) : elemPut x r w i v =
    vwrite x (r + i / (4096 / w)) (vput (vread x (r + i / (4096 / w))) (i % (4096 / w) * w) w v) := by
  simp only [elemPut, (elem_place i hw).1, (elem_place i hw).2]

/-- An element lies within its register. -/
theorem elem_fits (hw : w ∣ 4096) : i % (4096 / w) * w + w ≤ 4096 := by
  have hpos : 0 < w := Nat.pos_of_dvd_of_pos hw (by decide)
  have hlt : i % (4096 / w) < 4096 / w := Nat.mod_lt _ (Nat.div_pos (Nat.le_of_dvd (by decide) hw) hpos)
  calc i % (4096 / w) * w + w = (i % (4096 / w) + 1) * w := by rw [Nat.add_mul, Nat.one_mul]
    _ ≤ 4096 / w * w := Nat.mul_le_mul_right w hlt
    _ = 4096 := Nat.div_mul_cancel hw

theorem vread_vwrite_same (y : BitVec 4096) : vread (vwrite x r y) r = y := Tab.get_set_same ..

theorem vread_vwrite_ne {k : Nat} (y : BitVec 4096) (h : k ≠ r) : vread (vwrite x r y) k = vread x k := Tab.get_set_ne _ _ _ h

theorem elemGet_elemPut_same (hw : w ∣ 4096) : elemGet (elemPut x r w i v) r w i = v % 2 ^ w := by
  rw [elemGet_eq _ _ _ hw, elemPut_eq _ _ _ _ hw, vread_vwrite_same, vbits_vput_same _ _ (elem_fits i hw)]

theorem elemGet_elemPut_ne {j : Nat} (hw : w ∣ 4096) (h : j ≠ i) : elemGet (elemPut x r w i v) r w j = elemGet x r w j := by
  rw [elemGet_eq _ _ _ hw, elemGet_eq _ _ _ hw, elemPut_eq _ _ _ _ hw]
  by_cases hr : j / (4096 / w) = i / (4096 / w)
  · have hmod : j % (4096 / w) ≠ i % (4096 / w) := fun hm => h (by
      rw [← Nat.div_add_mod j (4096 / w), ← Nat.div_add_mod i (4096 / w), hr, hm])
    rw [hr, vread_vwrite_same, vbits_vput_ne _ _ (elem_fits i hw)]
    rcases Nat.lt_or_gt_of_ne hmod with hlt | hgt
    · exact .inl (by simpa [Nat.add_mul] using Nat.mul_le_mul_right w (Nat.succ_le_of_lt hlt))
    · exact .inr (by simpa [Nat.add_mul] using Nat.mul_le_mul_right w (Nat.succ_le_of_lt hgt))
  · rw [vread_vwrite_ne _ _ _ (by omega)]

/-- An element of a span whose registers lie apart from the one written. -/
theorem elemGet_congr {y : Ctx} (h : vread y (r + i * w / 4096) = vread x (r + i * w / 4096)) : elemGet y r w i = elemGet x r w i := by
  rw [elemGet, elemGet, h]

theorem vread_elemPut_ne {k : Nat} (h : k ≠ r + i * w / 4096) : vread (elemPut x r w i v) k = vread x k := Tab.get_set_ne _ _ _ h

theorem elemPut_of_ctx {y : Ctx} (h : y = { x with v := y.v }) :
    elemPut y r w i v = { x with v := (elemPut y r w i v).v } := by
  have hput : elemPut y r w i v = { y with v := (elemPut y r w i v).v } := rfl
  generalize elemPut y r w i v = z at hput ⊢
  rw [h] at hput
  exact hput

end

/-! ### Elements one after the other -/

/-- What holds before the first element and is kept by every element holds after the last. -/
theorem foldl_upTo_induction {α : Type} {P : α → Nat → Prop} {f : α → Nat → α} {lo hi : Nat} {a : α} (h0 : P a lo)
    (hstep : ∀ a i, lo ≤ i → i < hi → P a i → P (f a i) (i + 1)) : P ((upTo lo hi).foldl f a) (max lo hi) := by
  have h (m : Nat) (hm : m ≤ hi - lo) : P ((List.range m).foldl (fun b i => f b (lo + i)) a) (lo + m) := by
    induction m with
    | zero => exact h0
    | succ m ih =>
      rw [List.range_succ, List.foldl_append]
      exact hstep _ _ (by omega) (by omega) (ih (by omega))
  rw [upTo, List.foldl_map, show max lo hi = lo + (hi - lo) by omega]
  exact h _ (Nat.le_refl _)

/-! ### The addition -/

/-- The element width divides a register's (R188). -/
theorem cfgSew_dvd (w : Word) : cfgSew w ∣ 4096 := by
  have h : getF w CL_VCFG.SEW < 4 := Nat.mod_lt _ (by decide)
  unfold cfgSew
  generalize getF w CL_VCFG.SEW = k at h
  obtain rfl | rfl | rfl | rfl : k = 0 ∨ k = 1 ∨ k = 2 ∨ k = 3 := by omega
  all_goals decide

/-- The second operand of an element: the scalar, or the element of RB. -/
def addend (o : QOp) (x : Ctx) (i : Nat) : Nat :=
  if isS o.syl = true then (o.ops.getD 0 0).toNat % 2 ^ cfgSew o.vcfg else elemGet x (fRB o.syl) (cfgSew o.vcfg) i

/-- The sum of an element (R198). -/
def sumElem (o : QOp) (x : Ctx) (i : Nat) : Nat := (elemGet x (fRA o.syl) (cfgSew o.vcfg) i + addend o x i) % 2 ^ cfgSew o.vcfg

theorem wrap_sgn_add (w a b : Nat) : wrap w (sgn w a + sgn w b) = (a + b) % 2 ^ w := by
  rw [wrap_eq_toNat, sgn_eq_toInt, sgn_eq_toInt, BitVec.ofInt_add, BitVec.ofInt_toInt, BitVec.ofInt_toInt, ← BitVec.ofNat_add,
    BitVec.toNat_ofNat]

section
variable {o : QOp} {x : Ctx} (hmajor : baseMajor o.syl = 0) (hopx : vOPX o.syl = 0)
include hmajor hopx

theorem vElem_add (y : Ctx) (i : Nat) : vElem o y i = ERes.of (sumElem o y i) := by
  simp only [vElem, hmajor, hopx, vIntElem, Nat.zero_le, if_true, false_and, if_false, Nat.zero_ne_one, wrap_sgn_add]
  rfl

omit hopx in
theorem vDestMask_add : vDestMask o = false := by simp [vDestMask, hmajor]

omit hopx in
theorem vDestW_add : vDestW o = cfgSew o.vcfg := by
  refine if_neg fun h => ?_
  simp [baseMajor, h] at hmajor

/-- An active element of an addition entered. -/
theorem vEnter_add {a : EAcc} {i : Nat} (hstop : a.stop = none) : vEnter o a i =
    if unmasked a.x o.syl i = true then
      { a with x := elemPut a.x (fRD o.syl) (cfgSew o.vcfg) i (sumElem o a.x i), fl := a.fl ||| 0, sat := a.sat || false }
    else a := by
  simp only [vEnter, hstop, vElem_add hmajor hopx, vDestMask_add hmajor, vDestW_add hmajor, ERes.of]
  by_cases h : unmasked a.x o.syl i = true <;> simp [h]

end

/-- The elements of an addition from `o.pos` up to `i` entered: what has been written, and what not. -/
structure AddedTo (o : QOp) (x : Ctx) (k : Nat) (a : EAcc) (i : Nat) : Prop where
  ctx : a.x = { x with v := a.x.v }
  fl : a.fl = 0
  sat : a.sat = false
  stop : a.stop = none
  sums : ∀ j, o.pos ≤ j → j < i → elemGet a.x (fRD o.syl) (cfgSew o.vcfg) j =
    if unmasked x o.syl j = true then sumElem o x j else elemGet x (fRD o.syl) (cfgSew o.vcfg) j
  rest : ∀ j, j < o.pos ∨ i ≤ j → elemGet a.x (fRD o.syl) (cfgSew o.vcfg) j = elemGet x (fRD o.syl) (cfgSew o.vcfg) j
  regs : ∀ r, r < fRD o.syl ∨ fRD o.syl + k ≤ r → vread a.x r = vread x r

section
variable {o : QOp} {x : Ctx} {k hi : Nat} (hk : k = (hi * cfgSew o.vcfg + 4095) / 4096)
include hk

/-- The register of an element below `hi` is one of the group's. -/
theorem elem_in_group {i : Nat} (h : i < hi) : i * cfgSew o.vcfg / 4096 < k := by
  have hpos : 0 < cfgSew o.vcfg := Nat.pos_of_dvd_of_pos (cfgSew_dvd _) (by decide)
  have hlt : i * cfgSew o.vcfg < hi * cfgSew o.vcfg := Nat.mul_lt_mul_of_pos_right h hpos
  omega

/-- A source element that is not yet entered is as before. -/
theorem AddedTo.source {a : EAcc} {i r : Nat} (h : AddedTo o x k a i) (hi : i < hi)
    (hr : r = fRD o.syl ∨ r + k ≤ fRD o.syl ∨ fRD o.syl + k ≤ r) :
    elemGet a.x r (cfgSew o.vcfg) i = elemGet x r (cfgSew o.vcfg) i := by
  rcases hr with rfl | hr
  · exact h.rest i (.inr (Nat.le_refl i))
  · have := elem_in_group hk hi
    exact elemGet_congr _ _ _ (h.regs _ (by omega))

theorem AddedTo.enter {a : EAcc} {i : Nat} (h : AddedTo o x k a i) (hlo : o.pos ≤ i) (hi : i < hi) (hmajor : baseMajor o.syl = 0)
    (hopx : vOPX o.syl = 0) (hra : fRA o.syl = fRD o.syl ∨ fRA o.syl + k ≤ fRD o.syl ∨ fRD o.syl + k ≤ fRA o.syl)
    (hrb : isS o.syl = true ∨ fRB o.syl = fRD o.syl ∨ fRB o.syl + k ≤ fRD o.syl ∨ fRD o.syl + k ≤ fRB o.syl) :
    AddedTo o x k (vEnter o a i) (i + 1) := by
  have hmask : unmasked a.x o.syl i = unmasked x o.syl i := by rw [h.ctx]; rfl
  have hsum : sumElem o a.x i = sumElem o x i := by
    have haddend : addend o a.x i = addend o x i := by
      by_cases hs : isS o.syl = true
      · simp only [addend, if_pos hs]
      · simp only [addend, if_neg hs]
        exact h.source hk hi (hrb.resolve_left hs)
    rw [sumElem, sumElem, haddend, h.source hk hi hra]
  have hdvd := cfgSew_dvd o.vcfg
  rw [vEnter_add hmajor hopx h.stop, hmask, hsum]
  by_cases hm : unmasked x o.syl i = true
  · rw [if_pos hm]
    refine ⟨elemPut_of_ctx _ _ _ _ h.ctx, by simp [h.fl], by simp [h.sat], h.stop, fun j hj hj' => ?_, fun j hj => ?_, fun r hr => ?_⟩
    · by_cases hji : j = i
      · rw [hji, elemGet_elemPut_same _ _ _ _ hdvd, if_pos hm, sumElem, Nat.mod_mod]
      · rw [elemGet_elemPut_ne _ _ _ _ hdvd hji]
        exact h.sums j hj (by omega)
    · rw [elemGet_elemPut_ne _ _ _ _ hdvd (by omega)]
      exact h.rest j (by omega)
    · have := elem_in_group hk hi
      rw [vread_elemPut_ne _ _ _ _ (by omega)]
      exact h.regs r hr
  · rw [if_neg hm]
    refine ⟨h.ctx, h.fl, h.sat, h.stop, fun j hj hj' => ?_, fun j hj => h.rest j (by omega), h.regs⟩
    by_cases hji : j = i
    · rw [hji, if_neg hm]
      exact h.rest i (.inr (Nat.le_refl i))
    · exact h.sums j hj (by omega)

end

/-- Element groups entered without a trap, a flag or saturation: the vector registers and the position. -/
theorem vGroups_of_plain {d : Dev} {l n c : Nat} {op : Op} {x : Ctx} {o : QOp} {a : EAcc} (hhead : vHead d l = some (c, x, o))
    (hop : qopOp o = some op)
    (hacc : (upTo o.pos (min (cfgVl o.vcfg) ((o.pos / groupElems o + n) * groupElems o))).foldl (vEnter o) ⟨x, 0, false, none⟩ = a)
    (hfl : a.fl = 0) (hsat : a.sat = false) (hstop : a.stop = none) :
    vGroups l n op d = setVHead (setCtx d l c a.x) l c
      { o with pos := max o.pos (min (cfgVl o.vcfg) ((o.pos / groupElems o + n) * groupElems o)) } := by
  simp only [vGroups, hhead, hop, hacc, hfl, hsat, hstop, ne_eq, not_true_eq_false, if_false, Nat.or_zero, Bool.or_false]

end Sys2Proof.Machine

open Sys2Proof Sys2Proof.Machine

/-- Settles O54, element by element: `AddedTo` holds before the first and is kept by each. -/
theorem vectorAddResult : Obligations.VectorAddResult := by
  unfold Obligations.VectorAddResult
  intro s l n c x o hhead hop hmajor hopx w hi k rd ra rb hra hrb
  have hadded : AddedTo o x k _ (max o.pos hi) := foldl_upTo_induction (f := vEnter o) (a := ⟨x, 0, false, none⟩)
    ⟨rfl, rfl, rfl, rfl, fun j hj hj' => absurd hj' (by omega), fun _ _ => rfl, fun _ _ => rfl⟩
    (fun a i hlo hhi h => h.enter rfl hlo hhi hmajor hopx hra hrb)
  generalize hacc : (upTo o.pos hi).foldl (vEnter o) ⟨x, 0, false, none⟩ = a at hadded
  have hexec : exec (.vadd l n) s = .next (s.withDev (setVHead (setCtx s.dev l c a.x) l c { o with pos := max o.pos hi })) := by
    show State.upd s (vGroups l n .vadd) = _
    rw [State.upd, vGroups_of_plain hhead hop hacc hadded.fl hadded.sat hadded.stop]
    rfl
  have hctx : getCtx (setVHead (setCtx s.dev l c a.x) l c { o with pos := max o.pos hi }) l c =
      { a.x with vq := { o with pos := max o.pos hi } :: a.x.vq.drop 1 } := by
    rw [setVHead, getCtx_updCtx_same, getCtx_setCtx_same]
  refine ⟨_, hexec, fun i hlo hhi => ?_, fun i hi' => ?_, fun r hr => ?_, ?_, ?_, ?_, fun _ => rfl, fun _ _ => rfl,
    fun m hm => (getCtx_updCtx_ne _ _ _ hm).trans (getCtx_setCtx_ne _ _ _ hm),
    fun m hm => (getCl_setCtx_ne _ _ _ hm).trans (getCl_setCtx_ne _ _ _ hm)⟩ <;> rw [hctx]
  · exact hadded.sums i hlo (by omega)
  · exact hadded.rest i (by omega)
  · exact hadded.regs r hr
  · exact (congrArg Ctx.s hadded.ctx :)
  · exact (congrArg Ctx.m hadded.ctx :)
  · exact congrArg (_ :: List.drop 1 ·) (congrArg Ctx.vq hadded.ctx :)

end

section
/-!
PROOF. The matrix engine: start, units of work, whole operations, completion (spec/10 R242 to R273), and the statement O10.
-/
namespace Sys2Proof.Machine

/-- A command whose operation is known on the device answers that device. -/
theorem upd_of_eq {s : State} {op : Dev → Dev} {d : Dev} (h : op s.dev = d) : s.upd op = .next (s.withDev d) :=
  congrArg (fun e => Host.Outcome.next (s.withDev e)) h

/-! ### Start and completion -/

/-- A change of a cluster outside its contexts leaves them. -/
theorem getCtx_updCl_of_ctx (d : Dev) (l c : Nat) {f : Cluster → Cluster} (h : (f (getCl d l)).ctx = (getCl d l).ctx) :
    getCtx (updCl d l f) l c = getCtx d l c := by
  rw [getCtx, getCl_updCl_same, h, ← getCtx]

theorem exec_matrixOpStart {s : State} {l c : Nat} {o : QOp} {q : List QOp} {d : Dev}
    (hd : d = updCl s.dev l (fun k => { k with xrun := some c, xwait := unitWaits (xStartable s.dev l) k.xwait c }))
    (hfree : (getCl s.dev l).xrun = none)
    (hpick : unitPick s.dev l (xStartable s.dev l) (getCl s.dev l).xwait = some c) (hq : (getCtx s.dev l c).xq = o :: q)
    (hld : opX o.md.gm o.syl ≠ some .gxld) (hst : opX o.md.gm o.syl ≠ some .gxst) (hok : setupFault d l c o = none) :
    exec (.matrixOpStart l) s = .next (s.withDev
      (updCtx (setupDeclare d l c o) l c (fun x => { x with xp := { x.xp with setup := true } }))) := by
  have hq' : (getCtx d l c).xq = o :: q := by rw [hd, getCtx_updCl_of_ctx s.dev l c rfl, hq]
  show State.upd s (matrixOpStart l) = _
  simp only [State.upd, matrixOpStart, hfree, hpick, Option.isSome_none, Bool.false_eq_true, if_false, ← hd, hq', hok]
  rfl

theorem exec_matrixOpComplete {s : State} {l c : Nat} {x : Ctx} {o : QOp} (hhead : xHead s.dev l = some (c, x, o))
    (hsetup : x.xp.setup = true) (hfault : o.fault = false)
    (hdone : if opX o.md.gm o.syl ∈ [some .tzero, some .trel, some .gxld, some .gxst] then x.xp.fin = true else xTotal o ≤ o.pos) :
    exec (.matrixOpComplete l) s = .next (s.withDev (refreshPend (rset
      (updCl (updCtx (accrue s.dev l c) l c (fun x => { x with xq := x.xq.drop 1, xp := Prog.empty })) l
        (fun k => { k with xrun := none })) (clOff l (0x440 + 8 * c)) 0) l c)) := by
  have hwhole : (if (match opX o.md.gm o.syl with
      | some .tzero => true | some .trel => true | some .gxld => true | some .gxst => true | _ => false) = true
      then x.xp.fin else decide (xTotal o ≤ o.pos)) = true := by
    split <;> simp_all
  show State.upd s (matrixOpComplete l) = _
  simp only [State.upd, matrixOpComplete, hhead]
  rw [if_pos ⟨hsetup, by simp [hfault], hwhole⟩]
  rfl

/-! ### Units of work -/

/-- One more unit of work: none where the operation has no more, or where the one before met an error. -/
def oneUnit (o : QOp) (size : Nat) (bad : Dev → Nat → Option Word) (unit : Dev → Nat → Dev) (a : Option (Dev × Nat)) : Option (Dev × Nat) :=
  a.bind (fun a => if xTotal o ≤ a.2 then some a
    else match bad a.1 (a.2 / size) with
      | some _ => none
      | none => some (unit a.1 (a.2 / size), (a.2 / size + 1) * size))

/-- The run of `xUnits` after `n` units. -/
def xRunAfter (l c : Nat) (o : QOp) (size : Nat) (bad : Dev → Nat → QOp → Nat → Option Word)
    (unit : Dev → Nat → Nat → QOp → Nat → Dev) (n : Nat) (d : Dev) : XRun :=
  (List.range n).foldl (fun (r : XRun) _ =>
    if r.err.isSome ∨ xTotal o ≤ r.pos then r
    else match bad r.d l o (r.pos / size) with
      | some v => { r with err := some (mcheck 2 v) }
      | none => { r with d := unit r.d l c o (r.pos / size), pos := (r.pos / size + 1) * size }) ⟨d, o.pos, none⟩

theorem xRunAfter_of_repeat {l c : Nat} {o : QOp} {size : Nat} {bad : Dev → Nat → QOp → Nat → Option Word}
    {unit : Dev → Nat → Nat → QOp → Nat → Dev} {d : Dev} (n : Nat) {e : Dev} {p : Nat}
    (h : Nat.repeat (oneUnit o size (fun d g => bad d l o g) (fun d g => unit d l c o g)) n (some (d, o.pos)) = some (e, p)) :
    xRunAfter l c o size bad unit n d = ⟨e, p, none⟩ := by
  induction n generalizing e p with
  | zero =>
    obtain ⟨rfl, rfl⟩ := Prod.mk.inj (Option.some.inj h)
    rfl
  | succ n ih =>
    obtain ⟨⟨e', p'⟩, hn, hone⟩ := Option.bind_eq_some_iff.mp h
    simp only [xRunAfter] at ih ⊢
    rw [List.range_succ, List.foldl_append, ih hn]
    simp only [List.foldl_cons, List.foldl_nil, Option.isSome_none, Bool.false_eq_true, false_or]
    by_cases htotal : xTotal o ≤ p'
    · simp only [htotal, if_true] at hone ⊢
      obtain ⟨rfl, rfl⟩ := Prod.mk.inj (Option.some.inj hone)
      rfl
    · simp only [htotal, if_false] at hone ⊢
      cases hbad : bad e' l o (p' / size) with
      | some v => simp [hbad] at hone
      | none =>
        simp only [hbad, Option.some.injEq, Prod.mk.injEq] at hone
        obtain ⟨rfl, rfl⟩ := hone
        rfl

theorem xUnits_of_repeat {l c : Nat} {x : Ctx} {o : QOp} {op : Op} {size : QOp → Nat} {bad : Dev → Nat → QOp → Nat → Option Word}
    {unit : Dev → Nat → Nat → QOp → Nat → Dev} {d : Dev} {n : Nat} {e : Dev} {p : Nat} (hhead : xHead d l = some (c, x, o))
    (hop : qopOp o = some op) (hsetup : x.xp.setup = true)
    (h : Nat.repeat (oneUnit o (size o) (fun d g => bad d l o g) (fun d g => unit d l c o g)) n (some (d, o.pos)) = some (e, p)) :
    xUnits l n op size bad unit d = setXHead e l c { o with pos := p } := by
  simp only [xUnits, hhead, hop, hsetup, Bool.not_true, ne_eq, not_true_eq_false, Bool.false_eq_true, or_self, if_false]
  generalize hr : List.foldl _ _ (List.range n) = r
  rw [show r = ⟨e, p, none⟩ from hr.symm.trans (xRunAfter_of_repeat n h)]

/-- A whole operation of the engine. -/
theorem xWhole_of_head {l c : Nat} {x : Ctx} {o : QOp} {op : Op} {k : Dev → Nat → QOp → Dev} {d : Dev}
    (hhead : xHead d l = some (c, x, o)) (hop : qopOp o = some op) (hsetup : x.xp.setup = true) (hfin : x.xp.fin = false) :
    xWhole l op k d = updCtx (k d c o) l c (fun x => { x with xp := { x.xp with fin := true } }) := by
  simp only [xWhole, hhead, hop, hsetup, hfin, Bool.not_true, ne_eq, not_true_eq_false, Bool.false_eq_true, or_self, if_false]

end Sys2Proof.Machine

open Sys2Proof Sys2Proof.Machine

/-- Settles O10: the four commands that do units of work are one repetition, whose run is that of the statement. -/
theorem matrixUnit : Obligations.MatrixUnit := by
  unfold Obligations.MatrixUnit
  refine ⟨?_, ?_, ?_, ?_⟩
  · intro s l c o q hfree hpick hq hld hst d hok
    exact exec_matrixOpStart rfl hfree hpick hq hld hst hok
  · rintro s l n c x o i op size bad unit hkind hhead hop hsetup more d p hrun
    rcases hkind with ⟨rfl, rfl, rfl, rfl, rfl⟩ | ⟨rfl, rfl, rfl, rfl, rfl⟩ | ⟨rfl, rfl, rfl, rfl, rfl⟩ | ⟨rfl, rfl, rfl, rfl, rfl⟩
    · exact upd_of_eq (xUnits_of_repeat hhead hop hsetup hrun)
    · exact upd_of_eq (xUnits_of_repeat hhead hop hsetup hrun)
    · exact upd_of_eq (xUnits_of_repeat hhead hop hsetup hrun)
    · exact upd_of_eq (xUnits_of_repeat hhead hop hsetup hrun)
  · intro s l c x o hhead hsetup hfin fin
    exact ⟨fun hop => upd_of_eq (xWhole_of_head hhead hop hsetup hfin),
      fun hop => upd_of_eq (xWhole_of_head hhead hop hsetup hfin)⟩
  · intro s l c x o hhead hsetup hfault hdone d
    exact exec_matrixOpComplete hhead hsetup hfault hdone
end

section
/-!
PROOF. The level of the system syllables at decode (spec/16 R355), and the statement O53.
-/
namespace Sys2Proof.Machine

/-- The level that a system operation needs (R355), 0 for every other. -/
def systemLevel (o : Op) : Nat :=
  match o with
  | .tack | .tret => 1
  | .ifsave | .ifload | .cmosw => 3
  | _ => 0

/-! ### No other slot has a system operation -/

/-- The operation that is decoded, where one is, is no system operation. -/
def NoSystem (r : Option Op) : Prop := ∀ op, r = some op → systemLevel op = 0

theorem noSystem_none : NoSystem none := fun _ h => nomatch h

theorem noSystem_some {op : Op} (h : systemLevel op = 0) : NoSystem (some op) := fun _ e => Option.some.inj e ▸ h

theorem noSystem_ite {p : Prop} [Decidable p] {a b : Option Op} (ha : NoSystem a) (hb : NoSystem b) : NoSystem (if p then a else b) := by
  split
  · exact ha
  · exact hb

theorem opVec_noSystem (vcfg : Word) (w : Syllable) : NoSystem (opVec vcfg w) := by
  unfold opVec
  dsimp only
  repeat' refine noSystem_ite ?_ ?_
  all_goals first | exact noSystem_none | exact noSystem_some rfl | exact noSystem_some (by split <;> rfl)

theorem opX_noSystem (gm : Bool) (w : Syllable) : NoSystem (opX gm w) := by
  unfold opX
  dsimp only
  repeat' refine noSystem_ite ?_ ?_
  all_goals first | exact noSystem_none | exact noSystem_some rfl

theorem floatOp_noSystem (k : Nat) (w : Syllable) : NoSystem (floatOp k w) := by
  unfold floatOp
  split
  all_goals repeat' refine noSystem_ite ?_ ?_
  all_goals first | exact noSystem_none | exact noSystem_some rfl

theorem aluOp_noSystem (w : Syllable) : NoSystem (aluOp w) :=
  noSystem_ite noSystem_none (noSystem_ite noSystem_none (noSystem_ite (noSystem_some rfl) (noSystem_some rfl)))

theorem immOp_noSystem (k : Nat) (w : Syllable) : NoSystem (immOp k w) := noSystem_ite noSystem_none (noSystem_some rfl)

theorem opA_noSystem (w : Syllable) : NoSystem (opAB true w) := by
  simp only [opAB, if_true]
  repeat' refine noSystem_ite ?_ ?_
  all_goals first
    | exact noSystem_none | exact noSystem_some rfl | exact aluOp_noSystem w | exact immOp_noSystem _ w | exact floatOp_noSystem _ w

/-! ### The system operations of the B and M slots -/

/-- The operation that is decoded, where it is a system operation, needs the level that its word has. -/
def LevelIs (n : Nat) (r : Option Op) : Prop := ∀ op, r = some op → systemLevel op ≠ 0 → n = systemLevel op

theorem NoSystem.levelIs {n : Nat} {r : Option Op} (h : NoSystem r) : LevelIs n r := fun op hr hop => absurd (h op hr) hop

theorem levelIs_some {n : Nat} {op : Op} (h : n = systemLevel op) : LevelIs n (some op) := fun _ e _ => Option.some.inj e ▸ h

theorem levelIs_ite {n : Nat} {p : Prop} [Decidable p] {a b : Option Op} (ha : p → LevelIs n a) (hb : ¬p → LevelIs n b) :
    LevelIs n (if p then a else b) := by
  split
  · next h => exact ha h
  · next h => exact hb h

theorem opB_levelIs {c : Nat} {w : Syllable} (hslot : slotOf w = 1) : LevelIs (sylLevel c w) (opAB false w) := by
  simp only [opAB, Bool.false_eq_true, if_false]
  repeat' refine levelIs_ite (fun _ => ?_) (fun _ => ?_)
  all_goals first
    | exact noSystem_none.levelIs | exact (noSystem_some rfl).levelIs | exact (aluOp_noSystem w).levelIs
    | exact (immOp_noSystem _ w).levelIs | exact levelIs_some (by simp [sylLevel, systemLevel, *])

theorem opM_levelIs {c : Nat} {w : Syllable} (hslot : slotOf w = 2) : LevelIs (sylLevel c w) (opM w) := by
  simp only [opM]
  repeat' refine levelIs_ite (fun _ => ?_) (fun _ => ?_)
  all_goals first
    | exact noSystem_none.levelIs | exact (noSystem_some rfl).levelIs | exact levelIs_some (by simp [sylLevel, systemLevel, *])

theorem sylOp_levelIs (c : Nat) (vcfg : Word) (w : Syllable) : LevelIs (sylLevel c w) (sylOp false vcfg w) := by
  unfold sylOp
  split
  case h_1 => exact (opA_noSystem w).levelIs
  case h_2 h => exact opB_levelIs h
  case h_3 h => exact opM_levelIs h
  case h_4 => exact (opVec_noSystem vcfg w).levelIs
  case h_5 => exact (opX_noSystem false w).levelIs
  case h_6 => exact noSystem_none.levelIs

/-! ### The decode of one syllable -/

/-- A word of an operation names one of the five slots. -/
theorem slotOf_lt_of_sylOp {gm : Bool} {vcfg : Word} {w : Syllable} {op : Op} (h : sylOp gm vcfg w = some op) : slotOf w < 5 := by
  refine Decidable.byContradiction fun hslot => ?_
  have hnone : sylOp gm vcfg w = none := by
    unfold sylOp
    split <;> first | omega | rfl
  rw [hnone] at h
  cases h

/-- Of one word, the first that satisfies a condition. -/
theorem firstBad_singleton (w : Syllable) (p : Syllable → Bool) : firstBad [w] p = if p w = true then some w else none := by
  have hslot : slotOf w < 8 := Nat.mod_lt _ (by decide)
  by_cases hp : p w = true
  · simp only [firstBad, hp, Bool.and_true, List.find?_cons, List.find?_nil]
    generalize slotOf w = k at hslot
    obtain rfl | rfl | rfl | rfl | rfl | rfl | rfl | rfl :
      k = 0 ∨ k = 1 ∨ k = 2 ∨ k = 3 ∨ k = 4 ∨ k = 5 ∨ k = 6 ∨ k = 7 := by omega
    all_goals rfl
  · simp [firstBad, hp]

/-- The decode of one legal word of vector mode, no delay bundle and not the last of a loop: its level alone is checked (R55). -/
theorem decodeCheck_singleton {d : Dev} {l c : Nat} {md : Modes} {vcfg addr : Word} {w : Syllable} {op : Op}
    (hop : sylOp false vcfg w = some op) (hstop : stopBit w = true) (hgm : md.gm = false) (hlast : isLoopLast d l c addr = false) :
    decodeCheck d l c md vcfg addr false [w] = if md.plev < sylLevel c w then some (sylTrap 5 w) else none := by
  have hslot := slotOf_lt_of_sylOp hop
  simp only [decodeCheck, firstBad_singleton, hgm, hlast, hop, hstop, notAscending, dupDest, List.any_nil, List.getLast?_singleton,
    Option.bind_some, decide_eq_true_eq, if_neg (Nat.not_le.mpr hslot), Bool.false_eq_true, false_and, and_false, if_false, if_true,
    Option.isNone_some]
  cases dstOf false w <;> exact apply_ite (Option.map (sylTrap 5)) _ _ _

end Sys2Proof.Machine

open Sys2Proof Sys2Proof.Machine

/-- Settles O53: the level of the word is the one its operation needs, and decode checks nothing else of it. -/
theorem privilegeAtDecode : Obligations.PrivilegeAtDecode := by
  unfold Obligations.PrivilegeAtDecode
  intro d l c md vcfg addr w op need hneed hop hstop hgm hlast
  have hlevel : need = systemLevel op ∧ systemLevel op ≠ 0 := by
    simp only [List.mem_cons, List.not_mem_nil, or_false, Prod.mk.injEq] at hneed
    rcases hneed with ⟨rfl, rfl⟩ | ⟨rfl, rfl⟩ | ⟨rfl, rfl⟩ | ⟨rfl, rfl⟩ | ⟨rfl, rfl⟩ <;> decide
  rw [decodeCheck_singleton hop hstop hgm hlast, sylOp_levelIs c vcfg w op hop hlevel.2, hlevel.1]
  rfl
end

section
/-!
PROOF. Control-register, event, branch and trap syllables (spec/03, spec/04), and the statement O3.
-/
namespace Sys2Proof.Machine

/-- A command whose syllable is there and which sets it to a state with effects. -/
theorem upd_onSyl_setSyl {s : State} {l c slot : Nat} {op : Op} {p : SylSt → Bool} {b : WB} {y : Syl} {f : Dev → Dev}
    {k : WB → Syl → Ctx → Dev} {st : SylSt} {eff : List Eff} (hf : f s.dev = onSyl l c slot op p k s.dev)
    (h : sylFor s.dev l c slot op p = some (b, y)) (hk : k b y (getCtx s.dev l c) = setSyl s.dev l c slot st eff) :
    s.upd f = .next (s.withDev (withSyl s.dev l c slot b y st eff)) :=
  upd_of_eq ((hf.trans (onSyl_some h k)).trans (hk.trans (setSyl_eq h rfl st eff)))

section
variable {s : State} {l c : Nat} {b : WB} {y : Syl}

theorem exec_getc_of_ready {m : RegMap} (h : sylFor s.dev l c 1 .getc isReady = some (b, y))
    (hm : clusterReg (selOff l c (fSEL y.word) - clOff l 0) = some m) :
    exec (.getc l c) s = .next (s.withDev (withSyl s.dev l c 1 b y .done
      [.sreg (fRD y.word) (m.readVal (regView s.dev (canonOff s.dev (selOff l c (fSEL y.word)))))])) :=
  upd_onSyl_setSyl rfl h (by simp only [hm]; rfl)

theorem exec_setc_of_ready (h : sylFor s.dev l c 1 .setc isReady = some (b, y)) (hgm : b.md.gm = false)
    (hmere : selOff l c (fSEL y.word) - clOff l 0 ≠ 0x500)
    (htile : ¬(0x480 ≤ selOff l c (fSEL y.word) - clOff l 0 ∧ selOff l c (fSEL y.word) - clOff l 0 < 0x4C0))
    (hicctl : selOff l c (fSEL y.word) - clOff l 0 ≠ 0x700) :
    exec (.setc l c) s = .next (s.withDev (withSyl s.dev l c 1 b y .done
      [.setc (selOff l c (fSEL y.word)) (sread (getCtx s.dev l c) (fRD y.word))])) :=
  upd_onSyl_setSyl rfl h (by
    simp only [splitAtEnd, hgm, Bool.false_eq_true, false_and, if_false, ne_eq, not_true_eq_false, if_neg hmere,
      if_neg (not_or.mpr ⟨htile, hicctl⟩)])

theorem exec_br_of_ready (h : sylFor s.dev l c 1 .br isReady = some (b, y)) (hcall : majorOf y.word ≠ 0x31) :
    exec (.br l c) s = .next (s.withDev (withSyl s.dev l c 1 b y .done
      [.branch true (addDisp b.addr (4 * sgn 22 (fld y.word 0 22)))])) :=
  upd_onSyl_setSyl rfl h (by simp only [branchSyl, beq_eq_false_iff_ne.mpr hcall, Bool.not_false, if_true, brTarget])

theorem exec_jr_of_ready (h : sylFor s.dev l c 1 .jr isReady = some (b, y)) (hcall : majorOf y.word ≠ 0x34) :
    exec (.jr l c) s = .next (s.withDev (withSyl s.dev l c 1 b y .done
      [.branch true (BitVec.ofNat 64
        ((addDisp (sread (getCtx s.dev l c) (fRD y.word)) (4 * sgn 17 (fld y.word 0 17))).toNat / 4 * 4))])) :=
  upd_onSyl_setSyl rfl h (by simp only [branchSyl, beq_eq_false_iff_ne.mpr hcall, Bool.not_false, if_true, brTarget])

theorem exec_loop_of_ready (h : sylFor s.dev l c 1 .loop isReady = some (b, y)) (hn : sread (getCtx s.dev l c) (fRD y.word) ≠ 0)
    (h0 : isSet (rget s.dev (csOff l c 0)) CL_LSTAT.ACT0 = false) (h1 : isSet (rget s.dev (csOff l c 0)) CL_LSTAT.ACT1 = false) :
    exec (.loop l c) s = .next (s.withDev (withSyl s.dev l c 1 b y .done
      [.loopTake (sread (getCtx s.dev l c) (fRD y.word)) (b.addr + BitVec.ofNat 64 (4 * b.len + 4 * fld y.word 0 17))])) :=
  upd_onSyl_setSyl rfl h (by simp only [if_neg hn, h0, h1, Bool.false_eq_true, false_and, if_false])

theorem exec_tret_of_ready (h : sylFor s.dev l c 1 .tret isReady = some (b, y)) (hidle : unitsIdle s.dev l c = true) :
    exec (.tret l c) s = .next (s.withDev (withSyl s.dev l c 1 b y .done [.tret])) :=
  upd_onSyl_setSyl rfl h (if_pos (.inl hidle))

end

end Sys2Proof.Machine

open Sys2Proof Sys2Proof.Machine

/-- Settles O3, command by command: each sets its syllable to done with its one list of effects. -/
theorem scalarControl : Obligations.ScalarControl := by
  unfold Obligations.ScalarControl
  refine ⟨fun s l c b y m => exec_getc_of_ready, ?_, ?_, ?_, fun s l c b y => exec_br_of_ready, fun s l c b y h => upd_onSyl_setSyl rfl h rfl,
    fun s l c b y => exec_jr_of_ready, ?_, ?_, fun s l c b y => exec_tret_of_ready⟩
  · intro s l c b y h o r
    exact exec_setc_of_ready h
  · intro s l c b y h x
    exact upd_onSyl_setSyl rfl h rfl
  · intro s l c b y h cfg
    exact upd_onSyl_setSyl rfl h rfl
  · intro s l c b y h n
    exact exec_loop_of_ready h
  intro s l c b y i op e hi h
  simp only [List.mem_cons, List.not_mem_nil, or_false, Prod.mk.injEq] at hi
  rcases hi with ⟨rfl, rfl, rfl⟩ | ⟨rfl, rfl, rfl⟩ | ⟨rfl, rfl, rfl⟩ | ⟨rfl, rfl, rfl⟩
  · exact upd_onSyl_setSyl rfl h rfl
  · exact upd_onSyl_setSyl rfl h rfl
  · exact upd_onSyl_setSyl rfl h rfl
  · exact upd_onSyl_setSyl rfl h rfl
end

section
/-!
PROOF. Waits of contexts and what ends them (spec/04 R105 to R108, spec/06, spec/12 R296), and the statement O4.
-/
namespace Sys2Proof.Machine

/-- A syllable found in a state is found where more states are accepted. -/
theorem sylFor_mono {d : Dev} {l c slot : Nat} {op : Op} {p q : SylSt → Bool} {b : WB} {y : Syl}
    (h : sylFor d l c slot op p = some (b, y)) (hpq : ∀ st, p st = true → q st = true) : sylFor d l c slot op q = some (b, y) := by
  obtain ⟨hb, hy, hp, hop⟩ := sylFor_some h
  simp only [sylFor, hb, hy, hpq _ hp, hop, and_self, if_true]

/-- A command on a ready syllable that may also wait already. -/
theorem onSyl_ready_or_held {d : Dev} {l c slot : Nat} {op : Op} {b : WB} {y : Syl}
    (h : sylFor d l c slot op isReady = some (b, y)) (k : WB → Syl → Ctx → Dev) :
    onSyl l c slot op (fun s => isReady s || s == .held) k d = k b y (getCtx d l c) :=
  onSyl_some (sylFor_mono h fun st hst => by simp [hst]) k

section
variable {s : State} {l c : Nat} {b : WB} {y : Syl}

/-- A context starts to wait for events. -/
theorem upd_waitEvent_of_ready {op : Op} (h : sylFor s.dev l c 1 op isReady = some (b, y)) :
    s.upd (waitEvent l c op) = .next (s.withDev (settle (updCl (withSyl s.dev l c 1 b y .held []) l
      (fun k => { k with evq := if k.evq.contains c then k.evq else k.evq ++ [c] })) l)) := by
  rw [← setSyl_eq h rfl]
  exact upd_of_eq (onSyl_ready_or_held h _)

theorem exec_wtalTallyReached_of_held (h : sylFor s.dev l c 1 .wtal (· == .held) = some (b, y))
    (hlt : (rget s.dev (clOff l 0x40)).toNat < (sread (getCtx s.dev l c) (fRA y.word)).toNat) :
    exec (.wtalTallyReached l c) s = .next (s.withDev (settle (rset s.dev (clOff l 0x40) (sread (getCtx s.dev l c) (fRA y.word))) l)) :=
  upd_of_eq ((onSyl_some h _).trans (congrArg (settle · l) (if_pos hlt)))

theorem exec_tallyCompareMatch_of_enabled (hen : isSet (rget s.dev (dtOff l c 0x58)) DT_TCMP.EN = true)
    (hlt : (rget s.dev (clOff l 0x40)).toNat <
      (BitVec.ofNat 64 (getF (rget s.dev (dtOff l c 0x58)) DT_TCMP.VALUE)).toNat) :
    exec (.tallyCompareMatch l c) s = .next (s.withDev (settle (rset s.dev (clOff l 0x40)
      (BitVec.ofNat 64 (getF (rget s.dev (dtOff l c 0x58)) DT_TCMP.VALUE))) l)) :=
  upd_of_eq ((if_pos hen).trans (congrArg (settle · l) (if_pos hlt)))

theorem exec_eventDelivery_of_powered {i bits : Nat} (hev : s.dev.events[i]? = some (l, bits)) (hcl : (getCl s.dev l).dormant = false)
    (hq : (getQ s.dev (quarterOf s.dev l)).held = false) :
    exec (.eventDelivery i) s = .next (s.withDev (settle (rset { s.dev with events := s.dev.events.eraseIdx i } (clOff l 0x50)
      (rget s.dev (clOff l 0x50) ||| BitVec.ofNat 64 bits)) l)) := by
  refine upd_of_eq ?_
  simp only [eventDelivery, hev]
  exact if_neg (not_or.mpr ⟨Bool.eq_false_iff.mp hcl, Bool.eq_false_iff.mp hq⟩)

theorem exec_fenceComplete_of_held (h : sylFor s.dev l c 2 .fence (· == .held) = some (b, y))
    (hready : fenceReady s.dev l c (fORD y.word) (fSCOPE y.word) = true)
    (herr : releaseErr s.dev l c (fORD y.word) (fSCOPE y.word) = none) :
    exec (.fenceComplete l c) s = .next (s.withDev (settle (retireIf
      (setSyl (releaseClean s.dev l (fORD y.word) (fSCOPE y.word)) l c 2 .done
        (if (fORD y.word).testBit 0 then [.acquire (fSCOPE y.word)] else [])) l c) l)) := by
  refine upd_of_eq ?_
  simp only [fenceComplete, h, hready, herr, Bool.not_true, Bool.false_eq_true, if_false]

theorem exec_warr_of_ready (h : sylFor s.dev l c 2 .warr isReady = some (b, y)) :
    exec (.warr l c) s = .next (s.withDev (warrSettle (withSyl s.dev l c 2 b y .held []) l c)) := by
  rw [← setSyl_eq h rfl]
  exact upd_of_eq (onSyl_ready_or_held h _)

end

end Sys2Proof.Machine

open Sys2Proof Sys2Proof.Machine

/-- Settles O4, command by command. -/
theorem scalarWaits : Obligations.ScalarWaits := by
  unfold Obligations.ScalarWaits
  refine ⟨?_, fun s l c b y => exec_wtalTallyReached_of_held,
    fun s l c => exec_tallyCompareMatch_of_enabled,
    fun s i l bits => exec_eventDelivery_of_powered, fun s l c b y h => upd_onSyl_setSyl rfl h rfl,
    fun s l c b y => exec_fenceComplete_of_held, fun s l c b y => exec_warr_of_ready⟩
  intro s l c b y i op hi h
  simp only [List.mem_cons, List.not_mem_nil, or_false, Prod.mk.injEq] at hi
  rcases hi with ⟨rfl, rfl⟩ | ⟨rfl, rfl⟩
  · exact upd_waitEvent_of_ready h
  · exact upd_waitEvent_of_ready h
end

section
/-!
PROOF. Issue, retirement, code lines, traps and interrupts at a boundary, and the end of contexts (spec/03, spec/05, spec/16): the
statement O5.
-/
namespace Sys2Proof.Machine

section
variable {s : State} {l c : Nat}

theorem exec_bundleIssue_of_choice (hreplat : s.dev.replat = none) (hc : chooseCtx s.dev l = some c) :
    exec (.bundleIssue l) s = .next (s.withDev (issueAll s.dev l [c])) := by
  refine upd_of_eq ?_
  simp only [bundleIssue, hreplat, hc, Option.isSome_none, Bool.false_eq_true, if_false]

theorem exec_packedIssue_of_choice {groups : Nat} (hc : chooseCtx s.dev l = some c)
    (hmem : (filterUpto 8 (fun c => groups.testBit c)).contains c = true) (hlen : 2 ≤ (filterUpto 8 (fun c => groups.testBit c)).length)
    (hok : packOk s.dev l (filterUpto 8 (fun c => groups.testBit c)) = true) (hreplat : s.dev.replat = none) :
    exec (.packedIssue l groups) s = .next (s.withDev (issueAll s.dev l ((filterUpto 8 (fun c => groups.testBit c)).mergeSort
      (fun a b => decide ((rget s.dev (csOff l a 0x60)).toNat ≤ (rget s.dev (csOff l b 0x60)).toNat))))) := by
  refine upd_of_eq ?_
  unfold packedIssue
  rw [hc]
  exact if_pos ⟨hmem, hlen, hok, by rw [hreplat]; rfl⟩

theorem exec_bundleRetire_of_complete {b : WB} (hwb : (getCtx s.dev l c).wb = some b) (hown : ownRetire b = false)
    (hcomplete : complete s.dev l c = true) :
    exec (.bundleRetire l c) s = .next (s.withDev (settle (retire s.dev l c) l)) := by
  refine upd_of_eq ?_
  simp only [bundleRetire, hwb, hown, retireIf, hcomplete, Bool.false_eq_true, if_false, if_true]

theorem exec_instructionCacheMissFill_of_stack {da k off attr : Nat} {va : Word} {md : Modes} (hwant : wantCode s.dev l c = some (va, md))
    (hline : fetchWords s.dev l md 5 va [] = .line da (.stack k off) attr) :
    exec (.instructionCacheMissFill l c) s = .next (s.withDev
      (if (homeRead s.dev (da / 64 * 64) k (off / 64 * 64) 64).2 = true
        then updCtx (homeNote s.dev (da / 64 * 64) k off 1) l c (fun x => { x with dfault := some (mcheck 1 (BitVec.ofNat 64 (da / 64 * 64))) })
        else fillCode (homeNote s.dev (da / 64 * 64) k off 1) l (da / 64 * 64)
          (dirtyOver (homeNote s.dev (da / 64 * 64) k off 1) l (da / 64 * 64) (homeRead s.dev (da / 64 * 64) k (off / 64 * 64) 64).1))) := by
  refine upd_of_eq ?_
  simp only [icacheFill, hwant, hline]

section
variable (hrun : running s.dev l c = true) (hbound : atBoundary s.dev l c = true)
include hrun hbound

theorem exec_trapEntry_of_due {t : Trap} {u : Bool} (hstop : (getCtx s.dev l c).stop = false) (hpark : (getCtx s.dev l c).park = none)
    (hunits : unitsStop s.dev l c = true) (hdue : dueTrap s.dev l c = some (t, u)) :
    exec (.trapEntry l c) s = .next (s.withDev (settle (takeTrap (clearDeferred s.dev l c t) l c t u) l)) := by
  refine upd_of_eq ?_
  simp only [trapEntry, hrun, hstop, hpark, hunits, hbound, hdue, Bool.not_true, Option.isSome_none, Bool.false_eq_true, or_self, if_false]

theorem exec_interruptEntry_of_takeable {k : Nat} {n : Bool} (hstop : (getCtx s.dev l c).stop = false)
    (hpark : (getCtx s.dev l c).park = none) (hunits : unitsStop s.dev l c = true) (hsw : (getCtx s.dev l c).swtrap = none)
    (huf : (getCtx s.dev l c).ufault = none) (hmc : (getCtx s.dev l c).dmc = none) (hcf : (getCtx s.dev l c).dcf = none)
    (htake : takeable s.dev l c = some (k, n)) :
    exec (.interruptEntry l c) s = .next (s.withDev (settle (takeTrap s.dev l c
      ⟨0x80 + k, ipendView s.dev l c &&& rget s.dev (dtOff l c 0x48)⟩ false) l)) := by
  refine upd_of_eq ?_
  simp only [interruptEntry, hrun, hstop, hpark, hunits, hbound, hsw, huf, hmc, hcf, htake, Bool.not_true, Option.isSome_none,
    Bool.false_eq_true, or_self, if_false]

theorem exec_contextEnd_of_idle (hstop : (getCtx s.dev l c).stop = true) (hv : (getCtx s.dev l c).vq = [])
    (hx : (getCtx s.dev l c).xq = []) (hsumm : (getCl s.dev l).summ = []) :
    exec (.contextEnd l c) s = .next (s.withDev (settle (endContext (discardBundle s.dev l c) l c) l)) := by
  refine upd_of_eq ?_
  simp only [contextEnd, hrun, hstop, hbound, hv, hx, hsumm, Bool.not_true, List.any_nil, Bool.false_eq_true, ne_eq, not_true_eq_false,
    or_self, if_false]

end
end
end Sys2Proof.Machine

open Sys2Proof Sys2Proof.Machine

/-- Settles O5, command by command. -/
theorem issueRetireTrap : Obligations.IssueRetireTrap := by
  unfold Obligations.IssueRetireTrap
  refine ⟨fun s l c => exec_bundleIssue_of_choice, fun s l groups c => exec_packedIssue_of_choice,
    fun s l c b => exec_bundleRetire_of_complete, fun s l c da k off attr va md => exec_instructionCacheMissFill_of_stack,
    fun s l c t u hrun hstop hpark hunits hbound hdue => exec_trapEntry_of_due hrun hbound hstop hpark hunits hdue,
    fun s l c k n hrun hstop hpark hunits hbound => exec_interruptEntry_of_takeable hrun hbound hstop hpark hunits,
    fun s ag l mask => rfl, fun s ag l mask => rfl,
    fun s l c hrun hstop hbound => exec_contextEnd_of_idle hrun hbound hstop⟩
end

section
/-!
PROOF. Thread syllables, collectives and the block barrier (spec/05): the statement O7.
-/
namespace Sys2Proof.Machine

section
variable {s : State} {l c n : Nat} {x : Ctx} {o : QOp}

theorem exec_threadAlu_of_plain {a : EAcc} (hhead : vHead s.dev l = some (c, x, o)) (hop : qopOp o = some .talu)
    (ha : (upTo o.pos (min 64 ((o.pos / 8 + n) * 8))).foldl (threadLane s.dev l c o) ⟨x, 0, false, none⟩ = a) (hstop : a.stop = none) :
    exec (.threadAlu l n) s = .next (s.withDev (setVHead (setCtx s.dev l c
      { a.x with vp := { a.x.vp with fl := a.x.vp.fl ||| a.fl } }) l c { o with pos := max o.pos (min 64 ((o.pos / 8 + n) * 8)) })) := by
  refine upd_of_eq ?_
  simp only [threadGroups, hhead, hop, ha, hstop, ne_eq, not_true_eq_false, if_false]

theorem exec_threadAtomic_of_plain (hhead : vHead s.dev l = some (c, x, o)) (hop : qopOp o = some .tatomic)
    (hrel : (fORD o.syl).testBit 1 = false) :
    exec (.threadAtomic l n) s = .next (s.withDev (memGroups l n .tatomic s.dev)) := by
  refine upd_of_eq ?_
  simp only [threadAtomics, hhead, hop, hrel, ne_eq, not_true_eq_false, Bool.false_eq_true, false_and, if_false]

theorem exec_tbc_of_head (hhead : vHead s.dev l = some (c, x, o)) (hop : qopOp o = some .tbc) (hfin : x.vp.fin = false) :
    exec (.tbc l) s = .next (s.withDev { setCtx s.dev l c { (threadBranchAll o (afterDelay s.dev l c) x).1 with
      delay := (threadBranchAll o (afterDelay s.dev l c) x).1.delay.map
        (fun dl => { dl with follow := (threadBranchAll o (afterDelay s.dev l c) x).2 })
      vp := { (threadBranchAll o (afterDelay s.dev l c) x).1.vp with fin := true } } with freeCtr := s.dev.freeCtr + 1 }) := by
  refine upd_of_eq ?_
  simp only [threadBranchOp, hhead, hop, hfin, ne_eq, not_true_eq_false, Bool.false_eq_true, or_self, if_false]
  rfl

/-- No head operation while no context holds the vector unit. -/
theorem vHead_of_free {d : Dev} (h : (getCl d l).vrun = none) : vHead d l = none := by
  simp only [vHead, h]

theorem exec_threadBranchResolve_of_free {dl : Delay} (hfree : (getCl s.dev l).vrun = none) (hdelay : (getCtx s.dev l c).delay = some dl)
    (hun : dl.unresolved = true) (hq : branchQueued (getCtx s.dev l c) = false) :
    exec (.threadBranchResolve l c) s = .next (s.withDev (updCtx s.dev l c
      (fun x => { x with delay := some { dl with unresolved := false } }))) := by
  refine upd_of_eq ?_
  simp only [threadResolve, vHead_of_free hfree, hdelay, hun, hq, Bool.not_false, and_self, Bool.false_eq_true, if_false, if_true]

/-! ### Bundles with their own retirement -/

variable {b : WB} {w : Syllable} {op : Op}

theorem exec_texit_of_own (hown : ownBundle s.dev l c .texit = some (b, w)) {d : Dev} {live : Nat}
    (hlive : live = maskOf 64 (fun t =>
      (glive (onLanes b.act (retire s.dev l c) (fun d t => setSt d l c t 3)) l c).testBit t && !b.act.testBit t))
    (hd : d = rset (onLanes b.act (retire s.dev l c) (fun d t => setSt d l c t 3)) (csOff l c 0x50) (BitVec.ofNat 64 live)) :
    exec (.texit l c) s = .next (s.withDev (settle
      (if live = 0 then updCtx d l c (fun x => { x with stop := true, colls := [] }) else checkColls d l c) l)) := by
  refine upd_of_eq ?_
  simp only [texit, hown, hd, hlive]

theorem exec_gyield_of_own (hown : ownBundle s.dev l c .gyield = some (b, w)) :
    exec (.gyield l c) s = .next (s.withDev (settle (yieldThreads (retire s.dev l c) l c b.act) l)) := by
  refine upd_of_eq ?_
  simp only [gyield, hown]

section
variable (hown : ownBundle s.dev l c op = some (b, w)) (hq : (getCtx s.dev l c).vq = []) (huf : (getCtx s.dev l c).ufault = none)
include hown hq huf

/-- A collective for no lane. -/
theorem collective_of_no_lane (hmask : issueMask (getCtx s.dev l c) op w = 0) : collective op l c s.dev =
    settle (freeW (collLoop (retireThreads (if op = .gvote then updCtx s.dev l c (fun x => swrite x (fRD w) 0) else s.dev) l c b b.act)
      l c b b.act) l c) l := by
  simp only [collective, hown, hq, huf, hmask, Option.isSome_none, ne_eq, not_true_eq_false, Bool.false_eq_true, or_self, and_false,
    if_false, if_true]

/-- A collective that every masked lane has reached. -/
theorem collective_of_all_here {m : Nat} (hm : issueMask (getCtx s.dev l c) op w = m) (hne : m ≠ 0)
    (hsplit : splitters s.dev l c m b.addr = 0) (hsame : maskDiffers (getCtx s.dev l c) b.addr m = false)
    (hhere : waitingAt (arrive s.dev l c b m (some m)) l c b.addr &&& m = m) : collective op l c s.dev =
    settle (freeW (collLoop (finishColl (perform (arrive s.dev l c b m (some m)) l c op b w m) l c m b.addr
      (b.addr + BitVec.ofNat 64 (4 * b.len))) l c b m) l c) l := by
  simp only [collective, hown, hq, huf, hm, hne, hsplit, hsame, hhere, Option.isSome_none, ne_eq, not_true_eq_false, Bool.false_eq_true,
    or_self, and_false, if_false, if_true]

end

theorem exec_gbar_of_own (hown : ownBundle s.dev l c .gbar = some (b, w)) {d e : Dev}
    (hsplit : splitters s.dev l c (glive s.dev l c) b.addr = 0) (hd : d = arrive s.dev l c b (glive s.dev l c) none)
    (he : e = if waitingAt d l c b.addr &&& glive s.dev l c = glive s.dev l c then gbarLoop d l c b (glive s.dev l c) else d) :
    exec (.gbar l c) s = .next (s.withDev (settle (gbarTry (checkColls (freeW e l c) l c) l
      (rgetF s.dev (csOff l c 0x48) CL_GCTL.BLOCK)) l)) := by
  refine upd_of_eq ?_
  simp only [gbar, hown, hsplit, ← hd, ← he, ne_eq, not_true_eq_false, if_false]

/-- The four collectives are one operation. -/
theorem exec_collective {i : Instr} (hi : (i, op) ∈ [(Instr.gvote l c, Op.gvote), (.gshfl l c, .gshfl), (.gxld l c, .gxld), (.gxst l c, .gxst)]) :
    exec i s = s.upd (collective op l c) := by
  simp only [List.mem_cons, List.not_mem_nil, or_false, Prod.mk.injEq] at hi
  rcases hi with ⟨rfl, rfl⟩ | ⟨rfl, rfl⟩ | ⟨rfl, rfl⟩ | ⟨rfl, rfl⟩ <;> rfl

end
end Sys2Proof.Machine

open Sys2Proof Sys2Proof.Machine

/-- Settles O7, command by command; the four collectives together. -/
theorem threadGroups : Obligations.ThreadGroups := by
  unfold Obligations.ThreadGroups
  refine ⟨fun s l n c x o hhead hop => exec_threadAlu_of_plain hhead hop rfl, fun _ _ _ _ _ _ _ _ => rfl,
    fun s l n c x o => exec_threadAtomic_of_plain, fun s l c x o => exec_tbc_of_head,
    fun s l c dl => exec_threadBranchResolve_of_free, fun s l c b w hown => exec_texit_of_own hown rfl rfl,
    fun s l c b w => exec_gyield_of_own, ?_, ?_, fun s l c b w hown hsplit => exec_gbar_of_own hown hsplit rfl rfl⟩
  · intro s l c b w i op hi hown hq huf hmask d
    rw [exec_collective hi]
    exact upd_of_eq (collective_of_no_lane hown hq huf hmask)
  · intro s l c b w i op hi hown hq huf m hne hsplit hsame d hhere
    rw [exec_collective hi]
    exact upd_of_eq (collective_of_all_here hown hq huf rfl hne hsplit hsame hhere)
end

section
/-!
PROOF. The vector unit starts, performs and completes operations (spec/08): the statement O8.
-/
namespace Sys2Proof.Machine

section
variable {s : State} {l c n : Nat} {x : Ctx} {o : QOp} {op : Op}

theorem exec_vectorOpStart_of_pick (hfree : (getCl s.dev l).vrun = none)
    (hpick : unitPick s.dev l (vStartable s.dev l) (getCl s.dev l).vwait = some c) (hyield : (getCtx s.dev l c).vp.yield = none) :
    exec (.vectorOpStart l) s = .next (s.withDev (updCl s.dev l
      (fun k => { k with vrun := some c, vwait := unitWaits (vStartable s.dev l) k.vwait c }))) := by
  refine upd_of_eq ?_
  simp only [vectorOpStart, hfree, hpick, hyield, Option.isSome_none, Bool.false_eq_true, if_false]

/-- The commands that enter element groups are one operation. -/
theorem exec_vGroups {i : Instr}
    (hi : (i, op) ∈ [(Instr.vadd l n, Op.vadd), (.vfadd l n, .vfadd), (.vsadd l n, .vsadd), (.vcmp l n, .vcmp), (.vcvt l n, .vcvt)]) :
    exec i s = s.upd (vGroups l n op) := by
  simp only [List.mem_cons, List.not_mem_nil, or_false, Prod.mk.injEq] at hi
  rcases hi with ⟨rfl, rfl⟩ | ⟨rfl, rfl⟩ | ⟨rfl, rfl⟩ | ⟨rfl, rfl⟩ | ⟨rfl, rfl⟩ <;> rfl

/-- Element groups entered without a trap. -/
theorem vGroups_of_no_stop {d : Dev} {a : EAcc} {hi : Nat} (hhead : vHead d l = some (c, x, o)) (hop : qopOp o = some op)
    (hhi : hi = min (cfgVl o.vcfg) ((o.pos / groupElems o + n) * groupElems o))
    (ha : (upTo o.pos hi).foldl (vEnter o) ⟨x, 0, false, none⟩ = a) (hstop : a.stop = none) :
    vGroups l n op d = setVHead (setCtx d l c
      { a.x with vp := { a.x.vp with fl := a.x.vp.fl ||| a.fl, xsat := a.x.vp.xsat || a.sat } }) l c { o with pos := max o.pos hi } := by
  subst hhi
  simp only [vGroups, hhead, hop, ha, hstop, ne_eq, not_true_eq_false, if_false]

/-- A whole operation, with its summary where it has one. -/
theorem vWhole_of_head {d : Dev} {k : Ctx → QOp → Ctx × Option (Bool × Nat × Word)} (hhead : vHead d l = some (c, x, o))
    (hop : qopOp o = some op) (hfin : x.vp.fin = false) :
    vWhole l op k d = (match (k x o).2 with
      | some (toFlag, idx, v) => if toFlag = false ∧ idx = 0
          then setCtx d l c { (k x o).1 with vp := { (k x o).1.vp with fin := true } }
          else updCl (setCtx d l c { (k x o).1 with vp := { (k x o).1.vp with fin := true } }) l
            (fun u => { u with summ := u.summ ++ [⟨c, toFlag, idx, v⟩] })
      | none => setCtx d l c { (k x o).1 with vp := { (k x o).1.vp with fin := true } }) := by
  simp only [vWhole, hhead, hop, hfin, ne_eq, not_true_eq_false, Bool.false_eq_true, or_self, if_false, Bool.not_eq_eq_eq_not, Bool.not_true] <;> rfl

/-- A whole operation whose result is a summary for a scalar register. -/
theorem vWhole_of_register {d : Dev} {k : Ctx → QOp → Ctx × Option (Bool × Nat × Word)} {y : Ctx} {r : Nat} {v : Word}
    (hhead : vHead d l = some (c, x, o)) (hop : qopOp o = some op) (hfin : x.vp.fin = false) (hk : k x o = (y, some (false, r, v)))
    (hr : r ≠ 0) :
    vWhole l op k d = updCl (setCtx d l c { y with vp := { y.vp with fin := true } }) l
      (fun u => { u with summ := u.summ ++ [⟨c, false, r, v⟩] }) := by
  rw [vWhole_of_head hhead hop hfin, hk]
  exact if_neg (fun h => hr h.2)

theorem exec_vredsum_of_integer (hhead : vHead s.dev l = some (c, x, o)) (hop : qopOp o = some .vredsum) (hfin : x.vp.fin = false)
    (hmajor : majorOf o.syl = 0x24) (hrd : fRD o.syl ≠ 0) :
    exec (.vredsum l) s = .next (s.withDev (updCl (setCtx s.dev l c { x with vp := { x.vp with fin := true } }) l
      (fun u => { u with summ := u.summ ++ [⟨c, false, fRD o.syl, vIntRed x o⟩] }))) := by
  refine upd_of_eq ?_
  simp only [vReduce, hhead, hop, hfin, hmajor, ne_eq, not_true_eq_false, Bool.false_eq_true, or_self, if_false, if_true]
  exact vWhole_of_register hhead hop hfin rfl hrd

/-- What a floating reduction of result and flags `r` gives. -/
def floatSummary (r : Nat × Nat) (x : Ctx) (o : QOp) : Ctx × Option (Bool × Nat × Word) :=
  ({ x with vp := { x.vp with fl := x.vp.fl ||| r.2 } }, some (false, fRD o.syl, BitVec.ofNat 64 r.1))

theorem exec_vfredosum_of_plain (hhead : vHead s.dev l = some (c, x, o)) (hop : qopOp o = some .vfredosum) (hfin : x.vp.fin = false)
    (hmajor : majorOf o.syl ≠ 0x24) (hrd : fRD o.syl ≠ 0) (htrap : (ERes.float o.md (vFloatRed x o)).trap = none) :
    exec (.vfredosum l) s = .next (s.withDev (updCl (setCtx s.dev l c
      { x with vp := { x.vp with fl := x.vp.fl ||| (vFloatRed x o).2, fin := true } }) l
      (fun u => { u with summ := u.summ ++ [⟨c, false, fRD o.syl, BitVec.ofNat 64 (vFloatRed x o).1⟩] }))) := by
  refine upd_of_eq ?_
  simp only [vReduce, hhead, hop, hfin, hmajor, htrap, ne_eq, not_true_eq_false, Bool.false_eq_true, or_self, if_false]
  exact vWhole_of_register (k := floatSummary (vFloatRed x o)) (y := (floatSummary (vFloatRed x o) x o).1) hhead hop hfin rfl hrd

theorem exec_summaryArrival_of_first {m : Summary} {rest : List Summary} {d : Dev} (hsumm : (getCl s.dev l).summ = m :: rest)
    (hd : d = updCl s.dev l (fun k => { k with summ := rest })) :
    exec (.summaryArrival l) s = .next (s.withDev (refreshPend (if m.toFlag = true
      then rset d (clOff l (0x400 + 8 * m.ctx)) (setB (rget d (clOff l (0x400 + 8 * m.ctx))) ⟨m.idx, 1⟩ (m.val != 0))
      else updCtx d l m.ctx (fun x => swrite x m.idx m.val)) l m.ctx)) := by
  refine upd_of_eq ?_
  simp only [summaryArrival, hsumm, hd]

theorem exec_vectorOpComplete_of_done {d : Dev} (hhead : vHead s.dev l = some (c, x, o))
    (hdone : x.vp.fin = true ∨ isWhole o = false ∧ vTotal o ≤ o.pos) (hwait : x.vp.waiting = []) (hvf : x.vp.fault = none)
    (hfault : o.fault = false)
    (hd : d = if qopOp o = some .tatomic ∧ (fORD o.syl).testBit 0 = true then acquireAt (accrue s.dev l c) l (fSCOPE o.syl)
      else accrue s.dev l c) :
    exec (.vectorOpComplete l) s = .next (s.withDev (refreshPend (rset
      (updCl (updCtx d l c (fun x => { x with vq := x.vq.drop 1, vp := Prog.empty })) l (fun k => { k with vrun := none }))
      (csOff l c 0x78) 0) l c)) := by
  have hguard : (x.vp.fin || (!isWhole o && decide (vTotal o ≤ o.pos))) = true := by
    rcases hdone with h | ⟨h, h'⟩
    · rw [h, Bool.true_or]
    · simp [h, h']
  refine upd_of_eq ?_
  simp only [vectorOpComplete, hhead, hguard, hwait, hvf, hfault, hd, Option.isNone_none, Bool.not_false, and_self, if_true]

end
end Sys2Proof.Machine

open Sys2Proof Sys2Proof.Machine

/-- Settles O8, by the kind of command: element groups, whole operations, reductions. -/
theorem vectorUnit : Obligations.VectorUnit := by
  unfold Obligations.VectorUnit
  refine ⟨fun s l c => exec_vectorOpStart_of_pick, ?_, ?_, fun s l c x o => exec_vredsum_of_integer,
    fun s l c x o => exec_vfredosum_of_plain, fun s l m rest hsumm => exec_summaryArrival_of_first hsumm rfl,
    fun s l c x o hhead hdone hwait hvf hfault => exec_vectorOpComplete_of_done hhead hdone hwait hvf hfault rfl⟩
  · intro s l n c x o i op hi hhead hop top a hstop
    rw [exec_vGroups hi]
    exact upd_of_eq (vGroups_of_no_stop hhead hop rfl rfl hstop)
  · intro s l c x o i op k hi hhead hop hfin d
    have hexec : exec i s = s.upd (vWhole l op k) := by
      rcases hi with ⟨rfl, rfl, rfl⟩ | ⟨rfl, rfl, rfl⟩ | ⟨rfl, rfl, rfl⟩ | ⟨rfl, rfl, rfl⟩ | ⟨rfl, rfl, rfl⟩ | ⟨rfl, rfl, rfl⟩ |
        ⟨rfl, rfl, rfl⟩ | ⟨rfl, rfl, rfl⟩ | ⟨rfl, rfl, rfl⟩ <;> rfl
    rw [hexec]
    exact upd_of_eq (vWhole_of_head hhead hop hfin)
end

section
/-!
PROOF. Vector memory operations: elements entered, groups that arrive, walks that end (spec/09): the statement O9.
-/
namespace Sys2Proof.Machine

section
variable {s : State} {l c n : Nat} {x : Ctx} {o : QOp} {op : Op}

/-- The commands that enter the elements of a memory operation are one operation. -/
theorem exec_memGroups {i : Instr}
    (hi : (i, op) ∈ [(Instr.vld l n, Op.vld), (.vlseg l n, .vlseg), (.vldx l n, .vldx), (.vstx l n, .vstx), (.vstxr l n, .vstxr)]) :
    exec i s = s.upd (memGroups l n op) := by
  simp only [List.mem_cons, List.not_mem_nil, or_false, Prod.mk.injEq] at hi
  rcases hi with ⟨rfl, rfl⟩ | ⟨rfl, rfl⟩ | ⟨rfl, rfl⟩ | ⟨rfl, rfl⟩ | ⟨rfl, rfl⟩ <;> rfl

/-- Element groups none of whose elements faults, waits for a walk or misses. -/
theorem memRun_of_no_stop {d : Dev} {m : MRun} {hi : Nat} (hhead : vHead d l = some (c, x, o)) (hop : qopOp o = some op)
    (hfault : x.vp.fault = none) (hhi : hi = min (memTotal o) ((o.pos / memE o + n) * memE o))
    (hm : (upTo o.pos hi).foldl (memEnter l c o) ⟨d, none, none, []⟩ = m) (hwhy : m.why = none) :
    memRun l n op d = if memArrives o = true
      then updCtx (setVHead m.d l c { o with pos := m.at_.getD (max o.pos hi) }) l c
        (fun x => { x with vp := { x.vp with waiting := m.groups.foldl (fun w g => insertAsc g w) x.vp.waiting } })
      else setVHead m.d l c { o with pos := m.at_.getD (max o.pos hi) } := by
  subst hhi
  simp only [memRun, hhead, hop, hfault, hm, hwhy, ne_eq, not_true_eq_false, Option.isSome_none, Bool.false_eq_true, or_self, if_false]

theorem exec_vectorWalkResume_of_ready (hfree : (getCl s.dev l).vrun = none)
    (hpick : unitPick s.dev l (vStartable s.dev l) (getCl s.dev l).vwait = some c) (hyield : (getCtx s.dev l c).vp.yield = some .ready) :
    exec (.vectorWalkResume l) s = .next (s.withDev (updCtx (updCl s.dev l
      (fun k => { k with vrun := some c, vwait := unitWaits (vStartable s.dev l) k.vwait c })) l c
      (fun x => { x with vp := { x.vp with yield := none } }))) := by
  refine upd_of_eq ?_
  simp only [vectorWalkResume, hfree, hpick, hyield, Option.isSome_none, Bool.false_eq_true, if_false]

/-! ### A group that arrives -/

/-- The requests of a group of a context's memory operation. -/
def groupReqs (d : Dev) (l c g : Nat) : List (Nat × Req) := (reqsOf d l).filter (fun e => e.2.src == .vector c &&
  (match e.2.kind with | .read => e.2.elem == g | .atomic _ _ _ => e.2.elem / 8 == g | _ => false))

/-- The end of an arrival: a fault found, a fault that waited for the last group, or neither. -/
def endArrival (l c : Nat) (fault : Option (Nat × Trap)) (more : List Nat) (waited : Option (Nat × Trap)) (d : Dev) : Dev :=
  match fault, more, waited with
  | some (i, t), _, _ => memStopAt d l c i t
  | none, [], some (i, t) => memStopAt d l c i t
  | none, _, _ => d

theorem endArrival_eq (l c : Nat) (fault : Option (Nat × Trap)) (more : List Nat) (waited : Option (Nat × Trap)) (d : Dev) :
    endArrival l c fault more waited d = (match fault with
      | some (i, t) => memStopAt d l c i t
      | none => match more, waited with
        | [], some (i, t) => memStopAt d l c i t
        | _, _ => d) := by
  rcases fault with _ | ⟨i, t⟩
  · rcases more with _ | ⟨m, more⟩ <;> rcases waited with _ | ⟨i, t⟩ <;> rfl
  · rfl

/-- The data of a group delivered into the registers and the group no longer waiting, and the first failed element. -/
def deliver (l c g : Nat) (o : QOp) (more : List Nat) (mine : List (Nat × Req)) (d : Dev) : Dev × Option (Nat × Trap) :=
  let reads := mine.filter (fun e => e.2.kind == .read)
  let d := reads.foldl (fun d e => if e.2.status = 0 then clusterFill (dropReq d e.1) l e.2.da e.2.out false false
    else dropReq d e.1) d
  let r1 := arriveElems d l c o (reads.map (·.2)) (upTo (g * memE o) (g * memE o + memE o))
  let r2 := arriveAtomics r1.1 l c o (mine.filter (fun e => e.2.kind != .read))
  (updCtx r2.1 l c (fun x => { x with vp := { x.vp with
    waiting := more, got := x.vp.got.filter (fun p => !(p.1 / 8 / memE o == g)),
    need := x.vp.need.filter (fun p => !(p.1 / 8 / memE o == g)) } }), match r1.2 with | some p => some p | none => r2.2)

theorem loadGroupArrival_of_oldest {d : Dev} {g : Nat} {q : List QOp} {more : List Nat} (hq : (getCtx d l c).vq = o :: q)
    (hwait : (getCtx d l c).vp.waiting = g :: more) (hdone : (groupReqs d l c g).any (fun e => e.2.stage != .done) = false) :
    loadGroupArrival l c g d = endArrival l c (deliver l c g o more (groupReqs d l c g) d).2 more (getCtx d l c).vp.fault
      (deliver l c g o more (groupReqs d l c g) d).1 := by
  unfold loadGroupArrival
  dsimp only
  rw [hq, hwait]
  dsimp only
  refine (if_neg (not_or.mpr ⟨not_not_intro rfl, Bool.eq_false_iff.mp hdone⟩)).trans ?_
  exact (endArrival_eq ..).symm

end
end Sys2Proof.Machine

open Sys2Proof Sys2Proof.Machine

/-- Settles O9. -/
theorem vectorMemory : Obligations.VectorMemory := by
  unfold Obligations.VectorMemory
  refine ⟨?_, ?_, fun s l c => exec_vectorWalkResume_of_ready⟩
  · intro s l n c x o i op hi hhead hop hfault top m hwhy d
    rw [exec_memGroups hi]
    exact upd_of_eq (congrArg (settleReset s.dev · l) (memRun_of_no_stop hhead hop hfault rfl rfl hwhy))
  · intro s l c g o q more hq hwait mine hdone reads d r1 r2 d'
    exact upd_of_eq (loadGroupArrival_of_oldest hq hwait hdone)
end

section
/-!
PROOF. The copy engine (spec/12 R285 to R298): the statement O11.
-/
namespace Sys2Proof.Machine

section
variable {s : State} {l c id : Nat} {cp : Copy}

theorem exec_copy_of_ready {b : WB} {y : Syl} {w : List Word} (h : sylFor s.dev l c 2 .copy isReady = some (b, y))
    (hw : w = (List.range 4).map (fun i => sread (getCtx s.dev l c) (fRA y.word + i))) :
    exec (.copy l c) s = .next (s.withDev (
      if fRA y.word % 4 ≠ 0 ∨ descBad w = true then withSyl s.dev l c 2 b y (.faulted (sylTrap 3 y.word)) []
      else match mereBadOff s.dev l (copyOf c w) with
        | some o => withSyl s.dev l c 2 b y (.faulted ⟨0x10, BitVec.ofInt 64 o⟩) []
        | none => withSyl s.dev l c 2 b y .done [.copy w])) := by
  subst hw
  simp only [← setSyl_eq h rfl]
  exact upd_of_eq (onSyl_some h _)

theorem exec_copyStart_of_oldest
    (hfind : List.find? (fun e : Nat × Copy => !e.2.active && e.2.park.isNone && e.2.fail.isNone && !e.2.done) (getCl s.dev l).copies =
      some (id, cp)) (hroom : activeCopies (getCl s.dev l) < 8) :
    exec (.copyStart l) s = .next (s.withDev (copyBegin (setCopy s.dev l id { cp with active := true }) l id)) := by
  refine upd_of_eq ?_
  simp only [copyStart, hfind, if_pos hroom]

section
variable (hcp : Tab.find? (getCl s.dev l).copies id = some cp)
include hcp

theorem exec_copySectorReturn_of_idle (hout : copyOut s.dev l id = none) :
    exec (.copySectorReturn l id) s = .next (s.withDev (copyBegin s.dev l id)) := by
  refine upd_of_eq ?_
  simp only [copySectorReturn, hcp, hout]

section
variable {rid : Nat} {r : Req} {u : CUnit} (hout : copyOut s.dev l id = some (rid, r)) (hstage : r.stage = .done) (hstatus : r.status = 0)
  (hnext : copyNext cp = some u)
include hout hstage hstatus hnext

theorem exec_copySectorReturn_of_write (hkind : r.kind ≠ .read) :
    exec (.copySectorReturn l id) s = .next (s.withDev (copyBegin (setCopy (dropReq s.dev rid) l id (copySkip cp u.n)) l id)) := by
  refine upd_of_eq ?_
  simp only [copySectorReturn, hcp, hout, hstage, hstatus, hnext, hkind, ne_eq, not_true_eq_false, if_false]

theorem exec_copySectorReturn_of_read (hkind : r.kind = .read) (hpre : cpKind cp ≠ 1) {d : Dev}
    (hd : d = clusterFill (dropReq s.dev rid) l r.da r.out false false) :
    exec (.copySectorReturn l id) s = .next (s.withDev (match clusterRead d l (r.da + u.src.toNat % 64) u.n false with
      | (some (v, bad), d) => if bad = true then copyStop d l id cp 3 u.src else copyWrite d l id cp u v
      | (none, d) => copyWrite d l id cp u (bitsOf r.out (8 * (u.src.toNat % 64)) (8 * u.n)))) := by
  refine upd_of_eq ?_
  simp only [copySectorReturn, hcp, hout, hstage, hstatus, hnext, hkind, hpre, ← hd, ne_eq, not_true_eq_false, if_false, if_true] <;> rfl

end

theorem exec_copyFinish_of_done (hdone : cp.done = true) (hfail : cp.fail = none) :
    exec (.copyFinish l id) s = .next (s.withDev (endCopy s.dev l id cp)) := by
  refine upd_of_eq ?_
  simp only [copyFinish, hcp, hdone, hfail, Option.isNone_none, and_self, if_true]

theorem exec_copyFail_of_failed {cause : Nat} {a : Word} {d : Dev} (hfail : cp.fail = some (cause, a))
    (hd : d = captureCopy s.dev l cp cause a) :
    exec (.copyFail l id) s = .next (s.withDev (endCopy (if running d l cp.ctx = true ∧ (getCtx d l cp.ctx).stop = false
      then updCtx d l cp.ctx (fun x => { x with dcf := some (x.dcf.getD (rget d (clOff l (0x680 + 8 * cp.ctx)))) })
      else d) l id cp)) := by
  refine upd_of_eq ?_
  simp only [copyFail, hcp, hfail, ← hd, Bool.not_eq_eq_eq_not, Bool.not_true]

end
end
end Sys2Proof.Machine

open Sys2Proof Sys2Proof.Machine

/-- Settles O11, command by command. -/
theorem copyEngine : Obligations.CopyEngine := by
  unfold Obligations.CopyEngine
  refine ⟨fun s l c b y h => exec_copy_of_ready h rfl, fun s l id cp => exec_copyStart_of_oldest, ?_,
    fun s l id cp => exec_copyFinish_of_done, fun s l id cause cp a hcp hfail => exec_copyFail_of_failed hcp hfail rfl⟩
  intro s l id cp hcp
  exact ⟨exec_copySectorReturn_of_idle hcp, fun rid r u hout hstage hstatus hnext =>
    ⟨exec_copySectorReturn_of_write hcp hout hstage hstatus hnext,
      fun hkind hpre => exec_copySectorReturn_of_read hcp hout hstage hstatus hnext hkind hpre rfl⟩⟩
end

section
/-!
PROOF. Requests at the quarter cache, prefetches, the power of cache ways (spec/13): the statement O12.
-/
namespace Sys2Proof.Machine

/-! ### Requests at the quarter cache -/

/-- The line of a quarter cache that holds the sector of a request whole. -/
def qcHit (d : Dev) (q : Nat) (r : Req) : Option (Nat × Sline) :=
  (qcFind d q r.da).bind (fun p => if slHit p.2 (r.da / 64 % 8 * 64) 64 then some p else none)

theorem qcHit_of_held {d : Dev} {q key : Nat} {r : Req} {ln : Sline} (hfind : qcFind d q r.da = some (key, ln))
    (hheld : slHit ln (r.da / 64 % 8 * 64) 64 = true) : qcHit d q r = some (key, ln) := by
  simp only [qcHit, hfind, Option.bind_some, hheld, if_true]

theorem qcHit_of_missing {d : Dev} {q : Nat} {r : Req}
    (h : ∀ key ln, qcFind d q r.da = some (key, ln) → slHit ln (r.da / 64 % 8 * 64) 64 = false) : qcHit d q r = none := by
  cases hfind : qcFind d q r.da with
  | none => simp only [qcHit, hfind, Option.bind_none]
  | some p => simp only [qcHit, hfind, Option.bind_some, h p.1 p.2 hfind, Bool.false_eq_true, if_false]

section
variable {d : Dev} {id k off : Nat} {r : Req} (hr : Tab.find? d.reqs id = some r) (hstage : r.stage = .toQuarter) (htgt : r.tgt = .stack k off)
  (hblock : reqBlocked d id r = false) (hheldq : (getQ d (k / 6)).held = false)
include hr hstage htgt hblock hheldq

/-- A read or write of a stack home that is looked up now. -/
theorem quarterRequest_of_stack (hkind : r.kind = .read ∨ r.kind = .write) : quarterRequest id d = match qcHit d (k / 6) r with
    | some p => if r.kind = .read
      then finishReq d id (if p.2.bad.testBit (r.da / 64 % 8) then 0x13 else 0) (slRead p.2 (r.da % 512) r.len)
      else finishReq (homeWrite d r.da k off r.len r.mask r.data (r.status == 3)) id 0 0
    | none => if r.kind = .write ∧ r.status = 0 ∧ r.len = 64 ∧ r.mask = ones 64 ∧ qcTakes d (k / 6) r.da
      then finishReq (homeWrite d r.da k off 64 (ones 64) r.data false) id 0 0 else goStack d id := by
  have hq : reqQuarter d r = k / 6 := by simp only [reqQuarter, htgt]
  unfold quarterRequest
  rw [hr]
  simp only [hq, hstage, hblock, hheldq, htgt, ne_eq, not_true_eq_false, Bool.false_eq_true, or_self, if_false, if_true]
  rw [← qcHit]
  rcases hkind with h | h <;> rw [h] <;> cases qcHit d (k / 6) r <;> simp

end

/-! ### Prefetches and ways -/

section
variable {s : State}

theorem exec_prefetchFill_of_missing {id : Nat} {r : Req} (hr : Tab.find? s.dev.reqs id = some r) (hsrc : r.src = .prefetch 0)
    (hstage : r.stage = .done) (hstatus : r.status = 0) (hheld : sectorHeld (dropReq s.dev id) r.cl r.da = false) :
    exec (.prefetchFill id) s = .next (s.withDev (sideFill (dropReq s.dev id) r.cl r.da r.out false)) := by
  refine upd_of_eq ?_
  simp only [prefetchFill, hr, hsrc, hstage, hstatus, hheld, Bool.not_false, and_self, if_true]

theorem exec_sideBufferPromote_of_held {l da : Nat} (hside : (sideFind s.dev l da).isSome = true) (hcc : hasCC s.dev l = true) :
    exec (.sideBufferPromote l da) s = .next (s.withDev (promote s.dev l da)) := by
  obtain ⟨x, hx⟩ := Option.isSome_iff_exists.mp hside
  refine upd_of_eq ?_
  simp only [sidePromote, hx, hcc, if_true]

variable {q w : Nat}

theorem exec_wayPowerDown_of_on (hon : wayBit s.dev q w QT_QWAY.ON = true) (hdrain : wayBit s.dev q w QT_QWAY.DRAIN = false) :
    exec (.wayPowerDown q w) s = .next (s.withDev (setWay s.dev q w QT_QWAY.DRAIN true)) := by
  refine upd_of_eq ?_
  simp only [wayDown, hon, hdrain, Bool.not_false, and_self, if_true]

theorem exec_wayDrainComplete_of_draining {d : Dev} (hdrain : wayBit s.dev q w QT_QWAY.DRAIN = true)
    (hd : d = updQ (setWay (drainWay s.dev q w) q w QT_QWAY.DRAIN false) q (fun u => { u with upAfter := u.upAfter.filter (· != w) })) :
    exec (.wayDrainComplete q w) s = .next (s.withDev (if (getQ s.dev q).upAfter.contains w = true then d
      else domSet (setWay d q w QT_QWAY.ON false) (domWay q w) false)) := by
  refine upd_of_eq ?_
  simp only [wayDrained, hdrain, ← hd, Bool.not_true, Bool.false_eq_true, if_false]

theorem exec_wayPowerUp_of_off (hdrain : wayBit s.dev q w QT_QWAY.DRAIN = false) (hon : wayBit s.dev q w QT_QWAY.ON = false) :
    exec (.wayPowerUp q w) s = .next (s.withDev (setWay (domSet s.dev (domWay q w) true) q w QT_QWAY.ON true)) := by
  refine upd_of_eq ?_
  simp only [wayUp, hdrain, hon, Bool.false_eq_true, if_false]

theorem exec_wayPowerUp_of_draining (hdrain : wayBit s.dev q w QT_QWAY.DRAIN = true) (hafter : (getQ s.dev q).upAfter.contains w = false) :
    exec (.wayPowerUp q w) s = .next (s.withDev (updQ s.dev q (fun u => { u with upAfter := u.upAfter ++ [w] }))) := by
  refine upd_of_eq ?_
  simp only [wayUp, hdrain, if_true, updQ, hafter, Bool.false_eq_true, if_false]

end
end Sys2Proof.Machine

open Sys2Proof Sys2Proof.Machine

/-- Settles O12: a request at the quarter cache goes by whether its sector is held; the ways by their two bits. -/
theorem cacheUnits : Obligations.CacheUnits := by
  unfold Obligations.CacheUnits
  refine ⟨?_, fun s id r => exec_prefetchFill_of_missing, fun s l da => exec_sideBufferPromote_of_held,
    fun s q w => exec_wayPowerDown_of_on, fun s q w hdrain => exec_wayDrainComplete_of_draining hdrain rfl,
    fun s q w => ⟨exec_wayPowerUp_of_off, exec_wayPowerUp_of_draining⟩⟩
  intro s id k off r hr hstage htgt hblock hheldq q held
  have hreq (hkind : r.kind = .read ∨ r.kind = .write) := quarterRequest_of_stack hr hstage htgt hblock hheldq hkind
  refine ⟨fun key ln hfind hheld => ?_, fun hmiss => ?_⟩
  · rw [qcHit_of_held hfind hheld] at hreq
    exact ⟨fun h => upd_of_eq ((hreq (.inl h)).trans (if_pos h)), fun h => upd_of_eq ((hreq (.inr h)).trans (if_neg (by rw [h]; decide)))⟩
  · rw [qcHit_of_missing hmiss] at hreq
    refine ⟨fun h => upd_of_eq ((hreq (.inl h)).trans (if_neg fun hw => ?_)),
      fun h hst hlen hmask htakes => upd_of_eq ((hreq (.inr h)).trans (if_pos ⟨h, hst, hlen, hmask, htakes⟩)),
      fun h hnot => upd_of_eq ((hreq (.inr h)).trans (if_neg fun hw => ?_))⟩
    · rw [h] at hw
      cases hw.1
    · obtain ⟨-, hst, hlen, hmask, htakes⟩ := hw
      rcases hnot with hn | hn | hn | hn
      · exact hn hst
      · exact hn hlen
      · exact hn hmask
      · rw [htakes] at hn
        cases hn
end

section
/-!
PROOF. Misses, walks and fault records: each command under the conditions of its statement (spec/14).
-/
namespace Sys2Proof.Machine

/-! ### Misses (R324, R325) -/

/-- TLB_MISS whose translation the quarter TLB has meanwhile: its waiter tries again. -/
theorem exec_tlbMiss_of_hit (s : State) (l asid : Nat) (item : Item) (wt : Waiter) (e : Tlb)
    (hn : itemNeed s.dev l item = some (wt, asid))
    (hw : alreadyWaits (getQ s.dev (quarterOf s.dev l)) wt = false) (hp : s.dev.wfdPend = [])
    (he : quarterHit s.dev (quarterOf s.dev l) asid wt.va wt.user (accOf wt.acc) = some e) :
    exec (.tlbMiss l item) s = .next (s.withDev (waiterReady (clusterTlb s.dev l e) wt)) := by
  refine upd_of_eq ?_
  simp only [tlbMiss, hn, hw, hp, he, ne_eq, not_true_eq_false, Bool.false_eq_true, or_self, if_false]

/-- TLB_MISS of a page that a walker has: its waiter joins that walk. -/
theorem exec_tlbMiss_of_walk (s : State) (l asid i : Nat) (item : Item) (wt : Waiter) (w : Walk)
    (hn : itemNeed s.dev l item = some (wt, asid))
    (hw : alreadyWaits (getQ s.dev (quarterOf s.dev l)) wt = false) (hp : s.dev.wfdPend = [])
    (he : quarterHit s.dev (quarterOf s.dev l) asid wt.va wt.user (accOf wt.acc) = none)
    (hf : List.find? (fun e : Nat × Walk => e.2.asid == asid && e.2.va.toNat / 4096 == wt.va.toNat / 4096)
      (getQ s.dev (quarterOf s.dev l)).walks = some (i, w)) :
    exec (.tlbMiss l item) s = .next (s.withDev (updQ s.dev (quarterOf s.dev l)
      (fun u => { u with walks := Tab.insert u.walks i { w with who := w.who ++ [wt] } }))) := by
  refine upd_of_eq ?_
  simp only [tlbMiss, hn, hw, hp, he, hf, ne_eq, not_true_eq_false, Bool.false_eq_true, or_self, if_false]

/-- TLB_MISS of a page that no walker has: it waits in the queue of 512. -/
theorem exec_tlbMiss_of_queue (s : State) (l asid : Nat) (item : Item) (wt : Waiter)
    (hn : itemNeed s.dev l item = some (wt, asid))
    (hw : alreadyWaits (getQ s.dev (quarterOf s.dev l)) wt = false) (hp : s.dev.wfdPend = [])
    (he : quarterHit s.dev (quarterOf s.dev l) asid wt.va wt.user (accOf wt.acc) = none)
    (hf : List.find? (fun e : Nat × Walk => e.2.asid == asid && e.2.va.toNat / 4096 == wt.va.toNat / 4096)
      (getQ s.dev (quarterOf s.dev l)).walks = none)
    (hq : (getQ s.dev (quarterOf s.dev l)).missq.length < 512) :
    exec (.tlbMiss l item) s = .next (s.withDev (updQ s.dev (quarterOf s.dev l) (fun u => { u with missq := u.missq ++
      [{ asid := asid, va := wt.va, acc := wt.acc, user := wt.user, who := [wt], got := [], bad := [] }] }))) := by
  refine upd_of_eq ?_
  simp only [tlbMiss, hn, hw, hp, he, hf, Nat.not_le.2 hq, ne_eq, not_true_eq_false, Bool.false_eq_true, or_self, if_false]

/-! ### Walks (R320 to R323) -/

/-- WALK_START gives the oldest miss the lowest free walker. -/
theorem exec_walkStart_of_miss (s : State) (q i : Nat) (w : Walk) (r : List Walk) (hq : (getQ s.dev q).missq = w :: r)
    (hi : findUpto 16 (fun i => (Tab.find? (getQ s.dev q).walks i).isNone) = some i) (hp : s.dev.wfdPend = []) :
    exec (.walkStart q) s = .next (s.withDev (refreshBusy (updQ s.dev q
      (fun u => { u with missq := r, walks := Tab.insert u.walks i w })) q)) := by
  refine upd_of_eq ?_
  simp only [walkStart, hq, hi, hp, ne_eq, not_true_eq_false, if_false]

/-- WALK_COMPLETE of a walk that faults. -/
theorem exec_walkComplete_of_fault (s : State) (q i : Nat) (w : Walk) (hw : Tab.find? (getQ s.dev q).walks i = some w)
    {p : Dev × Walk} (hp : p = walkTake s.dev q i w) (d : Dev) (kind level : Nat)
    (hg : walkGo p.1 q i p.2 = .fault d kind level) :
    exec (.walkComplete q i) s = .next (s.withDev (walkFaulted d q i p.2 kind level)) := by
  refine upd_of_eq ?_
  simp only [walkComplete, hw, ← hp, hg]

/-- WALK_COMPLETE of a walk that reaches a leaf which permits the access and needs no update (R321, R322). -/
theorem exec_walkComplete_of_leaf (s : State) (q i : Nat) (w : Walk) (hw : Tab.find? (getQ s.dev q).walks i = some w)
    {p : Dev × Walk} (hp : p = walkTake s.dev q i w) (d : Dev) (pa lo e a level : Nat) (wr us ex : Bool)
    (hg : walkGo p.1 q i p.2 = .leaf d pa lo e a level wr us ex)
    (hwr : p.2.acc = 1 → wr = true) (hus : p.2.user = true → us = true) (hex : p.2.acc = 2 → ex = true)
    (hacc : flagIn d 3 e true = true) (hdirt : p.2.acc = 1 → flagIn d 4 e true = true) :
    exec (.walkComplete q i) s = .next (s.withDev (walkFilled d q i p.2 pa lo wr us ex (flagIn d 4 e true))) := by
  refine upd_of_eq ?_
  have hwr' : ¬ (p.2.acc = 1 ∧ (!wr) = true) := fun ⟨h, hn⟩ => by simp [hwr h] at hn
  have hus' : ¬ (p.2.user = true ∧ (!us) = true) := fun ⟨h, hn⟩ => by simp [hus h] at hn
  have hex' : ¬ (p.2.acc = 2 ∧ (!ex) = true) := fun ⟨h, hn⟩ => by simp [hex h] at hn
  have hupd : flagIn d 3 e true = true ∧ (p.2.acc ≠ 1 ∨ flagIn d 4 e true = true) :=
    ⟨hacc, (Classical.em (p.2.acc = 1)).elim (fun h => .inr (hdirt h)) .inl⟩
  simp only [walkComplete, hw, ← hp, hg]
  rw [if_neg hwr', if_neg hus', if_neg hex', if_pos hupd]

/-! ### Fault records (R330) -/

/-- FAULT_RECORD_SEND sends an unsent record up, once. -/
theorem exec_faultRecordSend_of_unsent (s : State) (q i : Nat) (r : FRec)
    (hr : Tab.find? (getQ s.dev q).recs i = some r) (hs : r.sent = false) (hq : silent s.dev = false)
    (hh : hostReachable s.dev = true) :
    exec (.faultRecordSend q i) s = .next (s.withDev (updQ (sendUp s.dev 0x26 0 0 (recBytes (1024 * q + i) r)) q
      (fun u => { u with recs := Tab.insert u.recs i { r with sent := true } }))) := by
  refine upd_of_eq ?_
  simp only [recordSend, hr, hs, hq, hh, Bool.false_eq_true, Bool.not_true, if_false]

/-- FAULT_RECORD_FREE_WAIT of a context that waits for a record: it takes the one that joins. -/
theorem exec_faultRecordFreeWait_of_ctx (s : State) (q i l c : Nat) (r : List WalkFor) (p : Park) (d : Dev)
    (hw : (getQ s.dev q).recWait = .ctx l c :: r) (hp : (getCtx s.dev l c).park = some p) (ht : p.tag = none)
    (hj : joinRecord (updQ s.dev q (fun u => { u with recWait := r })) q p.fault.tval p.kind p.access p.level
      (getCtx s.dev l c).cur.asid p.dev (firstCtx l c) = some (i, d)) :
    exec (.faultRecordFreeWait q) s = .next (s.withDev
      (updCtx d l c (fun x => { x with park := some { p with tag := some (1024 * q + i) } }))) := by
  refine upd_of_eq ?_
  have hpark : waitingPark s.dev (.ctx l c) = some (p, (getCtx s.dev l c).cur.asid, firstCtx l c) := by
    simp only [waitingPark, hp, ht, Option.isNone_none, if_true]
  simp only [recordFreeWait, hw, hpark, hj]

end Sys2Proof.Machine
open Sys2Proof Sys2Proof.Machine

/-- Settles O13: a lemma per command, each following the statement's conditions through the command's definition. -/
theorem translationUnits : Obligations.TranslationUnits := by
  unfold Obligations.TranslationUnits
  refine ⟨fun s l asid item wt hn => ?_, exec_walkStart_of_miss, fun s q i w hw => ⟨?_, ?_⟩,
    exec_faultRecordSend_of_unsent, exec_faultRecordFreeWait_of_ctx⟩
  · intro q u hw hp
    exact ⟨fun e he => exec_tlbMiss_of_hit s l asid item wt e hn hw hp he, fun he =>
      ⟨fun i w hf => exec_tlbMiss_of_walk s l asid i item wt w hn hw hp he hf,
        fun hf hq => exec_tlbMiss_of_queue s l asid item wt hn hw hp he hf hq⟩⟩
  · exact exec_walkComplete_of_fault s q i w hw rfl
  · exact exec_walkComplete_of_leaf s q i w hw rfl

end

section
/-!
PROOF. The commands that are one write of a command register, and the control of translation (spec/14): the statement O14.
-/
namespace Sys2Proof.Machine

/-! ### A write of a command register -/

/-- A management write at a register of a block that answers, and no second address of a site, is applied by that register's rules. -/
theorem mgmtWrite_of_register {d : Dev} {ag : Agent} {o n : Nat} {m : RegMap} (hz : sizeOk o n = true)
    (ha : blkAnswers d (blkOf o).1) (hs : ∀ p, (blkOf o).1 ≠ .site p) (hp : inPlatbuf o = false)
    (hm : regMapOf (blkOf o).1 ((blkOf o).2 / 8 * 8) = some m) (v : Word) :
    mgmtWrite d ag o n v = (true, mgmtApply d ag (agentMap d ag (blkOf o).1 ((blkOf o).2 / 8 * 8) m) (blkOf o).1
      ((blkOf o).2 / 8 * 8) (o / 8 * 8) (writeMask o n v).1 (writeMask o n v).2) := by
  unfold mgmtWrite
  rw [mgmtCheck_of_mayWrite hz ha.1 (.inl hs), ha.2, hp, hm]
  simp only [Bool.false_eq_true, if_false, Option.elim_some]

/-- The same for an 8-byte write of a command register. -/
theorem cmdWrite_of_register {d : Dev} {ag : Agent} {o v : Nat} {b : Blk} {r : Nat} (hb : blkOf o = (b, r)) (ha : blkAnswers d b)
    (h8 : o % 8 = 0) (hr : r % 8 = 0) (hs : ∀ p, b ≠ .site p) (hp : inPlatbuf o = false) (hm : (regMapOf b r).isSome = true) :
    cmdWrite ag o v d = mgmtApply d ag (cmdReg d ag o) b r o (BitVec.ofNat 64 (ones 64)) (BitVec.ofNat 64 v) := by
  obtain ⟨m, hm⟩ := Option.isSome_iff_exists.1 hm
  have hr8 : r / 8 * 8 = r := by omega
  have ho8 : o / 8 * 8 = o := by omega
  have hm' : regMapOf (blkOf o).1 ((blkOf o).2 / 8 * 8) = some m := by rw [hb]; simpa only [hr8] using hm
  unfold cmdWrite mgmtWrite
  rw [mgmtCheck_reg (by rw [hb]; exact ha) h8 (by rw [hb]; exact hs) hp hm']
  simp only [hb, hr8, ho8]

/-- A whole write that gives the command field a value other than zero starts the command, where none runs (R26). -/
theorem onCmd_of_nonzero {d : Dev} {m : RegMap} {o : Nat} {v w : Word} {cmd : Fld} (go : Word → Dev → Dev)
    (hw : w = m.writeVal (BitVec.ofNat 64 (ones 64)) v (rget d o)) (hm : cmd.mask ≠ 0) (hc : getF w cmd ≠ 0) :
    onCmd d m o cmd (BitVec.ofNat 64 (ones 64)) v none go = go w (rset d o (w &&& ~~~m.woMask)) := by
  have hmask : BitVec.ofNat 64 (ones 64) &&& cmd.mask = cmd.mask := by
    rw [show BitVec.ofNat 64 (ones 64) = BitVec.allOnes 64 by decide, BitVec.allOnes_and]
  subst hw
  unfold onCmd
  simp only [hmask]
  exact if_neg (not_or.2 ⟨hm, hc⟩)

/-- The same in the statements' terms. -/
theorem onCmd_of_command {d : Dev} {ag : Agent} {o v : Nat} {cmd : Fld} (go : Word → Dev → Dev) (hm : cmd.mask ≠ 0)
    (hc : getF (cmdWord d ag o v) cmd ≠ 0) :
    onCmd d (cmdReg d ag o) o cmd (BitVec.ofNat 64 (ones 64)) (BitVec.ofNat 64 v) none go =
      go (cmdWord d ag o v) (cmdDev d ag o v) :=
  onCmd_of_nonzero go rfl hm hc

/-! ### Invalidation (R326) -/

/-- The write of TR_INV with a command, while none runs, is that command. -/
theorem cmdWrite_trInv {d : Dev} {ag : Agent} {v : Nat} (ha : blkAnswers d (.quarter 0))
    (hb : rbit d invStat TR_INVSTAT.BUSY = false) (hc : getF (cmdWord d ag (qOff 0 0x1100) v) TR_INV.OP ≠ 0) :
    cmdWrite ag (qOff 0 0x1100) v d = trInv (getF (cmdWord d ag (qOff 0 0x1100) v) TR_INV.OP)
      (getF (cmdWord d ag (qOff 0 0x1100) v) TR_INV.ASID) (cmdDev d ag (qOff 0 0x1100) v) := by
  rw [cmdWrite_of_register (b := .quarter 0) (r := 0x1100) rfl ha (by decide) (by decide) (by intro p h; cases h) (by decide) (by decide)]
  have hcanon : canonOff d (qOff 0 0x1100) = qOff 0 0x1100 := rfl
  unfold mgmtApply quarterApply
  simp only [hcanon, hb, Bool.false_eq_true, if_false]
  rw [if_neg (by decide), if_pos trivial]
  exact onCmd_of_command _ (by decide) hc

theorem rbit_invStat_cmdDev (d : Dev) (ag : Agent) (v : Nat) (f : Fld) :
    rbit (cmdDev d ag (qOff 0 0x1100) v) invStat f = rbit d invStat f := by
  simp only [rbit, cmdDev, rget_rset_ne d _ (show invStat ≠ qOff 0 0x1100 by decide)]

theorem trInv_all {d : Dev} (hb : rbit d invStat TR_INVSTAT.BUSY = false) (asid : Nat) :
    trInv 1 asid d = rsetB (dropTrans d (fun _ => true) (fun _ => true)) invStat TR_INVSTAT.BUSY true := by
  unfold trInv
  exact if_neg (by simp only [hb, Bool.false_eq_true, not_false_eq_true])

theorem trInv_space {d : Dev} (hb : rbit d invStat TR_INVSTAT.BUSY = false) (asid : Nat) :
    trInv 2 asid d = rsetB (dropTrans d (fun e => e.asid == asid) (fun a => a == asid)) invStat TR_INVSTAT.BUSY true := by
  unfold trInv
  exact if_neg (by simp only [hb, Bool.false_eq_true, not_false_eq_true])

theorem trInv_range {d : Dev} (hb : rbit d invStat TR_INVSTAT.BUSY = false) (asid : Nat) {lo len : Nat}
    (hlo : lo = (rget d (qOff 0 0x1108)).toNat / 4096 * 4096) (hlen : len = (rget d (qOff 0 0x1110)).toNat) :
    trInv 3 asid d = if len = 0 then invDone d
      else rsetB (dropTrans d (tlbIn asid lo (lo + len)) (fun a => a == asid)) invStat TR_INVSTAT.BUSY true := by
  subst hlo hlen
  unfold trInv
  exact if_neg (by simp only [hb, Bool.false_eq_true, not_false_eq_true])

section Invalidate
variable {s : State} {ag : Agent} {asid v : Nat} {i : Instr}
  (hi : (i, v) ∈ [(Instr.invAllSpaces ag, regOf [(TR_INV.OP, 1)]), (.invSpace ag asid, regOf [(TR_INV.OP, 2), (TR_INV.ASID, asid)]),
    (.invRange ag asid, regOf [(TR_INV.OP, 3), (TR_INV.ASID, asid)])])
include hi

/-- INV_ALL_SPACES, INV_SPACE and INV_RANGE are writes of TR_INV. -/
theorem exec_invalidate : exec i s = s.upd (cmdWrite ag (qOff 0 0x1100) v) := by
  simp only [List.mem_cons, List.not_mem_nil, or_false, Prod.mk.injEq] at hi
  rcases hi with ⟨rfl, rfl⟩ | ⟨rfl, rfl⟩ | ⟨rfl, rfl⟩ <;> rfl

/-- With none busy, each of them is the invalidation of the OP and ASID that the register takes. -/
theorem exec_invalidate_of_idle (ha : blkAnswers s.dev (.quarter 0)) (hb : rbit s.dev invStat TR_INVSTAT.BUSY = false) {op : Nat}
    (hop : getF (cmdWord s.dev ag (qOff 0 0x1100) v) TR_INV.OP = op) (h0 : op ≠ 0) :
    exec i s = .next (s.withDev (trInv op (getF (cmdWord s.dev ag (qOff 0 0x1100) v) TR_INV.ASID)
      (cmdDev s.dev ag (qOff 0 0x1100) v))) := by
  rw [exec_invalidate hi]
  refine upd_of_eq ?_
  rw [cmdWrite_trInv ha hb (by rw [hop]; exact h0), hop]

end Invalidate

/-- INVALIDATION_COMPLETE with no access of before on its way. -/
theorem exec_invalidationComplete_of_settled (s : State) (hb : rbit s.dev invStat TR_INVSTAT.BUSY = true)
    (ho : accessesOut s.dev = false) :
    exec .invalidationComplete s = .next (s.withDev
      (invDone (rsetB ((Tab.keys s.dev.cl).foldl cleanCluster s.dev) invStat TR_INVSTAT.BUSY false))) := by
  refine upd_of_eq ?_
  simp only [invalidationComplete, hb, ho, Bool.not_true, Bool.false_eq_true, if_false]

/-! ### The walker format (R327) -/

/-- A quarter's block lies outside the staging buffer. -/
theorem inPlatbuf_of_quarter {o q : Nat} (h : (blkOf o).1 = .quarter q) : inPlatbuf o = false := by
  refine Bool.eq_false_iff.mpr fun hb => ?_
  rw [blkOf_of_inPlatbuf hb] at h
  cases h

/-- WALKER_FORMAT_WRITE of a register of the format, or of a root, joins the format writes that wait. -/
theorem exec_walkerFormatWrite_of_register (s : State) (ag : Agent) (off size q r : Nat) (v : Word)
    (ho : blkOf off = (.quarter q, r)) (hlo : 0x1000 ≤ r) (hhi : r < 0x10C0) (hz : sizeOk off size = true)
    (ha : blkAnswers s.dev (.quarter q)) (hm : (quarterReg (r / 8 * 8)).isSome = true) :
    exec (.walkerFormatWrite ag off size v) s = .next (s.withDev
      (wfdWrite s.dev (canonOff s.dev (off / 8 * 8)) (writeMask off size v).1 (writeMask off size v).2)) := by
  refine upd_of_eq ?_
  obtain ⟨m, hm⟩ := Option.isSome_iff_exists.1 hm
  have hplat := inPlatbuf_of_quarter (congrArg Prod.fst ho)
  have hw := mgmtWrite_of_register (ag := ag) (m := m) hz (by rw [ho]; exact ha) (by rw [ho]; intro p h; cases h) hplat (by rw [ho]; exact hm) v
  unfold walkerFormatWrite
  rw [ho]
  simp only [ho] at hw
  simp only [hlo, hhi, and_self, if_true, hw, mgmtApply, quarterApply]
  exact if_pos ⟨by omega, by omega⟩

/-! ### Answers to fault records (R332) -/

/-- The write of TR_RESUME with an action is that answer. -/
theorem cmdWrite_trResume {d : Dev} {ag : Agent} {v : Nat} (ha : blkAnswers d (.quarter 0))
    (hc : getF (cmdWord d ag (qOff 0 0x1180) v) TR_RESUME.ACTION ≠ 0) :
    cmdWrite ag (qOff 0 0x1180) v d = trResume (getF (cmdWord d ag (qOff 0 0x1180) v) TR_RESUME.TAG)
      (getF (cmdWord d ag (qOff 0 0x1180) v) TR_RESUME.ACTION) (cmdDev d ag (qOff 0 0x1180) v) := by
  rw [cmdWrite_of_register (b := .quarter 0) (r := 0x1180) rfl ha (by decide) (by decide) (by intro p h; cases h) (by decide) (by decide)]
  have hcanon : canonOff d (qOff 0 0x1180) = qOff 0 0x1180 := rfl
  unfold mgmtApply quarterApply
  simp only [hcanon]
  rw [if_neg (by decide), if_neg (by decide), if_pos trivial]
  exact onCmd_of_command _ (by decide) hc

/-- An answer of one of the two actions goes to the record outstanding, or counts as stale. -/
theorem trResume_of_action {a : Nat} (h : a = 1 ∨ a = 2) (t : Nat) (d : Dev) :
    trResume t a d = if (Tab.find? (getQ d (t / 1024 % 4)).recs (t % 1024)).isSome = true
      then answerRecord d (t % 4096) (a == 1) else rinc d (qOff 0 0x1188) TR_FAULTSTAT.STALE := by
  simp only [trResume, h, and_true]

/-- RESUME_RETRY and RESUME_UNRESOLVED. -/
theorem exec_resume (s : State) (ag : Agent) (tag a : Nat) (i : Instr)
    (hi : (i, a) ∈ [(Instr.resumeRetry ag tag, 1), (.resumeUnresolved ag tag, 2)]) (ha : blkAnswers s.dev (.quarter 0))
    {o v t : Nat} {d : Dev} (ho : o = qOff 0 0x1180) (hv : v = regOf [(TR_RESUME.TAG, tag), (TR_RESUME.ACTION, a)])
    (hd : d = cmdDev s.dev ag o v) (ht : t = getF (cmdWord s.dev ag o v) TR_RESUME.TAG)
    (hact : getF (cmdWord s.dev ag o v) TR_RESUME.ACTION = a) :
    exec i s = .next (s.withDev (if (Tab.find? (getQ d (t / 1024 % 4)).recs (t % 1024)).isSome = true
      then answerRecord d (t % 4096) (a == 1) else rinc d (qOff 0 0x1188) TR_FAULTSTAT.STALE)) := by
  have hexec : exec i s = s.upd (cmdWrite ag (qOff 0 0x1180) (regOf [(TR_RESUME.TAG, tag), (TR_RESUME.ACTION, a)])) := by
    simp only [List.mem_cons, List.not_mem_nil, or_false, Prod.mk.injEq] at hi
    rcases hi with ⟨rfl, rfl⟩ | ⟨rfl, rfl⟩ <;> rfl
  have h12 : a = 1 ∨ a = 2 := by
    simp only [List.mem_cons, List.not_mem_nil, or_false, Prod.mk.injEq] at hi
    exact hi.imp And.right And.right
  subst ho
  rw [hexec, ← hv]
  refine upd_of_eq ?_
  rw [cmdWrite_trResume ha (by omega), hact, ← ht, ← hd, trResume_of_action h12]

end Sys2Proof.Machine
open Sys2Proof Sys2Proof.Machine

/-- Settles O14: the command registers' writes reach the command (`cmdWrite_of_register`, `onCmd_of_command`), and each command is
followed by its cases. -/
theorem translationControl : Obligations.TranslationControl := by
  unfold Obligations.TranslationControl
  refine ⟨fun s ag asid i v hi ha hb => ?_, exec_invalidationComplete_of_settled, exec_walkerFormatWrite_of_register,
    fun s ag tag a i hi ha => exec_resume s ag tag a i hi ha rfl rfl rfl rfl⟩
  have hb' := (rbit_invStat_cmdDev s.dev ag v TR_INVSTAT.BUSY).trans hb
  refine ⟨fun hop => ?_, fun hop => ?_, fun hop => ?_⟩
  · rw [exec_invalidate_of_idle hi ha hb hop (by decide), trInv_all hb']
  · rw [exec_invalidate_of_idle hi ha hb hop (by decide), trInv_space hb']
  · rw [exec_invalidate_of_idle hi ha hb hop (by decide), trInv_range hb' _ rfl rfl]

end

section
/-!
PROOF. Tract commands, moves of tracts, Allotment epochs (spec/14, spec/20): the statement O15.
-/
namespace Sys2Proof.Machine

/-- The write of GO in SU_TRACTCTL gives the tract unit its command. -/
theorem cmdWrite_tractGo (d : Dev) (ag : Agent) :
    cmdWrite ag (suOff 0x1020) (regOf [(SU_TRACTCTL.GO, 1)]) d =
      suTractGo (cmdParts d ag (suOff 0x1020) (regOf [(SU_TRACTCTL.GO, 1)])) := by
  rw [cmdWrite_of_register (b := .su) (r := 0x1020) rfl ⟨rfl, rfl⟩ (by decide) (by decide) (by intro p h; cases h) (by decide) (by decide)]
  unfold mgmtApply suApply
  dsimp only
  rw [if_pos rfl]
  exact if_pos (by decide)

section TractGo
variable (s : State) (ag : Agent) {d : Dev} (hd : d = cmdParts s.dev ag (suOff 0x1020) (regOf [(SU_TRACTCTL.GO, 1)]))
  {w : List Word} (hw : w = (List.range 4).map (fun i => rget d (suOff (0x1000 + 8 * i)))) {c : TractCmd}
  (hc : c = { words := w, ring := none, started := false, todo := [], done := 0 })
  (hb : rbit d (suOff 0x1020) SU_TRACTCTL.BUSY = false)
include hd hw hc hb

/-- An idle tract unit ends a command that fails its checks at once (R337). -/
theorem exec_suTractctlGo_of_refused {st : Nat} (h : tcCheck d w = some st) :
    exec (.suTractctlGo ag) s = .next (s.withDev (tractEnds d c st)) := by
  refine upd_of_eq ?_
  rw [cmdWrite_tractGo, ← hd]
  simp only [suTractGo, hb, Bool.false_eq_true, if_false, tractGo, ← hw, ← hc, h]

/-- An idle tract unit takes any other command (R337). -/
theorem exec_suTractctlGo_of_taken (h : tcCheck d w = none) :
    exec (.suTractctlGo ag) s =
      .next (s.withDev { rsetB d (suOff 0x1020) SU_TRACTCTL.BUSY true with tractCmd := some c }) := by
  refine upd_of_eq ?_
  rw [cmdWrite_tractGo, ← hd]
  simp only [suTractGo, hb, Bool.false_eq_true, if_false, tractGo, ← hw, ← hc, h]

end TractGo

/-- MIGRATE of a command that has not begun. -/
theorem exec_migrate_of_waiting (s : State) (c : TractCmd) (hc : s.dev.tractCmd = some c) (hop : tcByte c.words 0x10 = 1)
    (hs : c.started = false) {ts : List Nat} (hts : ts = tcTracts c.words) {todo : List (Nat × Nat)}
    (htodo : todo = ((List.range ts.length).zip ts).map (fun p => (p.2, (tcStack s.dev c.words p.1).getD 0))) :
    exec .migrate s = .next (s.withDev (tractNext { s.dev with tractCmd := some { c with started := true, todo := todo } })) := by
  refine upd_of_eq ?_
  simp only [migrate, hc, hop, hs, ne_eq, not_true_eq_false, Bool.false_eq_true, or_self, if_false, ← hts, ← htodo]

/-- ADVISE runs over every tract of the range and ends (R336). -/
theorem exec_advise_of_command (s : State) (c : TractCmd) (hc : s.dev.tractCmd = some c) (hop : tcByte c.words 0x10 = 2)
    {h pref : Nat} (hh : h = tcByte c.words 0x11) (hpref : pref = tcByte c.words 0x13 + 256 * tcByte c.words 0x12)
    {one : Dev → Nat → Dev}
    (hone : one = fun d t =>
      let d := updTract d t (fun x => { x with hints := h, pref := if h.testBit 1 = true then some pref else none,
                                               repl := if h.testBit 2 = true then [] else x.repl })
      if h.testBit 3 = true then discardTract d t else d) :
    exec .advise s = .next (s.withDev
      (tractEnds ((tcTracts c.words).foldl one s.dev) { c with done := (tcTracts c.words).length } 0)) := by
  refine upd_of_eq ?_
  subst hh hpref hone
  unfold advise
  rw [hc]
  exact if_neg (fun hne => hne hop)

/-- TRACT_CHUNK_MOVE while chunks of the tract remain. -/
theorem exec_tractChunkMove_of_remaining (s : State) (t : Nat) (hm : (getTract s.dev t).moving.isSome = true)
    (hr : (getTract (moveChunk s.dev t) t).moving.isSome = true) :
    exec (.tractChunkMove t) s = .next (s.withDev (moveChunk s.dev t)) := by
  refine upd_of_eq ?_
  have hsome : (getTract s.dev t).moving.isNone = false := by rw [← Option.not_isSome, hm]; rfl
  simp only [chunkMove, hsome, hr, Bool.false_eq_true, if_false, if_true]

/-- ALLOTMENT_EPOCH in Allotment mode (R445). -/
theorem allotEpoch_of_allot {d : Dev} (h : d.plat.allot = true) {ts : List Nat} (hts : ts = (epochTracts d).filter (tractInWindows d))
    {d1 : Dev} (hd1 : d1 = if silent d = true then d
      else ([ruleVacate, rulePref, ruleLocal, ruleRepl].foldl (fun e rule => ts.foldl rule e) (d, 64)).1) {d2 : Dev}
    (hd2 : d2 = ts.foldl (fun d t =>
      let a := Tab.get [0, 0, 0, 0] d.lv.epochAcc t
      updTract d t (fun x => { x with
        acc := a.sum, topq := (List.range 4).foldl (fun b q => if a.getD b 0 < a.getD q 0 then q else b) 0 })) d1) {d3 : Dev}
    (hd3 : d3 = rinc d2 (suOff 0x1200) SU_ALLOTSTAT.EPOCH) {d4 : Dev}
    (hd4 : d4 = rsetF d3 (suOff 0x1200) SU_ALLOTSTAT.REPL ((d3.tracts.map (fun e => e.2.repl.length)).sum)) :
    allotEpoch d = updLv d4 (fun v => { v with epochOld := v.epochAcc, epochAcc := [] }) := by
  subst hd4 hd3 hd2 hd1 hts
  cases hs : silent d with
  | true => simp only [allotEpoch, h, hs, Bool.not_true, Bool.false_eq_true, if_false, if_true]
  | false => simp only [allotEpoch, h, hs, Bool.not_true, Bool.false_eq_true, if_false]

end Sys2Proof.Machine
open Sys2Proof Sys2Proof.Machine

/-- Settles O15: a lemma per command, each along the branch that the statement's conditions name. -/
theorem tractMoves : Obligations.TractMoves := by
  unfold Obligations.TractMoves
  refine ⟨?_, fun s c hc hop hs => exec_migrate_of_waiting s c hc hop hs rfl rfl,
    fun s c hc hop => exec_advise_of_command s c hc hop rfl rfl rfl, exec_tractChunkMove_of_remaining, ?_⟩
  · intro s ag d w c hb
    cases h : tcCheck d w with
    | some st => exact exec_suTractctlGo_of_refused s ag rfl rfl rfl hb h
    | none => exact exec_suTractctlGo_of_taken s ag rfl rfl rfl hb h
  · intro s h ts d d2 d3 d4
    refine upd_of_eq (op := allotEpoch) ?_
    exact allotEpoch_of_allot h rfl rfl rfl rfl rfl

end

section
/-!
PROOF. Stack controllers: requests, map-out and restripe, scrub, refresh (spec/15): the statements O16 and O17.
-/
namespace Sys2Proof.Machine

/-! ### Requests (R341, R348 to R350) -/

/-- STACK_REQUEST_ADMIT of a request that nothing keeps waiting. -/
theorem exec_stackRequestAdmit_of_free (s : State) (id k off : Nat) (r : Req) (hr : Tab.find? s.dev.reqs id = some r)
    (hst : r.stage = .toStack) (ht : r.tgt = .stack k off) (hsr : rbit s.dev (stkOff k 0x18) MS_STAT.SR = false)
    (hm : inMotion s.dev k off = false) (hh : (getQ s.dev (k / 6)).held = false) (hw : writeAhead s.dev id r = false)
    {n : List (Nat × Req)} (hn : n = (heldReqs s.dev k).filter (fun e => match reqStack e.2 with
      | some (_, o) => chanOf s.dev k o == chanOf s.dev k off | none => false)) {m : Nat} (hord : m = (getStk s.dev k).nextOrd) :
    exec (.stackRequestAdmit id) s = .next (s.withDev (
      if stackLen s.dev k ≤ off then finishReq s.dev id 1 0
      else if 64 ≤ n.length then rset s.dev (stkOff k 0x28) (rget s.dev (stkOff k 0x28) + 1)
      else updReq (updStk s.dev k (fun s => { s with nextOrd := m + 1 })) id (fun r => { r with stage := .admitted m, passed := 0 }))) := by
  refine upd_of_eq ?_
  subst hn hord
  simp only [stackAdmit, hr, hst, ht, hsr, hm, hh, hw, Bool.false_eq_true, or_self, if_false] <;> rfl

section Complete
variable {s : State} {id k off : Nat} {r : Req} (hr : Tab.find? s.dev.reqs id = some r) (ht : r.tgt = .stack k off)
  (hm : mayFinish s.dev r = true)
include hr ht hm

/-- STACK_REQUEST_COMPLETE of a read (R349). -/
theorem exec_stackRequestComplete_of_read {d : Dev} (hd : d = sampleAccess (notePassed s.dev r) k r) (hk : r.kind = .read)
    {g : Nat × Bool} (hg : g = homeRead d r.da k off r.len) {e : Dev} (he : e = homeNote d r.da k off (eccKind d r)) :
    exec (.stackRequestComplete id) s = .next (s.withDev (finishReq
      (if r.qcache = true ∧ g.2 = false ∧ r.len = 64 ∧ qcHolds e k r.da = false ∧ qcTakes e (k / 6) r.da = true
        then qcFill e (k / 6) r.da g.1 false else e) id (if g.2 = true then 3 else 0) g.1)) := by
  refine upd_of_eq ?_
  have hfills : (r.qcache && !g.2 && r.len == 64 && !qcHolds e k r.da && qcTakes e (k / 6) r.da) = true ↔
      (r.qcache = true ∧ g.2 = false ∧ r.len = 64 ∧ qcHolds e k r.da = false ∧ qcTakes e (k / 6) r.da = true) := by
    simp only [Bool.and_eq_true, Bool.not_eq_true', beq_iff_eq, and_assoc]
  simp only [← hfills]
  simp only [stackComplete, hr, ht, hk, hm, Bool.not_true, Bool.false_eq_true, if_false, ← hd, ← hg, ← he]

/-- STACK_REQUEST_COMPLETE of a write (R348). -/
theorem exec_stackRequestComplete_of_write {d : Dev} (hd : d = sampleAccess (notePassed s.dev r) k r) (hk : r.kind = .write) :
    exec (.stackRequestComplete id) s = .next (s.withDev (finishReq (writeAtStack d r k off) id 0 0)) := by
  refine upd_of_eq ?_
  simp only [stackComplete, hr, ht, hk, hm, Bool.not_true, Bool.false_eq_true, if_false, ← hd]

/-- The three kinds of request that the atomic unit applies. -/
theorem atomicUnit_of_kind {op n cmp : Nat}
    (hk : r.kind = .atomic op n cmp ∨ r.kind = .red op n ∧ cmp = 0 ∨ r.kind = .swap n cmp ∧ op = 1) {p : Option Nat × Dev}
    (hp : p = atomApply (notePassed s.dev r) r.da k off n op r.data cmp) :
    atomicUnit id s.dev = p.1.elim (finishReq p.2 id 3 0) (finishReq p.2 id 0) := by
  rcases hk with hk | ⟨hk, rfl⟩ | ⟨hk, rfl⟩ <;>
    simp only [atomicUnit, hr, ht, hk, hm, Bool.not_true, Bool.false_eq_true, if_false, ← hp] <;>
    cases p.1 <;> rfl

end Complete

/-! ### Map-out and restripe (R343 to R345) -/

theorem blkOf_stkOff {k r : Nat} (hk : k < 24) (hr : r < 0x4_0000) : blkOf (stkOff k r) = (.stack k, r) := by
  unfold blkOf stkOff
  simp only [show ¬ (0x0A00_0000 + 0x4_0000 * k + r < 0x0010_0000) by omega,
    show ¬ (0x0A00_0000 + 0x4_0000 * k + r < 0x0020_0000) by omega, show ¬ (0x0A00_0000 + 0x4_0000 * k + r < 0x0030_0000) by omega,
    show ¬ (0x0A00_0000 + 0x4_0000 * k + r < 0x0040_0000) by omega, show ¬ (0x0A00_0000 + 0x4_0000 * k + r < 0x0050_0000) by omega,
    show ¬ (0x0A00_0000 + 0x4_0000 * k + r < 0x0100_0000) by omega, show ¬ (0x0A00_0000 + 0x4_0000 * k + r < 0x0420_0000) by omega,
    show ¬ (0x0A00_0000 + 0x4_0000 * k + r < 0x0500_0000) by omega, show ¬ (0x0A00_0000 + 0x4_0000 * k + r < 0x0840_0000) by omega,
    show ¬ (0x0A00_0000 + 0x4_0000 * k + r < 0x0900_0000) by omega, show ¬ (0x0A00_0000 + 0x4_0000 * k + r < 0x0940_0000) by omega,
    show ¬ (0x0A00_0000 + 0x4_0000 * k + r < 0x0A00_0000) by omega, show 0x0A00_0000 + 0x4_0000 * k + r < 0x0A60_0000 by omega,
    if_false, if_true, Prod.mk.injEq, Blk.stack.injEq]
  omega

/-- The map of MS_CTL's write-only fields, which the write of MAPOUT acts on. -/
def mapoutMap (d : Dev) (ag : Agent) (k : Nat) : RegMap :=
  { cmdReg d ag (stkOff k 0x10) with fs := (cmdReg d ag (stkOff k 0x10)).fs.filter (fun x => x.acc == .wo) }

/-- The write of MS_CTL stores its other fields, then asks for the map-out. -/
theorem cmdWrite_mapout {d : Dev} {ag : Agent} {k v : Nat} (hk : k < 24) (ha : blkAnswers d (.stack k)) {d1 : Dev}
    (hd1 : d1 = cmdParts d ag (stkOff k 0x10) v) {w : Word}
    (hw : w = (mapoutMap d ag k).writeVal (BitVec.ofNat 64 (ones 64)) (BitVec.ofNat 64 v) (rget d1 (stkOff k 0x10)))
    (hc : getF w MS_CTL.MAPOUT = 1) :
    cmdWrite ag (stkOff k 0x10) v d =
      mapOut (rset d1 (stkOff k 0x10) (w &&& ~~~(mapoutMap d ag k).woMask)) k (getF w MS_CTL.CHAN) := by
  have h8 : stkOff k 0x10 % 8 = 0 := by unfold stkOff; omega
  have hplat : inPlatbuf (stkOff k 0x10) = false := by
    unfold inPlatbuf stkOff
    exact decide_eq_false (by omega)
  rw [cmdWrite_of_register (b := .stack k) (r := 0x10) (blkOf_stkOff hk (by decide)) ha h8 (by decide) (by intro p h; cases h)
    hplat (show (stackReg 0x10).isSome = true by decide)]
  unfold mgmtApply
  dsimp only
  rw [if_pos rfl]
  subst hd1
  exact onCmd_of_nonzero _ hw (by decide) (by rw [hc]; decide)

/-- A map-out asked for of a channel in service that neither leaves nor waits (R342, R345). -/
theorem mapOut_of_inService {d : Dev} {k c : Nat} (hin : (inService d k).contains c = true) (hr : (getStk d k).removing ≠ some c)
    (hw : (getStk d k).waiting.contains c = false) :
    mapOut d k c = if (getStk d k).removing.isSome = true
      then setWaiting (recordMapout d k c) k ((getStk d k).waiting ++ [c]) else beginMapout (recordMapout d k c) k c := by
  simp only [mapOut, hin, hr, hw, Bool.not_true, Bool.false_eq_true, or_self, if_false]

/-- MAPOUT. -/
theorem exec_mapout_of_inService (s : State) (ag : Agent) (k ch : Nat) (hk : k < 24) (ha : blkAnswers s.dev (.stack k)) {v : Nat}
    (hv : v = regOf [(MS_CTL.CHAN, ch), (MS_CTL.MAPOUT, 1), (MS_CTL.SCRUB, rgetF s.dev (stkOff k 0x10) MS_CTL.SCRUB)]) {d1 : Dev}
    (hd1 : d1 = cmdParts s.dev ag (stkOff k 0x10) v) {w : Word}
    (hw : w = (mapoutMap s.dev ag k).writeVal (BitVec.ofNat 64 (ones 64)) (BitVec.ofNat 64 v) (rget d1 (stkOff k 0x10))) {d : Dev}
    (hd : d = rset d1 (stkOff k 0x10) (w &&& ~~~(mapoutMap s.dev ag k).woMask)) {c : Nat} (hc : c = getF w MS_CTL.CHAN)
    (hm : getF w MS_CTL.MAPOUT = 1) (hin : (inService d k).contains c = true) (hr : (getStk d k).removing ≠ some c)
    (hwait : (getStk d k).waiting.contains c = false) :
    exec (.mapout ag k ch) s = .next (s.withDev (if (getStk d k).removing.isSome = true
      then setWaiting (recordMapout d k c) k ((getStk d k).waiting ++ [c]) else beginMapout (recordMapout d k c) k c)) := by
  refine upd_of_eq (op := mapoutCmd ag k ch) ?_
  unfold mapoutCmd
  rw [← hv, cmdWrite_mapout hk ha hd1 hw hm, ← hd, ← hc]
  exact mapOut_of_inService hin hr hwait

/-- RESTRIPE_CHUNK before the end of the stack. -/
theorem exec_restripeChunk_of_below (s : State) (k ch : Nat) (hr : (getStk s.dev k).removing = some ch) {m : Nat}
    (hm : m = (rget s.dev (stkOff k 0x20)).toNat) {a : Nat} (ha : a = memKey k m) {inA : Nat → Bool}
    (hin : inA = fun x => decide (a ≤ 64 * x ∧ 64 * x < a + chunkLen)) {fix : List (Nat × Nat)}
    (hfix : fix = s.dev.badMem.filter (fun e => inA e.1 && decide (e.2 ≤ 4))) {d : Dev}
    (hd : d = fix.foldl (fun d e => countCE d k (chanOf d k (64 * e.1 - memKey k 0)) 1) s.dev) (hlt : m < stackLen s.dev k) :
    exec (.restripeChunk k) s = .next (s.withDev (rset { d with badMem := d.badMem.filter (fun e => !(inA e.1 && decide (e.2 ≤ 4))) }
      (stkOff k 0x20) (BitVec.ofNat 64 (m + chunkLen)))) := by
  refine upd_of_eq ?_
  subst hin ha
  simp only [restripeChunk, hr, ← hm, Nat.not_le.2 hlt, if_false, ← hfix, ← hd]

section RestripeComplete
variable {s : State} {k ch : Nat} (hr : (getStk s.dev k).removing = some ch)
  (hlen : stackLen s.dev k ≤ (rget s.dev (stkOff k 0x20)).toNat) {d1 d2 d : Dev}
  (hd1 : d1 = updStk s.dev k (fun s => { s with removing := none }))
  (hd2 : d2 = rset (rsetB d1 (stkOff k 0x18) MS_STAT.RESTRIPE false) (stkOff k 0x20) 0)
  (hd : d = rsetF d2 (stkOff k 8) MS_CHAN.INSVC (clrBit (rgetF d2 (stkOff k 8) MS_CHAN.INSVC) ch))
include hr hlen hd1 hd2 hd

theorem exec_restripeComplete_of_none (h : (getStk d k).waiting = []) : exec (.restripeComplete k) s = .next (s.withDev d) := by
  refine upd_of_eq ?_
  simp only [restripeComplete, hr, Nat.not_lt.2 hlen, if_false, ← hd1, ← hd2, ← hd, h]

theorem exec_restripeComplete_of_waiting {c : Nat} {r : List Nat} (h : (getStk d k).waiting = c :: r) :
    exec (.restripeComplete k) s = .next (s.withDev (beginMapout (setWaiting d k r) k c)) := by
  refine upd_of_eq ?_
  simp only [restripeComplete, hr, Nat.not_lt.2 hlen, if_false, ← hd1, ← hd2, ← hd, h]

end RestripeComplete

/-! ### Scrub, refresh, self-refresh -/

/-- PATROL_SCRUB while the scrubber runs (R349). -/
theorem exec_patrolScrub_of_running (s : State) (k : Nat) (hs : rbit s.dev (stkOff k 0x10) MS_CTL.SCRUB = true)
    (hl : stackLen s.dev k ≠ 0) (hsr : rbit s.dev (stkOff k 0x18) MS_STAT.SR = false) {o : Nat} (ho : o = (getStk s.dev k).scrubPos)
    {d : Dev}
    (hd : d = noteRead (updStk s.dev k (fun x => { x with scrubPos := if o + 64 < stackLen s.dev k then o + 64 else 0 })) k o 4) :
    exec (.patrolScrub k) s = .next (s.withDev
      (if sectorBad d k o = true then d else { d with badMem := Tab.erase d.badMem (memKey k o / 64) })) := by
  refine upd_of_eq ?_
  simp only [patrolScrub, hs, hl, hsr, Bool.not_true, Bool.false_eq_true, or_self, if_false, ← ho, ← hd]

/-- SELF_REFRESH_ENTRY. -/
theorem exec_selfRefreshEntry_of_awake (s : State) (k : Nat) (h : rbit s.dev (stkOff k 0x18) MS_STAT.SR = false) :
    exec (.selfRefreshEntry k) s = .next (s.withDev
      (rsetB (updStk s.dev k (fun x => { x with srTemp := rgetF s.dev (stkOff k 0x18) MS_STAT.TEMP })) (stkOff k 0x18)
        MS_STAT.SR true)) := by
  refine upd_of_eq ?_
  simp only [srEnter, h, Bool.false_eq_true, if_false]

/-- SELF_REFRESH_EXIT (R353). -/
theorem exec_selfRefreshExit_of_asleep (s : State) (k temp fail : Nat) (h : rbit s.dev (stkOff k 0x18) MS_STAT.SR = true) {d : Dev}
    (hd : d = rsetB (rsetF s.dev (stkOff k 0x18) MS_STAT.TEMP temp) (stkOff k 0x18) MS_STAT.SR false) :
    exec (.selfRefreshExit k temp fail) s = .next (s.withDev (if 20 < (sgn 8 temp - sgn 8 (getStk d k).srTemp).natAbs
      then (List.range 16).foldl (fun d c => if fail.testBit c = true then mapOut d k c else d) d else d)) := by
  refine upd_of_eq ?_
  simp only [srExit, h, Bool.not_true, Bool.false_eq_true, if_false, ← hd]

end Sys2Proof.Machine
open Sys2Proof Sys2Proof.Machine

/-- Settles O16: a lemma per command; the three kinds that the atomic unit applies are one case. -/
theorem stackRequests : Obligations.StackRequests := by
  unfold Obligations.StackRequests
  refine ⟨fun s id k off r hr hst ht hsr hm hh hw => exec_stackRequestAdmit_of_free s id k off r hr hst ht hsr hm hh hw rfl rfl,
    fun s id k off r hr ht hm => ⟨fun hk => exec_stackRequestComplete_of_read hr ht hm rfl hk rfl rfl,
      exec_stackRequestComplete_of_write hr ht hm rfl, ?_⟩⟩
  intro op n cmp hk p
  refine upd_of_eq (op := atomicUnit id) ?_
  rw [atomicUnit_of_kind hr ht hm hk rfl]
  cases p.1 <;> rfl

/-- Settles O17: a lemma per command; MAPOUT goes through the write of MS_CTL. -/
theorem stackUpkeep : Obligations.StackUpkeep := by
  unfold Obligations.StackUpkeep
  refine ⟨fun s ag k ch hk ha => exec_mapout_of_inService s ag k ch hk ha rfl rfl rfl rfl rfl,
    fun s k ch hr => exec_restripeChunk_of_below s k ch hr rfl rfl rfl rfl rfl, ?_,
    fun s k hs hl hsr => exec_patrolScrub_of_running s k hs hl hsr rfl rfl, fun s k temp counts => rfl,
    exec_selfRefreshEntry_of_awake, fun s k temp fail h => exec_selfRefreshExit_of_asleep s k temp fail h rfl,
    fun s k ch => ⟨rfl, rfl⟩⟩
  intro s k ch hr hlen d1 d2 d
  cases h : (getStk d k).waiting with
  | nil => exact exec_restripeComplete_of_none hr hlen rfl rfl rfl h
  | cons c r => exact exec_restripeComplete_of_waiting hr hlen rfl rfl rfl h

end

section
/-!
PROOF. Sightline ports: flits and messages, training, light and probes (spec/17): the statements O18 and O19.
-/
namespace Sys2Proof.Machine

/-! ### Flits (R378, R379, R392) -/

section Flit
variable {s : State} {p : Nat} {flit : List Byte} (hu : portUp s.dev p = true) (hl : flit.length = 64)
  {tr : Nat} (htr : tr = fieldAt flit 56 4)
include hu hl htr

/-- A flit with a bad CRC, or another number than the next. -/
theorem exec_flitReceive_of_refused
    (h : fieldAt flit 60 4 ≠ crc32c (flit.take 60) ∨ bitsOf tr 0 12 ≠ (getPort s.dev p).rxSeq) :
    exec (.flitReceive p flit) s = .next (s.withDev (updPort s.dev p (fun x => { x with nak := true }))) := by
  refine upd_of_eq ?_
  by_cases hc : fieldAt flit 60 4 = crc32c (flit.take 60)
  · have hseq := h.resolve_left (fun hn => hn hc)
    simp only [flitReceive, hu, hl, hc, ← htr, hseq, Bool.not_true, Bool.false_eq_true, ne_eq, not_true_eq_false, not_false_eq_true,
      or_self, if_false, if_true]
  · simp only [flitReceive, hu, hl, hc, Bool.not_true, Bool.false_eq_true, ne_eq, not_true_eq_false, not_false_eq_true, or_self,
      if_false, if_true]

/-- A good flit that asks for no resend. -/
theorem exec_flitReceive_of_good (hc : fieldAt flit 60 4 = crc32c (flit.take 60)) (hseq : bitsOf tr 0 12 = (getPort s.dev p).rxSeq)
    (hnak : tr.testBit 24 = false) {n : Nat} (hn : n = bitsOf tr 30 2) {d1 : Dev}
    (hd1 : d1 = updPort s.dev p (fun x => { ackFlits x (bitsOf tr 12 12) with
      rxSeq := if tr.testBit 25 = true ∧ n = 0 then x.rxSeq else (x.rxSeq + 1) % 4096 })) {v c : Nat} (hv : v = bitsOf tr 26 3)
    (hcl : c = bitsOf tr 29 1) {d : Dev} (hd : d = if n = 0 then d1 else setCredits d1 p v c (credits d1 p v c + n)) :
    exec (.flitReceive p flit) s = .next (s.withDev (if tr.testBit 25 = true then d
      else takeContent (rset d (portOff p 0x18) (rget d (portOff p 0x18) + 1)) p (flit.take 56))) := by
  refine upd_of_eq ?_
  simp only [flitReceive, hu, hl, hc, ← htr, hseq, hnak, Bool.not_true, Bool.false_eq_true, ne_eq, not_true_eq_false, or_self,
    if_false, false_and, ← hn, ← hd1, ← hv, ← hcl, ← hd]

end Flit

/-- FLIT_RETRY_TIMEOUT with flits kept. -/
theorem exec_flitRetryTimeout_of_kept (s : State) (p : Nat) (hu : portUp s.dev p = true) (hs : (getPort s.dev p).sent ≠ [])
    {d : Dev} (hd : d = resend s.dev p) :
    exec (.flitRetryTimeout p) s = .next (s.withDev (if 8 ≤ (getPort d p).resends then linkReset p d else d)) := by
  refine upd_of_eq ?_
  simp only [retryTimeout, hu, hs, Bool.not_true, Bool.false_eq_true, or_self, if_false, ← hd]

/-! ### Messages (R384, R387, R388, R400) -/

theorem exec_messageStart_of_head (s : State) (p : Nat) (hu : portUp s.dev p = true) (v : Nat) (o : OutMsg)
    (hv : pickVc s.dev p = some v) (ho : headOf s.dev p v = some o) :
    exec (.messageStart p) s = .next (s.withDev (if 256 < (getPort s.dev p).sent.length + flitsFor o.msg.data.length
      then sendFlit s.dev p (List.replicate 56 0) true else reapBkts (emit s.dev p v o))) := by
  refine upd_of_eq ?_
  simp only [messageStart, hu, hv, ho, Bool.not_true, Bool.false_eq_true, if_false]

theorem exec_messageStart_of_none (s : State) (p : Nat) (hu : portUp s.dev p = true) (hv : pickVc s.dev p = none) :
    exec (.messageStart p) s = .next (s.withDev (sendFlit s.dev p (List.replicate 56 0) true)) := by
  refine upd_of_eq ?_
  simp only [messageStart, hu, hv, Bool.not_true, Bool.false_eq_true, if_false]

/-- MESSAGE_FORWARD of a message with a route and hops to spare. -/
theorem exec_messageForward_of_route (s : State) (p p' : Nat) (m : Msg) (rest : List (Nat × Msg))
    (hm : takeFirst (goesOn s.dev p) s.dev.inbox = some ((p', m), rest)) (hh : m.hops < 30)
    (hr : (routePort s.dev m.dst).isSome = true) {relayed : List Nat}
    (hrel : relayed = if m.vc = 3 ∧ m.op = 1 ∧ (portRole s.dev p = 3 ∨ portRole s.dev p = 4) ∧ s.dev.relayed.contains m.dst = false
      then s.dev.relayed ++ [m.dst] else s.dev.relayed) :
    exec (.messageForward p) s = .next (s.withDev { s.dev with
      relayed := relayed, inbox := rest, outbox := s.dev.outbox ++ [⟨p + 1, none, { m with hops := m.hops + 1 }⟩] }) := by
  refine upd_of_eq ?_
  have hroute : (routePort s.dev m.dst).isNone = false := by rw [← Option.not_isSome, hr]; rfl
  have hlimit : ¬ (m.hops + 1 = 31 ∨ m.hops = 31) := by omega
  subst hrel
  simp only [messageForward, hm, hlimit, hroute, Bool.false_eq_true, if_false, Bool.not_eq_true']
  split <;> rfl

theorem exec_upwardRelay_of_upward (s : State) (p q : Nat) (m : Msg) (rest : List (Nat × Msg))
    (hm : takeFirst (fun e => isMe s.dev e.2.dst && e.2.vc == 3 && decide (0x20 ≤ e.2.op)) s.dev.inbox = some ((p, m), rest))
    (hq : landPort s.dev = some q) :
    exec .upwardRelay s = .next (s.withDev { s.dev with
      inbox := rest, outbox := s.dev.outbox ++ [⟨if p < 12 then p + 1 else 0, some q, m⟩] }) := by
  refine upd_of_eq ?_
  simp only [upwardRelay, hm, hq]

theorem exec_channelStuck_of_waiting (s : State) (p v : Nat)
    (h : s.dev.outbox.any (fun o => outPort s.dev o == some p && o.msg.vc == v) = true) :
    exec (.channelStuck p v) s = .next (s.withDev (rsetB s.dev (portOff p 0) SL_PSTAT.STUCK true)) :=
  upd_of_eq (if_pos h)

/-! ### Reset and training (R393, R394) -/

theorem exec_linkReset_of_linked (s : State) (p : Nat) (h : portState s.dev p ∈ [2, 3, 4]) :
    exec (.linkReset p) s = .next (s.withDev (linkDown s.dev p 5)) := by
  refine upd_of_eq (if_pos ?_)
  simpa only [List.mem_cons, List.not_mem_nil, or_false] using h

section Training
variable {s : State} {p farId farPort farRole : Nat} (hst : portState s.dev p ∈ [2, 5])
include hst

theorem portState_trains : portState s.dev p = 2 ∨ portState s.dev p = 5 := by
  simpa only [List.mem_cons, List.not_mem_nil, or_false] using hst

/-- A role that does not pair leaves the port mismatched. -/
theorem exec_linkTrainingComplete_of_mismatch {d : Dev}
    (hd : d = rset s.dev (portOff p 0) (setF (setF (rget s.dev (portOff p 0)) SL_PSTAT.FARID farId) SL_PSTAT.FARPORT farPort))
    (hr : rolesPair (portRole d p) farRole = false) :
    exec (.linkTrainingComplete p farId farPort farRole) s = .next (s.withDev (setPortState d p 4)) := by
  refine upd_of_eq ?_
  have hst' : ¬ (portState s.dev p ≠ 2 ∧ portState s.dev p ≠ 5) := by have := portState_trains hst; omega
  simp only [trainingComplete, hst', if_false, ← hd, hr, Bool.not_false, if_true]

/-- A role that pairs brings the port up with full credits. -/
theorem exec_linkTrainingComplete_of_pair {d : Dev}
    (hd : d = rset s.dev (portOff p 0) (setF (setF (rget s.dev (portOff p 0)) SL_PSTAT.FARID farId) SL_PSTAT.FARPORT farPort))
    (hr : rolesPair (portRole d p) farRole = true) {u1 u2 u : Dev}
    (hu1 : u1 = (List.range 6).foldl (fun d v => setCredits (setCredits d p v 0 (vcFlits v)) p v 1 (vcFlits v)) (setPortState d p 3))
    (hu2 : u2 = updPort u1 p (fun x => { Port.empty with wire := x.wire, dateline := rbit u1 (portOff p 8) SL_PCTL.DATELINE }))
    (hu : u = updDk u2 (fun k => { k with stamps := Tab.erase k.stamps (4 * 65536 + p) })) :
    exec (.linkTrainingComplete p farId farPort farRole) s =
      .next (s.withDev (if (getPort d p).lasting = true then linkReset p u else u)) := by
  refine upd_of_eq ?_
  have hst' : ¬ (portState s.dev p ≠ 2 ∧ portState s.dev p ≠ 5) := by have := portState_trains hst; omega
  simp only [trainingComplete, hst', if_false, ← hd, hr, Bool.not_true, Bool.false_eq_true, ← hu1, ← hu2, ← hu]

theorem exec_linkTrainingRetry_of_training : exec (.linkTrainingRetry p) s = .next (s.withDev (setPortState s.dev p 2)) :=
  upd_of_eq (if_pos (portState_trains hst))

end Training

/-! ### Light and probes (R396, R397) -/

theorem exec_openFibreDetect_of_lit (s : State) (p : Nat) (h : lit s.dev p = true) :
    exec (.openFibreDetect p) s =
      .next (s.withDev (startProbe (noLight (rsetB (darken s.dev p 0) (laserOff p) DK_LASER.OPEN true) p) p)) := by
  refine upd_of_eq ?_
  simp only [openFibre, h, Bool.not_true, Bool.false_eq_true, if_false]

section Probe
variable (s : State) (p : Nat)

theorem exec_probeTimer_of_waiting (h : probeStep s.dev p = 1) (hm : mayLight s.dev p = true) :
    exec (.probeTimer p) s = .next (s.withDev (setProbe (setLit s.dev p true) p 2)) := upd_of_eq (if_pos ⟨h, hm⟩)

theorem exec_probeLightSeen_of_waiting (h : probeStep s.dev p = 1) (hm : mayLight s.dev p = true) :
    exec (.probeLightSeen p) s = .next (s.withDev (setProbe (setLit (seesLight s.dev p) p true) p 4)) :=
  upd_of_eq ((if_neg (by omega)).trans (if_pos ⟨h, hm⟩))

theorem exec_probeLightSeen_of_lit (h : probeStep s.dev p = 2) :
    exec (.probeLightSeen p) s = .next (s.withDev (setProbe (seesLight s.dev p) p 3)) := upd_of_eq (if_pos h)

theorem exec_probeEnd_of_lit (h : probeStep s.dev p = 2) :
    exec (.probeEnd p) s = .next (s.withDev (setProbe (setLit s.dev p false) p 1)) := upd_of_eq (if_pos h)

theorem exec_probeLightSteady_of_held (h : probeStep s.dev p = 3 ∨ probeStep s.dev p = 4) :
    exec (.probeLightSteady p) s =
      .next (s.withDev (rsetB (setProbe (setPortState s.dev p 2) p 0) (laserOff p) DK_LASER.OPEN false)) := upd_of_eq (if_pos h)

theorem exec_probeLightLost_of_held (h : probeStep s.dev p = 3 ∨ probeStep s.dev p = 4) :
    exec (.probeLightLost p) s = .next (s.withDev (setProbe (setLit (noLight s.dev p) p false) p 1)) := upd_of_eq (if_pos h)

end Probe

end Sys2Proof.Machine
open Sys2Proof Sys2Proof.Machine

/-- Settles O18: a lemma per command, each along the branch that the statement's conditions name. -/
theorem linkTraffic : Obligations.LinkTraffic := by
  unfold Obligations.LinkTraffic
  refine ⟨fun s p flit hu hl => ⟨exec_flitReceive_of_refused hu hl rfl, ?_⟩,
    fun s p hu hs => exec_flitRetryTimeout_of_kept s p hu hs rfl,
    fun s p hu => ⟨exec_messageStart_of_head s p hu, exec_messageStart_of_none s p hu⟩,
    fun s p p' m rest hm hh hr => exec_messageForward_of_route s p p' m rest hm hh hr rfl,
    exec_upwardRelay_of_upward, exec_channelStuck_of_waiting⟩
  intro hc hseq hnak d1 d
  exact exec_flitReceive_of_good hu hl rfl hc hseq hnak rfl rfl rfl rfl rfl

/-- Settles O19: a lemma per command; the steps of a probe are its conditions read off. -/
theorem linkTraining : Obligations.LinkTraining := by
  unfold Obligations.LinkTraining
  refine ⟨exec_linkReset_of_linked, fun s p farId farPort farRole hst =>
      ⟨exec_linkTrainingComplete_of_mismatch hst rfl, ?_, exec_linkTrainingRetry_of_training hst⟩,
    exec_openFibreDetect_of_lit, fun s => ⟨rfl, rfl⟩, fun s p => rfl, fun s p => ⟨?_, ?_, ?_⟩⟩
  · intro hr u1 u2 u
    exact exec_linkTrainingComplete_of_pair hst rfl hr rfl rfl rfl
  · exact fun h hm => ⟨exec_probeTimer_of_waiting s p h hm, exec_probeLightSeen_of_waiting s p h hm⟩
  · exact fun h => ⟨exec_probeLightSeen_of_lit s p h, exec_probeEnd_of_lit s p h⟩
  · intro h
    simp only [List.mem_cons, List.not_mem_nil, or_false] at h
    exact ⟨exec_probeLightSteady_of_held s p h, exec_probeLightLost_of_held s p h⟩

end

section
/-!
PROOF. Messages of peers: requests performed here, answers, management messages (spec/17, spec/20): the statement O20.
-/
namespace Sys2Proof.Machine

/-! ### Requests performed here (R382, R329) -/

/-- The next request of an opcode, taken while no re-plat quiesces the device. -/
theorem peerReq_of_taken {d e : Dev} {op : Nat} {m : Msg} (f : Msg → Dev → Dev) (hq : d.replat = none)
    (hr : receive d (fun m => m.vc == 0 && m.op == op && reqOk m) = (some m, e)) : peerReq d op f = f m e := by
  simp only [peerReq, hq, hr, Option.isSome_none, Bool.false_eq_true, if_false]

theorem exec_read_of_taken {s : State} {m : Msg} {d : Dev} (hq : s.dev.replat = none)
    (hm : receive s.dev (fun m => m.vc == 0 && m.op == 1 && reqOk m) = (some m, d)) :
    exec .read s = .next (s.withDev (peerRead m d)) :=
  upd_of_eq (op := fun d => peerReq d 1 peerRead) (peerReq_of_taken _ hq hm)

theorem exec_write_of_taken {s : State} {m : Msg} {d : Dev} (hq : s.dev.replat = none)
    (hm : receive s.dev (fun m => m.vc == 0 && m.op == 2 && reqOk m) = (some m, d)) :
    exec .write s = .next (s.withDev (peerWrite m d)) :=
  upd_of_eq (op := fun d => peerReq d 2 peerWrite) (peerReq_of_taken _ hq hm)

section Read
variable {m : Msg} {d : Dev} {n : Nat} (hn : n = fieldAt m.data 0 2 % 4096)
include hn

theorem peerRead_of_unresolved (h : peerRange d m.addr n false = false) : peerRead m d = errorTo d m 1 := by
  simp only [peerRead, ← hn, h, Bool.not_false, if_true]

theorem peerRead_of_resolved (h : peerRange d m.addr n false = true) {ps : List HPart} {e : Dev}
    (hp : hreadParts d m.addr n = (ps, false, e)) :
    peerRead m d = hubSettle { e with hjobs := e.hjobs ++ [⟨m.tag, true, some (m.src, 1), ps⟩] } := by
  simp only [peerRead, ← hn, h, hp, Bool.not_true, Bool.false_eq_true, if_false]

end Read

theorem peerWrite_of_unresolved {m : Msg} {d : Dev} (h : peerRange d m.addr m.data.length true = false) :
    peerWrite m d = errorTo d m 1 := by
  simp only [peerWrite, h, Bool.not_false, if_true]

theorem peerWrite_of_resolved {m : Msg} {d : Dev} (h : peerRange d m.addr m.data.length true = true) {ps : List HPart} {e : Dev}
    (hp : hwriteParts d m.addr m.data = (ps, e)) :
    peerWrite m d = hubSettle { e with hjobs := e.hjobs ++ [⟨m.tag, false, some (m.src, 2), ps⟩] } := by
  simp only [peerWrite, h, hp, Bool.not_true, Bool.false_eq_true, if_false]

/-! ### Atomics (R435) -/

/-- The device whose stack an atomic is about to change: the address's replicas are gone. -/
def replicasGone (d : Dev) (a : Nat) : Dev :=
  if (tractOf d a).repl = [] then d else updTract d (a / tractLen) (fun x => { x with repl := [] })

/-- An atomic at an aligned stack address is applied at the stack's unit. -/
theorem peerAtomic_of_stack {m : Msg} {d : Dev} {k o : Nat} (op : Nat) {n : Nat} (v cmp rsp : Nat) (ha : m.addr % n = 0)
    (ht : peerTarget d m.addr true = some (.stack k o)) {r : Option Nat × Dev}
    (hr : r = atomApply (replicasGone d m.addr) m.addr k o n op v cmp) :
    peerAtomic op n v cmp rsp m d = r.1.elim (answerAtomic r.2 m 4 (toBytes 8 3))
      (fun old => answerAtomic r.2 m rsp (if rsp = 3 then toBytes 8 old else [])) := by
  subst hr
  simp only [peerAtomic, ha, ht, ne_eq, not_true_eq_false, if_false]
  rw [show (if (tractOf d m.addr).repl = [] then d else updTract d (m.addr / tractLen) (fun x => { x with repl := [] })) =
    replicasGone d m.addr from rfl]
  rcases atomApply (replicasGone d m.addr) m.addr k o n op v cmp with ⟨_ | old, e⟩ <;> rfl

/-- No replay entry answers a request that matches no young one. -/
theorem replay_none {young : Bool} {d : Dev} {m : Msg} (h : young = true → replayed d m = none) :
    (if young = true then replayed d m else none) = none := by
  cases young with
  | true => exact h rfl
  | false => rfl

section Amo
variable {s : State} {young : Bool} {m : Msg} {d : Dev} {k o : Nat} (hq : s.dev.replat = none)
  (hy : young = true → replayed d m = none) (ht : peerTarget d m.addr true = some (.stack k o)) {n : Nat}
  (hn : n = szLen (fieldAt m.data 1 1)) (ha : m.addr % n = 0) {r : Option Nat × Dev}
include hq hy ht hn ha

theorem exec_atomic_of_stack (hm : receive s.dev (fun m => m.vc == 0 && m.op == 3 && reqOk m) = (some m, d))
    (hr : r = atomApply (replicasGone d m.addr) m.addr k o n (fieldAt m.data 0 1) (fieldAt m.data 8 8)
      (fieldAt m.data 16 8 % 2 ^ (8 * n))) :
    exec (.atomic young) s = .next (s.withDev
      (r.1.elim (answerAtomic r.2 m 4 (toBytes 8 3)) (fun old => answerAtomic r.2 m 3 (toBytes 8 old)))) := by
  refine upd_of_eq (op := fun d => peerReq d 3 (peerAmo young)) ?_
  simp only [peerReq_of_taken _ hq hm, peerAmo, replay_none hy, ← hn, peerAtomic_of_stack _ _ _ 3 ha ht hr, if_true]

theorem exec_scatred_of_stack (hm : receive s.dev (fun m => m.vc == 0 && m.op == 4 && reqOk m) = (some m, d))
    (hr : r = atomApply (replicasGone d m.addr) m.addr k o n (redOp (fieldAt m.data 0 1)) (fieldAt m.data 8 8) 0) :
    exec (.scatred young) s = .next (s.withDev
      (r.1.elim (answerAtomic r.2 m 4 (toBytes 8 3)) (fun _ => answerAtomic r.2 m 2 []))) := by
  refine upd_of_eq (op := fun d => peerReq d 4 (peerRed young)) ?_
  simp only [peerReq_of_taken _ hq hm, peerRed, replay_none hy, ← hn, peerAtomic_of_stack _ _ _ 2 ha ht hr]
  cases r.1 <;> rfl

end Amo

/-! ### Answers (R390) -/

section Answer
variable {s : State} {op : Nat} {i : Instr} {post : Dev → Dev} {m : Msg} {d : Dev}
  (hi : i = .data ∧ op = 1 ∧ post = id ∨ i = .ack ∧ op = 2 ∧ post = postSettle ∨ i = .old ∧ op = 3 ∧ post = id ∨
    i = .error ∧ op = 4 ∧ post = postSettle)
  (hm : receive s.dev (fun m => m.vc == 1 && m.op == op && rspOk m) = (some m, d))
include hi

/-- DATA, ACK, OLD and ERROR are the answer of their opcode, with the hub's settling where it may be waited for. -/
theorem exec_answer : exec i s = s.upd (fun d => post (peerAnswer op d)) := by
  rcases hi with ⟨rfl, rfl, rfl⟩ | ⟨rfl, rfl, rfl⟩ | ⟨rfl, rfl, rfl⟩ | ⟨rfl, rfl, rfl⟩ <;> rfl

include hm

theorem exec_answer_of_fit {id : Nat} {r : Req} (hr : peerReqOf d m = some (id, r)) (hf : answerFits m r = true) :
    exec i s = .next (s.withDev (post (finishReq (mirrorResponse d m r.key) id (answerOf m).1 (answerOf m).2))) := by
  rw [exec_answer hi]
  refine upd_of_eq ?_
  simp only [peerAnswer, hm, hr, hf, if_true]

theorem exec_answer_of_late (hr : peerReqOf d m = none) : exec i s = .next (s.withDev (post (devCount d SL_DEVSTAT.LATE))) := by
  rw [exec_answer hi]
  refine upd_of_eq ?_
  simp only [peerAnswer, hm, hr]

end Answer

theorem exec_responseDeadline_of_peer (s : State) (id p o : Nat) (r : Req) (hr : Tab.find? s.dev.reqs id = some r)
    (hs : r.stage = .remote) (ht : r.tgt = .peer p o) :
    exec (.responseDeadline id) s = .next (s.withDev (finishReq s.dev id 4 0)) := by
  refine upd_of_eq ?_
  simp only [responseDeadline, hr, hs, ht]

/-! ### Management messages, and messages not accepted -/

section Management
variable {s : State} {p : Nat} {m : Msg} {d : Dev}

theorem exec_mread_of_value (hm : receiveAt s.dev (fun m => m.vc == 5 && m.op == 1 && mgtOk m) = (some (p, m), d)) {v : Word}
    {e : Dev} (hv : mgmtRead d (.peer m.src) m.addr 8 = (some v, e)) :
    exec .mread s = .next (s.withDev (mdata e p m m.tag (toBytes 8 v.toNat))) := by
  refine upd_of_eq ?_
  simp only [mreadTaken, hm, hv]

theorem exec_mread_of_error (hm : receiveAt s.dev (fun m => m.vc == 5 && m.op == 1 && mgtOk m) = (some (p, m), d)) {e : Dev}
    (hv : mgmtRead d (.peer m.src) m.addr 8 = (none, e)) :
    exec .mread s = .next (s.withDev (mdata e p m (errTag m 1) [])) := by
  refine upd_of_eq ?_
  simp only [mreadTaken, hm, hv]

/-- MWRITE: DT_ISET takes it, nothing else does. -/
theorem exec_mwrite_of_taken (hm : receiveAt s.dev (fun m => m.vc == 5 && m.op == 2 && mgtOk m) = (some (p, m), d)) {e : Dev}
    (he : e = (mgmtWrite d (.peer m.src) m.addr 8 (BitVec.ofNat 64 (ofBytes m.data))).2) :
    exec .mwrite s = .next (s.withDev (if isIset m.addr = true then mdata e.free.2 p m m.tag (toBytes 8 e.free.1.toNat)
      else mdata d p m (errTag m 1) [])) := by
  refine upd_of_eq ?_
  simp only [mwriteTaken, hm, ← he]

theorem exec_mdata_of_taken (hm : receive s.dev (fun m => m.vc == 5 && m.op == 3 && mgtOk m) = (some m, d)) :
    exec .mdata s = .next (s.withDev (if d.lv.probe = 1 ∧ m.src = d.plat.twinId
      then probeAnswer d (if m.data.length = 8 then some (ofBytes m.data) else none) else devCount d SL_DEVSTAT.LATE)) := by
  refine upd_of_eq ?_
  simp only [mdataTaken, hm]

/-- BAD_MESSAGE of one for another device, or of one for this device that it does not accept. -/
theorem exec_badMessage_of_taken {rest : List (Nat × Msg)}
    (h : takeFirst (fun e => !isMe s.dev e.2.dst && !msgFits e.2) s.dev.inbox = some ((p, m), rest) ∧
        d = (if m.vc ≤ 5 then oweCredits { s.dev with inbox := rest } p m else { s.dev with inbox := rest }) ∨
      takeFirst (fun e => !isMe s.dev e.2.dst && !msgFits e.2) s.dev.inbox = none ∧
        receive s.dev (fun m => !accepts s.dev m) = (some m, d)) :
    exec .badMessage s = .next (s.withDev (if m.vc = 0 then errorTo (devCount d SL_DEVSTAT.BADMSG) m 6
      else devCount d SL_DEVSTAT.BADMSG)) := by
  refine upd_of_eq ?_
  rcases h with ⟨hm, rfl⟩ | ⟨hn, hm⟩
  · simp only [badMessage, hm, refuseMsg]
  · simp only [badMessage, hn, hm, refuseMsg]

end Management

end Sys2Proof.Machine
open Sys2Proof Sys2Proof.Machine

/-- Settles O20: requests are taken by `peerReq_of_taken`, the atomics share `peerAtomic_of_stack`, and the four answers are one case. -/
theorem peerMessages : Obligations.PeerMessages := by
  unfold Obligations.PeerMessages
  refine ⟨fun s m d hq => ⟨fun hm => ⟨?_, ?_⟩, fun hm => ⟨?_, ?_⟩⟩, fun s young m d k o hq hy ht => ?_,
    fun s op i post m d hi hm => ⟨fun id r => exec_answer_of_fit hi hm, exec_answer_of_late hi hm⟩,
    fun s p m d => ⟨?_, fun hm => exec_mwrite_of_taken hm rfl, exec_mdata_of_taken⟩,
    fun s p m rest d => exec_badMessage_of_taken, exec_responseDeadline_of_peer⟩
  · exact fun h => by rw [exec_read_of_taken hq hm, peerRead_of_unresolved rfl h]
  · exact fun ps e h hp => by rw [exec_read_of_taken hq hm, peerRead_of_resolved rfl h hp]
  · exact fun h => by rw [exec_write_of_taken hq hm, peerWrite_of_unresolved h]
  · exact fun ps e h hp => by rw [exec_write_of_taken hq hm, peerWrite_of_resolved h hp]
  · intro n d1 ha
    refine ⟨fun hm => ?_, fun hm => ?_⟩
    · intro r
      rw [exec_atomic_of_stack (r := r) hq hy ht rfl ha hm rfl]
      cases r.1 <;> rfl
    · intro r
      rw [exec_scatred_of_stack (r := r) hq hy ht rfl ha hm rfl]
      cases r.1 <;> rfl
  · intro hm
    rcases hv : mgmtRead d (.peer m.src) m.addr 8 with ⟨_ | v, e⟩
    · exact exec_mread_of_error hm hv
    · exact exec_mread_of_value hm hv

end

section
/-!
PROOF. Sessions and host messages (spec/18): the statements O21 and O22.
-/
namespace Sys2Proof.Machine

/-- The next host message of an opcode, served once no host write is under way. -/
theorem hostCmd_of_taken {d e : Dev} {op : Nat} {m : Msg} (f : Msg → Dev → Dev) (hw : writesPending d = false)
    (hr : receive d (fun m => m.vc == 3 && m.op == op && hostLenOk m) = (some m, e)) (hs : hostServed e m = true) :
    hostCmd d op f = f m e := by
  simp only [hostCmd, hw, hr, hs, Bool.false_eq_true, if_false, if_true]

/-! ### Sessions (R405 to R407) -/

theorem hostServed_of_sopen {d : Dev} {m : Msg} (h : m.op = 1) : hostServed d m = true := by
  simp [hostServed, h]

theorem hostServed_of_sprove {d : Dev} {m : Msg} (h : m.op = 2) : hostServed d m = true := by
  simp [hostServed, h]

theorem hostServed_of_session {d : Dev} {m : Msg} (h : sessOpen d = true) : hostServed d m = true := by
  simp [hostServed, h]

/-- SOPEN that no check refuses: OPENING, LANDID and the next session counter, and the record before CHALLENGE. -/
theorem sopen_of_free {since twinSc : Nat} {same : Bool} {m : Msg} {d : Dev} {key : List Byte} (h1 : lvState d ≠ 1)
    (h5 : lvState d ≠ 5) (ho : sessOpen d = false) (hop : rbit d (landOff 0) HB_SESSTAT.OPENING = false)
    (hl : lockedOut d since = false) (hk : keyOf d (fieldAt m.data 32 1) = some key) (hs : paired d = true → same = true) {sc : Nat}
    (hsc : sc = (if paired d = true then max d.dyke.led.sessCtr twinSc else d.dyke.led.sessCtr) + 1) {d1 d2 : Dev}
    (hd1 : d1 = updLed d (fun r => { r with sessCtr := sc }))
    (hd2 : d2 = rset d1 (landOff 0)
      (setF (setF (setB (rget d1 (landOff 0)) HB_SESSTAT.OPENING true) HB_SESSTAT.LANDID m.src) HB_SESSTAT.SC sc)) :
    sopen since twinSc same m d = ledgerAsk { d2 with
      sess := { stage := 1, nh := m.data.take 32, nd := toBytes 32 (Config.nonce sc).toNat, keysel := fieldAt m.data 32 1, key := key,
                tag := m.tag } } .challenge := by
  have hsame : ¬ (paired d = true ∧ (!same) = true) := fun ⟨hp, hn⟩ => by simp [hs hp] at hn
  simp only [sopen, h1, h5, ho, hop, hl, hk, hsame, Bool.false_eq_true, or_self, if_false, ← hsc, ← hd1, ← hd2]

theorem sprove_of_wrong {m : Msg} {d : Dev} (hs : d.sess.stage = 2) (hm : m.data ≠ Config.hmac384 d.sess.key (sessInput d 0x48)) :
    sprove m d = sresult (countFail (openingEnds d)) m 5 := by
  simp only [sprove, hs, hm, ne_eq, not_true_eq_false, if_false]

theorem sprove_of_right {m : Msg} {d : Dev} (hs : d.sess.stage = 2) (hm : m.data = Config.hmac384 d.sess.key (sessInput d 0x48))
    {mac : List Byte} (hmac : mac = Config.hmac384 d.sess.key (sessInput d 0x44)) {d1 d2 : Dev}
    (hd1 : d1 = showLedger (updLed d (fun r => { r with fails := 0 })))
    (hd2 : d2 = rset d1 (landOff 0) (setF (setB (setB (rget d1 (landOff 0)) HB_SESSTAT.OPEN true) HB_SESSTAT.OPENING false)
      HB_SESSTAT.KEYSEL d1.sess.keysel)) :
    sprove m d = hostReply { d2 with sess := { d2.sess with stage := 0 } } m 0x21 (toBytes 1 0 ++ mac) := by
  unfold sprove
  rw [if_neg (fun hne => hne hs), if_pos hm]
  subst hd2 hd1 hmac
  rfl

/-- RELAYDOWN with a session or an opening. -/
theorem exec_relaydown_of_session (s : State) (m : Msg) (d : Dev)
    (hm : receive s.dev (fun m => m.vc == 3 && m.op == 0x0C && hostLenOk m) = (some m, d))
    (h : sessOpen d = true ∨ rbit d (landOff 0) HB_SESSTAT.OPENING = true) :
    exec .relaydown s = .next (s.withDev (endSession d (some 2))) := by
  refine upd_of_eq ?_
  simp only [relayDownTaken, hm, relayDown, h, if_true]

/-- A write of CLOSE with a session open. -/
theorem exec_hbSessctlClose_of_session (s : State) (ag : Agent) {v : Nat} (hv : v = regOf [(HB_SESSCTL.CLOSE, 1)])
    (hc : getF (cmdWord s.dev ag (landOff 8) v) HB_SESSCTL.CLOSE = 1) (ho : sessOpen (cmdDev s.dev ag (landOff 8) v) = true) :
    exec (.hbSessctlClose ag) s = .next (s.withDev (endSession (cmdDev s.dev ag (landOff 8) v) (some 3))) := by
  have hexec : exec (.hbSessctlClose ag) s = s.upd (cmdWrite ag (landOff 8) v) := by rw [hv]; rfl
  rw [hexec]
  refine upd_of_eq ?_
  rw [cmdWrite_of_register (b := .land) (r := 8) rfl ⟨rfl, rfl⟩ (by decide) (by decide) (by intro p h; cases h) (by decide) (by decide)]
  unfold mgmtApply landApply
  dsimp only
  rw [if_pos rfl]
  exact (onCmd_of_command _ (by decide) (by rw [hc]; decide)).trans (if_pos ho)

/-- LEDGER_WRITE_COMPLETE of a record that reads back equal (R461). -/
theorem exec_ledgerWriteComplete_of_equal (s : State) (w : LWrite) (hw : s.dev.dyke.writing = some w)
    (hb : fbytes s.dev (slotAt w.slot) w.bytes.length = w.bytes) :
    exec (.ledgerWriteComplete true) s = .next (s.withDev (w.reasons.foldl (ledgerNext true) (ledgerDone s.dev))) := by
  refine upd_of_eq ?_
  simp only [ledgerComplete, hw, hb, and_self, if_true]

/-! ### Host messages (R402, R403, R408, R410) -/

section Served
variable {m : Msg} {d : Dev}

theorem hread_of_resolved {n : Nat} (hn : n = fieldAt m.data 0 2 % 4096) (h1 : 1 ≤ n) (h2 : n ≤ 2048) (hr : recovery d = false)
    (ho : rangeOk d m.addr n false = true) {ps : List HPart} {e : Dev} (hp : hreadParts d m.addr n = (ps, false, e)) :
    hread m d = hubSettle { e with hjobs := e.hjobs ++ [⟨m.tag, true, none, ps⟩] } := by
  have hsize : ¬ (n = 0 ∨ 2048 < n) := by omega
  simp only [hread, ← hn, hsize, hr, ho, hp, Bool.not_true, Bool.false_eq_true, if_false]

theorem hwrite_of_resolved (hr : recovery d = false) (ho : rangeOk d m.addr m.data.length true = true) {ps : List HPart} {e : Dev}
    (hp : hwriteParts d m.addr m.data = (ps, e)) :
    hwrite m d = hubSettle { e with hjobs := e.hjobs ++ [⟨m.tag, false, none, ps⟩] } := by
  simp only [hwrite, hr, ho, hp, Bool.not_true, Bool.false_eq_true, if_false]

theorem hmread_of_aligned (ha : m.addr % 8 = 0) {v : Word} {e : Dev} (hv : mgmtRead d .host m.addr 8 = (some v, e)) :
    hmread m d = hostReply e m 0x24 (toBytes 8 v.toNat) := by
  simp only [hmread, ha, hv, ne_eq, not_true_eq_false, if_false]

theorem hmwrite_of_aligned (ha : m.addr % 8 = 0) {e : Dev}
    (he : e = (mgmtWrite d .host m.addr 8 (BitVec.ofNat 64 (ofBytes m.data))).2) :
    hmwrite m d = if e.booted = true then hstat e m 0 else e := by
  simp only [hmwrite, ha, ne_eq, not_true_eq_false, if_false, ← he]

theorem doorbell_of_ring (hn : fieldAt m.data 0 1 < 16) (hi : fieldAt m.data 1 1 ≤ 1) (hr : recovery d = false) :
    doorbell m d = ringPtr d (fieldAt m.data 0 1) (fieldAt m.data 1 1) (fieldAt m.data 4 4) := by
  unfold doorbell
  refine if_neg ?_
  rw [hr]
  simp only [Bool.false_eq_true, or_false]
  omega

theorem attest_of_free (ha : d.attest = none) (hr : recovery d = false) (hw : fieldAt m.data 32 1 ≤ 1)
    (hp : fieldAt m.data 32 1 = 1 → paired d = true) :
    attest m d = { d with attest := some (m.data.take 32, fieldAt m.data 32 1, m.tag + 65536 * m.src) } := by
  have hrefused : ¬ (recovery d = true ∨ 1 < fieldAt m.data 32 1 ∨ fieldAt m.data 32 1 = 1 ∧ (!paired d) = true) := by
    rintro (h | h | ⟨h, hn⟩)
    · simp [hr] at h
    · omega
    · simp [hp h] at hn
  simp only [attest, ha, hrefused, Option.isSome_none, Bool.false_eq_true, if_false]

end Served

/-- ATTEST_REPORT_READY sends the report in nine messages. -/
theorem exec_attestReportReady_of_attest (s : State) (nonce : List Byte) (which dest : Nat)
    (ha : s.dev.attest = some (nonce, which, dest)) (hs : silent s.dev = false) {body : List Byte} (hb : body = reportBody s.dev nonce)
    {bs : List Byte} (hbs : bs = if which = 0 then body ++ Config.identitySign body else Config.twinReport nonce) :
    exec .attestReportReady s = .next (s.withDev ((List.range 9).foldl (fun d i =>
      send d { mkMsg d 3 0x2A (dest / 65536) (dest % 65536) (2048 * i) ((bs.drop (2048 * i)).take (if i = 8 then 480 else 2048)) with cls := 0 })
      { s.dev with attest := none })) := by
  refine upd_of_eq ?_
  subst hbs hb
  have hsilent : silent { s.dev with attest := none } = false := hs
  simp only [reportReady, ha, hsilent, Bool.false_eq_true, if_false]

/-! ### Accesses to host memory answered (R404) -/

theorem exec_hdata_of_read (s : State) (m : Msg) (d : Dev) (id : Nat) (r : Req)
    (hm : receive s.dev (fun m => m.vc == 3 && m.op == 0x0A && hostLenOk m) = (some m, d)) (ho : sessOpen d = true)
    (hr : hostReqOf d m.tag = some (id, r)) (hk : r.kind = .read) (hl : m.data.length = r.len) :
    exec .hdata s = .next (s.withDev (finishReq (mirrorResponse d m r.key) id (answerOf m).1 (answerOf m).2)) := by
  refine upd_of_eq ?_
  simp only [hostAnswer, hm, ho, hr, hk, hl, Bool.not_true, Bool.false_eq_true, if_false, or_true, and_self, if_true]

theorem exec_hresp_of_write (s : State) (m : Msg) (d : Dev) (id : Nat) (r : Req)
    (hm : receive s.dev (fun m => m.vc == 3 && m.op == 0x0B && hostLenOk m) = (some m, d)) (ho : sessOpen d = true)
    (hr : hostReqOf d m.tag = some (id, r)) (hk : r.kind ≠ .read) :
    exec .hresp s = .next (s.withDev (postSettle (finishReq (mirrorResponse d m r.key) id (answerOf m).1 (answerOf m).2))) := by
  refine upd_of_eq (op := fun d => postSettle (hostAnswer 0x0B d)) ?_
  have hfit : (0x0B = 0x0A) = (r.kind = .read) ∧ (0x0B ≠ 0x0A ∨ m.data.length = r.len) :=
    ⟨propext ⟨fun h => absurd h (by decide), fun h => absurd h hk⟩, .inl (by decide)⟩
  simp only [hostAnswer, hm, ho, hr, Bool.not_true, Bool.false_eq_true, if_false]
  rw [if_pos hfit]

theorem exec_hostAccessDeadline_of_host (s : State) (id o : Nat) (r : Req) (hr : Tab.find? s.dev.reqs id = some r)
    (hs : r.stage = .remote) (ht : r.tgt = .host o) :
    exec (.hostAccessDeadline id) s = .next (s.withDev (postSettle (finishReq s.dev id 4 0))) := by
  refine upd_of_eq (op := fun d => postSettle (hostDeadline id d)) ?_
  simp only [hostDeadline, hr, hs, ht]

end Sys2Proof.Machine
open Sys2Proof Sys2Proof.Machine

/-- Settles O21: each host message is served by `hostCmd_of_taken` and then followed through its command's checks. -/
theorem sessionCommands : Obligations.SessionCommands := by
  unfold Obligations.SessionCommands
  refine ⟨?_, fun s m d hw hm hop hs => ⟨fun hne => ?_, ?_⟩, fun s hs => upd_of_eq (op := sproveTimeout) (if_pos hs),
    fun s m d hw hm ho => ?_, exec_relaydown_of_session, fun s ag => exec_hbSessctlClose_of_session s ag rfl,
    exec_ledgerWriteComplete_of_equal⟩
  · intro s since twinSc same m d key hw hm h1 h5 ho hopen hl hk hsame hop sc d1 d2
    refine upd_of_eq (op := fun d => hostCmd d 1 (sopen since twinSc same)) ?_
    refine (hostCmd_of_taken _ hw hm (hostServed_of_sopen hop)).trans ?_
    exact sopen_of_free h1 h5 ho hopen hl hk hsame rfl rfl rfl
  · refine upd_of_eq (op := fun d => hostCmd d 2 sprove) ?_
    exact (hostCmd_of_taken _ hw hm (hostServed_of_sprove hop)).trans (sprove_of_wrong hs hne)
  · intro heq mac d1 d2
    refine upd_of_eq (op := fun d => hostCmd d 2 sprove) ?_
    exact (hostCmd_of_taken _ hw hm (hostServed_of_sprove hop)).trans (sprove_of_right hs heq rfl rfl rfl)
  · refine upd_of_eq (op := fun d => hostCmd d 3 (fun _ d => endSession d (some 0))) ?_
    exact hostCmd_of_taken _ hw hm (hostServed_of_session ho)

/-- Settles O22: the same for the host's reads, writes, doorbells and attestation. -/
theorem hostCommands : Obligations.HostCommands := by
  unfold Obligations.HostCommands
  refine ⟨fun s op m d hw hm hserved => ⟨?_, ?_, ?_, ?_, ?_, ?_⟩,
    fun s nonce which dest ha hs => exec_attestReportReady_of_attest s nonce which dest ha hs rfl rfl,
    fun s m d id r => ⟨exec_hdata_of_read s m d id r, exec_hresp_of_write s m d id r⟩, exec_hostAccessDeadline_of_host⟩
  · rintro ps e rfl h1 h2 hr ho hp
    exact upd_of_eq (op := fun d => hostCmd d 4 hread)
      ((hostCmd_of_taken _ hw hm hserved).trans (hread_of_resolved rfl h1 h2 hr ho hp))
  · rintro ps e rfl hr ho hp
    exact upd_of_eq (op := fun d => hostCmd d 5 hwrite) ((hostCmd_of_taken _ hw hm hserved).trans (hwrite_of_resolved hr ho hp))
  · rintro v e rfl ha hv
    exact upd_of_eq (op := fun d => hostCmd d 6 hmread) ((hostCmd_of_taken _ hw hm hserved).trans (hmread_of_aligned ha hv))
  · rintro rfl ha
    exact upd_of_eq (op := fun d => hostCmd d 7 hmwrite) ((hostCmd_of_taken _ hw hm hserved).trans (hmwrite_of_aligned ha rfl))
  · rintro rfl hn hi hr
    exact upd_of_eq (op := fun d => hostCmd d 8 doorbell) ((hostCmd_of_taken _ hw hm hserved).trans (doorbell_of_ring hn hi hr))
  · rintro rfl ha hr hwh hp
    exact upd_of_eq (op := fun d => hostCmd d 9 attest) ((hostCmd_of_taken _ hw hm hserved).trans (attest_of_free ha hr hwh hp))

end

section
/-!
PROOF. Command rings: fetching, the step of each command, completion (spec/18): the statement O23.
-/
namespace Sys2Proof.Machine

/-! ### Fetching (R408) -/

section Fetch
variable {s : State} {n : Nat} (hr : ringRuns s.dev n = true) (hf : (getRing s.dev n).fetching = none)
  (hq : rptr s.dev n RING_PTR.SQHEAD ≠ rptr s.dev n RING_PTR.SQTAIL) (hc : (getRing s.dev n).cmds.length < 8)
  (hfull : cqFull s.dev n = false) {a : Nat} (ha : a = rgetF s.dev (ringOff n 0) RING_BASE.ADDR * 64 + 64 * rptr s.dev n RING_PTR.SQHEAD)
include hr hf hq hc hfull ha

/-- A slot in device memory is read at once. -/
theorem exec_ringCommandFetch_of_local (hl : rbit s.dev (ringOff n 0x10) RING_CTL.SQLOC = true) {bs : List Byte} {d : Dev}
    (hb : hubRead s.dev a 64 = (some bs, d)) : exec (.ringCommandFetch n) s = .next (s.withDev (putCmd d n bs)) := by
  refine upd_of_eq ?_
  simp only [ringFetch, hr, hf, hq, Nat.not_le.2 hc, hfull, hl, ← ha, hb, Bool.not_true, Bool.false_eq_true, or_self, if_false, if_true]

/-- A slot in host memory is asked for. -/
theorem exec_ringCommandFetch_of_host (hl : rbit s.dev (ringOff n 0x10) RING_CTL.SQLOC = false) {q : Nat × Dev}
    (hreq : q = hubReq s.dev (.host a) a 64 .read 0) :
    exec (.ringCommandFetch n) s = .next (s.withDev (updRing q.2 n (fun r => { r with fetching := some q.1 }))) := by
  refine upd_of_eq ?_
  simp only [ringFetch, hr, hf, hq, Nat.not_le.2 hc, hfull, hl, ← ha, ← hreq, Bool.not_true, Bool.false_eq_true, or_self, if_false]

end Fetch

/-! ### The step of each command (R409) -/

section Start
variable {s : State} {n : Nat} {c : RCmd} (hn : nextCmd s.dev n = some c) (hok : cmdOk c = true) {b : RCmd}
  (hb : b = { c with began := true }) {d : Dev} (hd : d = setCmd s.dev n b)
include hn hok hb hd

/-- The next command of a ring, a well-formed one of the opcode, begins. -/
theorem startCmd_of_next {op : Nat} (hop : cOp c = op) (f : RCmd → Dev → Dev) : startCmd s.dev n op f = f b d := by
  simp only [startCmd, hn, hop, hok, and_self, if_true, ← hb, ← hd]

omit hn hok hd in
/-- That a command has begun changes none of its arguments. -/
theorem cArg_of_began (o k : Nat) : cArg b o k = cArg c o k := by rw [hb]; rfl

theorem ringStart_of_placed (hop : cOp c = 1) (hm : cArg c 3 1 ≤ 1) (hl : cArg c 0 2 ≠ 0xFFFF)
    (hs : (siteOfCl s.dev (cArg c 0 2)).isSome = true) : ringStart n s.dev = startDone d n b (cArg c 0 2) := by
  have hsite : (siteOfCl s.dev (cArg c 0 2)).isNone = false := by rw [← Option.not_isSome, hs]; rfl
  simp only [ringStart, hn, hop, hok, Nat.not_lt.2 hm, hl, hsite, Bool.not_true, Bool.false_eq_true, ne_eq, not_true_eq_false,
    or_self, if_false, startCmd_of_next hn hok hb hd hop, cArg_of_began hb]

omit hd in
/-- An unplaced START goes where the Surveyor chooses. -/
theorem ringStart_of_chosen (hop : cOp c = 1) (hm : cArg c 3 1 ≤ 1) (hl : cArg c 0 2 = 0xFFFF) (ha : s.dev.plat.allot = true)
    {l : Nat} {e : Dev} (hc : choose s.dev n c = (some l, e)) : ringStart n s.dev = startDone (setCmd e n b) n b l := by
  simp only [ringStart, hn, hop, hok, Nat.not_lt.2 hm, hl, ha, hc, Bool.not_true, Bool.false_eq_true, ne_eq, not_true_eq_false,
    or_self, if_false, if_true, ← hb]

theorem ringStop_of_cluster (hop : cOp c = 2) (hs : (siteOfCl d (cArg c 0 2)).isSome = true) :
    ringStop n s.dev = stopMask d (cArg c 0 2) (cArg c 2 1) := by
  have hsite : (siteOfCl d (cArg c 0 2)).isNone = false := by rw [← Option.not_isSome, hs]; rfl
  simp only [ringStop, startCmd_of_next hn hok hb hd hop, cArg_of_began hb, hsite, Bool.false_eq_true, if_false]

theorem ringEvent_of_next (hop : cOp c = 3) :
    ringEvent n s.dev = sendEvents d (cArg c 8 4) (BitVec.ofNat 64 (cArg c 0 8)) := by
  simp only [ringEvent, startCmd_of_next hn hok hb hd hop, cArg_of_began hb]

theorem ringMove_of_next (hop : cOp c = 4)
    (hnone : (getRing s.dev n).cmds.find? (fun c => c.began && cOp c == 4 && c.res.isNone) = none) :
    ringMove n s.dev = if cArg c 16 8 = 0 then endCmd d n b 0 0 else moveGet d n b := by
  simp only [ringMove, hnone, startCmd_of_next hn hok hb hd hop, cArg_of_began hb]

theorem ringTract_of_idle (hop : cOp c = 5) (ht : s.dev.tractCmd = none) (he : s.dev.tractEnd = none) :
    ringTract n s.dev = tractGo d ((List.range 4).map (fun i => BitVec.ofNat 64 (cArg c (8 * i) 8))) (some n) := by
  simp only [ringTract, ht, he, Option.isSome_none, Bool.false_eq_true, or_self, if_false, startCmd_of_next hn hok hb hd hop,
    cArg_of_began hb]

theorem ringReplat_of_idle (hop : cOp c = 6) (hp : rbit d 0x310 HB_PLATSTAT.BUSY = false) (hf : rbit d 0x718 HB_FWSTAT.BUSY = false)
    (h0 : cArg c 0 1 ≤ 3) (h1 : cArg c 1 1 ≤ 1) {e : Dev} (he : e = platCmd d (cArg c 0 1) (cArg c 1 1)) :
    ringReplat n s.dev = if e.replat.isSome = true then e else endCmd e n b 0 (rgetF e 0x310 HB_PLATSTAT.RESULT) := by
  simp only [ringReplat, startCmd_of_next hn hok hb hd hop, cArg_of_began hb, hp, hf, Nat.not_lt.2 h0, Nat.not_lt.2 h1,
    Bool.false_eq_true, or_self, if_false, ← he]

end Start

/-! ### Completion -/

/-- A well-formed command with a result and room for its event completes. -/
theorem commandComplete_of_result {n i : Nat} {c : RCmd} {r : Nat × Nat} {d0 d : Dev} (hd : d = postSettle d0)
    (hc : (getRing d n).cmds.find? (fun c => c.idx == i) = some c) (hok : cmdOk c = true) (hr : cmdResult d n c = some r)
    (hdrop : c.drop = false) (hfull : cqFull d n = false) (hreplat : ¬ (cOp c = 6 ∧ c.chosen = 1)) :
    commandComplete n i d0 = postEvt (leaveRing d n c) n (eventBytes d n c r) := by
  unfold commandComplete
  rw [← hd]
  simp only [hc, hok, hr, hdrop, hfull, Bool.not_true, Bool.false_and, Bool.false_eq_true, if_false]
  exact if_neg hreplat

end Sys2Proof.Machine
open Sys2Proof Sys2Proof.Machine

/-- Settles O23: `startCmd_of_next` begins each command, and its step is read off its definition. -/
theorem ringCommands : Obligations.RingCommands := by
  unfold Obligations.RingCommands
  refine ⟨fun s n hr hf hq hc hfull => ⟨fun bs d hl hb => exec_ringCommandFetch_of_local hr hf hq hc hfull rfl hl hb,
      fun hl => exec_ringCommandFetch_of_host hr hf hq hc hfull rfl hl rfl⟩,
    ?begin, ?complete⟩
  case complete =>
    intro s n i c r d hc hok hr hdrop hfull hreplat
    exact upd_of_eq (op := commandComplete n i) (commandComplete_of_result rfl hc hok hr hdrop hfull hreplat)
  case begin =>
    intro s n c hn hok b d
    refine ⟨fun hop => ?_, fun hop hm hl hs => ?_, fun l e hop hm hl ha hc => ?_, fun hop hs => ?_, fun hop => ?_, fun hop hnone => ?_,
      fun hop ht he => ?_, ?_, fun hop => ?_⟩
    · refine upd_of_eq (op := fun d => startCmd d n 0 (fun c d => endCmd d n c 0 0)) ?_
      exact startCmd_of_next hn hok rfl rfl hop _
    · exact upd_of_eq (op := ringStart n) (ringStart_of_placed hn hok rfl rfl hop hm hl hs)
    · exact upd_of_eq (op := ringStart n) (ringStart_of_chosen hn hok rfl hop hm hl ha hc)
    · exact upd_of_eq (op := ringStop n) (ringStop_of_cluster hn hok rfl rfl hop hs)
    · exact upd_of_eq (op := ringEvent n) (ringEvent_of_next hn hok rfl rfl hop)
    · exact upd_of_eq (op := ringMove n) (ringMove_of_next hn hok rfl rfl hop hnone)
    · exact upd_of_eq (op := ringTract n) (ringTract_of_idle hn hok rfl rfl hop ht he)
    · intro hop hp hf h0 h1 e
      exact upd_of_eq (op := ringReplat n) (ringReplat_of_idle hn hok rfl rfl hop hp hf h0 h1 rfl)
    · refine upd_of_eq (op := fun d => startCmd d n 7 (fun _ d => d)) ?_
      exact startCmd_of_next hn hok rfl rfl hop _

end

section
/-!
PROOF. The reduction engine: register writes, messages, deadlines (spec/19): the statement O24.
-/
namespace Sys2Proof.Machine

/-! ### Writes of its registers (R414 to R416, R428) -/

/-- A write of RD_CTL or RD_FILL of a reduction reaches that register. -/
theorem cmdWrite_rdReg {ag : Agent} {d : Dev} {r o v : Nat} (hr : r < 4) (ho : o = 0x38 ∨ o = 0x40) :
    cmdWrite ag (rdOff r o) v d =
      rdWrite d (cmdReg d ag (rdOff r o)) r o (BitVec.ofNat 64 (ones 64)) (BitVec.ofNat 64 v) := by
  have hblk : blkOf (rdOff r o) = (.rd, 0x100 * r + o) := by
    unfold blkOf rdOff
    simp only [show ¬ (0x0030_0000 + 0x100 * r + o < 0x0010_0000) by omega, show ¬ (0x0030_0000 + 0x100 * r + o < 0x0020_0000) by omega,
      show ¬ (0x0030_0000 + 0x100 * r + o < 0x0030_0000) by omega, show 0x0030_0000 + 0x100 * r + o < 0x0040_0000 by omega,
      if_false, if_true, Prod.mk.injEq, true_and]
    omega
  have hplat : inPlatbuf (rdOff r o) = false := by
    unfold inPlatbuf rdOff
    exact decide_eq_false (by omega)
  have hmap : (regMapOf .rd (0x100 * r + o)).isSome = true := by
    rcases (by omega : r = 0 ∨ r = 1 ∨ r = 2 ∨ r = 3) with rfl | rfl | rfl | rfl <;> rcases ho with rfl | rfl <;> decide
  rw [cmdWrite_of_register hblk ⟨rfl, rfl⟩ (by unfold rdOff; omega) (by omega) (by intro p h; cases h) hplat hmap]
  unfold mgmtApply
  dsimp only
  rw [if_pos (by omega), show (0x100 * r + o) / 0x100 = r by omega, show (0x100 * r + o) % 0x100 = o by omega]

theorem mod_four_lt (n : Nat) : n % 4 < 4 := Nat.mod_lt _ (by decide)

/-- RD_START is a write of START. -/
theorem exec_rdStart (s : State) (ag : Agent) (n : Nat) : exec (.rdStart ag n) s = s.upd (fun d => rdStart d (n % 4)) := by
  have h : cmdWrite ag (rdOff (n % 4) 0x38) (regOf [(RD_CTL.START, 1)]) s.dev = rdStart s.dev (n % 4) := by
    rw [cmdWrite_rdReg (mod_four_lt n) (.inl rfl)]
    unfold rdWrite
    rw [if_neg (by decide)]
    dsimp only
    rw [if_pos rfl, if_neg (by decide), if_pos (by decide)]
  exact upd_of_eq (op := cmdWrite ag (rdOff (n % 4) 0x38) (regOf [(RD_CTL.START, 1)])) h

/-- RD_ABORT is a write of ABORT. -/
theorem exec_rdAbort (s : State) (ag : Agent) (n : Nat) : exec (.rdAbort ag n) s = s.upd (fun d => rdAbort d (n % 4)) := by
  have h : cmdWrite ag (rdOff (n % 4) 0x38) (regOf [(RD_CTL.ABORT, 1)]) s.dev = rdAbort s.dev (n % 4) := by
    rw [cmdWrite_rdReg (mod_four_lt n) (.inl rfl)]
    unfold rdWrite
    rw [if_neg (by decide)]
    dsimp only
    rw [if_pos rfl, if_pos (by decide), if_neg (by decide)]
  exact upd_of_eq (op := cmdWrite ag (rdOff (n % 4) 0x38) (regOf [(RD_CTL.ABORT, 1)])) h

/-- RD_FILL is a write of RD_FILL. -/
theorem exec_rdFill (s : State) (ag : Agent) (n : Nat) (v : Word) :
    exec (.rdFill ag n v) s = s.upd (fun d => rdFill d (n % 4) (getF v RD_FILL.ADD)) := by
  have hmask : BitVec.ofNat 64 v.toNat &&& BitVec.ofNat 64 (ones 64) = v := by
    rw [show BitVec.ofNat 64 (ones 64) = BitVec.allOnes 64 by decide, BitVec.and_allOnes, BitVec.ofNat_toNat, BitVec.setWidth_eq]
  have h : cmdWrite ag (rdOff (n % 4) 0x40) v.toNat s.dev = rdFill s.dev (n % 4) (getF v RD_FILL.ADD) := by
    rw [cmdWrite_rdReg (mod_four_lt n) (.inr rfl)]
    unfold rdWrite
    rw [if_neg (by decide)]
    dsimp only
    rw [if_neg (by decide), if_pos rfl, hmask]
  exact upd_of_eq (op := cmdWrite ag (rdOff (n % 4) 0x40) v.toNat) h

/-- A START of an idle reduction whose member table is read and whose configuration is legal. -/
theorem rdStart_of_legal {d0 : Dev} {r : Nat} (hbusy : rdBusy d0 r = false) {o : Nat} (ho : o = rdOff r 0x50) {d1 d2 d3 d4 d : Dev}
    (hd1 : d1 = rset d0 o (setF (setB (setB (setB (setB (rget d0 o) RD_STAT.NV false) RD_STAT.OF false) RD_STAT.NX false)
      RD_STAT.BUSY true) RD_STAT.STATUS 0))
    (hd2 : d2 = rset d1 (rdOff r 0x48) 0) {b : Nat} (hb : b = if d2.plat.bucket = 0 then 8 else d2.plat.bucket)
    (hd3 : d3 = rset d2 (rdOff 0 0x1008) (setF (setF (rget d2 (rdOff 0 0x1008)) RD_BUF.BUCKET b) RD_BUF.SLOTS (64 / b)))
    {old : Option Nat} (hold : old = (getRed d3 r).repeated)
    (hd4 : d4 = updRed d3 r (fun _ => { Red.empty with repeated := old, mute := if old = some (rdStep d3 r) then old else none }))
    {st : Nat} (hst : st = rdStep d4 r)
    (hd : d = showBuf { d4 with bkts := d4.bkts.filter (fun b => !(b.rid == r && decide (2 ^ 15 ≤ (b.step + 65536 - st) % 65536))) })
    (hlen : rdLen d r ≠ 0) {bs : List Byte} {e : Dev} (hread : hubRead d (rdAddr d r 0x8) (4 * rdP d r) = (some bs, e))
    (h128 : rdLen e r % 128 = 0) (hnb : rdNB e r ≤ 65535) (hp : rdP e r ≠ 0) :
    rdStart d0 r = updRed e r (fun x => { x with members := (List.range (rdP e r)).map (fun i => fieldAt bs (4 * i) 4) }) := by
  unfold rdStart
  rw [if_neg (by rw [hbusy]; decide)]
  simp only [← ho]
  rw [← hd1]
  rw [← hd2]
  rw [← hb]
  rw [← hd3]
  rw [← hold]
  rw [← hd4]
  rw [← hst]
  rw [← hd]
  rw [if_neg hlen, hread]
  dsimp only
  exact if_neg (by omega)

theorem rdStep_muteStep (d : Dev) (r : Nat) : rdStep (muteStep d r) r = rdStep d r := rfl

theorem rdAbort_of_busy {d : Dev} {r : Nat} (hb : rdBusy d r = true) :
    rdAbort d r = stepEnd (dropStep (muteStep d r) r (rdStep (muteStep d r) r)) r 1 := by
  unfold rdAbort
  rw [if_neg (by rw [hb]; decide), rdStep_muteStep]

theorem rdFill_of_busy {d : Dev} {r add : Nat} (hb : rdBusy d r = true) (ha : add ≠ 0) :
    rdFill d r add = rdAdvance (rsetF d (rdOff r 0x48) RD_PROG.FILLED (satAdd (rdLen d r) (rdFilled d r) add)) r := by
  simp only [rdFill, hb, ha, Bool.not_true, Bool.false_eq_true, or_self, if_false]

/-! ### Shares and messages (R418 to R426) -/

/-- The home's own share of the first bucket that waits and has a buffer slot joins its sums (R420). -/
theorem ownConverted_of_slot {d0 d1 e : Dev} {r b : Nat} {x y : Bkt}
    (hb : (getRed d0 r).own.find? (fun b => (takeBkt d0 r (rdStep d0 r) b).isSome) = some b)
    (ht : takeBkt d0 r (rdStep d0 r) b = some (x, d1)) {d : Dev}
    (hd : d = updRed d1 r (fun y => { y with own := y.own.erase b }))
    (hf : (List.range (bktChunks d r b)).foldl (ownChunk r b) (some x, d) = (some y, e)) :
    ownConverted r d0 = maybeComplete e y := by
  unfold ownConverted
  rw [hb]
  dsimp only
  rw [ht]
  dsimp only
  rw [← hd, hf]
  rfl

section Contrib
variable {s : State} {m : Msg} {d : Dev} (hs : s.dev.store.length < 2048)
  (hm : receive s.dev (fun m => rdAccepts s.dev m && m.op == 1) = (some m, d))
include hs hm

theorem exec_contrib_of_placed {e : Dev} (hp : placeContrib d m = some e) : exec .contrib s = .next (s.withDev e) := by
  refine upd_of_eq (op := takeContrib) ?_
  simp only [takeContrib, Nat.not_le.2 hs, if_false, hm, hp]

theorem exec_contrib_of_stored (hp : placeContrib d m = none) :
    exec .contrib s = .next (s.withDev (showBuf { d with store := d.store ++ [m] })) := by
  refine upd_of_eq (op := takeContrib) ?_
  simp only [takeContrib, Nat.not_le.2 hs, if_false, hm, hp]

end Contrib

theorem exec_contribPlace_of_stored (s : State) (r : Nat) (m : Msg) (d : Dev)
    (hm : s.dev.store.find? (fun m => mRid m == r && (placeContrib s.dev m).isSome) = some m)
    (hp : placeContrib { s.dev with store := s.dev.store.erase m } m = some d) :
    exec (.contribPlace r) s = .next (s.withDev (showBuf d)) := by
  refine upd_of_eq (op := contribPlace r) ?_
  simp only [contribPlace, hm, hp, Option.getD_some]

section Current
variable {s : State} {m : Msg} {d : Dev} (hc : stepClass d m = 1)
include hc

theorem exec_result_of_current (hm : receive s.dev (fun m => rdAccepts s.dev m && m.op == 2) = (some m, d))
    (hb : rdBusy d (mRid m) = true) :
    exec .result s = .next (s.withDev (writeResult d (mRid m) (mBucket m) (mChunk m) m.data)) := by
  refine upd_of_eq (op := takeResult) ?_
  simp only [takeResult, hm, hc, hb, ne_eq, not_true_eq_false, Bool.not_true, Bool.false_eq_true, or_self, if_false]

theorem exec_rpull_of_current (hm : receive s.dev (fun m => rdAccepts s.dev m && m.op == 3) = (some m, d))
    (hb : rdBusy d (mRid m) = true) (h0 : ofBytes m.data ≠ 0) :
    exec .rpull s = .next (s.withDev
      (rdAdvance (updRed d (mRid m) (fun x => { x with pulls := x.pulls ++ [(mBucket m, mSlot m, ofBytes m.data)] })) (mRid m))) := by
  refine upd_of_eq (op := takeRpull) ?_
  simp only [takeRpull, hm, hc, hb, h0, ne_eq, not_true_eq_false, Bool.not_true, Bool.false_eq_true, or_self, if_false]

theorem exec_steprep_of_current (hm : receive s.dev (fun m => rdAccepts s.dev m && m.op == 4) = (some m, d))
    (hs : silent d = false) : exec .steprep s = .next (s.withDev (applySteprep d (mRid m))) := by
  refine upd_of_eq (op := takeSteprep) ?_
  simp only [takeSteprep, hm, hc, hs, Bool.false_eq_true, false_and, ne_eq, not_true_eq_false, if_false]

end Current

/-! ### Deadlines (R424, R427) -/

/-- A bucket's deadline: its late slots are pulled from their backups, or the step is repeated. -/
theorem exec_bucketDeadline_of_late (s : State) (r b : Nat) (x : Bkt) (hx : findBkt s.dev r (rdStep s.dev r) b = some x)
    (hc : x.complete = false) (hdl : rgetF s.dev (rdOff r 0x28) RD_DEADLINE.BUCKET ≠ 0) (hs : silent s.dev = false)
    (hm : rdMute s.dev r = false) {full : Nat} (hfull : full = ones (bktChunks s.dev r b)) {late : List Nat}
    (hlate : late = (List.range (rdP s.dev r)).filter (fun i => Tab.get 0 x.seen i != full)) {mem : Nat → Nat}
    (hmem : mem = fun i => (getRed s.dev r).members.getD i 0) :
    exec (.bucketDeadline r b) s = .next (s.withDev
      (if 256 < rdP s.dev r ∨ x.expired = true ∨ late.any (fun i => (mBackup (mem i)).isNone) = true then repeatStep s.dev r
       else late.foldl (fun d i =>
         rdCount (rdSend d r 3 ((mBackup (mem i)).getD 0) i 0 b (toBytes (ceilDiv (bktChunks d r b) 8) (full ^^^ Tab.get 0 x.seen i))) RD_CNT.PULLS)
         (putBkt s.dev { x with expired := true }))) := by
  refine upd_of_eq (op := bucketDeadline r b) ?_
  subst hmem
  simp only [bucketDeadline, hx, hc, hdl, hs, hm, Bool.false_eq_true, or_self, if_false, ← hfull, ← hlate]

theorem exec_resultDeadline_of_filled (s : State) (r : Nat) (hb : rdBusy s.dev r = true)
    (hdl : rgetF s.dev (rdOff r 0x28) RD_DEADLINE.RESULT ≠ 0) (hs : silent s.dev = false) (hf : rdLen s.dev r ≤ rdFilled s.dev r) :
    exec (.resultDeadline r) s = .next (s.withDev (stepEnd s.dev r 3)) := by
  refine upd_of_eq (op := resultDeadline r) ?_
  simp only [resultDeadline, hb, hdl, hs, Nat.not_lt.2 hf, Bool.not_true, Bool.false_eq_true, or_self, if_false]

end Sys2Proof.Machine
open Sys2Proof Sys2Proof.Machine

/-- Settles O24: the register writes reach `rdStart`, `rdAbort` and `rdFill`; the messages and deadlines follow their definitions. -/
theorem reductionEngine : Obligations.ReductionEngine := by
  unfold Obligations.ReductionEngine
  refine ⟨?_, fun s ag n v hb => ⟨?_, fun ha => ?_⟩,
    ?_, ?_, exec_contribPlace_of_stored,
    fun s m d => ⟨fun hm hc => exec_result_of_current hc hm, fun hm hc => exec_rpull_of_current hc hm,
      fun hm hc => exec_steprep_of_current hc hm⟩,
    fun s r b x hx hc hdl hs hm => exec_bucketDeadline_of_late s r b x hx hc hdl hs hm rfl rfl rfl,
    exec_resultDeadline_of_filled⟩
  · intro s ag n bs e hb r o d1 d2 b d3 old d4 st d hlen hread h128 hnb hp
    rw [exec_rdStart]
    refine upd_of_eq (op := fun d => rdStart d r) ?_
    exact rdStart_of_legal hb rfl rfl rfl rfl rfl rfl rfl rfl rfl hlen hread h128 hnb hp
  · rw [exec_rdAbort]
    exact upd_of_eq (op := fun d => rdAbort d (n % 4)) (rdAbort_of_busy hb)
  · rw [exec_rdFill]
    exact upd_of_eq (op := fun d => rdFill d (n % 4) (getF v RD_FILL.ADD)) (rdFill_of_busy hb ha)
  · intro s r b x d e y hb ht d1 hf
    exact upd_of_eq (op := ownConverted r) (ownConverted_of_slot hb ht rfl hf)
  · intro s m d hs hm
    cases hp : placeContrib d m with
    | some e => exact exec_contrib_of_placed hs hm hp
    | none => exact exec_contrib_of_stored hs hm hp

end

section
/-!
PROOF. The pair: forming it, suspicion, falling out, its messages, digests and the rejoin (spec/20): the statements O25 and O26.
-/
namespace Sys2Proof.Machine

/-! ### Forming, suspicion, falling out (R430, R431, R441, R442) -/

/-- The next message of the twin channel of an opcode is taken. -/
theorem twinMsg_of_taken {d e : Dev} {op : Nat} {m : Msg} (f : Msg → Dev → Dev)
    (h : receive d (fun m => m.vc == 4 && m.op == op && twinLenOk m && m.src == d.plat.twinId) = (some m, e)) :
    twinMsg d op f = f m e := by
  simp only [twinMsg, h]

@[simp] theorem plat_setLv (d : Dev) (st : Nat) : (setLv d st).plat = d.plat := rfl

/-- HELLO taken in FORMING: the pair, or a stale device. -/
theorem helloTaken_of_forming {d e : Dev} {m : Msg} (h : lvState d = 1) (he : e = updLv (sendHello d) (fun v => { v with probe := 0 })) :
    helloTaken d m = if m.data.take 16 = e.plat.twinUid ∧ (m.data.drop 16).take 48 = agreeDigest e
      then (if e.plat.self < e.plat.twinId then sendSeeds (setFace (setLv e 2) true) else setFace (setLv e 2) false)
      else setLv e 5 := by
  simp only [helloTaken, h, ne_eq, not_true_eq_false, if_false, ← he, plat_setLv]

theorem exec_beatTimer_of_levee (s : State) (h : lvState s.dev ≠ 0) {sh : Nat}
    (hsh : sh = if rbit s.dev 0x310 HB_PLATSTAT.SHORT = true then 1 else 0) :
    exec .beatTimer s = .next (s.withDev
      (updLv (sendTwin s.dev 2 0 (toBytes 4 s.dev.lv.beatSeq ++ toBytes 1 (lvState s.dev) ++ toBytes 3 sh))
        (fun v => { v with beatSeq := (v.beatSeq + 1) % 2 ^ 32 }))) := by
  refine upd_of_eq (op := beatTimer) ?_
  simp only [beatTimer, h, if_false, ← hsh]

theorem exec_twinProbeDeadline_of_probe (s : State) (h : s.dev.lv.probe = 1) :
    exec .twinProbeDeadline s = .next (s.withDev (enterAlone s.dev)) := by
  refine upd_of_eq (op := probeDeadline) ?_
  simp only [probeDeadline, h]

theorem exec_twinProbeDeadline_of_wait (s : State) (h : s.dev.lv.probe = 2) :
    exec .twinProbeDeadline s = .next (s.withDev (split s.dev)) := by
  refine upd_of_eq (op := probeDeadline) ?_
  simp only [probeDeadline, h]

/-- TWIN_FALL_OUT of a formed pair for a cause that has come up (R441). -/
theorem exec_twinFallOut_of_cause (s : State) (r : Nat) (hc : s.dev.lv.cause = some r) (hl : lvState s.dev = 2) {d : Dev}
    (hd : d = if portUp s.dev s.dev.plat.twinPort = true then sendTwin s.dev 9 0 (toBytes 1 r) else s.dev) :
    exec .twinFallOut s = .next (s.withDev
      (updLv (setFace (setLv (stopAll d) 4) false) (fun v => { v with cause := none, probe := 0 }))) := by
  refine upd_of_eq (op := twinFallOut) ?_
  simp only [twinFallOut, hc, hl, fallOut, ne_eq, not_true_eq_false, if_true, if_false, ← hd]

/-! ### Mirrored messages (R433, R434) -/

/-- MIRROR with its MIRRORD acts, unless it is a response that nobody holds a request for and the store is full. -/
theorem exec_mirror_of_taken (s : State) (h b : Msg) (d d2 : Dev)
    (h1 : receive s.dev (fun m => m.vc == 4 && m.op == 3 && twinLenOk m && m.src == s.dev.plat.twinId) = (some h, d))
    (h2 : receive d (fun m => m.vc == 4 && m.op == 4 && twinLenOk m && m.src == s.dev.plat.twinId) = (some b, d2)) {m : Msg}
    (hm : m = msgOf (ofBytes h.data) b.data) (hroom : ¬ (isResponse m = true ∧ keyReq d2 h.addr = none ∧ 4096 ≤ d2.mirrored.length)) :
    exec .mirror s = .next (s.withDev (mirrorActs d2 h.addr m)) := by
  refine upd_of_eq (op := mirrorTaken) ?_
  simp only [mirrorTaken, h1, h2, ← hm, Option.isNone_iff_eq_none]
  exact if_neg hroom

/-- PLACE taken of a tract action (R448). -/
theorem placeTaken_of_act {m : Msg} {d : Dev} (h : fieldAt m.data 16 1 ≠ 0xFF) :
    placeTaken m d = (tractAct d (fieldAt m.data 16 1) (fieldAt m.data 0 8 / tractLen) (fieldAt m.data 19 1)).getD d := by
  simp only [placeTaken, h, if_false]

/-! ### Digests and the rejoin (R439, R444) -/

/-- A write of a register of the Surveyor with a command: SU_LVDIGCTL. -/
theorem cmdWrite_digestGo {d : Dev} {ag : Agent} {v : Nat} (hc : getF (cmdWord d ag (suOff 0x1120) v) SU_LVDIGCTL.GO = 1) :
    cmdWrite ag (suOff 0x1120) v d = digestGo (cmdDev d ag (suOff 0x1120) v) := by
  rw [cmdWrite_of_register (b := .su) (r := 0x1120) rfl ⟨rfl, rfl⟩ (by decide) (by decide) (by intro p h; cases h) (by decide) (by decide)]
  unfold mgmtApply suApply
  dsimp only
  rw [if_neg (by decide), if_neg (by decide), if_pos rfl]
  exact onCmd_of_command _ (by decide) (by rw [hc]; decide)

/-- The same: SU_LVCTL. -/
theorem cmdWrite_rejoin {d : Dev} {ag : Agent} {v : Nat} (hc : getF (cmdWord d ag (suOff 0x1108) v) SU_LVCTL.REJOIN = 1) :
    cmdWrite ag (suOff 0x1108) v d = rejoinGo (cmdDev d ag (suOff 0x1108) v) := by
  rw [cmdWrite_of_register (b := .su) (r := 0x1108) rfl ⟨rfl, rfl⟩ (by decide) (by decide) (by intro p h; cases h) (by decide) (by decide)]
  unfold mgmtApply suApply
  dsimp only
  rw [if_neg (by decide), if_pos rfl]
  exact onCmd_of_command _ (by decide) (by rw [hc]; decide)

/-- The digest of a legal range, while none is busy. -/
theorem digestGo_of_legal {d0 d : Dev} (hb : rbit d0 digOff SU_LVDIGSTAT.BUSY = false) (hd : d = rsetB d0 digOff SU_LVDIGSTAT.BUSY true)
    {a n : Nat} (ha : a = (rget d (suOff 0x1110)).toNat) (hn : n = (rget d (suOff 0x1118)).toNat) (h64 : n % 64 = 0)
    (hr : rangeLocal d a n = true) {p : Nat × Dev} (hp : p = digestOf d a n) {e : Dev}
    (he : e = rset p.2 (suOff 0x1130) (BitVec.ofNat 64 p.1)) {tag : Nat} (htag : tag = rgetF e (suOff 0x1120) SU_LVDIGCTL.TAG) :
    digestGo d0 = if paired e = true
      then digCompare (updLv (sendTwin e 6 0 (toBytes 8 tag ++ toBytes 8 p.1)) (fun v => { v with mine := some (tag, p.1) }))
      else digEnds e 2 := by
  unfold digestGo
  rw [if_neg (by rw [hb]; decide)]
  simp only [← hd, ← ha, ← hn, h64, hr, Bool.not_true, Bool.false_eq_true, ne_eq, not_true_eq_false, or_self, if_false, ← hp, ← he,
    ← htag]
  cases paired e <;> rfl

/-- A rejoin starts where its conditions hold. -/
theorem rejoinGo_eq (d : Dev) :
    rejoinGo d = if lvState d = 3 ∧ d.lv.farState = 4 ∧ d.lv.farShort = false ∧ portUp d d.plat.twinPort = true ∧ anyRunning d = false ∧
        anyCopy d = false ∧ anyReduction d = false ∧ d.tractCmd = none ∧ rbit d lvOff SU_LVSTAT.REJOIN = false
      then updLv (rsetB d lvOff SU_LVSTAT.REJOIN true) (fun v => { v with syncPos := 0 })
      else rsetB d lvOff SU_LVSTAT.REJFAIL true := by
  simp only [rejoinGo, Bool.not_eq_true', Option.isNone_iff_eq_none]

theorem exec_rejoinComplete_of_survivor (s : State) (hl : lvState s.dev = 3) (hr : rbit s.dev lvOff SU_LVSTAT.REJOIN = true)
    (hi : syncItem s.dev s.dev.lv.syncPos = none) (hp : s.dev.lv.syncPos ≠ 0) :
    exec .rejoinComplete s = .next (s.withDev (sendLog (beatTimer (rsetB (setLv s.dev 2) lvOff SU_LVSTAT.REJOIN false)) 3 0)) := by
  refine upd_of_eq (op := rejoinComplete) ?_
  simp only [rejoinComplete, hl, hr, hi, hp, if_true, Bool.not_true, Bool.false_eq_true, Option.isSome_none, or_self, if_false]

theorem exec_rejoinComplete_of_twin (s : State) (hl : lvState s.dev = 4) (hf : s.dev.lv.farState = 2) :
    exec .rejoinComplete s = .next (s.withDev (setFace (setLv s.dev 2) false)) := by
  refine upd_of_eq (op := rejoinComplete) ?_
  exact (if_neg (by omega)).trans (if_pos ⟨hl, hf⟩)

end Sys2Proof.Machine
open Sys2Proof Sys2Proof.Machine

/-- Settles O25: messages are taken by `twinMsg_of_taken`; the timers are their conditions read off. -/
theorem pairForming : Obligations.PairForming := by
  unfold Obligations.PairForming
  refine ⟨fun s h => ⟨upd_of_eq (op := helloTimer) (if_pos h), upd_of_eq (op := formingTimeout) (if_pos h)⟩,
    fun s op m d hm => ⟨?_, ?_, ?_⟩, fun s h => exec_beatTimer_of_levee s h rfl, fun s h => upd_of_eq (op := twinSilence) (if_pos h),
    fun s => ⟨exec_twinProbeDeadline_of_probe s, exec_twinProbeDeadline_of_wait s⟩,
    fun s r hc hl => exec_twinFallOut_of_cause s r hc hl rfl⟩
  · rintro rfl hl
    refine upd_of_eq (op := fun d => twinMsg d 1 (fun m d => helloTaken d m)) ?_
    exact (twinMsg_of_taken _ hm).trans (helloTaken_of_forming hl rfl)
  · rintro rfl
    exact upd_of_eq (op := fun d => twinMsg d 2 beatTaken) (twinMsg_of_taken _ hm)
  · rintro rfl
    exact upd_of_eq (op := fun d => twinMsg d 9 leaveTaken) (twinMsg_of_taken _ hm)

/-- Settles O26: messages as in O25; a digest and a rejoin go through the writes of their registers. -/
theorem pairMessages : Obligations.PairMessages := by
  unfold Obligations.PairMessages
  refine ⟨fun s h b d d2 h1 h2 => exec_mirror_of_taken s h b d d2 h1 h2 rfl, fun s op m d hm => ⟨?_, ?_, ?_, ?_⟩, ?_,
    fun s h => upd_of_eq (op := digestTimeout) (if_pos h), ?_,
    fun s => ⟨fun hr hl => upd_of_eq (op := sync) (if_pos ⟨hr, hl⟩), fun m d hl hm => ?_,
      exec_rejoinComplete_of_survivor s, exec_rejoinComplete_of_twin s⟩⟩
  · rintro rfl
    exact upd_of_eq (op := fun d => twinMsg d 5 confirmTaken) (twinMsg_of_taken _ hm)
  · rintro rfl
    exact upd_of_eq (op := fun d => twinMsg d 6 digestTaken) (twinMsg_of_taken _ hm)
  · rintro rfl ha
    exact upd_of_eq (op := fun d => twinMsg d 7 placeTaken) ((twinMsg_of_taken _ hm).trans (placeTaken_of_act ha))
  · rintro rfl
    exact upd_of_eq (op := fun d => twinMsg d 8 seedTaken) (twinMsg_of_taken _ hm)
  · intro s ag o v d0 d a n p e tag hc hb h64 hr
    refine upd_of_eq (op := digestGoCmd ag) ?_
    exact (cmdWrite_digestGo hc).trans (digestGo_of_legal hb rfl rfl rfl h64 hr rfl rfl rfl)
  · intro s ag o v d hc
    refine upd_of_eq (op := cmdWrite ag o v) ?_
    exact (cmdWrite_rejoin hc).trans (rejoinGo_eq d)
  · refine upd_of_eq (op := sync) ?_
    exact (if_neg (fun h => hl h.2)).trans (twinMsg_of_taken _ hm)

end

section
/-!
PROOF. Fault handling: residue mismatches, SRAM errors, reports, the ledger, Dykereeve commands (spec/21): the statement O27.
-/
namespace Sys2Proof.Machine

/-! ### Residue mismatches (R450 to R452) -/

section Residue
variable {s : State} {l c : Nat}

section Scalar
variable {slot : Nat} {b : WB} {y : Syl} {op : Op} (hb : (getCtx s.dev l c).wb = some b) (hy : getSyl b slot = some y)
  (hop : sylOp b.md.gm (rget s.dev (csOff l c 0x70)) y.word = some op) (hc : checkedSyl op y.word = true) (hst : y.st = .ready)
include hb hy hop hc hst

/-- The first mismatch of a checked scalar syllable: one report. -/
theorem exec_residueMismatch_of_scalar :
    exec (.residueMismatch l c 1 slot false) s = .next (s.withDev (siteEvent s.dev l 0)) := by
  refine upd_of_eq (op := residueMismatch l c 1 slot false) ?_
  simp only [residueMismatch, hb, hy, Option.bind_some, Option.map_some, hop, hc, hst, Bool.not_true, Bool.not_false, Bool.false_eq_true,
    ne_eq, not_true_eq_false, false_and, or_self, if_false, if_true]

/-- The mismatch of its replay: two reports, and a machine check. -/
theorem exec_residueMismatch_of_scalarReplay :
    exec (.residueMismatch l c 1 slot true) s = .next (s.withDev
      (settle (failSyl (siteEvent (siteEvent s.dev l 0) l 0) l c slot (mcheck 0x13 0)) l)) := by
  refine upd_of_eq (op := residueMismatch l c 1 slot true) ?_
  simp only [residueMismatch, hb, hy, Option.bind_some, Option.map_some, hop, hc, hst, Bool.not_true, Bool.false_eq_true,
    ne_eq, not_true_eq_false, false_and, or_self, if_false, if_true, reduceCtorEq]

end Scalar

section Vector
variable {place : Nat} {x : Ctx} {o : QOp} {op : Op} (hop : qopOp o = some op) (hv : vHead s.dev l = some (c, x, o))
  (hc : checkedV op o.syl = true) (hs : vStops x o place = true)
include hop hv hc hs

theorem exec_residueMismatch_of_vector :
    exec (.residueMismatch l c 2 place false) s = .next (s.withDev (siteEvent s.dev l 0)) := by
  refine upd_of_eq (op := residueMismatch l c 2 place false) ?_
  unfold residueMismatch
  rw [if_neg (by decide), if_pos rfl, hv]
  simp only [hop, hc, hs, Bool.not_true, Bool.not_false, Bool.false_eq_true, ne_eq, not_true_eq_false, or_self, if_false, if_true]

theorem exec_residueMismatch_of_vectorReplay :
    exec (.residueMismatch l c 2 place true) s = .next (s.withDev
      (vStopAt (siteEvent (siteEvent s.dev l 0) l 0) l c x o place (mcheck 0x23 (BitVec.ofNat 64 place)))) := by
  refine upd_of_eq (op := residueMismatch l c 2 place true) ?_
  unfold residueMismatch
  rw [if_neg (by decide), if_pos rfl, hv]
  simp only [hop, hc, hs, Bool.not_true, Bool.false_eq_true, ne_eq, not_true_eq_false, or_self, if_false, if_true]

end Vector

/-- A mismatch of a running accumulation or outer product: one class 1 report. -/
theorem exec_residueMismatch_of_matrix {place : Nat} {x : Ctx} {o : QOp} {op : Op} (hop : qopOp o = some op)
    (hx : xHead s.dev l = some (c, x, o)) (hk : op = .tacc ∨ op = .xopa) (hset : x.xp.setup = true) (hpos : o.pos < xTotal o)
    (hf : o.fault = false) : exec (.residueMismatch l c 3 place false) s = .next (s.withDev (siteEvent s.dev l 1)) := by
  refine upd_of_eq (op := residueMismatch l c 3 place false) ?_
  have hkind : (qopOp o == some .tacc || qopOp o == some .xopa) = true := by
    rw [hop]
    rcases hk with rfl | rfl <;> rfl
  unfold residueMismatch
  rw [if_neg (by decide), if_neg (by decide), if_pos rfl, hx]
  simp only [hkind, hset, hf, Nat.not_le.2 hpos, Bool.not_true, Bool.not_false, Bool.false_eq_true, ne_eq, not_true_eq_false,
    or_self, if_false, if_true]

end Residue

/-! ### Reports (R455) -/

theorem exec_faultEventReport_of_oldest (s : State) (stamp cls unit : Nat) (rest : List (Nat × Nat))
    (hf : s.dev.fevents = (cls, unit) :: rest) {key : Nat} (hkey : key = 65536 * cls + unit) {th : Word}
    (hth : th = rget s.dev (dkOff (0x40 + 8 * cls))) {ss : List Nat}
    (hss : ss = windowOf (getF th DK_THRESH.WINDOW) stamp (Tab.get [] s.dev.dyke.stamps key ++ [stamp])) {d : Dev}
    (hd : d = updDk { s.dev with fevents := rest } (fun k => { k with
      stamps := Tab.set [] k.stamps key ss
      life := Tab.set 0 k.life key (satAdd (ones 32) (Tab.get 0 k.life key) 1)
      totPend := Tab.set 0 k.totPend cls (Tab.get 0 k.totPend cls + 1) })) :
    exec (.faultEventReport stamp) s = .next (s.withDev
      (if getF th DK_THRESH.COUNT ≤ ss.length ∧ s.dev.dyke.lastF.contains key = false then declareLasting d cls unit else d)) := by
  refine upd_of_eq (op := faultReport stamp) ?_
  have hlast : d.dyke.lastF = s.dev.dyke.lastF := by rw [hd]; rfl
  simp only [faultReport, hf, ← hkey, ← hth, ← hss, ← hd, hlast, Bool.not_eq_true']

/-! ### The ledger (R459, R461) -/

theorem updDk_congr {d : Dev} {f g : Dyke → Dyke} (h : f d.dyke = g d.dyke) : updDk d f = updDk d g := by
  simp only [updDk, h]

@[simp] theorem dyke_fprog (d : Dev) (a : Nat) (bs : List Byte) : (fprog d a bs).dyke = d.dyke := rfl

/-- LEDGER_WRITE programs what is wanted, once the sector that its slot begins is erased. -/
theorem exec_ledgerWrite_of_ready (s : State) {k : Dyke} (hk : k = s.dev.dyke) {seq : Nat} (hseq : seq = (k.led.seq + 1) % 2 ^ 32)
    {slot : Nat} (hslot : slot = slotOfSeq seq) {led : Led}
    (hled : led = { k.led with
      seq := seq, totals := (List.range 5).map (fun i => satAdd (ones 32) (k.led.totals.getD i 0) (Tab.get 0 k.totPend i)) })
    (hwant : k.want ≠ []) (hw : k.writing = none) (he : slot % 4 = 0 → ferased s.dev (slotAt slot) 1024 = true) :
    exec .ledgerWrite s = .next (s.withDev (updDk (fprog s.dev (slotAt slot) (ledBytes led)) (fun x => { x with
      led := led, totPend := [], want := [], writing := some ⟨slot, 0, ledBytes led, k.want⟩ }))) := by
  refine upd_of_eq (op := ledgerWrite) ?_
  have hready : slotReady s.dev slot = true := by
    by_cases h : slot % 4 = 0
    · simp only [slotReady, he h, Bool.or_true]
    · simp only [slotReady, Bool.or_eq_true, bne_iff_ne, ne_eq, h, not_false_eq_true, true_or]
  subst hk
  simp only [ledgerWrite, ← hseq, ← hslot, hwant, hw, hready, Option.isSome_none, Bool.not_true, Bool.false_eq_true, or_self, if_false,
    ← hled]
  exact updDk_congr rfl

/-- FLASH_SECTOR_ERASE of a sector that the bank's next record begins. -/
theorem exec_flashSectorErase_of_free (s : State) (bank : Nat) {n : Nat}
    (hn : n = if (s.dev.dyke.led.seq + 1) % 2 = bank % 2 then s.dev.dyke.led.seq + 1 else s.dev.dyke.led.seq + 2)
    (h4 : n / 2 % 64 % 4 = 0) (hu : sectorInUse s.dev (64 * (bank % 2) + n / 2 % 64) = false) :
    exec (.flashSectorErase bank) s = .next (s.withDev (ferase s.dev (slotAt (64 * (bank % 2) + n / 2 % 64)) 4096)) := by
  refine upd_of_eq (op := sectorErase bank) ?_
  unfold sectorErase
  dsimp only
  rw [← hn]
  exact if_pos ⟨h4, by rw [hu]; rfl⟩

/-! ### Dykereeve commands (R467) -/

theorem lcmdStep_of_waiting {d : Dev} {n op : Nat} (f : Word → Dev → Dev) (hl : d.dyke.lcmd = some (n, 0))
    (hop : getF (BitVec.ofNat 64 n) HB_LCMD.OP = op) :
    lcmdStep op f d = showKeys (showLedger (ledgerAsk (updDk (f (BitVec.ofNat 64 n) d) (fun k => { k with lcmd := some (n, 1) })) .lcmd)) := by
  simp only [lcmdStep, hl, hop, ne_eq, not_true_eq_false, if_false]

theorem exec_lcmd {s : State} {i : Instr} {op : Nat} {f : Word → Dev → Dev}
    (hi : (i, op, f) ∈ [(Instr.clearsite, 1, clearSite), (.clearchan, 2, clearChan), (.setowner, 3, setOwner), (.setpass, 4, setPass),
      (.setplatkey, 5, setPlatKey), (.clearplatkey, 6, clearPlatKey), (.clearway, 7, clearWay)]) :
    exec i s = s.upd (lcmdStep op f) := by
  simp only [List.mem_cons, List.not_mem_nil, or_false, Prod.mk.injEq] at hi
  rcases hi with ⟨rfl, rfl, rfl⟩ | ⟨rfl, rfl, rfl⟩ | ⟨rfl, rfl, rfl⟩ | ⟨rfl, rfl, rfl⟩ | ⟨rfl, rfl, rfl⟩ | ⟨rfl, rfl, rfl⟩ | ⟨rfl, rfl, rfl⟩ <;> rfl

end Sys2Proof.Machine
open Sys2Proof Sys2Proof.Machine

/-- Settles O27: a lemma per command; the seven Dykereeve commands are one case. -/
theorem faultHandling : Obligations.FaultHandling := by
  unfold Obligations.FaultHandling
  refine ⟨fun s l c slot b y op hb hy hop hc hst => ⟨exec_residueMismatch_of_scalar hb hy hop hc hst,
      exec_residueMismatch_of_scalarReplay hb hy hop hc hst⟩,
    fun s l c place x o op hop => ⟨fun hv hc hs => ⟨exec_residueMismatch_of_vector hop hv hc hs,
      exec_residueMismatch_of_vectorReplay hop hv hc hs⟩, exec_residueMismatch_of_matrix hop⟩,
    fun s a => ?_, fun s p h => upd_of_eq (op := sramUncorrectable p) (if_pos h),
    fun s stamp cls unit rest h => exec_faultEventReport_of_oldest s stamp cls unit rest h rfl rfl rfl rfl, ?_,
    fun s bank => exec_flashSectorErase_of_free s bank rfl, fun s n op i f hl hi hop => ?_⟩
  · cases a <;> rfl
  · intro s k seq slot led hwant hw he
    exact exec_ledgerWrite_of_ready s rfl rfl rfl rfl hwant hw he
  · rw [exec_lcmd hi]
    exact upd_of_eq (op := lcmdStep op f) (lcmdStep_of_waiting f hl hop)

end

section
/-!
PROOF. Power: budget, voltage, ceilings, groups, quarters, Standby and Wake (spec/22): the statement O28.
-/
namespace Sys2Proof.Machine

/-! ### Budget and voltage (R469, R490) -/

theorem exec_powerBudgetTick_of_loaded (s : State) (other : Nat) (dem : List Nat) (hl : s.dev.plat.loaded = true)
    (hs : s.dev.hub.standby = false) {sh : List Rat} (hsh : sh = quarterShares s.dev other dem) :
    exec (.powerBudgetTick other dem) s = .next (s.withDev ((List.range 4).foldl (fun d q =>
      vTarget (rsetF d (vsetOff q) QT_VSET.SET
        (if (getQ d q).dormant = true then 550 else 550 + 10 * (Config.powerModel q (sh.getD q 0).num (sh.getD q 0).den % 31))) q) s.dev)) := by
  refine upd_of_eq (op := budgetTick other dem) ?_
  simp only [budgetTick, hl, hs, Bool.not_true, Bool.false_eq_true, or_self, if_false, ← hsh]

theorem exec_qvidStep_of_quarter (s : State) (q : Nat) (hq : q < 4) {n : Nat} (hn : n = s.dev.board.qvid.getD q 21) {t : Nat}
    (ht : t = qvidCode (rgetF s.dev (vsetOff q) QT_VSET.TARGET)) :
    exec (.qvidStep q) s = .next (s.withDev { s.dev with
      board := { s.dev.board with qvid := s.dev.board.qvid.set q (if n < t then n + 1 else if t < n then n - 1 else n) } }) := by
  refine upd_of_eq (op := qvidStep q) ?_
  simp only [qvidStep, ← hn, ← ht, Nat.not_le.2 hq, if_false]

/-! ### Ceilings (R470, R471) -/

/-- Where no quarter is hot and the package is within its cap, no ceiling falls. -/
theorem foldl_ceilings_of_within {d : Dev} {hot : Nat → Bool} {above : Bool} (ha : above = false) (hh : ∀ q, q < 4 → hot q = false)
    (f : Dev → Nat → Dev) : (List.range 4).foldl (fun d q => if above || hot q then f d q else d) d = d := by
  simp only [show List.range 4 = [0, 1, 2, 3] from rfl, List.foldl_cons, List.foldl_nil, ha, hh 0 (by decide), hh 1 (by decide),
    hh 2 (by decide), hh 3 (by decide), Bool.or_self, Bool.false_eq_true, if_false]

theorem any_hot_of_within {hot : Nat → Bool} (hh : ∀ q, q < 4 → hot q = false) : (List.range 4).any hot = false := by
  simp only [show List.range 4 = [0, 1, 2, 3] from rfl, List.any_cons, List.any_nil, hh 0 (by decide), hh 1 (by decide),
    hh 2 (by decide), hh 3 (by decide), Bool.or_self]

/-- CEILING_CHECK with both limits kept. -/
theorem ceilingCheck_of_within {d0 : Dev} {pkg other : Nat} {tj : List Nat} (hp : pkg ≤ (capsNow d0).1)
    (ht : ∀ q, q < 4 → tj.getD q 0 ≤ (capsNow d0).2) {d1 : Dev}
    (hd1 : d1 = rset d0 0x500 (setF (setF (rget d0 0x500) HB_PWRSTAT.PKG pkg) HB_PWRSTAT.UNCORE other)) {calm low : Bool}
    (hcalm : calm = (decide (100 * pkg ≤ 98 * (capsNow d0).1) &&
      (List.range 4).all (fun q => decide (tj.getD q 0 + 2 ≤ (capsNow d0).2))))
    (hlow : low = (List.range 4).all (fun q => ceilOf d1 q == 550)) {d2 : Dev}
    (hd2 : d2 = { d1 with power := { calm := if calm = true then d0.power.calm + 1 else 0,
                                     floorFor := if low = true then d0.power.floorFor + 1 else 0, within := d0.power.within + 1 } })
    {d3 : Dev}
    (hd3 : d3 = if 100 ≤ d2.power.calm ∧ d2.power.calm % 10 = 0
      then (List.range 4).foldl (fun d q => setCeil d q (min 850 (ceilOf d q + 10))) d2 else d2) :
    ceilingCheck pkg other tj d0 = if (List.range 4).all (fun q => ceilOf d3 q == 850) = true
      then rset d3 0x500 (setB (setB (rget d3 0x500) HB_PWRSTAT.CAPPED false) HB_PWRSTAT.HOT false) else d3 := by
  have habove : decide ((capsNow d0).1 < pkg) = false := decide_eq_false (by omega)
  have hhot : ∀ q, q < 4 → (fun q => decide ((capsNow d0).2 < tj.getD q 0)) q = false :=
    fun q hq => decide_eq_false (Nat.not_lt.2 (ht q hq))
  have hpower : d1.power = d0.power := by rw [hd1]; rfl
  unfold ceilingCheck
  dsimp only
  rw [any_hot_of_within hhot, habove, ← hd1, foldl_ceilings_of_within rfl hhot, hpower]
  simp only [Bool.or_self, Bool.false_eq_true, if_false, ← hcalm, ← hlow, ← hd2, ← hd3]

/-- 10 ms at the floor with a limit exceeded. -/
theorem exec_throttleStep_of_floor (s : State) {k : Nat} (hk : k = rgetF s.dev 0x500 HB_PWRSTAT.THROT)
    (hf : 100 ≤ s.dev.power.floorFor) (hw : s.dev.power.within = 0) :
    exec .throttleStep s = .next (s.withDev
      { rsetF s.dev 0x500 HB_PWRSTAT.THROT (min 4 (k + 1)) with power := { s.dev.power with floorFor := 0 } }) := by
  subst hk
  exact upd_of_eq (op := throttleStep) (if_pos ⟨hf, hw⟩)

/-- 10 ms within both limits. -/
theorem exec_throttleStep_of_within (s : State) {k : Nat} (hk : k = rgetF s.dev 0x500 HB_PWRSTAT.THROT)
    (hw : 100 ≤ s.dev.power.within) :
    exec .throttleStep s = .next (s.withDev
      { rsetF s.dev 0x500 HB_PWRSTAT.THROT (k - 1) with power := { s.dev.power with within := 0 } }) := by
  subst hk
  exact upd_of_eq (op := throttleStep) ((if_neg (by omega)).trans (if_pos hw))

/-! ### Groups, clusters, quarters (R474 to R478) -/

section Group
variable {s : State} {g : Nat} {b : Bool}

theorem exec_groupUp_of_waiting (h : s.dev.hub.pwr = some (1, g, b)) :
    exec .groupUp s = .next (s.withDev (pwrEnds ((groupDoms s.dev g).foldl domUp s.dev) 0)) := by
  refine upd_of_eq (op := groupUp) ?_
  simp only [groupUp, h]

theorem exec_groupDown_of_waiting (h : s.dev.hub.pwr = some (2, g, b)) :
    exec .groupDown s = .next (s.withDev
      (if (groupFlags s.dev g).testBit 1 = false then pwrEnds s.dev 1
       else if (groupClusters s.dev g).any (fun l => !clusterIdle s.dev l) = true then pwrEnds s.dev 2
       else if (groupDoms s.dev g).any (fun n => decide (896 ≤ n ∧ n < 920) && stackUsed s.dev (n - 896)) = true then pwrEnds s.dev 3
       else pwrEnds ((groupDoms s.dev g).foldl domDown s.dev) 0)) := by
  refine upd_of_eq (op := groupDown) ?_
  simp only [groupDown, h, Bool.not_eq_true']

theorem exec_idlePowerDown_of_idle (hg : g < 64) (hf : (groupFlags s.dev g).testBit 0 = true) (hi : groupIdle s.dev g ≠ 0)
    (hc : (groupClusters s.dev g).any (fun l => !clusterIdle s.dev l) = false)
    (hd : (groupDoms s.dev g).any (fun n => decide (896 ≤ n ∧ n < 920) && stackUsed s.dev (n - 896)) = false) :
    exec (.idlePowerDown g) s = .next (s.withDev ((groupDoms s.dev g).foldl domDown s.dev)) := by
  refine upd_of_eq (op := idleDown g) ?_
  simp only [idleDown, Nat.not_le.2 hg, hf, hi, hc, hd, Bool.not_true, Bool.false_eq_true, or_self, if_false]

end Group

theorem exec_clusterWake_of_site (s : State) (l p : Nat) (hp : siteOfCl s.dev l = some p) (hs : s.dev.hub.standby = false) :
    exec (.clusterWake l) s = .next (s.withDev (domUp s.dev p)) := by
  refine upd_of_eq (op := clusterWake l) ?_
  simp only [clusterWake, hs, hp, Bool.false_eq_true, if_false]

theorem exec_quarterDormantEntry_of_off (s : State) (q : Nat) (hq : q < 4) (ho : quarterOff s.dev q = true)
    (hd : (getQ s.dev q).dormant = false) : exec (.quarterDormantEntry q) s = .next (s.withDev
      (vTarget (rsetF (updQ s.dev q (fun u => { u with dormant := true, tlb := [], wcache := [] })) (vsetOff q) QT_VSET.SET 550) q)) := by
  refine upd_of_eq (op := quarterSleep q) ?_
  simp only [quarterSleep, Nat.not_le.2 hq, ho, hd, Bool.not_true, Bool.false_eq_true, or_self, if_false]

/-! ### Standby and Wake (R477) -/

section Standby
variable {s : State} {g : Nat} {b : Bool} (hp : s.dev.hub.pwr = some (3, g, b)) {busy : Bool}
  (hbusy : busy = (anyRunning s.dev || anyCopy s.dev || anyReduction s.dev || s.dev.tractCmd.isSome ||
    (List.range 24).any (fun k => rbit s.dev (stkOff k 0x18) MS_STAT.RESTRIPE)))
include hp hbusy

omit hp in
/-- What keeps a device from Standby, as one condition. -/
theorem standby_runs_iff : (anyRunning s.dev = true ∨ anyCopy s.dev = true ∨ anyReduction s.dev = true ∨ s.dev.tractCmd.isSome = true ∨
    (List.range 24).any (fun k => rbit s.dev (stkOff k 0x18) MS_STAT.RESTRIPE) = true) ↔ busy = true := by
  rw [hbusy]
  simp only [Bool.or_eq_true, or_assoc]

theorem standby_of_busy (h : busy = true) : standby s.dev = pwrEnds s.dev 4 := by
  simp only [standby, hp]
  exact if_pos ((standby_runs_iff hbusy).2 h)

theorem standby_of_idle (h : busy = false) {saved : List Word} (hsaved : saved = (List.range 15).map (fun w => rget s.dev (0x800 + 8 * w)))
    {d1 d2 d3 d4 d5 : Dev} (hd1 : d1 = (List.range 832).foldl domDown (ledgerWrite (ledgerAsk s.dev .standby)))
    (hd2 : d2 = (List.range 4).foldl (fun d q => (List.range 16).foldl (fun d w => wayDrained q w (wayDown q w d)) d) d1)
    (hd3 : d3 = (List.range 4).foldl (fun d q =>
      rsetF (updQ d q (fun u => { u with tlb := [], wcache := [] })) (vsetOff q) QT_VSET.TARGET 0) d2)
    (hd4 : d4 = (List.range 24).foldl (fun d k => srEnter k d) d3)
    (hd5 : d5 = pwrEnds ((List.range 12).foldl (fun d p => updPort (darken d p 0) p (fun x => { x with probe := 0 })) d4) 0) :
    standby s.dev = { d5 with hub := { d5.hub with savedDom := some saved, standby := true } } := by
  simp only [standby, hp]
  rw [if_neg (fun hr => by rw [(standby_runs_iff hbusy).1 hr] at h; cases h), ← hd1, ← hd2, ← hd3, ← hd4, ← hd5, ← hsaved]

end Standby

/-- WAKE after a Standby. -/
theorem wake_of_saved {d0 : Dev} {fails : List Nat} {g : Nat} {b : Bool} {saved : List Word} (hp : d0.hub.pwr = some (4, g, b))
    (hs : d0.hub.savedDom = some saved) {d1 d2 d3 d4 d5 d6 : Dev}
    (hd1 : d1 = (List.range 24).foldl (fun d k => srExit k (rgetF d (stkOff k 0x18) MS_STAT.TEMP) 0 d)
      { d0 with hub := { d0.hub with standby := false } })
    (hd2 : d2 = (List.range 24).foldl (fun d k => trainStack d k (fails.getD k 0)) d1)
    (hd3 : d3 = (List.range 4).foldl vTarget d2) (hd4 : d4 = startPorts d3)
    (hd5 : d5 = (List.range 940).foldl (fun d n =>
      if (saved.getD (n / 64) 0).toNat.testBit (n % 64) = true then domUp d n else domDown d n) d4)
    (hd6 : d6 = pwrEnds (if d5.plat.levee = true then setLv (setFace d5 false) 1 else d5) 0) :
    wake fails d0 = { d6 with hub := { d6.hub with savedDom := none } } := by
  unfold wake
  split
  · next h =>
    cases hs.symm.trans h
    dsimp only at hd1 ⊢
    rw [← hd1, ← hd2, ← hd3, ← hd4, ← hd5, ← hd6]
  · next h => cases hs.symm.trans h
  · next h _ => exact (h g b saved hp hs).elim

end Sys2Proof.Machine
open Sys2Proof Sys2Proof.Machine

/-- Settles O28: a lemma per command; with both limits kept CEILING_CHECK lowers no ceiling (`foldl_ceilings_of_within`). -/
theorem powerCommands : Obligations.PowerCommands := by
  unfold Obligations.PowerCommands
  refine ⟨fun s other dem hl hs => exec_powerBudgetTick_of_loaded s other dem hl hs rfl,
    fun s q hq => exec_qvidStep_of_quarter s q hq rfl rfl, ?_,
    fun s => ⟨exec_throttleStep_of_floor s rfl, exec_throttleStep_of_within s rfl⟩,
    fun s g b => ⟨exec_groupUp_of_waiting, exec_groupDown_of_waiting, exec_idlePowerDown_of_idle⟩,
    exec_clusterWake_of_site,
    fun s q => ⟨exec_quarterDormantEntry_of_off s q, fun hd => upd_of_eq (op := fun d => quarterWake d q) (if_pos hd)⟩, ?_, ?_⟩
  · intro s pkg other tj hp ht o d1 calm low d2 d3
    refine upd_of_eq (op := ceilingCheck pkg other tj) ?_
    exact ceilingCheck_of_within hp ht rfl rfl rfl rfl rfl
  · intro s g b hp busy
    refine ⟨fun h => upd_of_eq (op := standby) (standby_of_busy hp rfl h), ?_⟩
    intro h saved d1 d2 d3 d4 d5
    refine upd_of_eq (op := standby) ?_
    exact standby_of_idle hp rfl h rfl rfl rfl rfl rfl rfl
  · intro s fails g b saved hp hs d1 d2 d3 d4 d5 d6
    refine upd_of_eq (op := wake fails) ?_
    exact wake_of_saved (d1 := d1) (d2 := d2) (d3 := d3) (d4 := d4) (d5 := d5) (d6 := d6) hp hs rfl rfl rfl rfl rfl rfl

end

section
/-!
PROOF. Resets, boot, firmware, plat commands, the board's interfaces (spec/22, spec/02, spec/23): the statements O29, O30 and O31.
-/
namespace Sys2Proof.Machine

/-! ### Commands of the hub's registers -/

/-- A write of HB_RSTCMD outside recovery gives its command (R479 to R481). -/
theorem cmdWrite_rstCmd {d : Dev} {ag : Agent} {v : Nat} (hc : getF (cmdWord d ag 0x600 v) HB_RSTCMD.OP ≠ 0)
    (hr : recovery (cmdDev d ag 0x600 v) = false) :
    cmdWrite ag 0x600 v d = rstCmd (cmdDev d ag 0x600 v) (cmdWord d ag 0x600 v) := by
  rw [cmdWrite_of_register (b := .hub) (r := 0x600) rfl ⟨rfl, rfl⟩ (by decide) (by decide) (by intro p h; cases h) (by decide) (by decide)]
  unfold mgmtApply hubApply
  dsimp only
  rw [if_neg (by decide), if_neg (by decide), if_neg (by decide), if_pos rfl, onCmd_of_command _ (by decide) hc]
  exact if_neg (by rw [hr]; decide)

/-- A write of HB_PLATCMD, with no plat or firmware command busy, gives its command (R49). -/
theorem cmdWrite_platCmd {d : Dev} {ag : Agent} {v : Nat} (hc : getF (cmdWord d ag 0x300 v) HB_PLATCMD.OP ≠ 0)
    (hp : rbit d 0x310 HB_PLATSTAT.BUSY = false) (hf : rbit d 0x718 HB_FWSTAT.BUSY = false) :
    cmdWrite ag 0x300 v d = platCmd (cmdDev d ag 0x300 v) (getF (cmdWord d ag 0x300 v) HB_PLATCMD.OP)
      (getF (cmdWord d ag 0x300 v) HB_PLATCMD.SLOT) := by
  rw [cmdWrite_of_register (b := .hub) (r := 0x300) rfl ⟨rfl, rfl⟩ (by decide) (by decide) (by intro p h; cases h) (by decide) (by decide)]
  unfold mgmtApply hubApply
  dsimp only
  rw [if_pos rfl, hp, hf]
  exact onCmd_of_command _ (by decide) hc

/-! ### Resets (R479 to R482) -/

section ResetCommand
variable {s : State} {ag : Agent} {v : Nat}

theorem exec_deviceReset_of_command (hv : v = regOf [(HB_RSTCMD.OP, 1)]) (hc : getF (cmdWord s.dev ag 0x600 v) HB_RSTCMD.OP = 1)
    (hr : recovery (cmdDev s.dev ag 0x600 v) = false) :
    exec (.deviceReset ag) s = .next (s.withDev (scopeReset (cmdDev s.dev ag 0x600 v) 5 true false)) := by
  have hexec : exec (.deviceReset ag) s = s.upd (cmdWrite ag 0x600 v) := by rw [hv]; rfl
  rw [hexec]
  refine upd_of_eq (op := cmdWrite ag 0x600 v) ?_
  rw [cmdWrite_rstCmd (by rw [hc]; decide) hr]
  simp only [rstCmd, hc, deviceReset]

theorem exec_quarterReset_of_command {q : Nat} (hv : v = regOf [(HB_RSTCMD.OP, 2), (HB_RSTCMD.QUARTER, q)])
    (hc : getF (cmdWord s.dev ag 0x600 v) HB_RSTCMD.OP = 2) (hr : recovery (cmdDev s.dev ag 0x600 v) = false) :
    exec (.quarterReset ag q) s = .next (s.withDev
      (quarterReset (getF (cmdWord s.dev ag 0x600 v) HB_RSTCMD.QUARTER) (cmdDev s.dev ag 0x600 v))) := by
  have hexec : exec (.quarterReset ag q) s = s.upd (cmdWrite ag 0x600 v) := by rw [hv]; rfl
  rw [hexec]
  refine upd_of_eq (op := cmdWrite ag 0x600 v) ?_
  rw [cmdWrite_rstCmd (by rw [hc]; decide) hr]
  simp only [rstCmd, hc]

theorem exec_clusterReset_of_command {l : Nat} (hv : v = regOf [(HB_RSTCMD.OP, 3), (HB_RSTCMD.CLUSTER, l)]) {n : Nat}
    (hn : n = getF (cmdWord s.dev ag 0x600 v) HB_RSTCMD.CLUSTER) (hc : getF (cmdWord s.dev ag 0x600 v) HB_RSTCMD.OP = 3)
    (hr : recovery (cmdDev s.dev ag 0x600 v) = false) (hs : (siteOfCl (cmdDev s.dev ag 0x600 v) n).isSome = true) :
    exec (.clusterReset ag l) s = .next (s.withDev (clusterReset (cmdDev s.dev ag 0x600 v) n)) := by
  have hexec : exec (.clusterReset ag l) s = s.upd (cmdWrite ag 0x600 v) := by rw [hv]; rfl
  rw [hexec]
  refine upd_of_eq (op := cmdWrite ag 0x600 v) ?_
  rw [cmdWrite_rstCmd (by rw [hc]; decide) hr]
  simp only [rstCmd, hc, ← hn, hs, if_true]

end ResetCommand

theorem quarterClusters_updQ (d : Dev) (p q : Nat) (f : Quarter → Quarter) : quarterClusters (updQ d p f) q = quarterClusters d q := rfl

theorem exec_quarterResetRelease_of_held (s : State) (q : Nat) (hh : (getQ s.dev q).held = true)
    (hv : (getQ s.dev q).vcoreHeld = false) :
    exec (.quarterResetRelease q) s = .next (s.withDev ((quarterClusters s.dev q).foldl (fun d l =>
      if (getCl d l).dormant = true then updCl d l (fun k => { k with inReset := false })
      else giveHeld (updCl d l (fun k => { k with inReset := false })) l) (updQ s.dev q (fun u => { u with held := false })))) := by
  refine upd_of_eq (op := quarterRelease q) ?_
  simp only [quarterRelease, hh, hv, Bool.not_true, Bool.false_eq_true, or_self, if_false, quarterClusters_updQ]

theorem exec_clusterResetComplete_of_drained (s : State) (l : Nat) (hw : stackWrites s.dev l = false)
    (hh : (getQ s.dev (quarterOf s.dev l)).held = false) :
    exec (.clusterResetComplete l) s = .next (s.withDev (updCl s.dev l (fun k => { k with inReset := false }))) := by
  refine upd_of_eq (op := clusterResetComplete l) ?_
  simp only [clusterResetComplete, hw, hh, Bool.false_eq_true, or_self, if_false]

/-! ### What holds the device, and quarters' voltage (R14, R15, R17, R472) -/

section Holds
variable (s : State)

theorem exec_referenceClockLoss_of_running (h : s.dev.holds.contains .clock = false) {d : Dev}
    (hd : d = scopeReset s.dev 2 true true) : exec .referenceClockLoss s =
      .next (s.withDev { rsetB d 0x200 HB_CLKSTAT.REFLOST true with holds := d.holds ++ [.clock] }) := by
  refine upd_of_eq (op := clockLoss) ?_
  unfold clockLoss
  rw [if_neg (by rw [h]; decide), ← hd]

theorem exec_thermalTrip_of_cool (h : s.dev.holds.contains .thermal = false) {d : Dev} (hd : d = scopeReset s.dev 3 true false) :
    exec .thermalTrip s =
      .next (s.withDev { d with holds := d.holds ++ [.thermal], pins := { d.pins with thermTrip := true } }) := by
  refine upd_of_eq (op := thermalTrip) ?_
  unfold thermalTrip deviceReset
  rw [if_neg (by rw [h]; decide), ← hd]

theorem exec_vcoreUndervoltage_of_low (q mv : Nat) (hmv : mv < 530) (hq : q < 4) (hv : (getQ s.dev q).vcoreHeld = false) :
    exec (.vcoreUndervoltage q mv) s =
      .next (s.withDev (updQ (quarterReset q s.dev) q (fun u => { u with vcoreHeld := true }))) := by
  refine upd_of_eq (op := vcoreLow q mv) ?_
  simp only [vcoreLow, Nat.not_le.2 hmv, Nat.not_le.2 hq, hv, Bool.false_eq_true, or_self, if_false]

theorem exec_vcoreRecovered_of_high (q mv : Nat) (hmv : 550 ≤ mv) (hv : (getQ s.dev q).vcoreHeld = true) :
    exec (.vcoreRecovered q mv) s =
      .next (s.withDev (quarterRelease q (updQ s.dev q (fun u => { u with vcoreHeld := false })))) := by
  refine upd_of_eq (op := vcoreOk q mv) ?_
  simp only [vcoreOk, Nat.not_lt.2 hmv, hv, Bool.not_true, Bool.false_eq_true, or_self, if_false]

theorem exec_qtRateUpdate_of_quarter (q rate mv tj : Nat) (hq : q < 4) :
    exec (.qtRateUpdate q rate mv tj) s = .next (s.withDev (rset s.dev (qOff q 0)
      (setB (setF (setF (setF (rget s.dev (qOff q 0)) QT_RATE.RATE rate) QT_RATE.VCORE mv) QT_RATE.TJ tj) QT_RATE.VALID true))) :=
  upd_of_eq (op := rateUpdate q rate mv tj) (if_neg (Nat.not_le.2 hq))

end Holds

/-! ### Boot (R486) -/

section Boot
variable {d0 : Dev} {fails : List Nat} (hh : d0.holds = []) (hb : d0.booted = false) {d1 d2 d : Dev}
  (hd1 : d1 = readLedger (rsetB { d0 with booted := true } 0x200 HB_CLKSTAT.REFOK true))
  (hd2 : d2 = showKeys (showLedger (ledgerAsk (updLed d1 (fun r => { r with boots := (r.boots + 1) % 2 ^ 32 })) .boot)))
  (hd : d = rset d2 0x700 (setF (setF (rget d2 0x700) HB_BOOTSTAT.ERRA (fwCheck d2 0)) HB_BOOTSTAT.ERRB (fwCheck d2 1)))
include hh hb hd1 hd2 hd

/-- BOOT without a valid firmware bank: recovery. -/
theorem boot_of_noBank (hp : fwPick d = none) :
    boot fails d0 = startPorts (rsetB ((List.range 24).foldl (fun d k => trainStack d k (fails.getD k 0)) (setStage (platless d) 0xF))
      0x200 HB_CLKSTAT.MEMLOCK true) := by
  unfold boot
  rw [if_neg (by rw [hh, hb]; decide)]
  dsimp only at hd1 ⊢
  rw [← hd1, ← hd2, ← hd, hp]

/-- BOOT with a valid bank: the plat is brought up, or the device stays without one. -/
theorem boot_of_bank {b : Nat} (hp : fwPick d = some b) {e : Dev}
    (he : e = bootPlat (rset d 0x700 (setF (setF (rget d 0x700) HB_BOOTSTAT.BANK b) HB_BOOTSTAT.VERSION (fwVersion d b)))) :
    boot fails d0 = if e.plat.loaded = true then setStage (bringUp e fails) 8
      else setStage (startPorts (rsetB ((List.range 24).foldl (fun d k => trainStack d k (fails.getD k 0)) e)
        0x200 HB_CLKSTAT.MEMLOCK true)) 5 := by
  unfold boot
  rw [if_neg (by rw [hh, hb]; decide)]
  dsimp only at hd1 ⊢
  rw [← hd1, ← hd2, ← hd, hp]
  dsimp only
  rw [← he]

end Boot

/-! ### Firmware and the plat (R487, R49) -/

section Firmware
variable {s : State} {w : Word} (hw : s.dev.hub.fw = some w) {b : Nat} (hb : b = getF w HB_FWCMD.BANK) (hr : bankRuns s.dev b = false)
include hw hb hr

/-- The firmware operation that waits for a bank that does not run. -/
theorem fwOp_of_waiting {op : Nat} (hop : getF w HB_FWCMD.OP = op) (go : Word → Nat → Dev) : fwOp s.dev op go = go w b := by
  simp only [fwOp, hw, hop, ne_eq, not_true_eq_false, if_false, ← hb, hr, Bool.false_eq_true]

theorem fwWrite_of_waiting (hop : getF w HB_FWCMD.OP = 2) {bs : List Byte} (hbs : bs = stageImage s.dev) {o : Nat}
    (ho : o = getF w HB_FWCMD.OFFSET) (h0 : bs ≠ []) (h256 : o % 256 = 0) (hlen : o + bs.length ≤ 0x20_0000) :
    fwWrite s.dev = fwEnds (fprog s.dev (bankAt b + o) bs)
      (if fbytes (fprog s.dev (bankAt b + o) bs) (bankAt b + o) bs.length = bs then 0 else 4) := by
  rw [fwWrite, fwOp_of_waiting hw hb hr hop]
  dsimp only
  rw [← hbs, ← ho, if_neg h0]
  exact if_neg (by omega)

theorem fwCommit_of_valid (hop : getF w HB_FWCMD.OP = 3) (hc : fwCheck s.dev b = 0) {v : Nat} (hv : v = fwVersion s.dev b) :
    fwCommit s.dev = fwEnds (if getF w HB_FWCMD.FLOOR = 1 ∧ s.dev.dyke.led.fwFloor < v
      then ledgerAsk (updLed s.dev (fun r => { r with fwFloor := v })) .floor else s.dev) 0 := by
  rw [fwCommit, fwOp_of_waiting hw hb hr hop, hv]
  simp only [hc]

end Firmware

/-- VERIFY_STAGING_BUFFER, REPLAT_FROM_BUFFER and REPLAT_FROM_FLASH are writes of HB_PLATCMD. -/
theorem exec_platCommand {s : State} {ag : Agent} {slot v : Nat} {i : Instr}
    (hi : (i, v) ∈ [(Instr.verifyStagingBuffer ag, regOf [(HB_PLATCMD.OP, 1)]), (.replatFromBuffer ag, regOf [(HB_PLATCMD.OP, 2)]),
      (.replatFromFlash ag slot, regOf [(HB_PLATCMD.OP, 3), (HB_PLATCMD.SLOT, slot)])]) :
    exec i s = s.upd (cmdWrite ag 0x300 v) := by
  simp only [List.mem_cons, List.not_mem_nil, or_false, Prod.mk.injEq] at hi
  rcases hi with ⟨rfl, rfl⟩ | ⟨rfl, rfl⟩ | ⟨rfl, rfl⟩ <;> rfl

section Replat
variable {s : State} {r : Replat} (hr : s.dev.replat = some r)
include hr

theorem exec_replatQuiesceTimeout_of_replat :
    exec .replatQuiesceTimeout s = .next (s.withDev (replatApply (abandonReqs s.dev) r)) := by
  refine upd_of_eq (op := replatTimeout) ?_
  unfold replatTimeout
  rw [hr]

theorem exec_replatQuiesced_of_quiet (hq : s.dev.reqs.all (fun e => e.2.stage == .done) = true) (hc : anyCopy s.dev = false) :
    exec .replatQuiesced s = .next (s.withDev (replatApply s.dev r)) := by
  refine upd_of_eq (op := replatQuiesced) ?_
  unfold replatQuiesced
  rw [hr]
  exact if_pos ⟨hq, by rw [hc]; rfl⟩

end Replat

/-! ### The board's interfaces (R495, R496) -/

theorem exec_i3cWrite (s : State) (off : Nat) (v : Word) :
    exec (.i3cWrite off v) s = .next (if off % 2 ^ 32 = 0x508 then s.withDev (mgmtWrite s.dev .board 0x508 8 v).2 else s) := by
  by_cases h : off % 2 ^ 32 = 0x508
  · rw [if_pos h]
    exact upd_of_eq (op := i3cWrite off v) (if_pos h)
  · rw [if_neg h]
    exact upd_of_eq (op := i3cWrite off v) (if_neg h)

/-- A scan instruction selected. -/
theorem scanSelect_eq (ir : ScanIr) (out : Nat) (d0 : Dev) {was : Bool} (hwas : was = scanDark d0) {d : Dev}
    (hd : d = { d0 with board := { d0.board with ir := ir, tdo := out } }) :
    scanSelect ir out d0 = if scanDark d = true ∧ was = false then
        (List.range 12).foldl (fun d p =>
          if portState d p = 6 then setLit d p false else updPort (darken d p 0) p (fun x => { x with probe := 0 })) d
      else if was = true ∧ scanDark d = false ∧ d.booted = true then
        (List.range 12).foldl (fun d p => if portState d p = 0 then startProbe d p else d) d
      else d := by
  subst hd hwas
  simp only [scanSelect, Bool.not_eq_true']

/-- The six scan commands: a selection, and for two of them a load of the boundary register. -/
theorem exec_scan {s : State} {pins v : List Byte} {i : Instr} {ir : ScanIr} {out : Nat} {load : Option (List Byte)}
    (hi : (i, ir, out, load) ∈ [(Instr.bypass, ScanIr.bypass, 0, none), (.idcode, .idcode, 0x1802_46B7, none),
      (.samplePreload pins v, .sample, ofBytes pins, some v), (.extest pins v, .extest, ofBytes pins, some v), (.clamp, .clamp, 0, none),
      (.highz, .highz, 0, none)]) :
    exec i s = s.upd (fun d => load.elim (scanSelect ir out d) (fun v => scanLoad v (scanSelect ir out d))) := by
  simp only [List.mem_cons, List.not_mem_nil, or_false, Prod.mk.injEq] at hi
  rcases hi with ⟨rfl, rfl, rfl, rfl⟩ | ⟨rfl, rfl, rfl, rfl⟩ | ⟨rfl, rfl, rfl, rfl⟩ | ⟨rfl, rfl, rfl, rfl⟩ | ⟨rfl, rfl, rfl, rfl⟩ |
    ⟨rfl, rfl, rfl, rfl⟩ <;> rfl

end Sys2Proof.Machine
open Sys2Proof Sys2Proof.Machine

/-- Settles O29: a lemma per command; the resets by register go through the write of HB_RSTCMD. -/
theorem resetCommands : Obligations.ResetCommands := by
  unfold Obligations.ResetCommands
  refine ⟨fun s => ⟨rfl, rfl⟩, fun s ag q l => ⟨exec_deviceReset_of_command rfl, exec_quarterReset_of_command rfl,
      exec_clusterReset_of_command rfl rfl⟩,
    exec_quarterResetRelease_of_held, exec_clusterResetComplete_of_drained, ?_,
    fun s => ⟨fun h => exec_referenceClockLoss_of_running s h rfl, fun h => upd_of_eq (op := clockBack) (if_pos h),
      fun h => exec_thermalTrip_of_cool s h rfl, fun h => upd_of_eq (op := thermalClear) (if_pos h)⟩,
    fun s q mv => ⟨exec_vcoreUndervoltage_of_low s q mv, exec_vcoreRecovered_of_high s q mv⟩,
    exec_qtRateUpdate_of_quarter⟩
  intro s fails hh hb d1 d2 o d train
  refine ⟨fun hp => ?_, ?_⟩
  · refine upd_of_eq (op := boot fails) ?_
    exact boot_of_noBank (d1 := d1) (d2 := d2) (d := d) hh hb rfl rfl rfl hp
  · intro b hp e
    refine upd_of_eq (op := boot fails) ?_
    exact boot_of_bank (d1 := d1) (d2 := d2) (d := d) (e := e) hh hb rfl rfl rfl hp rfl

/-- Settles O30: register writes by `mgmtWrite_of_register`; the firmware commands share `fwOp_of_waiting`, the plat commands the write of
HB_PLATCMD. -/
theorem firmwareAndPlat : Obligations.FirmwareAndPlat := by
  unfold Obligations.FirmwareAndPlat
  refine ⟨fun s ag off size v m hz ha hs hp hm => ?_, fun s w hw => ?_, fun s ag slot v i hi => ?_,
    fun s r hr => ⟨exec_replatQuiesceTimeout_of_replat hr, exec_replatQuiesced_of_quiet hr⟩⟩
  · rw [exec_registerWrite, mgmtWrite_of_register hz ha hs hp hm]
  · intro b hr
    refine ⟨fun hop => upd_of_eq (op := fwErase) (fwOp_of_waiting hw rfl hr hop _), ?_, ?_⟩
    · intro hop bs o h0 h256 hlen
      exact upd_of_eq (op := fwWrite) (fwWrite_of_waiting hw rfl hr hop rfl rfl h0 h256 hlen)
    · intro hop hc v
      exact upd_of_eq (op := fwCommit) (fwCommit_of_valid hw rfl hr hop hc rfl)
  · intro w d hc hp hf
    rw [exec_platCommand hi]
    exact upd_of_eq (op := cmdWrite ag 0x300 v) (cmdWrite_platCmd hc hp hf)

/-- Settles O31: the six scan commands are one selection (`exec_scan`, `scanSelect_eq`). -/
theorem boardCommands : Obligations.BoardCommands := by
  unfold Obligations.BoardCommands
  refine ⟨fun s off => rfl, fun s => rfl, exec_i3cWrite, ?_⟩
  intro s pins v i ir out load hi was d d'
  rw [exec_scan hi]
  refine upd_of_eq (op := fun d => load.elim (scanSelect ir out d) (fun v => scanLoad v (scanSelect ir out d))) ?_
  have hsel : scanSelect ir out s.dev = d' := scanSelect_eq ir out s.dev (was := was) (d := d) rfl rfl
  simp only [hsel]
  cases load <;> rfl

end
